-- ==== Sys2Proof/Word.lean ====
section
/-!
DEFINITION. The machine's word types (R5, R37, R40) and the sparse table that holds every register file and memory.
-/
namespace Sys2Proof

/-- A byte of memory (R5). -/
abbrev Byte := BitVec 8
/-- A 32-bit vector register element (R40). -/
abbrev W32 := BitVec 32
/-- A 64-bit scalar, address or counter (R40). -/
abbrev W64 := BitVec 64
/-- A set of lanes or threads: bit `l` is lane `l` (R40). -/
abbrev Mask := BitVec 64
/-- A 128-bit instruction word (R37). -/
abbrev IWord := BitVec 128
/-- The 128 bytes of a cache line, byte `i` in bits `[8i+7:8i]` (R5). -/
abbrev LineData := BitVec 1024

/-- A sparse table: key and value pairs, keys strictly rising, no entry equal to the default value.
Register files, memories and per-unit state are all held so; a key that is not listed reads as the default. -/
abbrev Tbl (α : Type) := List (Nat × α)

/-- The lanes of a troupe, in ascending order (R65). -/
def lanes : List Nat := List.range 64

/-- Lane `l` is in the set `m`. -/
abbrev inMask (m : Mask) (l : Nat) : Bool := m.getLsbD l

/-- The set that holds lane `l` alone. -/
def bit64 (l : Nat) : Mask := BitVec.ofNat 64 (2 ^ l)

end Sys2Proof
end

