-- ==== Sys2Proof/Config.lean ====
section
/-!
DEFINITION. What an implementation fixes and the spec leaves open: free values, with no body, and fused constants.
-/
namespace Sys2Proof.Config

/-- A choice the part makes by itself: whether a copy engine adds to its turnstile here (R162, R355), whether a troupe
fetches ahead (R156), whether a prediction or a prefetch is dropped (R153, R347). -/
opaque choice : Nat → Bool

/-- The set of a line, by PA / 128, in its home slice: not architected (R274). -/
opaque sliceSet : Nat → Nat

/-- The gap, in 8-byte units, before each record of the capability list (R8). -/
opaque capGap : Nat → Nat

/-- A word of the management window outside the capability list, by its offset (R7, R89). -/
opaque windowWord : Nat → BitVec 64

/-- SHAKE256 of a byte string, to a length in bytes (R395, R398). -/
opaque shake256 : List Nat → Nat → List Nat

/-- SLH-DSA-SHAKE-256s verification: public key, message, signature (R395). -/
opaque slhVerify : List Nat → List Nat → List Nat → Bool

/-- The signature of the package's private key over a message (R398). -/
opaque slhSign : List Nat → List Nat

/-- The package serial number (R398). -/
opaque serial : Nat
/-- The device identity public key (R398). -/
opaque devpk : List Nat
/-- The service core's firmware image in the module's flash; `none` when it is unreadable (R395, R396). -/
opaque firmware : Option (List Nat)
/-- The firmware's signature and the signing key's public half, as the flash gives them (R395). -/
opaque firmwareSig : List Nat
opaque firmwareKey : List Nat
/-- The fused digest of that public key, the fused rollback count and the image's version (R395). -/
opaque fusedDigest : List Nat
opaque rollback : Nat
opaque firmwareVersion : Nat
/-- The fabric port on the way to a package (R277). -/
opaque portToward : Nat → Nat
/-- The service core's encoding of the row, slice and core maps that it applies (R398). -/
opaque mapBytes : List (List Nat) → List Nat

/-- The bytes of a pool or host line that another device wrote are given by the host; a value that the spec leaves
unstated is drawn from here. -/
opaque freeWord : Nat → BitVec 64

end Sys2Proof.Config
end

