-- ==== Sys2Proof/Machine/Table.lean ====
section
/-!
DEFINITION. Reading and writing a sparse table in its one canonical form.
-/
namespace Sys2Proof

/-- The value at key `k`; the default where the key is not listed. -/
def Tbl.read {α : Type} [Inhabited α] : Tbl α → Nat → α
  | [], _ => default
  | (k', v) :: m, k => if k' = k then v else Tbl.read m k

/-- The table without the entries of key `k`. -/
def Tbl.drop {α : Type} (m : Tbl α) (k : Nat) : Tbl α := m.filter fun e => e.1 != k

/-- Puts `v` at key `k` in key order; the default value removes the entry. -/
def Tbl.write {α : Type} [Inhabited α] [DecidableEq α] : Tbl α → Nat → α → Tbl α
  | [], k, v => if v = default then [] else [(k, v)]
  | (k', v') :: m, k, v =>
    if k = k' then (if v = default then Tbl.drop m k else (k, v) :: m)
    else if k < k' then (if v = default then (k', v') :: Tbl.drop m k else (k, v) :: (k', v') :: m)
    else (k', v') :: Tbl.write m k v

/-- Changes the value at key `k` by `f`. -/
def Tbl.modify {α : Type} [Inhabited α] [DecidableEq α] (m : Tbl α) (k : Nat) (f : α → α) : Tbl α :=
  m.write k (f (m.read k))

/-- Every key of the table is above `b`, keys rise, and no entry holds the default. -/
def Tbl.wfFrom {α : Type} [Inhabited α] [DecidableEq α] : Option Nat → Tbl α → Bool
  | _, [] => true
  | b, (k, v) :: m => (match b with | none => true | some b => decide (b < k)) && decide (v ≠ default) && Tbl.wfFrom (some k) m

/-- The canonical form. -/
def Tbl.wf {α : Type} [Inhabited α] [DecidableEq α] (m : Tbl α) : Bool := Tbl.wfFrom none m

/-- Writes the values `f l` at keys `base + l` for the listed `l` that are members of `act`. -/
def Tbl.writeLanes {α : Type} [Inhabited α] [DecidableEq α] (m : Tbl α) (base : Nat) (act : Mask) (f : Nat → α) :
    List Nat → Tbl α
  | [] => m
  | l :: ls => Tbl.writeLanes (if inMask act l then m.write (base + l) (f l) else m) base act f ls

/-- Changes every listed value by `f`; a value that becomes the default leaves the table. -/
def Tbl.mapAll {α : Type} [Inhabited α] [DecidableEq α] (m : Tbl α) (f : Nat → α → α) : Tbl α :=
  (m.map fun e => (e.1, f e.1 e.2)).filter fun e => decide (e.2 ≠ default)

/-- Reads `n` bytes from `a` upward as one little-endian number (R5). -/
def readBytes (m : Tbl Byte) : Nat → Nat → Nat
  | _, 0 => 0
  | a, n + 1 => (m.read a).toNat + 256 * readBytes m (a + 1) n

/-- Writes the `n` low bytes of `v` from `a` upward, little-endian (R5). -/
def writeBytes (m : Tbl Byte) : Nat → Nat → Nat → Tbl Byte
  | _, 0, _ => m
  | a, n + 1, v => writeBytes (m.write a (BitVec.ofNat 8 v)) (a + 1) n (v / 256)

/-- Bits `[hi:lo]` of a natural number. -/
def bitsOf (v hi lo : Nat) : Nat := (v / 2 ^ lo) % 2 ^ (hi + 1 - lo)

/-- Bit `i` of a natural number. -/
def bitOf (v i : Nat) : Bool := v.testBit i

/-- The value of `v`'s low `n` bits read as a signed number (R13). -/
def signedOf (n v : Nat) : Int :=
  let u := v % 2 ^ n
  if n ≠ 0 ∧ 2 ^ (n - 1) ≤ u then (u : Int) - (2 ^ n : Nat) else (u : Int)

/-- A signed number reduced modulo `2^n` (R13). -/
def wrapTo (n : Nat) (i : Int) : Nat := (i % ((2 ^ n : Nat) : Int)).toNat

/-- A signed number clamped to `lo .. hi` (R13). -/
def clampInt (lo hi i : Int) : Int := if i < lo then lo else if hi < i then hi else i

/-- An insertion that keeps a list sorted by `key`. -/
def insertBy {α : Type} (key : α → Nat) (x : α) : List α → List α
  | [] => [x]
  | y :: ys => if key x < key y then x :: y :: ys else y :: insertBy key x ys

/-- A list sorted by `key`, stable for equal keys. -/
def sortBy {α : Type} (key : α → Nat) (l : List α) : List α := l.foldl (fun acc x => insertBy key x acc) []

/-- The list without repeats, first occurrences kept. -/
def nubNat (l : List Nat) : List Nat := l.foldl (fun acc x => if acc.contains x then acc else acc ++ [x]) []

/-- The byte `i` of a line (R5). -/
def lineByte (d : LineData) (i : Nat) : Byte := d.extractLsb' (8 * i) 8

/-- The line with byte `i` replaced (R5). -/
def lineSet (d : LineData) (i : Nat) (b : Byte) : LineData :=
  BitVec.ofNat 1024 (d.toNat - (lineByte d i).toNat * 256 ^ i + b.toNat * 256 ^ i)

/-- The lowest member of a lane set; `0` when it is empty. -/
def lowestLane (m : Mask) : Nat := (lanes.find? (inMask m)).getD 0

/-- The number of members of a lane set. -/
def popCount (m : Mask) : Nat := (lanes.filter (inMask m)).length

/-- The set of the lanes that satisfy `f`. -/
def maskOf (f : Nat → Bool) : Mask := BitVec.ofNat 64 (lanes.foldl (fun a l => if f l then a + 2 ^ l else a) 0)

end Sys2Proof
end

