-- ==== Sys2Proof/Syntax.lean ====
section
/-!
DEFINITION. The syntax of the machine's steps: one constructor for each row of spec/opcode_table.json.
The first 157 rows are instruction words and share one field layout (R37); the others are the machine's own events.
-/
namespace Sys2Proof

/-- The fields of an instruction word other than C, OP and Z (R37). -/
structure Fields where
  md : BitVec 8 := 0
  g : BitVec 4 := 7
  d : BitVec 8 := 0
  a : BitVec 8 := 0
  b : BitVec 8 := 0
  e : BitVec 8 := 0
  x : BitVec 32 := 0
  st : BitVec 4 := 0
  yl : Bool := false
  wm : BitVec 12 := 0
  sa : BitVec 4 := 15
  sb : BitVec 4 := 15
  ru : BitVec 3 := 0
  deriving DecidableEq, Repr, Inhabited

/-- What the debugger names in a halt or a release: a troupe, a company, or a context's troupes on a ring (R258). -/
inductive HaltScope where
  | troupe (t : Nat)
  | company (k : Nat)
  | ring (ctx ring : Nat)
  deriving DecidableEq, Repr, Inhabited

/-- What the debugger edits in a halted troupe's context (R261). -/
inductive DebugEdit where
  | vreg (t r lane : Nat) (v : BitVec 32)
  | sreg (t r : Nat) (v : BitVec 64)
  | pred (t r : Nat) (v : BitVec 64)
  | qpred (t r : Nat) (v : Bool)
  | pc (t lane : Nat) (v : BitVec 64)
  | memory (ctx : Nat) (va : BitVec 64) (bytes : List (BitVec 8))
  /-- Scratchpad of the troupe's company on its core, from an offset of its allocation. -/
  | scratch (t ofs : Nat) (bytes : List (BitVec 8))
  deriving DecidableEq, Repr, Inhabited

/-- A response to a page request group (R336). -/
inductive PrgCode where
  | success
  | invalid
  | failure
  deriving DecidableEq, Repr, Inhabited

/-- A word of a troupe's registers: slot, register and lane. -/
inductive RegWord where
  | vreg (t r lane : Nat)
  | sreg (t r : Nat)
  | pred (t r : Nat)
  | qpred (t r : Nat)
  deriving DecidableEq, Repr, Inhabited

/-- A spare that the service core brings into use (R196, R272, R369 to R371): for a logical core, with the register words in which
the saves of its companies meet an uncorrectable error (R370), for the physical row behind a logical
row of a core's array, for the physical slice behind a logical slice of the package, for a memory row of a channel. -/
inductive SpareKind where
  | core (c : Nat) (regs : List RegWord)
  | row (c r : Nat)
  | slice (n : Nat)
  | channel (n : Nat)
  deriving DecidableEq, Repr, Inhabited

/-- Where an uncorrectable error stands: in a line, a scratchpad word of a core by its physical offset / 4, an accumulator element of
a core by its physical place, or a physical row of a core's array (R152, R196, R209, R352). -/
inductive ErrSite where
  | line (l : Nat)
  | scratch (c w : Nat)
  | acc (c e : Nat)
  | row (c r : Nat)
  deriving DecidableEq, Repr, Inhabited

/-- A request to a home slice of this package that arrives over the fabric (R387, R390). -/
inductive RemoteOp where
  | read
  | ownership
  | write (bytes : List (Nat × BitVec 8))
  | atomic (opn ty : Nat) (b e : BitVec 64)
  | tsadd (v : BitVec 64)
  | malformed
  deriving DecidableEq, Repr, Inhabited

/-- What a peer answers to a tagged request of this package (R390, R392). -/
inductive RemoteReply where
  | done (value : BitVec 64) (line : BitVec 1024)
  /-- A line that comes as a block of R275, or raw. -/
  | block (bytes : List (BitVec 8))
  | fault (cls : Nat)
  deriving DecidableEq, Repr, Inhabited

/-- Where a translation is looked for: the last level of a die, for one context (R320, R322). -/
structure WalkSite where
  die : Nat
  ctx : Nat
  deriving DecidableEq, Repr, Inhabited

/-- What an ATS completion grants (R324, R383). -/
structure AtsGrant where
  read : Bool
  write : Bool
  exec : Bool
  untranslatedOnly : Bool
  error : Bool
  size : Nat
  pa : Nat
  deriving DecidableEq, Repr, Inhabited

/-- What a scrub finds in a line (R371). -/
inductive ScrubFinding where
  | clean
  | singleBit
  | uncorrectable
  deriving DecidableEq, Repr, Inhabited

/-- One constructor for each row of the opcode table. -/
inductive Instr where
  /-- NOP (R94): Issues and has no effect beyond advancing the run's threads by 16 and acting on its scheduling fields. -/
  | nop (f : Fields)
  /-- BRA (R95): Moves the active lanes of the run to PC plus 16 times the signed offset in X, after checking the target's alignment and canonical form. -/
  | bra (f : Fields)
  /-- BRI (R95): Moves each active lane to the target held in its vector pair A, trapping on a misaligned or non-canonical target. -/
  | bri (f : Fields)
  /-- CALL (R95): Writes the return PC into the pair D of each active lane and branches directly or, with .I, through pair A. -/
  | call (f : Fields)
  /-- RET (R95): Branches each active lane to the PC held in pair A, as BRI does, leaving a return record in traces. -/
  | ret (f : Fields)
  /-- EXIT (R96): Puts the active lanes into state EXITED and ends the troupe once every thread has exited and every record is free. -/
  | exit (f : Fields)
  /-- YIELD (R97): Adds the active lanes to the deferred set, opens a 64-issue window and asks for a swap to the pending set. -/
  | yield (f : Fields)
  /-- SLEEP (R98): Puts the active lanes into SLEEP at PC plus 16 for max(1, n) cycles. -/
  | sleep (f : Fields)
  /-- TRAP (R99): Raises software trap cause 0x03 with the 16-bit code when at least one lane is active. -/
  | trap (f : Fields)
  /-- TRET (R82): At level 1 restores the PC table from the shadow, resumes the trapped run at TRPC and returns to level 0; at level 0 it raises cause 0x0B. -/
  | tret (f : Fields)
  /-- BKPT (R264): Raises breakpoint cause 0x07, or, when the debug right is held and breakpoints are armed, halts the troupe with CAUSE 2 and may stop the ring. -/
  | bkpt (f : Fields)
  /-- PLOP (R101): Computes a three-input logic function of predicates lane by lane into P(D) in the active lanes. -/
  | plop (f : Fields)
  /-- VOTE (R102): Combines a lane predicate over the active lanes into a scalar predicate (.ALL, .ANY, .UNI) or a ballot scalar. -/
  | vote (f : Fields)
  /-- ELECT (R103): Writes a predicate with only the lowest, or with .HI the highest, active lane set, clearing all other bits. -/
  | elect (f : Fields)
  /-- MATCH (R104): Writes to each active lane the mask of active lanes whose 32- or 64-bit value equals its own. -/
  | match (f : Fields)
  /-- SHFL (R113): Copies to each active lane the value of another lane within its segment chosen by the .IDX, .UP, .DOWN or .XOR mode. -/
  | shfl (f : Fields)
  /-- REDUX (R114): Reduces the active lanes' values by the fixed binary tree into a scalar register. -/
  | redux (f : Fields)
  /-- SCAN (R115): Writes to each active lane the inclusive or exclusive tree prefix of the active lanes' values. -/
  | scan (f : Fields)
  /-- MOV (R117): Copies the B operand into D in each active lane. -/
  | mov (f : Fields)
  /-- MOVI (R117): Writes an immediate, its low or high half, or the lane-sequence value into D in each active lane. -/
  | movi (f : Fields)
  /-- IADD (R117): Adds two 32-bit integers, wrapping or saturating signed or unsigned. -/
  | iadd (f : Fields)
  /-- ISUB (R117): Subtracts two 32-bit integers, wrapping or saturating signed or unsigned. -/
  | isub (f : Fields)
  /-- IMUL (R117): Writes the low 32 bits of the product of two integers. -/
  | imul (f : Fields)
  /-- IMULH (R117): Writes the high 32 bits of the exact signed or unsigned 64-bit product. -/
  | imulh (f : Fields)
  /-- IMAD (R117): Writes a times e plus b modulo 2^32. -/
  | imad (f : Fields)
  /-- IMIN (R117): Writes the lesser of two 32-bit integers read as the named type. -/
  | imin (f : Fields)
  /-- IMAX (R117): Writes the greater of two 32-bit integers read as the named type. -/
  | imax (f : Fields)
  /-- IABS (R117): Writes the magnitude of b modulo 2^32, or saturated with .SAT. -/
  | iabs (f : Fields)
  /-- INEG (R117): Writes the negation of b modulo 2^32, or saturated with .SAT. -/
  | ineg (f : Fields)
  /-- ISETP (R117): Compares two 32-bit integers and combines the result with a predicate into P(D). -/
  | isetp (f : Fields)
  /-- SEL (R117): Writes a or b according to a possibly negated lane predicate. -/
  | sel (f : Fields)
  /-- SHL (R117): Shifts a left by a clamped or wrapped amount. -/
  | shl (f : Fields)
  /-- SHR (R117): Shifts a right logically by a clamped or wrapped amount. -/
  | shr (f : Fields)
  /-- SAR (R117): Shifts a right arithmetically by a clamped or wrapped amount. -/
  | sar (f : Fields)
  /-- SHF (R117): Shifts the 64-bit concatenation of e and a left or right and writes 32 bits of it. -/
  | shf (f : Fields)
  /-- BITF3 (R117): Computes a bitwise three-input function given by an 8-bit table. -/
  | bitf3 (f : Fields)
  /-- POPC (R117): Writes the number of one bits in b. -/
  | popc (f : Fields)
  /-- CLZ (R117): Writes the number of leading zero bits in b. -/
  | clz (f : Fields)
  /-- CTZ (R117): Writes the number of trailing zero bits in b. -/
  | ctz (f : Fields)
  /-- BREV (R117): Writes b with its bit order reversed. -/
  | brev (f : Fields)
  /-- BFE (R117): Extracts a bit field of a and zero- or sign-extends it. -/
  | bfe (f : Fields)
  /-- BFI (R117): Inserts a bit field of a into e. -/
  | bfi (f : Fields)
  /-- PRMT (R117): Builds each result byte from a byte of a or e, or its sign fill, chosen by a nibble of b. -/
  | prmt (f : Fields)
  /-- IDP4 (R117): Adds to e the exact four-byte dot product of a and b, wrapping or saturating. -/
  | idp4 (f : Fields)
  /-- IADD64 (R118): Adds two 64-bit integers in pairs, wrapping or saturating. -/
  | iadd64 (f : Fields)
  /-- ISUB64 (R118): Subtracts two 64-bit integers in pairs, wrapping or saturating. -/
  | isub64 (f : Fields)
  /-- IMADW (R118): Multiplies two extended 32-bit values and adds a 64-bit b modulo 2^64. -/
  | imadw (f : Fields)
  /-- IMAD64 (R118): Writes a times e plus b modulo 2^64. -/
  | imad64 (f : Fields)
  /-- ISETP64 (R118): Compares two 64-bit integers and combines the result with a predicate. -/
  | isetp64 (f : Fields)
  /-- SHL64 (R118): Shifts a 64-bit pair left. -/
  | shl64 (f : Fields)
  /-- SHR64 (R118): Shifts a 64-bit pair right logically. -/
  | shr64 (f : Fields)
  /-- SAR64 (R118): Shifts a 64-bit pair right arithmetically. -/
  | sar64 (f : Fields)
  /-- FADD (R119): Adds two FP32 values with optional sign flips, rounding once under RM. -/
  | fadd (f : Fields)
  /-- FMUL (R119): Multiplies two FP32 values, rounding once under RM. -/
  | fmul (f : Fields)
  /-- FFMA (R119): Computes a times e plus b in FP32 with one rounding. -/
  | ffma (f : Fields)
  /-- FMIN (R120): Writes the lesser FP32 operand under .NUM or .NAN NaN handling. -/
  | fmin (f : Fields)
  /-- FMAX (R120): Writes the greater FP32 operand under .NUM or .NAN NaN handling. -/
  | fmax (f : Fields)
  /-- FSETP (R121): Compares two FP32 values ordered or unordered and combines the result with a predicate. -/
  | fsetp (f : Fields)
  /-- FRND (R122): Rounds an FP32 value to an integral FP32 value under RM. -/
  | frnd (f : Fields)
  /-- FCLASS (R123): Sets P(D) when the class of the raw FP32 code is selected by the 10-bit mask. -/
  | fclass (f : Fields)
  /-- DADD (R119): Adds two FP64 values in pairs with one rounding. -/
  | dadd (f : Fields)
  /-- DMUL (R119): Multiplies two FP64 values with one rounding. -/
  | dmul (f : Fields)
  /-- DFMA (R119): Computes a fused FP64 multiply-add with one rounding. -/
  | dfma (f : Fields)
  /-- DMIN (R120): Writes the lesser FP64 operand. -/
  | dmin (f : Fields)
  /-- DMAX (R120): Writes the greater FP64 operand. -/
  | dmax (f : Fields)
  /-- DSETP (R121): Compares two FP64 values and combines the result with a predicate. -/
  | dsetp (f : Fields)
  /-- HADD2 (R119): Adds two packed FP16 or BF16 elements, each rounded on its own. -/
  | hadd2 (f : Fields)
  /-- HMUL2 (R119): Multiplies two packed FP16 or BF16 elements. -/
  | hmul2 (f : Fields)
  /-- HFMA2 (R119): Computes a fused multiply-add on two packed FP16 or BF16 elements. -/
  | hfma2 (f : Fields)
  /-- HMIN2 (R120): Writes the lesser of each packed FP16 or BF16 element pair. -/
  | hmin2 (f : Fields)
  /-- HMAX2 (R120): Writes the greater of each packed FP16 or BF16 element pair. -/
  | hmax2 (f : Fields)
  /-- HSETP2 (R121): Compares two packed elements and writes their results to P(D) and P(D + 1). -/
  | hsetp2 (f : Fields)
  /-- FRCP (R124): Writes the correctly rounded FP32 reciprocal. -/
  | frcp (f : Fields)
  /-- FRSQ (R124): Writes the correctly rounded FP32 reciprocal square root. -/
  | frsq (f : Fields)
  /-- FSQRT (R124): Writes the correctly rounded FP32 square root. -/
  | fsqrt (f : Fields)
  /-- FEX2 (R124): Writes the correctly rounded FP32 value of 2^x. -/
  | fex2 (f : Fields)
  /-- FLG2 (R124): Writes the correctly rounded FP32 value of log2 x. -/
  | flg2 (f : Fields)
  /-- FSIN (R124): Writes the correctly rounded sine of the exact FP32 argument. -/
  | fsin (f : Fields)
  /-- FCOS (R124): Writes the correctly rounded cosine of the exact FP32 argument. -/
  | fcos (f : Fields)
  /-- DRCP (R124): Writes the correctly rounded FP64 reciprocal. -/
  | drcp (f : Fields)
  /-- CVT (R126): Converts a slot of B from the source format to the destination format under RM and saturation, writing a slot or whole register of D. -/
  | cvt (f : Fields)
  /-- QBLK (R127): Quantises 256 FP32 values from four registers into one BFP block, writing mantissas to D and the exponent to a scalar. -/
  | qblk (f : Fields)
  /-- DQBLK (R128): Converts a BFP block back to FP32 in four destination registers. -/
  | dqblk (f : Fields)
  /-- LD (R151): Issues a raw or typed global load of each active lane, with optional acquire and cache hint. -/
  | ld (f : Fields)
  /-- ST (R151): Issues a raw or typed global store of each active lane, converting at issue and releasing first with .REL. -/
  | st (f : Fields)
  /-- LDS (R151): Issues a scratchpad load of each active lane, by address or by layout coordinates. -/
  | lds (f : Fields)
  /-- STS (R151): Issues a scratchpad store of each active lane, by address or by layout coordinates. -/
  | sts (f : Fields)
  /-- GATH (R151): Issues one or two scaled-index global loads per active lane. -/
  | gath (f : Fields)
  /-- SCAT (R151): Issues one or two scaled-index global stores per active lane. -/
  | scat (f : Fields)
  /-- PREF (R153): Asks for each active lane's line in the L1, L2 or page cache without changing architected state or faulting. -/
  | pref (f : Fields)
  /-- CCTL (R154): Writes back and/or drops named or all lines of the core's L1 data cache, completing when every home has acknowledged. -/
  | cctl (f : Fields)
  /-- FENCE (R155): Orders the troupe's accesses as an acquire, a release or both. -/
  | fence (f : Fields)
  /-- ICINV (R156): Drops the lines holding the active lanes' addresses, or all lines, from every core's L1 instruction cache after earlier CCTLs complete. -/
  | icinv (f : Fields)
  /-- IFENCE (R156): Waits for earlier ICINVs to complete and discards the troupe's fetched but unissued words. -/
  | ifence (f : Fields)
  /-- ATOM (R305): Issues an atomic operation per active lane at the global line's home, returning the old value. -/
  | atom (f : Fields)
  /-- ATOMS (R305): Issues an atomic operation per active lane at a scratchpad word's barrier unit, returning the old value. -/
  | atoms (f : Fields)
  /-- RED (R305): Issues a global atomic whose result is discarded. -/
  | red (f : Fields)
  /-- DCAS (R311): Compares and swaps two 64-bit words per active lane as one locked event. -/
  | dcas (f : Fields)
  /-- AMOV (R312): Moves one 64-bit word to another location and refills the first as one locked event per lane. -/
  | amov (f : Fields)
  /-- MCAS (R314): Runs one multi-word compare-and-swap of up to eight entries per active lane from its parameter block. -/
  | mcas (f : Fields)
  /-- CPL (R158): Starts an asynchronous per-lane copy between global memory and scratchpad with an optional turnstile add at completion. -/
  | cpl (f : Fields)
  /-- QPOP (R194): Takes one entry from a scratchpad queue into registers, waiting or failing with .NB when empty. -/
  | qpop (f : Fields)
  /-- ACCRD (R217): Enters the matrix queue to read accumulator elements into vector registers. -/
  | accrd (f : Fields)
  /-- ACCWR (R217): Enters the matrix queue to write vector registers into accumulator elements. -/
  | accwr (f : Fields)
  /-- CUTSEL (R237): Records the residency snapshot, reads and checks the graph header, view and cut buffer, and queues a cut selection at the ring's tightrope. -/
  | cutsel (f : Fields)
  /-- RAYT (R240): Starts ray traversal of the cut tree for each active lane's ray. -/
  | rayt (f : Fields)
  /-- RAYR (R241): Starts ray traversal of one named cluster of a graph for each active lane. -/
  | rayr (f : Fields)
  /-- RAST (R245): Queues rasterisation of a cut into a visibility buffer at the ring's rasteriser. -/
  | rast (f : Fields)
  /-- TEX (R249): Starts a filtered texture sample for each active lane. -/
  | tex (f : Fields)
  /-- TEXG (R250): Starts a gather of one channel of a 2x2 texel footprint for each active lane. -/
  | texg (f : Fields)
  /-- TEXQ (R250): Reads a texture descriptor and writes the width, height and level count of a level. -/
  | texq (f : Fields)
  /-- SMOV (R129): Copies a 64-bit B operand into a scalar. -/
  | smov (f : Fields)
  /-- SMOVI (R129): Writes an immediate to a scalar whole or to its high or low half. -/
  | smovi (f : Fields)
  /-- SADD (R129): Adds two 64-bit scalars, wrapping or saturating. -/
  | sadd (f : Fields)
  /-- SSUB (R129): Subtracts two 64-bit scalars, wrapping or saturating. -/
  | ssub (f : Fields)
  /-- SMUL (R129): Writes the low or high 64 bits of a 128-bit scalar product. -/
  | smul (f : Fields)
  /-- SMAD (R129): Writes a times e plus b modulo 2^64 to a scalar. -/
  | smad (f : Fields)
  /-- SMIN (R129): Writes the lesser of two scalars. -/
  | smin (f : Fields)
  /-- SMAX (R129): Writes the greater of two scalars. -/
  | smax (f : Fields)
  /-- SBITF3 (R129): Computes a 64-bit three-input bitwise function by table. -/
  | sbitf3 (f : Fields)
  /-- SSHL (R129): Shifts a scalar left. -/
  | sshl (f : Fields)
  /-- SSHR (R129): Shifts a scalar right logically. -/
  | sshr (f : Fields)
  /-- SSAR (R129): Shifts a scalar right arithmetically. -/
  | ssar (f : Fields)
  /-- SSETP (R129): Compares two scalars and combines the result into a scalar predicate. -/
  | ssetp (f : Fields)
  /-- SSEL (R129): Selects one of two scalars by a scalar predicate. -/
  | ssel (f : Fields)
  /-- SQLOP (R129): Computes a three-input logic function of scalar predicates. -/
  | sqlop (f : Fields)
  /-- SV2S (R130): Copies one lane's vector register or pair into a scalar. -/
  | sv2s (f : Fields)
  /-- SLD (R131): Loads one scalar from global memory at a scalar plus offset. -/
  | sld (f : Fields)
  /-- SLDC (R131): Loads one scalar from the constant bank at a wrapped offset. -/
  | sldc (f : Fields)
  /-- CPT (R160): Releases, raises the copy counter and hands a tile copy to copy engine r mod 8 of the die. -/
  | cpt (f : Fields)
  /-- CPS (R355): Releases and hands a linear byte copy to a copy engine. -/
  | cps (f : Fields)
  /-- LAYEX (R356): Releases and hands a reformat, expand or pack command to the die's layout engine. -/
  | layex (f : Fields)
  /-- TSADD (R180): Releases unless .RLX and adds a value to a turnstile at its home, returning the old value. -/
  | tsadd (f : Fields)
  /-- TSWAIT (R181): Puts the run's threads in WAIT until the turnstile reaches a target or, with .T, a cycle limit passes. -/
  | tswait (f : Fields)
  /-- TSREAD (R182): Reads a turnstile into a scalar, with an acquire under .ACQ. -/
  | tsread (f : Fields)
  /-- BAR (R184): Releases, adds one to a scratchpad barrier turnstile and waits for the phase of n arrivals to complete. -/
  | bar (f : Fields)
  /-- BARA (R184): Releases and arrives at a scratchpad barrier without waiting. -/
  | bara (f : Fields)
  /-- WAITOC (R187): Holds issue until an outstanding counter is at or below a threshold, then acquires. -/
  | waitoc (f : Fields)
  /-- QPUSH (R193): Releases and pushes k registers as one entry into a scratchpad queue, waiting while it is full. -/
  | qpush (f : Fields)
  /-- MXACQ (R212): Tries to acquire the core's matrix array, or both of a pair, resetting newly taken arrays. -/
  | mxacq (f : Fields)
  /-- MXREL (R212): Enters the queue to release the held array or arrays when it reaches the head. -/
  | mxrel (f : Fields)
  /-- MXFMT (R213): Enters the queue to set an activation stream's format, block size, scale format, tensor scale and rounding mode. -/
  | mxfmt (f : Fields)
  /-- MXLW (R214): Releases and enters the queue to latch a weight tile with its scales. -/
  | mxlw (f : Fields)
  /-- MXMUL (R215): Releases and enters the queue to multiply n scratchpad activation rows by the tile into accumulators. -/
  | mxmul (f : Fields)
  /-- MXCHN (R215): Enters the queue to multiply accumulator rows, down-converted, by the tile into other accumulator rows. -/
  | mxchn (f : Fields)
  /-- ACCALLOC (R207): Requests k accumulator banks, granted at once, held as a waiter, or refused. -/
  | accalloc (f : Fields)
  /-- ACCFREE (R207): Names the top k logical banks as freed at issue and enters the queue to return them. -/
  | accfree (f : Fields)
  /-- ACCZ (R216): Enters the queue to zero accumulator rows. -/
  | accz (f : Fields)
  /-- ACCLD (R216): Releases and enters the queue to load accumulator rows from scratchpad. -/
  | accld (f : Fields)
  /-- ACCST (R216): Enters the queue to store accumulator rows to scratchpad with an optional turnstile add. -/
  | accst (f : Fields)
  /-- SHOW (R188): Releases, raises CHILDREN and posts a child show's launch record to the launch scheduler. -/
  | show (f : Fields)
  /-- SHOWQ (R189): Reads the company's outstanding child count, or with .WAIT waits until it is zero and acquires. -/
  | showq (f : Fields)
  /-- SYSR (R105): Reads a system register or capability-window word into a scalar. -/
  | sysr (f : Fields)
  /-- SYSW (R105): Writes a scalar to a writable system register under the access checks. -/
  | sysw (f : Fields)
  /-- PERF (R106): Reads one of the troupe's performance counts into a scalar. -/
  | perf (f : Fields)
  /-- SNAP (R269): Triggers or joins a package snapshot when the debug right is held, returning its sequence number or 0. -/
  | snap (f : Fields)
  /-- TLBI (R342): Releases and drops the context's translations for a block, all of them, or by advancing CGEN. -/
  | tlbi (f : Fields)
  /-- DEFERRED_TRAP (R79): A pending fatal-fault or engine-protocol trap is taken at the troupe's next instruction boundary for the head run. -/
  | deferredTrap (t : Nat)
  /-- HOST_TRAP (R340): A trap under DUTYSPLIT.TRAP = 1 sets the trap registers, saves the company and writes a TYPE 0x06 record. -/
  | hostTrap (t : Nat)
  /-- ENCORE_REPLAY (R77): A ready record is replayed ahead of issue, re-executing unfinished lanes and writing destinations when all is done. -/
  | encoreReplay (t q : Nat)
  /-- FETCH_RETRY (R84): A run held by an instruction-fetch fault tries the fetch again when its service ends. -/
  | fetchRetry (t : Nat)
  /-- SLEEP_EXPIRY (R98): A sleeping thread's count elapses and it becomes READY. -/
  | sleepExpiry (t : Nat)
  /-- ACTIVE_SET_SWAP (R169): At the end of a cycle each long-stalled active place is swapped with the chosen ready pending troupe. -/
  | activeSetSwap (c : Nat)
  /-- TENURE_EXPIRY (R169): A troupe that has held its place for 1,024 cycles gives it up to a ready pending troupe of equal or higher priority. -/
  | tenureExpiry (c place : Nat)
  /-- LANE_ACCESS_PERFORMED (R151): The lanes of a memory instruction meeting one line are performed at the current copy, and destinations are written when every lane is done. -/
  | laneAccessPerformed (t q line : Nat)
  /-- TOKEN_GRANT (R282): The home grants the token with the line's data and the queued stores are written into the L1. -/
  | tokenGrant (c line : Nat)
  /-- TOKEN_RECALL (R284): The holder writes its queued stores and dirty bytes back to the home and gives up the token. -/
  | tokenRecall (line : Nat)
  /-- READ_FORWARD (R283): A read of an owned line is forwarded to the owner, which writes back dirty bytes and keeps a clean owned copy. -/
  | readForward (line : Nat)
  /-- MERGE_WINDOW_CLOSE (R280): A miss entry's 64-cycle merge window expires and later reads wait behind it. -/
  | mergeWindowClose (line : Nat)
  /-- FILL_RETURN (R280): A fill returns to the slice, which installs the line unless invalidated and multicasts it to joined requesters. -/
  | fillReturn (line : Nat)
  /-- CLEAN_COPY_EXPIRY (R285): An unowned clean L1 copy leaves the L1 no later than 65,536 cycles after its fill. -/
  | cleanCopyExpiry (c line : Nat)
  /-- HOME_ATOMIC (R305): The home slice's arithmetic unit or barrier unit performs one atomic lane step indivisibly. -/
  | homeAtomic (t q lane : Nat)
  /-- TURNSTILE_ADD (R180): A turnstile add by any agent is performed atomically at the home, saturating and notifying watchers. -/
  | turnstileAdd (t q : Nat)
  /-- TURNSTILE_POLL (R177): A waiter without a watch entry reads the turnstile again every 1,024 cycles. -/
  | turnstilePoll (t q : Nat)
  /-- TSWAIT_SATISFIED (R181): A read at or above the target ends the wait with an acquire, Q(D) := 1 and the threads READY. -/
  | tswaitSatisfied (t q : Nat)
  /-- TSWAIT_TIMEOUT (R181): The first read performed after the cycle limit below target ends the wait with Q(D) := 0 and no acquire. -/
  | tswaitTimeout (t q : Nat)
  /-- BARRIER_ADD (R184): The barrier unit adds one to the barrier turnstile and sets the arrival's target. -/
  | barrierAdd (t q : Nat)
  /-- BARRIER_DEPARTURE (R185): Waiters of a completed barrier phase become READY two cycles after the satisfying add and acquire. -/
  | barrierDeparture (t q : Nat)
  /-- WAITOC_DONE (R187): The named outstanding counter falls to the threshold and the held WAITOC issues with an acquire. -/
  | waitocDone (t : Nat)
  /-- QPUSH_ENTRY_WRITE (R193): When the queue has room the entry is written and PUSHED is incremented. -/
  | qpushEntryWrite (t q : Nat)
  /-- QPOP_ENTRY_READ (R194): When the queue is not empty the entry is read into registers, POPPED incremented and an acquire performed. -/
  | qpopEntryRead (t q : Nat)
  /-- SHOWQ_WAIT_DONE (R189): CHILDREN reaches 0 and the waiting run acquires and becomes READY. -/
  | showqWaitDone (t q : Nat)
  /-- LOCK_REQUEST (R309): A locked-operation lane's lock request reaches a line's home, recalls its token and waits in arrival order. -/
  | lockRequest (t q lane : Nat)
  /-- LOCK_GRANT (R308): A line lock is granted; on the last grant the lane compares, writes all or nothing and unlocks. -/
  | lockGrant (t q lane : Nat)
  /-- LOCK_TIMEOUT (R309): A lock request waiting more than 4,096 cycles makes the lane drop its locks and count a retry. -/
  | lockTimeout (t q lane : Nat)
  /-- LOCK_BACKOFF_EXPIRY (R309): A lane's back-off elapses and it begins a new attempt at phase 1. -/
  | lockBackoffExpiry (t q lane : Nat)
  /-- CPL_DELIVERY (R158): The background copy delivers lanes of a CPL and, when all have delivered, adds to its turnstile and drops the copy counter. -/
  | cplDelivery (t q line : Nat)
  /-- COPY_COMMAND_START (R161): A copy or layout engine takes the next command of its queue and reads its descriptor or command block. -/
  | copyCommandStart (e : Nat)
  /-- CPT_ELEMENT_DELIVERED (R162): The copy engine delivers the next tile element in tile order and adds to the turnstile at a delivery point. -/
  | cptElementDelivered (e : Nat)
  /-- CPS_CHUNK_COPIED (R355): The copy engine copies bytes up to the next destination line and adds to the turnstile at a delivery point. -/
  | cpsChunkCopied (e : Nat)
  /-- LAYEX_REFMT_ELEMENT (R357): The layout engine converts one element from the source to the destination format. -/
  | layexRefmtElement (e : Nat)
  /-- LAYEX_EXPAND_LINE (R358): The layout engine decodes one line record of a compressed stream into a raw line. -/
  | layexExpandLine (e : Nat)
  /-- LAYEX_PACK_LINE (R358): The layout engine encodes one raw line into a compressed line record. -/
  | layexPackLine (e : Nat)
  /-- ENGINE_FATAL_END (R164): A fatal verdict ends an engine command with a closing turnstile add, counter drop, cause 0x06 and a TYPE 0x03 record. -/
  | engineFatalEnd (e t q : Nat)
  /-- MXLW_EXECUTE (R214): At the queue head the array reads 32 weight columns and scales and latches the tile. -/
  | mxlwExecute (c : Nat)
  /-- MXFMT_EXECUTE (R213): At the queue head the stream's format state is set. -/
  | mxfmtExecute (c : Nat)
  /-- MXMUL_ROW (R215): One activation row or BFP group enters the array and its group sums are added into the accumulator row. -/
  | mxmulRow (c : Nat)
  /-- MXCHN_ROW (R208): One accumulator row is down-converted and multiplied into the destination row. -/
  | mxchnRow (c : Nat)
  /-- MXREL_EXECUTE (R212): At the queue head the array becomes free. -/
  | mxrelExecute (c : Nat)
  /-- ACCZ_ROW (R216): One accumulator row is set to +0. -/
  | acczRow (c : Nat)
  /-- ACCLD_ROW (R216): One accumulator row is loaded from 128 scratchpad bytes. -/
  | accldRow (c : Nat)
  /-- ACCST_ROW (R216): One accumulator row is stored to 128 scratchpad bytes. -/
  | accstRow (c : Nat)
  /-- ACCST_TURNSTILE (R216): After its last row an ACCST adds 128n to its turnstile, parking on a restartable fault, and then retires. -/
  | accstTurnstile (c : Nat)
  /-- ACCFREE_EXECUTE (R207): At the queue head the named banks return to the core and the waiter test runs. -/
  | accfreeExecute (c : Nat)
  /-- ACCRD_EXECUTE (R217): In queue order the accumulator elements are read into the destination registers. -/
  | accrdExecute (c : Nat)
  /-- ACCWR_EXECUTE (R217): In queue order the source registers are written into accumulator elements. -/
  | accwrExecute (c : Nat)
  /-- TIGHTROPE_COMMAND (R230): The tightrope performs a queued cut selection over its passes, writes the cut buffer and tree, and writes S(D). -/
  | tightropeCommand (ring : Nat)
  /-- RAY_TRAVERSAL (R240): The ray engine tests boxes and triangles and writes each lane's nearest hit or miss. -/
  | rayTraversal (t q : Nat)
  /-- RASTER_COMMAND (R245): The rasteriser covers every cut triangle and performs an atomic minimum per kept fragment, then writes the count. -/
  | rasterCommand (ring : Nat)
  /-- TEXTURE_SAMPLE (R249): The sampler fetches each lane's footprint and writes the filtered or gathered channels. -/
  | textureSample (t q : Nat)
  /-- COMPANY_RETIRE (R367): A retired company's exit record is written, DONETS incremented and the parent's CHILDREN lowered. -/
  | companyRetire (k : Nat)
  /-- COMPANY_RESTORE (R174): A saved image is placed afresh, reloaded and resumed. -/
  | companyRestore (k c : Nat)
  /-- LAUNCH_RECORD_TAKE (R361): The scheduler takes the next record when the arrival turnstile exceeds NEXT, refusing a malformed record. -/
  | launchRecordTake (lq : Nat)
  /-- SHOW_START (R363): A show starts with an acquire once every dependence turnstile reaches its target. -/
  | showStart (sh : Nat)
  /-- CHILD_SHOW_POST (R188): The scheduler reads a child show's record, or on failure counts the child retired and raises cause 0x0A on the poster. -/
  | childShowPost
  /-- COMPANY_PLACE (R364): The scheduler places the next company by priority and age where its resources fit. -/
  | companyPlace (sh c : Nat)
  /-- PLACEMENT_WAIT_EXPIRY (R365): A company unplaced for 65,536 cycles blocks lower priorities and pre-empts lower-priority companies. -/
  | placementWaitExpiry (k : Nat)
  /-- RESIDENCY_REQUEST (R346): A residency request reaches the fault coalescing engine and joins or opens a batch. -/
  | residencyRequest (ctx pa : Nat)
  /-- BATCH_CLOSE (R346): A batch closes after 2,000 cycles or its 64th request and its spans are served in ascending order. -/
  | batchClose
  /-- GRANULE_FILL_COMPLETE (R346): A granule fill lands, sets its RESMASK bit and readies the records waiting on it. -/
  | granuleFillComplete (granule : Nat)
  /-- CAROUSEL_HAND_STEP (R348): A die's hand visits the next frames, clearing ACCESSED or queueing cold frames. -/
  | carouselHandStep (die : Nat)
  /-- FRAME_RECLAIM (R351): Reclaiming a frame advances FGEN, recalls and drops its lines and writes dirty granules back. -/
  | frameReclaim (f : Nat)
  /-- RECLAIM_WRITEBACK_DONE (R351): All granule write-backs have completed and shared lines are released toward the host. -/
  | reclaimWritebackDone (f : Nat)
  /-- RECLAIM_RELEASE_DONE (R351): All releases complete and the frame takes its new span or becomes free. -/
  | reclaimReleaseDone (f : Nat)
  /-- TRANSLATION_WALK (R322): A last-level miss starts or joins a page-table walk that installs the translation or faults. -/
  | translationWalk (w : WalkSite) (va : BitVec 64)
  /-- PAGE_REQUEST (R336): Under FAULTSVC = 1 a fault joins or opens a page request group sent by PRI. -/
  | pageRequest (t q : Nat)
  /-- FAULT_RECORD_FLUSH (R335): A buffered record is written when the fault queue gains room. -/
  | faultRecordFlush
  /-- CONTEXT_END (R339): Stops the context's troupes, settles locks, discards records, advances CGEN, sets DEAD and writes a TYPE 0x05 record. -/
  | contextEnd (ctx : Nat)
  /-- REMOTE_RESEND (R391): Every 500 µs without a reply the origin resends the request with the same tag. -/
  | remoteResend (num : Nat)
  /-- REMOTE_TIMEOUT (R391): At 2 ms without a reply the access completes with a restartable REMOTE time-out fault. -/
  | remoteTimeout (num : Nat)
  /-- REMOTE_RETRY_TIMER (R393): A REMOTE record becomes ready 65,536 cycles after its fault. -/
  | remoteRetryTimer (t q : Nat)
  /-- POOL_OWNERSHIP_GRANT (R378): The pool device grants ownership of a shared line and the waiting store or atomic proceeds. -/
  | poolOwnershipGrant (line : Nat)
  /-- ATTESTATION_REPORT (R397): GO captures the nonce and destination and the signed report is written, then DONE set. -/
  | attestationReport
  /-- STOP_BROADCAST_ARRIVAL (R259): A watchpoint or breakpoint stop reaches a core and halts the context's troupes there. -/
  | stopBroadcastArrival (ctx c : Nat)
  /-- SNAPSHOT_LATCH (R268): Thirty-two cycles after a trigger every block latches its state and SNAPCTL sets LOCK and SEQ. -/
  | snapshotLatch
  /-- PREEMPT_REQUEST (R171): A company stops issuing, drains and parks its work, and its image is written and resources released. -/
  | preemptRequest (k : Nat)
  /-- CTXSTATE_REVIVE (R333): Clears DEAD and advances CGEN unless an end is in progress. -/
  | ctxstateRevive (ctx : Nat)
  /-- HJELM_EDIT (R261): The debugger edits a halted troupe's registers or memory through a Hjelm command, and the committed edit is seen by the troupe's first issue after release. -/
  | hjelmEdit (ed : DebugEdit)
  /-- QUEUE_RESUME (R366): Clearing SUSPEND lets the queue take records and its saved companies return. -/
  | queueResume (lq : Nat)
  /-- HRESTORE (R368): A host write restores the image at the address in context HRESTCTX at priority 7. -/
  | hrestore (v : BitVec 64)
  /-- DATA_LOST_ERROR (R352): An uncorrectable error in a dirty line marks the frame ERROR and writes a TYPE 0x03 record. -/
  | dataLostError (site : ErrSite)
  /-- FRAMECTL_PIN (R353): Marks a frame pinned. -/
  | framectlPin (f : Nat)
  /-- FRAMECTL_UNPIN (R353): Clears a frame's pin. -/
  | framectlUnpin (f : Nat)
  /-- FRAMECTL_DISCARD (R352): Refetches a frame's lines in error from backing memory and clears ERROR. -/
  | framectlDiscard (f : Nat)
  /-- FRAMECTL_RECLAIM_NOW (R353): Reclaims a resident unpinned error-free frame and leaves it free. -/
  | framectlReclaimNow (f : Nat)
  /-- SCRUB (R371): A periodic scrub repairs single-bit errors and handles uncorrectable ones without faulting. -/
  | scrub (line : Nat) (r : ScrubFinding)
  /-- THERMAL_THROTTLE (R372): At 95 °C or above the power cap the clock is lowered in 50 MHz steps and THROT set. -/
  | thermalThrottle (tj watts : Nat)
  /-- QCTL_WRITE (R360): A write to a queue's QCTL enables it, resetting NEXT when EN rises. -/
  | qctlWrite (lq : Nat) (v : BitVec 64)
  /-- QUEUE_SUSPEND (R366): Setting SUSPEND stops the queue and saves its resident companies that have a save area. -/
  | queueSuspend (lq : Nat)
  /-- RESET (R373): Reset runs secure boot, training, zeroing, the capability list and BAR enable in order. -/
  | reset
  /-- LINK_TRAINING (R375): A port trains and decides block compression, recording LINK_COMPRESS. -/
  | linkTraining (port : Nat) (cxl up compress : Bool)
  /-- SPARE_REPLACE (R369): The service core retires a failed core, slice or row with its spare and updates SPARE_STATE and the change counts. -/
  | spareReplace (k : SpareKind)
  /-- ATS_COMPLETION (R324): An ATS Translation Completion is installed or yields a TRANSLATION fault. -/
  | atsCompletion (w : WalkSite) (va : BitVec 64) (g : AtsGrant)
  /-- ATS_INVALIDATION (R384): An ATS Invalidation Request acts as TLBI.VA and is completed after its wait. -/
  | atsInvalidation (pasid : Nat) (va : BitVec 64) (span itag : Nat)
  /-- PRG_RESPONSE (R336): A PRG Response readies or fails its group's records, or is discarded with a TYPE 0x08 record. -/
  | prgResponse (pasid idx : Nat) (r : PrgCode)
  /-- FRESUME_RETRY (R332): FRESUME action 0 readies every pending TRANSLATION record and held fetch of the context in the block. -/
  | fresumeRetry (ctx span : Nat)
  /-- FRESUME_UNMAPPABLE (R332): FRESUME action 1 makes every such record fatal and every such fetch unmappable. -/
  | fresumeUnmappable (ctx span : Nat)
  /-- CTXSTATE_RELOAD (R333): Re-reads the context descriptor and drops every translation of the context. -/
  | ctxstateReload (ctx : Nat)
  /-- CTXSTATE_END (R339): Starts the end of the context. -/
  | ctxstateEnd (ctx : Nat)
  /-- THERMAL_RECOVER (R372): After the cause has cleared for 10 ms the clock is raised again. -/
  | thermalRecover (tj watts : Nat)
  /-- CTXSTATE_PRIFLUSH (R336): Frees the context's dead page request groups. -/
  | ctxstatePriflush (ctx : Nat)
  /-- PRIFAIL_CLEAR (R336): Writing 1 clears PRIFAIL so later faults send page requests again. -/
  | prifailClear (ctx : Nat)
  /-- DUTYSPLIT_WRITE (R333): Sets the split of services between part and host for work that begins after the write. -/
  | dutysplitWrite (v : BitVec 64)
  /-- FRQSIZE_WRITE (R335): Sets the fault queue size, and a size of 0 makes waiting TRANSLATION faults unmappable. -/
  | frqsizeWrite (v : BitVec 64)
  /-- REGISTER_WRITE (R6): A host write to a register with no behaviour of its own stores the written fields. -/
  | registerWrite (bar off : Nat) (v : BitVec 64)
  /-- REMOTE_REQUEST (R390): A tagged fabric request reaching its home is performed once, answered from the reply cache, or faulted at the target. -/
  | remoteRequest (origin num pa : Nat) (op : RemoteOp)
  /-- REMOTE_REPLY (R390): A reply reaches the origin, completes the lane and is acknowledged. -/
  | remoteReply (num : Nat) (r : RemoteReply)
  /-- REPLY_ACK (R390): An acknowledgement frees the home's reply-cache entry for the tag. -/
  | replyAck (origin num : Nat)
  /-- REMOTE_FILL_NOTICE (R393): A target's fill notice readies a record with target class RESIDENCY. -/
  | remoteFillNotice (pkg granule : Nat)
  /-- TAG_ABANDON (R391): At a context end the origin abandons bound tags and the home frees their entries. -/
  | tagAbandon (origin num : Nat)
  /-- PEER_LINK_DOWN (R393): A peer link declared down ends every bound tag toward it with REMOTE time-out. -/
  | peerLinkDown (pkg : Nat)
  /-- DIRECTORY_REQUEST (R387): The home serves a read, ownership or home access to a region, invalidating or recalling other packages first. -/
  | directoryRequest (pkg region : Nat) (op : RemoteOp)
  /-- DIRECTORY_RECALL (R387): A package receiving an invalidation or recall waits on locks, recalls tokens, writes back and acknowledges. -/
  | directoryRecall (region : Nat) (keepClean : Bool)
  /-- BACK_INVALIDATE_SNOOP (R379): A pool back-invalidation snoop is performed at the home slice and answered. -/
  | backInvalidateSnoop (line : Nat) (w : List (Nat × BitVec 8))
  /-- HOST_SNOOP (R382): A host snoop on a line of host memory is handled at the proxy slice as a back-invalidation. -/
  | hostSnoop (line : Nat) (w : List (Nat × BitVec 8))
  /-- DEBUG_GRANT (R254): The context's owner grants the debug right to one debugger. -/
  | debugGrant (ctx : Nat) (killrev : Bool)
  /-- DEBUG_REVOKE (R270): Revocation releases halts, clears debug state, or ends the context under KILLREV. -/
  | debugRevoke (ctx : Nat)
  /-- HJELM_HALT (R258): The debugger halts a troupe, company or ring at its next boundary. -/
  | hjelmHalt (h : HaltScope)
  /-- HJELM_STEP (R262): Releases one halted troupe for one issue, then halts it again with CAUSE 3. -/
  | hjelmStep (t : Nat)
  /-- HJELM_RELEASE (R261): Returns HALTED threads to READY. -/
  | hjelmRelease (h : HaltScope)
  /-- BREAKPOINT_ARM (R264): Sets the context's breakpoint arm and its STOPRING option. -/
  | breakpointArm (ctx : Nat) (on stopring : Bool)
  /-- WPCTL_WRITE (R255): Writes a watchpoint's control, clearing WPHIT when it enables. -/
  | wpctlWrite (wp : Nat) (v : BitVec 64)
  /-- HJELM_SNAPSHOT (R268): The debugger triggers or joins a snapshot. -/
  | hjelmSnapshot (ctx : Nat)
  /-- SNAPSHOT_FREE (R255): Writing 1 to SNAPCTL.LOCK frees the held snapshot. -/
  | snapshotFree
  /-- THERMAL_POWER_OFF (R372): At 110 °C the module powers off. -/
  | thermalPowerOff (tj : Nat)
  /-- VLHEAD_WRITE (R350): A host write raising a die's VLHEAD lets requests waiting on an empty victim list take entries and proceed. -/
  | vlheadWrite (die : Nat) (v : BitVec 64)
  /-- LINK_LEVEL_RETRY (R391): A flit lost or failing its CRC on a fabric link is recovered by link-level retry. -/
  | linkLevelRetry (port : Nat)
  deriving DecidableEq, Repr, Inhabited

end Sys2Proof
end

