-- ==== Sys2Proof/Decode.lean ====
section
/-!
DEFINITION. The instruction word: its fields (R37, R38), the opcode map (R58, R59), the operand kinds of every
instruction, the encoding checks in their order (R56), the decoder and the encoder.
-/
namespace Sys2Proof

/-- The two encoding traps and their detail codes (R56). -/
inductive EncTrap where
  | illegalInstruction (detail : Nat)
  | illegalEncoding (detail : Nat)
  deriving DecidableEq, Repr, Inhabited

/-- C and OP together, bits [127:116] (R37). -/
def wordOp (w : IWord) : Nat := (w.extractLsb' 116 12).toNat
/-- Z, bits [11:0] (R37). -/
def wordZ (w : IWord) : Nat := (w.extractLsb' 0 12).toNat

/-- The fields of a word (R37). -/
def wordFields (w : IWord) : Fields where
  md := w.extractLsb' 108 8
  g := w.extractLsb' 104 4
  d := w.extractLsb' 96 8
  a := w.extractLsb' 88 8
  b := w.extractLsb' 80 8
  e := w.extractLsb' 72 8
  x := w.extractLsb' 40 32
  st := w.extractLsb' 36 4
  yl := w.getLsbD 35
  wm := w.extractLsb' 23 12
  sa := w.extractLsb' 19 4
  sb := w.extractLsb' 15 4
  ru := w.extractLsb' 12 3

/-- The word with the given opcode and fields, Z zero (R37). -/
def packWord (op : BitVec 12) (f : Fields) : IWord :=
  op ++ f.md ++ f.g ++ f.d ++ f.a ++ f.b ++ f.e ++ f.x ++ f.st ++ BitVec.ofBool f.yl ++ f.wm ++ f.sa ++ f.sb ++ f.ru ++ (0#12)

/-- Lane group 0 (R58). -/
def laneGroup0 : Nat → Option (Fields → Instr)
  | 0x000 => some Instr.nop
  | 0x001 => some Instr.bra
  | 0x002 => some Instr.bri
  | 0x003 => some Instr.call
  | 0x004 => some Instr.ret
  | 0x005 => some Instr.exit
  | 0x006 => some Instr.yield
  | 0x007 => some Instr.sleep
  | 0x008 => some Instr.trap
  | 0x009 => some Instr.tret
  | 0x00A => some Instr.bkpt
  | _ => none

/-- Lane group 1 (R58). -/
def laneGroup1 : Nat → Option (Fields → Instr)
  | 0x080 => some Instr.plop
  | 0x081 => some Instr.vote
  | 0x082 => some Instr.elect
  | 0x083 => some Instr.match
  | 0x084 => some Instr.shfl
  | 0x085 => some Instr.redux
  | 0x086 => some Instr.scan
  | _ => none

/-- Lane group 2 (R58). -/
def laneGroup2 : Nat → Option (Fields → Instr)
  | 0x100 => some Instr.mov
  | 0x101 => some Instr.movi
  | 0x102 => some Instr.iadd
  | 0x103 => some Instr.isub
  | 0x104 => some Instr.imul
  | 0x105 => some Instr.imulh
  | 0x106 => some Instr.imad
  | 0x107 => some Instr.imin
  | 0x108 => some Instr.imax
  | 0x109 => some Instr.iabs
  | 0x10A => some Instr.ineg
  | 0x10B => some Instr.isetp
  | 0x10C => some Instr.sel
  | 0x10D => some Instr.shl
  | 0x10E => some Instr.shr
  | 0x10F => some Instr.sar
  | 0x110 => some Instr.shf
  | 0x111 => some Instr.bitf3
  | 0x112 => some Instr.popc
  | 0x113 => some Instr.clz
  | 0x114 => some Instr.ctz
  | 0x115 => some Instr.brev
  | 0x116 => some Instr.bfe
  | 0x117 => some Instr.bfi
  | 0x118 => some Instr.prmt
  | 0x119 => some Instr.idp4
  | _ => none

/-- Lane group 3 (R58). -/
def laneGroup3 : Nat → Option (Fields → Instr)
  | 0x180 => some Instr.iadd64
  | 0x181 => some Instr.isub64
  | 0x182 => some Instr.imadw
  | 0x183 => some Instr.imad64
  | 0x184 => some Instr.isetp64
  | 0x185 => some Instr.shl64
  | 0x186 => some Instr.shr64
  | 0x187 => some Instr.sar64
  | _ => none

/-- Lane group 4 (R58). -/
def laneGroup4 : Nat → Option (Fields → Instr)
  | 0x200 => some Instr.fadd
  | 0x201 => some Instr.fmul
  | 0x202 => some Instr.ffma
  | 0x203 => some Instr.fmin
  | 0x204 => some Instr.fmax
  | 0x205 => some Instr.fsetp
  | 0x206 => some Instr.frnd
  | 0x207 => some Instr.fclass
  | _ => none

/-- Lane group 5 (R58). -/
def laneGroup5 : Nat → Option (Fields → Instr)
  | 0x280 => some Instr.dadd
  | 0x281 => some Instr.dmul
  | 0x282 => some Instr.dfma
  | 0x283 => some Instr.dmin
  | 0x284 => some Instr.dmax
  | 0x285 => some Instr.dsetp
  | 0x286 => some Instr.hadd2
  | 0x287 => some Instr.hmul2
  | 0x288 => some Instr.hfma2
  | 0x289 => some Instr.hmin2
  | 0x28A => some Instr.hmax2
  | 0x28B => some Instr.hsetp2
  | _ => none

/-- Lane group 6 (R58). -/
def laneGroup6 : Nat → Option (Fields → Instr)
  | 0x300 => some Instr.frcp
  | 0x301 => some Instr.frsq
  | 0x302 => some Instr.fsqrt
  | 0x303 => some Instr.fex2
  | 0x304 => some Instr.flg2
  | 0x305 => some Instr.fsin
  | 0x306 => some Instr.fcos
  | 0x307 => some Instr.drcp
  | 0x308 => some Instr.cvt
  | 0x309 => some Instr.qblk
  | 0x30A => some Instr.dqblk
  | _ => none

/-- Lane group 7 (R58). -/
def laneGroup7 : Nat → Option (Fields → Instr)
  | 0x380 => some Instr.ld
  | 0x381 => some Instr.st
  | 0x382 => some Instr.lds
  | 0x383 => some Instr.sts
  | 0x384 => some Instr.gath
  | 0x385 => some Instr.scat
  | 0x386 => some Instr.pref
  | 0x387 => some Instr.cctl
  | 0x388 => some Instr.fence
  | 0x389 => some Instr.icinv
  | 0x38A => some Instr.ifence
  | _ => none

/-- Lane group 8 (R58). -/
def laneGroup8 : Nat → Option (Fields → Instr)
  | 0x400 => some Instr.atom
  | 0x401 => some Instr.atoms
  | 0x402 => some Instr.red
  | 0x403 => some Instr.dcas
  | 0x404 => some Instr.amov
  | 0x405 => some Instr.mcas
  | _ => none

/-- Lane group 9 (R58). -/
def laneGroup9 : Nat → Option (Fields → Instr)
  | 0x480 => some Instr.cpl
  | 0x481 => some Instr.qpop
  | 0x482 => some Instr.accrd
  | 0x483 => some Instr.accwr
  | _ => none

/-- Lane group 12 (R58). -/
def laneGroup12 : Nat → Option (Fields → Instr)
  | 0x600 => some Instr.cutsel
  | 0x601 => some Instr.rayt
  | 0x602 => some Instr.rayr
  | 0x603 => some Instr.rast
  | 0x604 => some Instr.tex
  | 0x605 => some Instr.texg
  | 0x606 => some Instr.texq
  | _ => none

/-- Uniform group 0 (R59); C is included in the number. -/
def uniformGroup0 : Nat → Option (Fields → Instr)
  | 0x800 => some Instr.smov
  | 0x801 => some Instr.smovi
  | 0x802 => some Instr.sadd
  | 0x803 => some Instr.ssub
  | 0x804 => some Instr.smul
  | 0x805 => some Instr.smad
  | 0x806 => some Instr.smin
  | 0x807 => some Instr.smax
  | 0x808 => some Instr.sbitf3
  | 0x809 => some Instr.sshl
  | 0x80A => some Instr.sshr
  | 0x80B => some Instr.ssar
  | 0x80C => some Instr.ssetp
  | 0x80D => some Instr.ssel
  | 0x80E => some Instr.sqlop
  | 0x80F => some Instr.sv2s
  | 0x810 => some Instr.sld
  | 0x811 => some Instr.sldc
  | _ => none

/-- Uniform group 1 (R59); C is included in the number. -/
def uniformGroup1 : Nat → Option (Fields → Instr)
  | 0x880 => some Instr.cpt
  | 0x881 => some Instr.cps
  | 0x882 => some Instr.layex
  | 0x883 => some Instr.tsadd
  | 0x884 => some Instr.tswait
  | 0x885 => some Instr.tsread
  | 0x886 => some Instr.bar
  | 0x887 => some Instr.bara
  | 0x888 => some Instr.waitoc
  | 0x889 => some Instr.qpush
  | _ => none

/-- Uniform group 2 (R59); C is included in the number. -/
def uniformGroup2 : Nat → Option (Fields → Instr)
  | 0x900 => some Instr.mxacq
  | 0x901 => some Instr.mxrel
  | 0x902 => some Instr.mxfmt
  | 0x903 => some Instr.mxlw
  | 0x904 => some Instr.mxmul
  | 0x905 => some Instr.mxchn
  | 0x906 => some Instr.accalloc
  | 0x907 => some Instr.accfree
  | 0x908 => some Instr.accz
  | 0x909 => some Instr.accld
  | 0x90A => some Instr.accst
  | _ => none

/-- Uniform group 3 (R59); C is included in the number. -/
def uniformGroup3 : Nat → Option (Fields → Instr)
  | 0x980 => some Instr.show
  | 0x981 => some Instr.showq
  | _ => none

/-- Uniform group 4 (R59); C is included in the number. -/
def uniformGroup4 : Nat → Option (Fields → Instr)
  | 0xA00 => some Instr.sysr
  | 0xA01 => some Instr.sysw
  | 0xA02 => some Instr.perf
  | 0xA03 => some Instr.snap
  | 0xA04 => some Instr.tlbi
  | _ => none

/-- The instruction that C and OP name, if any (R58, R59). -/
def ofOpcode (op : Nat) : Option (Fields → Instr) :=
  match op / 128 with
  | 0 => laneGroup0 op
  | 1 => laneGroup1 op
  | 2 => laneGroup2 op
  | 3 => laneGroup3 op
  | 4 => laneGroup4 op
  | 5 => laneGroup5 op
  | 6 => laneGroup6 op
  | 7 => laneGroup7 op
  | 8 => laneGroup8 op
  | 9 => laneGroup9 op
  | 12 => laneGroup12 op
  | 16 => uniformGroup0 op
  | 17 => uniformGroup1 op
  | 18 => uniformGroup2 op
  | 19 => uniformGroup3 op
  | 20 => uniformGroup4 op
  | _ => none

/-- C and OP of an instruction and its fields; `none` for an event of the machine (R58, R59). -/
def Instr.word : Instr → Option (BitVec 12 × Fields)
  | .nop f => some (0x000#12, f)
  | .bra f => some (0x001#12, f)
  | .bri f => some (0x002#12, f)
  | .call f => some (0x003#12, f)
  | .ret f => some (0x004#12, f)
  | .exit f => some (0x005#12, f)
  | .yield f => some (0x006#12, f)
  | .sleep f => some (0x007#12, f)
  | .trap f => some (0x008#12, f)
  | .tret f => some (0x009#12, f)
  | .bkpt f => some (0x00A#12, f)
  | .plop f => some (0x080#12, f)
  | .vote f => some (0x081#12, f)
  | .elect f => some (0x082#12, f)
  | .match f => some (0x083#12, f)
  | .shfl f => some (0x084#12, f)
  | .redux f => some (0x085#12, f)
  | .scan f => some (0x086#12, f)
  | .mov f => some (0x100#12, f)
  | .movi f => some (0x101#12, f)
  | .iadd f => some (0x102#12, f)
  | .isub f => some (0x103#12, f)
  | .imul f => some (0x104#12, f)
  | .imulh f => some (0x105#12, f)
  | .imad f => some (0x106#12, f)
  | .imin f => some (0x107#12, f)
  | .imax f => some (0x108#12, f)
  | .iabs f => some (0x109#12, f)
  | .ineg f => some (0x10A#12, f)
  | .isetp f => some (0x10B#12, f)
  | .sel f => some (0x10C#12, f)
  | .shl f => some (0x10D#12, f)
  | .shr f => some (0x10E#12, f)
  | .sar f => some (0x10F#12, f)
  | .shf f => some (0x110#12, f)
  | .bitf3 f => some (0x111#12, f)
  | .popc f => some (0x112#12, f)
  | .clz f => some (0x113#12, f)
  | .ctz f => some (0x114#12, f)
  | .brev f => some (0x115#12, f)
  | .bfe f => some (0x116#12, f)
  | .bfi f => some (0x117#12, f)
  | .prmt f => some (0x118#12, f)
  | .idp4 f => some (0x119#12, f)
  | .iadd64 f => some (0x180#12, f)
  | .isub64 f => some (0x181#12, f)
  | .imadw f => some (0x182#12, f)
  | .imad64 f => some (0x183#12, f)
  | .isetp64 f => some (0x184#12, f)
  | .shl64 f => some (0x185#12, f)
  | .shr64 f => some (0x186#12, f)
  | .sar64 f => some (0x187#12, f)
  | .fadd f => some (0x200#12, f)
  | .fmul f => some (0x201#12, f)
  | .ffma f => some (0x202#12, f)
  | .fmin f => some (0x203#12, f)
  | .fmax f => some (0x204#12, f)
  | .fsetp f => some (0x205#12, f)
  | .frnd f => some (0x206#12, f)
  | .fclass f => some (0x207#12, f)
  | .dadd f => some (0x280#12, f)
  | .dmul f => some (0x281#12, f)
  | .dfma f => some (0x282#12, f)
  | .dmin f => some (0x283#12, f)
  | .dmax f => some (0x284#12, f)
  | .dsetp f => some (0x285#12, f)
  | .hadd2 f => some (0x286#12, f)
  | .hmul2 f => some (0x287#12, f)
  | .hfma2 f => some (0x288#12, f)
  | .hmin2 f => some (0x289#12, f)
  | .hmax2 f => some (0x28A#12, f)
  | .hsetp2 f => some (0x28B#12, f)
  | .frcp f => some (0x300#12, f)
  | .frsq f => some (0x301#12, f)
  | .fsqrt f => some (0x302#12, f)
  | .fex2 f => some (0x303#12, f)
  | .flg2 f => some (0x304#12, f)
  | .fsin f => some (0x305#12, f)
  | .fcos f => some (0x306#12, f)
  | .drcp f => some (0x307#12, f)
  | .cvt f => some (0x308#12, f)
  | .qblk f => some (0x309#12, f)
  | .dqblk f => some (0x30A#12, f)
  | .ld f => some (0x380#12, f)
  | .st f => some (0x381#12, f)
  | .lds f => some (0x382#12, f)
  | .sts f => some (0x383#12, f)
  | .gath f => some (0x384#12, f)
  | .scat f => some (0x385#12, f)
  | .pref f => some (0x386#12, f)
  | .cctl f => some (0x387#12, f)
  | .fence f => some (0x388#12, f)
  | .icinv f => some (0x389#12, f)
  | .ifence f => some (0x38A#12, f)
  | .atom f => some (0x400#12, f)
  | .atoms f => some (0x401#12, f)
  | .red f => some (0x402#12, f)
  | .dcas f => some (0x403#12, f)
  | .amov f => some (0x404#12, f)
  | .mcas f => some (0x405#12, f)
  | .cpl f => some (0x480#12, f)
  | .qpop f => some (0x481#12, f)
  | .accrd f => some (0x482#12, f)
  | .accwr f => some (0x483#12, f)
  | .cutsel f => some (0x600#12, f)
  | .rayt f => some (0x601#12, f)
  | .rayr f => some (0x602#12, f)
  | .rast f => some (0x603#12, f)
  | .tex f => some (0x604#12, f)
  | .texg f => some (0x605#12, f)
  | .texq f => some (0x606#12, f)
  | .smov f => some (0x800#12, f)
  | .smovi f => some (0x801#12, f)
  | .sadd f => some (0x802#12, f)
  | .ssub f => some (0x803#12, f)
  | .smul f => some (0x804#12, f)
  | .smad f => some (0x805#12, f)
  | .smin f => some (0x806#12, f)
  | .smax f => some (0x807#12, f)
  | .sbitf3 f => some (0x808#12, f)
  | .sshl f => some (0x809#12, f)
  | .sshr f => some (0x80A#12, f)
  | .ssar f => some (0x80B#12, f)
  | .ssetp f => some (0x80C#12, f)
  | .ssel f => some (0x80D#12, f)
  | .sqlop f => some (0x80E#12, f)
  | .sv2s f => some (0x80F#12, f)
  | .sld f => some (0x810#12, f)
  | .sldc f => some (0x811#12, f)
  | .cpt f => some (0x880#12, f)
  | .cps f => some (0x881#12, f)
  | .layex f => some (0x882#12, f)
  | .tsadd f => some (0x883#12, f)
  | .tswait f => some (0x884#12, f)
  | .tsread f => some (0x885#12, f)
  | .bar f => some (0x886#12, f)
  | .bara f => some (0x887#12, f)
  | .waitoc f => some (0x888#12, f)
  | .qpush f => some (0x889#12, f)
  | .mxacq f => some (0x900#12, f)
  | .mxrel f => some (0x901#12, f)
  | .mxfmt f => some (0x902#12, f)
  | .mxlw f => some (0x903#12, f)
  | .mxmul f => some (0x904#12, f)
  | .mxchn f => some (0x905#12, f)
  | .accalloc f => some (0x906#12, f)
  | .accfree f => some (0x907#12, f)
  | .accz f => some (0x908#12, f)
  | .accld f => some (0x909#12, f)
  | .accst f => some (0x90A#12, f)
  | .show f => some (0x980#12, f)
  | .showq f => some (0x981#12, f)
  | .sysr f => some (0xA00#12, f)
  | .sysw f => some (0xA01#12, f)
  | .perf f => some (0xA02#12, f)
  | .snap f => some (0xA03#12, f)
  | .tlbi f => some (0xA04#12, f)
  | _ => none

/-- The fields of an instruction; all at their plain values for an event. -/
def Instr.fields (i : Instr) : Fields := match i.word with | some (_, f) => f | none => {}

/-- Class C: 1 is uniform (R37). -/
def Instr.isUniform (i : Instr) : Bool := match i.word with | some (op, _) => op.getLsbD 11 | none => false

/-- What an operand position of a word holds (R41, R43, R110, R141, R236). -/
inductive FieldKind where
  /-- Unused: must be zero (R43). -/
  | none
  /-- Checked nowhere: the position is given another use by a check made after R56's. -/
  | any
  | vec
  | pair
  /-- Four vector registers, a multiple of 4 or 255 (R141). -/
  | quad
  /-- The first of four vector registers of QBLK and DQBLK, a multiple of 4 (R127, R128). -/
  | quadBase
  /-- `n` vector registers of a source or gather range; value 255 is VZ (R150, R179). -/
  | range (n : Nat)
  /-- `n` vector registers, the last at most 254, or VZ alone (R179, R211). -/
  | strict (n : Nat)
  /-- The register and the next one, at most 253 (R236). -/
  | two
  | scalar
  /-- The first of `n` scalar registers, at most `63 - n` (R136, R160, R354). -/
  | scalars (n : Nat)
  | lanePred
  | scalarPred
  /-- The condition byte of a lane compare: `hf` allows bit 7, `num` forbids SGN (R110, R121). -/
  | cond (hf num : Bool)
  /-- The condition byte of SSETP (R110). -/
  | condQ
  /-- A predicate with negation in bit 3, lane or scalar (R116, R129). -/
  | sel (lane : Bool)
  deriving DecidableEq, Repr, Inhabited

/-- Registers as one number space, for interlocks: vector `r`, scalar `256 + r`, lane predicate `512 + r`,
scalar predicate `768 + r` (R40, R48). -/
def refV (r : Nat) : List Nat := if r < 255 then [r] else []
/-- A scalar's reference; SZ has none. -/
def refS (r : Nat) : List Nat := if r < 63 then [256 + r] else []
/-- A lane predicate's reference; PT has none. -/
def refP (r : Nat) : List Nat := if r < 7 then [512 + r] else []
/-- A scalar predicate's reference; QT has none. -/
def refQ (r : Nat) : List Nat := if r < 7 then [768 + r] else []

/-- The registers a field of this kind with value `v` names. -/
def FieldKind.refs (k : FieldKind) (v : Nat) : List Nat :=
  match k with
  | .none | .any => []
  | .vec => refV v
  | .pair => if v = 255 then [] else refV v ++ refV (v + 1)
  | .quad | .quadBase => if v = 255 then [] else refV v ++ refV (v + 1) ++ refV (v + 2) ++ refV (v + 3)
  | .range n | .strict n => (List.range n).flatMap fun j => refV (v + j)
  | .two => refV v ++ refV (v + 1)
  | .scalar => refS v
  | .scalars n => (List.range n).flatMap fun j => refS (v + j)
  | .lanePred => refP v
  | .scalarPred => refQ v
  | .cond _ _ => refP (v % 8)
  | .condQ => refQ (v % 8)
  | .sel lane => if lane then refP (v % 8) else refQ (v % 8)

/-- Check 6 of R56 for one field. -/
def FieldKind.bad6 (k : FieldKind) (v : Nat) : Bool :=
  match k with
  | .none => v != 0
  | _ => false

/-- Check 7 of R56 for one field (detail 0x05). -/
def FieldKind.bad7 (k : FieldKind) (v : Nat) : Bool :=
  match k with
  | .two => 253 < v
  | .scalar => 63 < v
  | .scalars n => 63 < v + n
  | .lanePred | .scalarPred => 7 < v
  | .cond hf num => bitsOf v 5 4 == 3 || (!hf && bitOf v 7) || (num && bitOf v 6)
  | .condQ => bitsOf v 5 4 == 3 || bitOf v 7
  | .sel _ => 15 < v
  | _ => false

/-- Check 8 of R56 for one field (detail 0x06). -/
def FieldKind.bad8 (k : FieldKind) (v : Nat) : Bool :=
  match k with
  | .pair => v != 255 && (v % 2 == 1 || v == 254)
  | .quad => v != 255 && v % 4 != 0
  | .quadBase => v % 4 != 0
  | _ => false

/-- Check 10 of R56 for one field, with `n` registers allocated (detail 0x08; R42, R127, R141, R150, R211, R236).
The four registers of a field of 252 that end with 255 are checked no further, so below an allocation of 256 they take no trap
(R42, R127, log entry 72). -/
def FieldKind.bad10 (k : FieldKind) (n v : Nat) : Bool :=
  match k with
  | .vec => v != 255 && n ≤ v
  | .pair => v != 255 && n ≤ v + 1
  | .quad => v != 255 && n ≤ v + 2
  | .quadBase => v + 3 != 255 && n ≤ v + 3
  | .range c => (List.range c).any fun j => v + j != 255 && n ≤ v + j
  | .strict c => !(v == 255 && c == 1) && (254 < v + c - 1 || n ≤ v + c - 1)
  | .two => n ≤ v + 1
  | _ => false

/-- What R56's checks, the interlocks and the record reservation need to know of a word. -/
structure Layout where
  /-- MD holds a reserved value (check 5). -/
  md03 : Bool := false
  /-- An unused part of MD is not zero (check 6). -/
  md04 : Bool := false
  d : FieldKind := .none
  a : FieldKind := .none
  b : FieldKind := .none
  e : FieldKind := .none
  /-- The register field in X[7:0] of DCAS (R303). -/
  n : FieldKind := .any
  /-- X, or a part of it that a table marks with a dash or R43 as unused, is not zero (check 6). -/
  x04 : Bool := false
  /-- X is out of its range (check 9). -/
  x07 : Bool := false
  /-- A condition with detail 0x07 that is checked after R56's (R304). -/
  late07 : Bool := false
  bWritten : Bool := false
  eWritten : Bool := false
  moreWritten : List Nat := []
  /-- A memory-class instruction (R72). -/
  mem : Bool := false
  /-- The largest number of encore records it can need (R73). -/
  recs : Nat := 0
  deriving DecidableEq, Repr, Inhabited

/-- X as a number. -/
def Fields.xn (f : Fields) : Nat := f.x.toNat
/-- MD as a number. -/
def Fields.mdn (f : Fields) : Nat := f.md.toNat
/-- VAR, MD[2:0] (R44, R93, R112). -/
def Fields.var (f : Fields) : Nat := f.md.toNat % 8
/-- RM, MD[5:3] of the arithmetic groups (R44). -/
def Fields.rm (f : Fields) : Nat := f.md.toNat / 8 % 8
/-- KIND, MD[7:6] of the arithmetic groups (R44). -/
def Fields.kind (f : Fields) : Nat := f.md.toNat / 64

/-- The rounding modes an instruction accepts (R109). -/
inductive RmUse where
  | unused
  | noRS
  | every
  deriving DecidableEq, Repr

/-- The width of the B operand: 32 bits, 64 bits, or a 32-bit amount in a 64-bit instruction (R45, R108). -/
inductive BWidth where
  | w32
  | w64
  | amount
  deriving DecidableEq, Repr

/-- Groups 0 and 1 of the lane class: VAR in MD[2:0], the rest of MD unused (R93, R112). -/
def layoutPlain (f : Fields) (vars : Nat) : Layout :=
  { md03 := vars ≤ f.var, md04 := f.mdn / 8 != 0 }

/-- The arithmetic lane groups 2 to 6 (R44): `vars` says which VAR are defined, `kinds` which KIND. -/
def layoutLane (f : Fields) (vars : Nat → Bool) (rm : RmUse) (kinds : Nat → Bool) (w : BWidth)
    (d a e : FieldKind) : Layout :=
  let size := if w = .w64 then 8 else 4
  { md03 := !kinds f.kind || !vars f.var || 5 ≤ f.rm || (rm == .noRS && f.rm == 4)
    md04 := rm == .unused && 1 ≤ f.rm && f.rm ≤ 4
    d := d, a := a, e := e
    b := if f.kind = 0 then (if w = .w64 then .pair else .vec) else if f.kind = 1 then .scalar else .none
    x04 := f.kind < 2 && f.xn != 0
    x07 := f.kind == 3 && (65536 ≤ f.xn || f.xn % size != 0)
    mem := f.kind == 3, recs := if f.kind = 3 then 1 else 0 }

/-- Uniform group 0 (R44, R129). -/
def layoutScalar (f : Fields) (vars : Nat → Bool) (kinds : Nat → Bool) (w : BWidth) (d a e : FieldKind) : Layout :=
  let size := if w = .w64 then 8 else 4
  { md03 := f.kind == 1 || !kinds f.kind || !vars f.var || 5 ≤ f.rm
    md04 := 1 ≤ f.rm && f.rm ≤ 4
    d := d, a := a, e := e
    b := if f.kind = 0 then .scalar else .none
    x04 := f.kind == 0 && f.xn != 0
    x07 := f.kind == 3 && (65536 ≤ f.xn || f.xn % size != 0)
    mem := f.kind == 3, recs := if f.kind = 3 then 1 else 0 }

/-- Every KIND is allowed. -/
def anyKind : Nat → Bool := fun _ => true
/-- VAR below `n`. -/
def varsTo (n : Nat) : Nat → Bool := fun v => v < n

/-- X lies above the `k` bits that the instruction gives a meaning, out of its range (check 9). -/
def xAbove (f : Fields) (k : Nat) : Bool := f.xn / 2 ^ k != 0

/-- The signed offset in the low `n` bits of X. -/
def Fields.ofs (f : Fields) (n : Nat) : Int := signedOf n f.xn

/-- REDUX and SCAN (R112). -/
def layoutTree (f : Fields) (d : Nat → FieldKind) (vars : Nat) : Layout :=
  let opn := bitsOf f.xn 3 0
  let ty := bitsOf f.xn 7 4
  let rm := bitsOf f.xn 10 8
  { layoutPlain f vars with
    d := d ty, a := if 3 ≤ ty ∧ ty ≤ 5 then .pair else .vec
    x07 := xAbove f 11 || 5 < opn || 5 < ty || (3 ≤ opn && (ty == 2 || ty == 5)) || 3 < rm
      || (rm != 0 && !(opn == 0 && (ty == 2 || ty == 5))) }

/-- A compare of the lane class; `num` says that VAR 6 and 7 are .NUM and .NAN (R110, R121). -/
def layoutCmp (f : Fields) (hf num : Bool) (w : BWidth) (a : FieldKind) : Layout :=
  layoutLane f (varsTo (if num then 8 else 6)) .unused anyKind w .lanePred a (.cond hf (num && 6 ≤ f.var))

/-- The bytes a raw access moves, and the bits of a format, from SZF and TY (R12, R141). -/
def accessBits (f : Fields) : Nat :=
  let szf := bitsOf f.mdn 5 1
  if bitOf f.mdn 0 then
    match szf with
    | 0 => 32 | 1 => 64 | 2 => 16 | 3 => 16 | 4 => 8 | 5 => 8 | 6 => 8 | 7 => 8 | 8 => 4 | 9 => 8
    | 10 => 8 | 11 => 8 | 12 => 4 | 13 => 4 | 14 => 16 | 15 => 16 | 16 => 32 | 17 => 32 | 18 => 64 | 19 => 64
    | _ => 0
  else
    match szf with
    | 0 => 8 | 1 => 16 | 2 => 32 | 3 => 64 | 4 => 128 | _ => 0

/-- The register kind of an access's data (R141, R144). -/
def accessKind (f : Fields) : FieldKind :=
  match accessBits f with
  | 64 => .pair
  | 128 => .quad
  | _ => .vec

/-- The data checks of X that LD, ST, GATH and SCAT share: ORD, RM and SAT (R142, R150). -/
def accessX07 (f : Fields) (store : Bool) : Bool :=
  let rm := bitsOf f.xn 30 28
  let typedStore := store && bitOf f.mdn 0
  2 ≤ bitsOf f.xn 25 24 || (typedStore && 5 ≤ rm) || (!typedStore && (rm != 0 || bitOf f.xn 31))

/-- LD, ST, LDS, STS (R141 to R143, R149). -/
def layoutAccess (f : Fields) (store scratch : Bool) (recs : Nat) : Layout :=
  let am := f.kind
  { md03 := accessBits f == 0
    d := if store then .none else accessKind f
    e := if store then accessKind f else .none
    a := if am = 0 then (if scratch then .vec else .pair) else if am = 3 ∧ scratch then .scalars 3 else .scalar
    b := if am < 2 then .none else .vec
    x07 := accessX07 f store || (scratch && bitsOf f.xn 27 26 != 0) || (scratch && am == 3 && bitsOf f.xn 23 0 != 0)
    mem := true, recs := recs }

/-- GATH and SCAT (R150). -/
def layoutGather (f : Fields) (store : Bool) (recs : Nat) : Layout :=
  let k := f.kind + 1
  let bits := accessBits f
  let data := if bits = 64 then FieldKind.pair else .range k
  { md03 := 2 < k || bits == 0 || bits == 128 || (k == 2 && 32 < bits)
    d := if store then .none else data, e := if store then data else .none
    a := .scalar, b := .range k
    x04 := bitsOf f.xn 23 19 != 0, x07 := accessX07 f store
    mem := true, recs := recs }

/-- ATOM, ATOMS and RED (R302, R303). -/
def layoutAtomic (f : Fields) (scratch red : Bool) (recs : Nat) : Layout :=
  let opn := bitsOf f.mdn 3 0
  let ty := bitsOf f.mdn 6 4
  let am := bitsOf f.xn 19 18
  let k := if ty = 2 ∨ ty = 3 ∨ ty = 5 then FieldKind.pair else .vec
  { md03 := 9 < opn || 5 < ty || (4 ≤ ty && (opn == 3 || opn == 4 || opn == 5 || opn == 8 || opn == 9)) || (red && opn == 7)
    md04 := bitOf f.mdn 7
    d := if red then .none else k
    a := if am = 0 then (if scratch then .vec else .pair) else if am = 1 then .scalar else .any
    b := k
    e := if !red && opn == 7 then k else .none
    x07 := xAbove f 22 || (scratch && bitsOf f.xn 21 20 != 0)
    late07 := 2 ≤ am || (red && (bitsOf f.xn 17 16 == 1 || bitsOf f.xn 17 16 == 3))
    mem := true, recs := recs }

/-- The class of a matrix format: 0 for 16-bit, 1 for 8-bit, 2 for 4-bit, 3 for BFP; `none` outside R197's table. -/
def matrixClass (fmt : Nat) : Option Nat :=
  match fmt with
  | 2 => some 0 | 3 => some 0
  | 4 => some 1 | 5 => some 1 | 6 => some 1 | 7 => some 1 | 10 => some 1
  | 8 => some 2 | 12 => some 2
  | 24 => some 3 | 25 => some 3 | 26 => some 3 | 27 => some 3 | 28 => some 3 | 29 => some 3 | 30 => some 3
  | _ => none

/-- A block code and a scale format are not allowed for a format (R197, R210, R211). -/
def matrixX07 (fmt bc scf : Nat) : Bool :=
  5 < bc || (match matrixClass fmt with
    | some 0 => bc != 4 || scf != 0
    | some 3 => bc != 5 || scf != 0
    | _ => false)

/-- The uniform instructions whose MD has `k` used bits. -/
def layoutUniform (f : Fields) (k : Nat) : Layout := { md04 := f.mdn / 2 ^ k != 0 }

/-- The layout of every instruction word (R93, R112, R116 to R131, R149, R179, R210, R236, R269, R303, R341, R354). -/
def Instr.layout : Instr → Layout
  | .nop f | .exit f | .yield f | .tret f => { layoutPlain f 1 with x04 := f.xn != 0 }
  | .bra f => layoutPlain f 1
  | .bri f | .ret f => { layoutPlain f 1 with a := .pair, x04 := f.xn != 0 }
  | .call f => { layoutPlain f 2 with d := .pair, a := if f.var = 1 then .pair else .none, x04 := f.var == 1 && f.xn != 0 }
  | .sleep f => { layoutPlain f 1 with x07 := xAbove f 24 }
  | .trap f | .bkpt f => { layoutPlain f 1 with x07 := xAbove f 16 }
  | .plop f => { layoutPlain f 1 with d := .lanePred, a := .lanePred, b := .lanePred, e := .lanePred, x07 := xAbove f 8 }
  | .vote f => { layoutPlain f 4 with d := if f.var = 3 then .scalar else .scalarPred, a := .lanePred, x04 := f.xn != 0 }
  | .elect f => { layoutPlain f 2 with d := .lanePred, x04 := f.xn != 0 }
  | .match f => { layoutPlain f 2 with d := .pair, a := if f.var = 1 then .pair else .vec, x04 := f.xn != 0 }
  | .shfl f => { layoutPlain f 4 with d := .vec, a := .vec, b := .vec, x07 := bitsOf f.xn 7 6 != 0 || xAbove f 11 || bitsOf f.xn 10 8 == 7 }
  | .redux f => layoutTree f (fun _ => .scalar) 1
  | .scan f => layoutTree f (fun ty => if 3 ≤ ty ∧ ty ≤ 5 then .pair else .vec) 2
  | .mov f => layoutLane f (varsTo 1) .unused anyKind .w32 .vec .none .none
  | .movi f => { layoutLane f (varsTo 4) .unused (· == 2) .w32 .vec .none .none with
      x07 := (f.var == 1 || f.var == 2) && xAbove f 16 }
  | .iadd f | .isub f => layoutLane f (varsTo 3) .unused anyKind .w32 .vec .vec .none
  | .imul f => layoutLane f (varsTo 1) .unused anyKind .w32 .vec .vec .none
  | .imulh f | .imin f | .imax f | .shl f | .shr f | .sar f | .bfe f =>
      layoutLane f (varsTo 2) .unused anyKind .w32 .vec .vec .none
  | .imad f | .bfi f | .prmt f => layoutLane f (varsTo 1) .unused anyKind .w32 .vec .vec .vec
  | .iabs f | .ineg f => layoutLane f (varsTo 2) .unused anyKind .w32 .vec .none .none
  | .isetp f => layoutCmp f false false .w32 .vec
  | .sel f => layoutLane f (varsTo 1) .unused anyKind .w32 .vec .vec (.sel true)
  | .shf f => layoutLane f (varsTo 4) .unused anyKind .w32 .vec .vec .vec
  | .bitf3 f => { layoutLane f (varsTo 1) .unused (· < 2) .w32 .vec .vec .vec with x04 := false, x07 := xAbove f 8 }
  | .popc f | .clz f | .ctz f | .brev f => layoutLane f (varsTo 1) .unused anyKind .w32 .vec .none .none
  | .idp4 f => layoutLane f anyKind .unused anyKind .w32 .vec .vec .vec
  | .iadd64 f | .isub64 f => layoutLane f (varsTo 3) .unused anyKind .w64 .pair .pair .none
  | .imadw f => layoutLane f (varsTo 2) .unused anyKind .w64 .pair .vec .vec
  | .imad64 f => layoutLane f (varsTo 1) .unused anyKind .w64 .pair .pair .pair
  | .isetp64 f => layoutCmp f false false .w64 .pair
  | .shl64 f | .shr64 f | .sar64 f => layoutLane f (varsTo 2) .unused anyKind .amount .pair .pair .none
  | .fadd f | .fmul f | .hadd2 f | .hmul2 f => layoutLane f anyKind .every anyKind .w32 .vec .vec .none
  | .ffma f | .hfma2 f => layoutLane f anyKind .every anyKind .w32 .vec .vec .vec
  | .fmin f | .fmax f => layoutLane f (varsTo 2) .unused anyKind .w32 .vec .vec .none
  | .fsetp f => layoutCmp f false true .w32 .vec
  | .frnd f => layoutLane f (varsTo 1) .every anyKind .w32 .vec .none .none
  | .fclass f => { layoutLane f (varsTo 1) .unused (· == 0) .w32 .lanePred .vec .none with b := .none, x04 := false, x07 := xAbove f 10 }
  | .dadd f | .dmul f => layoutLane f anyKind .every anyKind .w64 .pair .pair .none
  | .dfma f => layoutLane f anyKind .every anyKind .w64 .pair .pair .pair
  | .dmin f | .dmax f => layoutLane f (varsTo 2) .unused anyKind .w64 .pair .pair .none
  | .dsetp f => layoutCmp f false true .w64 .pair
  | .hmin2 f | .hmax2 f => layoutLane f (fun v => v % 4 < 2) .unused anyKind .w32 .vec .vec .none
  | .hsetp2 f => { layoutCmp f true true .w32 .vec with moreWritten := if f.d.toNat < 6 then refP (f.d.toNat + 1) else [] }
  | .frcp f | .frsq f | .fsqrt f | .fex2 f | .flg2 f | .fsin f | .fcos f =>
      layoutLane f (varsTo 1) .noRS anyKind .w32 .vec .none .none
  | .drcp f => layoutLane f (varsTo 1) .noRS anyKind .w64 .pair .none .none
  | .cvt f =>
      let df := bitsOf f.xn 4 0
      let sf := bitsOf f.xn 12 8
      let width := fun (t : Nat) => accessBits { md := BitVec.ofNat 8 (2 * t + 1) }
      let slots := fun (t : Nat) => if 32 ≤ width t then 1 else if width t = 0 then 1 else 32 / width t
      let isInt := fun (t : Nat) => 10 ≤ t && t ≤ 19
      { layoutLane f (varsTo 1) .every (· == 0) .w32 (if width df = 64 then .pair else .vec) .none .none with
        b := if f.kind = 0 then (if width sf = 64 then .pair else .vec) else .none, x04 := false, x07 := 19 < df || 19 < sf || bitsOf f.xn 7 5 != 0 || bitOf f.xn 15 || bitOf f.xn 19 || bitsOf f.xn 31 23 != 0
          || (bitOf f.xn 13 && !(df ≤ 3 || df == 5)) || (bitOf f.xn 14 && !(isInt df && isInt sf))
          || slots sf ≤ bitsOf f.xn 18 16 || slots df ≤ bitsOf f.xn 22 20 }
  | .qblk f => { layoutLane f (varsTo 1) .every (· == 1) .w32 .vec .quadBase .none with
      x04 := false, x07 := f.xn / 512 != 0 || bitsOf f.xn 7 5 != 0 || bitsOf f.xn 4 0 < 24 || bitsOf f.xn 4 0 == 31, bWritten := true }
  | .dqblk f => { layoutLane f (varsTo 1) .unused (· == 1) .w32 .quadBase .vec .none with
      x04 := false, x07 := f.xn / 512 != 0 || bitsOf f.xn 7 5 != 0 || bitsOf f.xn 4 0 < 24 || bitsOf f.xn 4 0 == 31 }
  | .ld f => layoutAccess f false false 2
  | .st f => layoutAccess f true false 4
  | .lds f => layoutAccess f false true 1
  | .sts f => layoutAccess f true true 4
  | .gath f => layoutGather f false 2
  | .scat f => layoutGather f true 3
  | .pref f => { md03 := 2 < bitsOf f.mdn 5 1 || bitOf f.mdn 0, a := if f.kind = 0 then .pair else .scalar, b := if f.kind < 2 then .none else .vec, x07 := bitsOf f.xn 25 24 != 0 || bitsOf f.xn 31 28 != 0, mem := true }
  | .cctl f =>
      let op := f.var
      if op < 3 then { md04 := bitsOf f.mdn 5 3 != 0, a := if f.kind = 0 then .pair else .scalar, b := if f.kind < 2 then .none else .vec, x07 := xAbove f 24, mem := true }
      else { md03 := 5 < op, md04 := f.mdn / 8 != 0, x04 := f.xn != 0, mem := true }
  | .fence f => { md03 := f.mdn % 4 == 0, md04 := f.mdn / 4 != 0, x04 := f.xn != 0, mem := true }
  | .icinv f => { md04 := f.mdn / 2 != 0, a := if bitOf f.mdn 0 then .none else .pair, x04 := bitOf f.mdn 0 && f.xn != 0, x07 := !bitOf f.mdn 0 && xAbove f 24, mem := true }
  | .ifence f => { md04 := f.mdn != 0, x04 := f.xn != 0, mem := true }
  | .atom f => layoutAtomic f false false 4
  | .atoms f => layoutAtomic f true false 4
  | .red f => layoutAtomic f false true 3
  | .dcas f => { md04 := f.mdn != 0, d := .quad, a := .pair, b := .quad, e := .pair, n := .quad, x04 := bitOf f.xn 11 || bitOf f.xn 15, x07 := xAbove f 18, moreWritten := refP (bitsOf f.xn 10 8) ++ refP (bitsOf f.xn 14 12), mem := true, recs := 4 }
  | .amov f => { md04 := f.mdn != 0, d := .pair, a := .pair, b := .pair, e := .pair, x04 := bitsOf f.xn 11 0 != 0 || bitOf f.xn 15, x07 := xAbove f 18, moreWritten := refP (bitsOf f.xn 14 12), mem := true, recs := 4 }
  | .mcas f => { md04 := f.mdn != 0, d := .pair, a := .pair, x04 := bitsOf f.xn 15 0 != 0, x07 := xAbove f 18, mem := true, recs := 2 }
  | .cpl f => { md03 := f.mdn % 4 == 3, md04 := bitsOf f.mdn 4 3 != 0 || bitOf f.mdn 7, a := .pair, b := .vec, e := .scalar, x04 := f.xn != 0, mem := true, recs := 3 }
  | .qpop f => { md04 := f.mdn / 8 != 0, d := .strict (f.mdn % 4 + 1), a := .scalar, e := if bitOf f.mdn 2 then .lanePred else .none, eWritten := bitOf f.mdn 2, x04 := f.xn != 0, mem := true, recs := 1 }
  | .accrd f => { md04 := f.mdn / 4 != 0, d := .strict (f.mdn % 4 + 1), a := .scalar, b := .vec, x04 := f.xn != 0, mem := true, recs := 1 }
  | .accwr f => { md04 := f.mdn / 4 != 0, e := .strict (f.mdn % 4 + 1), a := .scalar, b := .vec, x04 := f.xn != 0, mem := true, recs := 4 }
  | .cutsel f => { md04 := f.mdn / 2 != 0, d := .scalar, a := .scalar, b := .scalar, e := .scalar, x04 := f.xn != 0, mem := true, recs := 1 }
  | .rayt f => { md04 := f.mdn / 4 != 0, d := if bitOf f.mdn 0 then .vec else .quad, a := .scalar, b := .scalar, e := .vec, x04 := f.xn != 0, mem := true, recs := 3 }
  | .rayr f => { md04 := f.mdn / 4 != 0, d := if bitOf f.mdn 0 then .vec else .quad, a := .scalar, b := .scalar, e := .two, x04 := f.xn != 0, mem := true, recs := 2 }
  | .rast f => { md04 := f.mdn / 2 != 0, d := .scalar, a := .scalar, b := .scalar, x04 := f.xn != 0, mem := true, recs := 1 }
  | .tex f => { md04 := f.mdn != 0, d := .quad, a := .two, b := .scalar, e := .vec, x04 := f.xn != 0, mem := true, recs := 3 }
  | .texg f => { md04 := f.mdn / 4 != 0, d := .quad, a := .two, b := .scalar, e := .vec, x04 := f.xn != 0, mem := true, recs := 3 }
  | .texq f => { md04 := f.mdn != 0, d := .quad, a := .vec, b := .scalar, x04 := f.xn != 0, mem := true, recs := 1 }
  | .smov f => layoutScalar f (varsTo 1) anyKind .w64 .scalar .none .none
  | .smovi f => layoutScalar f (varsTo 3) (· == 2) .w64 .scalar .none .none
  | .sadd f | .ssub f | .smul f => layoutScalar f (varsTo 3) anyKind .w64 .scalar .scalar .none
  | .smad f => layoutScalar f (varsTo 1) anyKind .w64 .scalar .scalar .scalar
  | .smin f | .smax f => layoutScalar f (varsTo 2) anyKind .w64 .scalar .scalar .none
  | .sbitf3 f => { layoutScalar f (varsTo 1) (· == 0) .w64 .scalar .scalar .scalar with x04 := false, x07 := xAbove f 8 }
  | .sshl f | .sshr f | .ssar f => layoutScalar f (varsTo 2) anyKind .amount .scalar .scalar .none
  | .ssetp f => layoutScalar f (varsTo 6) anyKind .w64 .scalarPred .scalar .condQ
  | .ssel f => layoutScalar f (varsTo 1) anyKind .w64 .scalar .scalar (.sel false)
  | .sqlop f => { layoutScalar f (varsTo 1) (· == 0) .w64 .scalarPred .scalarPred .scalarPred with
      b := .scalarPred, x04 := false, x07 := xAbove f 8 }
  | .sv2s f => { layoutScalar f (varsTo 5) (· == 0) .w64 .scalar (if f.var = 2 ∨ f.var = 4 then .pair else .vec) .none with
      b := .none, x04 := false, x07 := if f.var < 3 then xAbove f 6 else f.xn != 0 }
  | .sld f => { layoutScalar f (varsTo 7) (· == 2) .w64 .scalar .scalar .none with x07 := false, mem := true, recs := 1 }
  | .sldc f =>
      let size := match f.var with | 0 => 8 | 1 => 1 | 2 => 1 | 3 => 2 | 4 => 2 | _ => 4
      { layoutScalar f (varsTo 7) (· == 2) .w64 .scalar .scalar .none with
        x07 := 65536 ≤ f.xn || f.xn % size != 0, mem := true, recs := 1 }
  | .cpt f => { layoutUniform f 3 with a := .scalar, b := .scalars 3, e := .scalars 3, x07 := xAbove f 26, mem := true }
  | .cps f => { layoutUniform f 2 with a := .scalar, b := .scalar, e := .scalars 2, x04 := f.xn != 0, mem := true }
  | .layex f =>
      let op := f.mdn % 4
      let rm := bitsOf f.mdn 4 2
      { md03 := op == 3 || 5 ≤ rm, md04 := f.mdn / 64 != 0 || (op != 0 && (rm != 0 || bitOf f.mdn 5)), a := .scalar, e := .scalar, x04 := f.xn != 0, mem := true }
  | .tsadd f => { layoutUniform f 3 with d := .scalar, a := .scalar, b := if bitOf f.mdn 2 then .none else .scalar, x04 := !bitOf f.mdn 2 && f.xn != 0, mem := true, recs := 1 }
  | .tswait f => { layoutUniform f 2 with d := .scalarPred, a := .scalar, b := .scalar, x04 := !bitOf f.mdn 1 && f.xn != 0, x07 := bitOf f.mdn 1 && f.xn == 0, mem := true, recs := 1 }
  | .tsread f => { layoutUniform f 2 with d := .scalar, a := .scalar, x04 := f.xn != 0, mem := true, recs := 1 }
  | .bar f => { layoutUniform f 0 with a := .scalar, x04 := xAbove f 16, x07 := f.xn % 65536 == 0, mem := true, recs := 1 }
  | .bara f => { layoutUniform f 0 with a := .scalar, x04 := f.xn != 0, mem := true, recs := 1 }
  | .waitoc f => { layoutUniform f 2 with x04 := xAbove f 8, mem := true }
  | .qpush f => { layoutUniform f 2 with a := .scalar, b := .range (f.mdn % 4 + 1), x04 := f.xn != 0, mem := true, recs := match f.mdn % 4 with | 0 => 1 | 1 => 2 | _ => 3 }
  | .mxacq f => { layoutUniform f 1 with d := .scalarPred, x04 := f.xn != 0, mem := true }
  | .mxrel f => { layoutUniform f 1 with x04 := f.xn != 0, mem := true }
  | .mxfmt f =>
      let fmt := f.mdn % 32
      { layoutUniform f 6 with md03 := (matrixClass fmt).isNone, a := if bitOf f.xn 7 then .scalar else .none, x04 := xAbove f 11, x07 := 5 ≤ bitsOf f.xn 10 8 || matrixX07 fmt (bitsOf f.xn 4 2) (bitsOf f.xn 6 5), mem := true }
  | .mxlw f =>
      let fmt := f.mdn % 32
      { layoutUniform f 6 with md03 := (matrixClass fmt).isNone, a := .scalar, b := .scalar, x04 := bitsOf f.xn 7 6 != 0 || xAbove f 24, x07 := matrixX07 fmt (bitsOf f.xn 2 0) (bitsOf f.xn 4 3) || bitsOf f.xn 23 8 % 4 != 0, mem := true }
  | .mxmul f => { layoutUniform f 2 with a := .scalars 3, b := .scalar, e := .scalar, x04 := xAbove f 10, mem := true }
  | .mxchn f => { md04 := f.mdn / 4 != 0 || f.mdn % 2 == 1, a := .scalar, e := .scalar, x04 := xAbove f 10 || bitOf f.xn 7, mem := true }
  | .accalloc f => { layoutUniform f 1 with d := .scalarPred, x04 := xAbove f 5, x07 := f.xn % 32 == 0 || 16 < f.xn % 32, mem := true }
  | .accfree f => { layoutUniform f 1 with x04 := xAbove f 5, x07 := f.xn % 32 == 0 || 16 < f.xn % 32, mem := true }
  | .accz f => { layoutUniform f 0 with a := .scalar, x04 := xAbove f 11, mem := true }
  | .accld f => { layoutUniform f 0 with a := .scalar, b := .scalar, x04 := bitsOf f.xn 15 11 != 0, x07 := f.xn / 65536 % 4 != 0, mem := true }
  | .accst f => { layoutUniform f 1 with a := .scalar, b := .scalar, e := .scalar, x04 := bitsOf f.xn 15 11 != 0, x07 := f.xn / 65536 % 4 != 0, mem := true }
  | .show f => { layoutUniform f 0 with a := .scalar, x04 := f.xn != 0 }
  | .showq f => { layoutUniform f 1 with d := .scalar, x04 := f.xn != 0 }
  | .sysr f => { layoutUniform f 0 with d := .scalar, x07 := xAbove f 16 || (4096 ≤ f.xn && f.xn ≤ 0xFFF8 && f.xn % 8 != 0) }
  | .sysw f => { layoutUniform f 0 with a := .scalar, x07 := xAbove f 16 || (4096 ≤ f.xn && f.xn ≤ 0xFFF8 && f.xn % 8 != 0) }
  | .perf f => { layoutUniform f 0 with d := .scalar, x07 := xAbove f 16 }
  | .snap f => { layoutUniform f 0 with d := .scalar, x04 := xAbove f 16 }
  | .tlbi f =>
      let k := f.mdn % 4
      { layoutUniform f 2 with md03 := k == 3, a := if k = 0 then .scalar else .none, x04 := k != 0 && f.xn != 0, x07 := k == 0 && (xAbove f 6 || f.xn % 64 < 12 || 57 < f.xn % 64) }
  | _ => {}

/-- The detail of the first of checks 4 to 9 of R56 that the word's fields fail. -/
def checkFields (l : Layout) (f : Fields) : Option Nat :=
  let d := f.d.toNat
  let a := f.a.toNat
  let b := f.b.toNat
  let e := f.e.toNat
  let n := f.xn % 256
  let flagBad := fun (v : Nat) => 12 ≤ v && v ≤ 14
  if flagBad f.sa.toNat || flagBad f.sb.toNat then some 2
  else if l.md03 then some 3
  else if l.md04 || l.x04 || l.d.bad6 d || l.a.bad6 a || l.b.bad6 b || l.e.bad6 e then some 4
  else if l.d.bad7 d || l.a.bad7 a || l.b.bad7 b || l.e.bad7 e then some 5
  else if l.d.bad8 d || l.a.bad8 a || l.b.bad8 b || l.e.bad8 e || l.n.bad8 n then some 6
  else if l.x07 then some 7
  else none

/-- The detail of check 10 of R56, then of the encoding check that R304 makes after it, with `n` registers allocated. -/
def checkAlloc (l : Layout) (f : Fields) (n : Nat) : Option Nat :=
  if l.d.bad10 n f.d.toNat || l.a.bad10 n f.a.toNat || l.b.bad10 n f.b.toNat || l.e.bad10 n f.e.toNat
      || l.n.bad10 n (f.xn % 256) then some 8
  else if l.late07 then some 7
  else none

/-- The instructions that the calliope may run (R191). -/
def Instr.calliopeMay : Instr → Bool
  | .nop _ | .bra _ | .exit _ | .mov _ | .movi _ | .iadd _ | .isub _ | .imad _ | .isetp _ | .sel _ | .shl _ | .shr _
  | .cvt _ | .qblk _ | .qpush _
  | .smov _ | .smovi _ | .sadd _ | .ssub _ | .smul _ | .smad _ | .smin _ | .smax _ | .sbitf3 _ | .sshl _ | .sshr _ | .ssar _
  | .ssetp _ | .ssel _ | .sqlop _ | .sv2s _ | .sld _ | .sldc _ => true
  | .ld f => bitsOf f.xn 25 24 == 0
  | _ => false

/-- Decodes a word: checks 1 and 3 to 9 of R56, in their order.
Checks 2 and 10 need the troupe; a step makes them in their places (R56, R191). -/
def decode (w : IWord) : Except EncTrap Instr :=
  match ofOpcode (wordOp w) with
  | none => .error (.illegalInstruction 0)
  | some mk =>
    let i := mk (wordFields w)
    if wordZ w ≠ 0 then .error (.illegalEncoding 1)
    else match checkFields i.layout (wordFields w) with
      | some k => .error (.illegalEncoding k)
      | none => .ok i

/-- All the checks of R56 for a troupe with `n` registers, which may be the calliope. -/
def decodeFor (calliope : Bool) (n : Nat) (w : IWord) : Except EncTrap Instr :=
  match ofOpcode (wordOp w) with
  | none => .error (.illegalInstruction 0)
  | some mk =>
    if calliope && !(mk (wordFields w)).calliopeMay then .error (.illegalInstruction 1)
    else match decode w with
      | .error t => .error t
      | .ok i => match checkAlloc i.layout i.fields n with
        | some k => .error (.illegalEncoding k)
        | none => .ok i

/-- The word of an instruction (R37, R38); an event has none. -/
def encode (i : Instr) : Option IWord :=
  match i.word with
  | some (op, f) => some (packWord op f)
  | none => none

/-- The instruction the decoder reads from the bits `w` of a table row, the bits above `nbits` zero (R38). -/
def decodeTableWord (nbits w : Nat) : Option Instr :=
  match decode (BitVec.ofNat 128 (w % 2 ^ nbits)) with
  | .ok i => some i
  | .error _ => none

/-- The registers that an instruction's word writes (R48, R55). -/
def Instr.writes (i : Instr) : List Nat :=
  let l := i.layout
  let f := i.fields
  l.d.refs f.d.toNat ++ (if l.bWritten then l.b.refs f.b.toNat else []) ++ (if l.eWritten then l.e.refs f.e.toNat else [])
    ++ l.moreWritten

/-- The registers that an instruction's word reads, its guard among them (R47, R48). -/
def Instr.reads (i : Instr) : List Nat :=
  let l := i.layout
  let f := i.fields
  (if i.isUniform then refQ (f.g.toNat % 8) else refP (f.g.toNat % 8))
    ++ l.a.refs f.a.toNat ++ (if l.bWritten then [] else l.b.refs f.b.toNat)
    ++ (if l.eWritten then [] else l.e.refs f.e.toNat) ++ l.n.refs (f.xn % 256)

end Sys2Proof
end

