-- ==== Sys2Proof/Machine/Block.lean ====
section
/-!
DEFINITION. Byte strings as numbers (R5), and compressed blocks: the code table, encoding and decoding (R275 to R277).
-/
namespace Sys2Proof.Machine

/-- A little-endian number from bytes (R5). -/
def leNat : List Nat → Nat
  | [] => 0
  | b :: bs => b % 256 + 256 * leNat bs

/-- `n` little-endian bytes of a number (R5). -/
def leBytes : Nat → Nat → List Nat
  | 0, _ => []
  | n + 1, v => v % 256 :: leBytes n (v / 256)

/-- Bytes `o .. o + n - 1` of a structure read from memory, as a number. -/
def fieldOf (b : List Nat) (o n : Nat) : Nat := leNat ((b.drop o).take n)

/-! ### Blocks (R275, R276) -/

/-- Word width, delta width and word count of a block code (R275). -/
def codeShape : Nat → Nat × Nat × Nat
  | 2 => (8, 1, 16)
  | 3 => (4, 1, 32)
  | 4 => (8, 2, 16)
  | _ => (1, 0, 0)

/-- The bytes of a line record (R358). -/
def recordLen (code : Nat) : Nat :=
  match code with
  | 0 => 129
  | 1 => 1
  | c => let (w, d, n) := codeShape c; 1 + w + n * d

/-- The line that a record holds, as bytes (R275). -/
def decodeRecord (code : Nat) (b : List Nat) : List Nat :=
  match code with
  | 0 => (b.drop 1).take 128
  | 1 => List.replicate 128 0
  | c =>
    let (w, d, n) := codeShape c
    let base := fieldOf b 1 w
    (List.range n).flatMap fun i => leBytes w (wrapTo (8 * w) ((base : Int) + signedOf (8 * d) (fieldOf b (1 + w + i * d) d)))

/-- Delta `i` of a line in words of `w` bytes (R275). -/
def lineDelta (b : List Nat) (w i : Nat) : Nat :=
  wrapTo (8 * w) ((fieldOf b (w * i) w : Int) - (fieldOf b 0 w : Int))

/-- A code holds a line (R275). -/
def codeHolds (b : List Nat) (code : Nat) : Bool :=
  match code with
  | 0 => true
  | 1 => b.all (· == 0)
  | c =>
    let (w, d, n) := codeShape c
    (List.range n).all fun i =>
      let v := signedOf (8 * w) (lineDelta b w i)
      decide (-((2 ^ (8 * d - 1) : Nat) : Int) ≤ v) && decide (v < ((2 ^ (8 * d - 1) : Nat) : Int))

/-- The first code, in the order 1, 2, 3, 4, 0, that holds a line (R276). -/
def lineCode (b : List Nat) : Nat := ([1, 2, 3, 4].find? (codeHolds b)).getD 0

/-- The record of a line (R275, R276, R358). -/
def encodeRecord (b : List Nat) : List Nat :=
  match lineCode b with
  | 0 => 0 :: b
  | 1 => [1]
  | c =>
    let (w, d, n) := codeShape c
    c :: leBytes w (fieldOf b 0 w) ++ (List.range n).flatMap fun i => leBytes d (lineDelta b w i)

/-- The bytes of a line, from the lowest address up (R5). -/
def lineBytes (d : LineData) : List Nat := leBytes 128 d.toNat

/-- A line as a slice stores it: raw, or a 64-byte block filled up with zero bytes (R275, R276). -/
def lineBlock (d : LineData) : List Nat :=
  let b := lineBytes d
  let r := encodeRecord b
  if lineCode b = 0 then b else r ++ List.replicate (64 - r.length) 0

/-- The halves of a set that a line's data occupies: two raw, one compressed, none when it is all zero (R274). -/
def lineHalves (d : LineData) : Nat :=
  match lineCode (lineBytes d) with
  | 0 => 2
  | 1 => 0
  | _ => 1

/-- A received block is malformed: a reserved code or header bit, an unused byte that is not zero, or a length that does not
match its code (R277). -/
def blockMalformed (b : List Nat) : Bool :=
  let code := fieldOf b 0 1
  if b.length = 128 then false
  else b.length != 64 || code == 0 || 5 ≤ code || (b.drop (recordLen code)).any (· != 0)

/-- The line that a received block holds (R275); one of 128 bytes is raw. -/
def blockLine (b : List Nat) : LineData :=
  BitVec.ofNat 1024 (leNat (if b.length = 128 then b else decodeRecord (fieldOf b 0 1) b))

end Sys2Proof.Machine
end

