-- ==== Sys2Proof/Machine/TroupeTypes.lean ====
section
/-!
DEFINITION. The state of a troupe: its registers, PC table, trap registers, counters and instructions in flight (R65 to R91).
-/
namespace Sys2Proof.Machine

/-- A translation buffer entry (R320, R325): `size` is log2 of the bytes it maps. -/
structure TlbEntry where
  ctx : Nat
  cgen : Nat
  va : Nat
  size : Nat
  pa : Nat
  r : Bool
  w : Bool
  x : Bool
  /-- MT; 3 in an entry that an ATS completion gave: the address map tells it (R319, R324). -/
  mt : Nat
  graph : Bool
  /-- For MT 0 in the first two levels: the frame number plus 1, else 0. -/
  frame : Nat
  fgen : Nat
  /-- A group of 2 MiB pages: the presence mask, else 0. -/
  group : Nat
  deriving DecidableEq, Repr, Inhabited

/-- Who asks at a home: troupe key, launch site, lane plus 1 (0 for the whole operation). -/
structure Asker where
  t : Nat
  q : Nat
  lane : Nat
  deriving DecidableEq, Repr, Inhabited

/-- An access in flight: it carries the translation that it was made with (R325, R326), and fill data that it may still
take once after an invalidation (R286). -/
structure Flight where
  who : Asker
  /-- Its virtual line, VA / 128. -/
  line : Nat
  entry : TlbEntry
  took : Option LineData
  deriving DecidableEq, Repr, Inhabited

/-- The state of a thread (R67). -/
inductive TState where
  | ready
  | sleep
  | wait
  | halted
  | exited
  deriving DecidableEq, Repr, Inhabited

/-- The PC table: what a trap shadows (R67, R68, R80). -/
structure PcTable where
  /-- The PC of each thread. -/
  pcs : Tbl W64
  /-- The state of each thread; a thread that is not listed is READY. -/
  tst : Tbl TState
  /-- The CLOCK at which a SLEEP thread becomes READY (R98). -/
  wake : Tbl Nat
  deferred : Mask
  w : Nat
  h : Nat
  fp : W64
  deriving DecidableEq, Repr, Inhabited

/-- The STATE of a parked record: 1, 2 and 3 of R74. -/
inductive ParkState where
  | pending
  | ready
  | fatal
  deriving DecidableEq, Repr, Inhabited

/-- What a fault leaves of an instruction or an engine command (R73, R74, R77). -/
structure Park where
  cls : Nat
  state : ParkState
  addr : W64
  pa : Nat
  fgen : Nat
  cgen : Nat
  detail : Nat
  /-- The 4 KiB granule, by PA / 4096 plus 1, whose fill makes a RESIDENCY record ready; 0 for none. -/
  granule : Nat
  /-- The CLOCK of the fault. -/
  since : Nat
  /-- The graph item that was being read, as in a residency request (R347). -/
  item : Nat
  /-- The access writes; its translation has GRAPH = 1 (R334, R347). -/
  write : Bool
  graph : Bool
  /-- ADDR is a scratchpad address or an accumulator element index (R335). -/
  scratch : Bool
  /-- FAULTSVC was 1 when the fault was raised: its service is a page request (R333, R336). -/
  host : Bool
  deriving DecidableEq, Repr, Inhabited

/-- Where a lane of a locked operation stands (R308, R309). -/
inductive LockPhase where
  | start
  | locking
  | backoff
  | ended
  deriving DecidableEq, Repr, Inhabited

/-- A lane of DCAS, AMOV or MCAS (R308 to R314). -/
structure LockLane where
  phase : LockPhase
  /-- The lines of the attempt in ascending order. -/
  lines : List Nat
  /-- How many of them are granted. -/
  granted : Nat
  /-- The CLOCK at which the outstanding request reached its home. -/
  since : Nat
  /-- The CLOCK at which the back-off ends. -/
  wake : Nat
  retries : Nat
  /-- The frame (plus 1, else 0) and generation that each line's request carries (R309). -/
  gens : List (Nat × Nat)
  /-- The context generation that its requests carry. -/
  cgen : Nat
  /-- The physical addresses of the words. -/
  words : List Nat
  /-- The MCAS parameter block as read in this attempt. -/
  blk : List Nat
  /-- The result registers, as one number. -/
  result : Nat
  ps : Bool
  pb : Bool
  deriving DecidableEq, Repr, Inhabited

/-- What identifies an instruction in flight: its launch site pair, word, run and lanes (R74). -/
structure OpHead where
  seq : Nat
  /-- CLOCK at issue. -/
  stamp : Nat
  pc : W64
  ins : Instr
  word : IWord
  level : Nat
  run : Mask
  act : Mask
  done : Mask
  deriving DecidableEq, Repr, Inhabited

/-- The operands captured at issue and the work done so far (R76, R151, R152); element `j` of lane `l` has key `l + 64 j`. -/
structure OpData where
  /-- Bytes of an element; elements of a lane; the operation is made once for the troupe. -/
  size : Nat
  elems : Nat
  single : Bool
  /-- Uniform sources in log order. -/
  uni : List W64
  /-- The address of each lane or element. -/
  addr : Tbl W64
  /-- Set where the address names the upper half of its byte (R143). -/
  nib : Tbl Bool
  /-- Store data or data operand. -/
  dat : Tbl Nat
  /-- Compare operand, or second source. -/
  cmp : Tbl Nat
  /-- A third source. -/
  thr : Tbl Nat
  /-- Bytes read so far, or the old value of an atomic. -/
  got : Tbl Nat
  /-- Bytes of the element performed so far, one bit each. -/
  prog : Tbl Nat
  /-- Bytes (or half-bytes) that a later writer of the same instruction replaces (R146). -/
  drop : Tbl Nat
  /-- Stochastic draws taken at issue (R29). -/
  draws : Tbl Nat
  deriving DecidableEq, Repr, Inhabited

/-- The control state of an instruction in flight. -/
structure OpCtl where
  /-- The flags it raised (R51). -/
  flags : List Nat
  /-- The encore records it reserved (R73). -/
  recs : List Nat
  /-- Performed only when every earlier access of the troupe is performed (R291). -/
  rel : Bool
  /-- An acquire follows its last access (R292). -/
  acq : Bool
  /-- The target of a wait (R181, R184). -/
  target : W64
  /-- The CLOCK at which a timed wait expires (R181). -/
  deadline : Option Nat
  /-- A read of the turnstile has been performed (R181). -/
  readYet : Bool
  /-- The add of a TSADD, BAR or BARA, or the closing add of a CPL, has been performed. -/
  added : Bool
  /-- The CLOCK of the next poll of a waiter without a watch entry; 0 when it has one (R177). -/
  poll : Nat
  /-- A condition of the wait holds and the threads leave at this CLOCK (R185); 0 when not. -/
  leaveAt : Nat
  /-- It has been replayed (R77, R266). -/
  replayed : Bool
  /-- Lines whose access has faulted since the last replay (R77, R152). -/
  stuck : List Nat
  locks : Tbl LockLane
  /-- The word of each lane's bound fabric tag: number, origin, bit 31 (R391). -/
  tags : Tbl Nat
  /-- The lanes of result register `j` that a restored image has delivered already (R77, R174). -/
  given : Tbl Mask
  deriving DecidableEq, Repr, Inhabited

/-- The progress of an instruction of lane group 12 (R238, R242, R246, R251). -/
structure OpGeo where
  /-- The granules present when CUTSEL issued, by PA / 4096 (R231). -/
  snap : List Nat
  epoch : Nat
  pass : Nat
  cursor : Nat
  count : Nat
  misses : Nat
  degraded : Bool
  /-- The miss entries found so far. -/
  missList : List Nat
  /-- The structures read at issue: view, header or descriptor bytes. -/
  blk1 : List Nat
  blk2 : List Nat
  /-- The best candidate of each lane: t, then the id word (R242); listed as 2^32 t + id + 1. -/
  best : Tbl Nat
  deriving DecidableEq, Repr, Inhabited

/-- An instruction that has issued and not yet completed. -/
structure MemOp extends OpHead, OpData, OpCtl, OpGeo where
  park : Option Park
  deriving DecidableEq, Repr, Inhabited

/-- A trap that is taken at the next instruction boundary (R79). -/
structure DTrap where
  cause : Nat
  detail : Nat
  record : Nat
  value : W64
  /-- The trapped word of a calliope (R191). -/
  word : IWord
  /-- The trap level of the operation whose fatal verdict it is (R83, R263). -/
  level : Nat
  deriving DecidableEq, Repr, Inhabited

/-- An instruction fetch held by a fault (R84). -/
structure FetchHold where
  pc : W64
  /-- The fault: class, detail, address as in a parked record. -/
  park : Park
  deriving DecidableEq, Repr, Inhabited

/-- The registers of a troupe (R40, R65). -/
structure TroupeRegs where
  /-- Register `r` of lane `l` at `64 r + l`. -/
  v : Tbl W32
  s : Tbl W64
  /-- The level-1 bank, at 60 to 62. -/
  s1 : Tbl W64
  p : Tbl Mask
  q : Tbl Bool
  f : Tbl Nat
  rs : Tbl (BitVec 16)
  seed : BitVec 16
  deriving DecidableEq, Repr, Inhabited

/-- Control flow and trap state (R68, R79 to R82). -/
structure TroupeFlow where
  pt : PcTable
  shadow : PcTable
  /-- The lane stochastic states at trap entry, which the saved image holds with the shadow (R173). -/
  shadowRs : Tbl (BitVec 16)
  prevRun : Mask
  level : Nat
  trcause : W64
  trpc : W64
  trmask : Mask
  trval : W64
  trword : IWord
  issueseq : BitVec 32
  deriving DecidableEq, Repr, Inhabited

/-- The counters of a troupe (R86, R106, R186). -/
structure TroupeCount where
  stalls : Tbl Nat
  issues : Nat
  replays : Nat
  cycles : Nat
  forced : Nat
  windows : Nat
  faults : Nat
  traps : Nat
  /-- Outstanding counters .COPY, .MATRIX, .GATH, .COLL at 0 to 3. -/
  oc : Tbl Nat
  deriving DecidableEq, Repr, Inhabited

/-- The results of an instruction of fixed latency that are not readable yet, and the flags that it holds meanwhile
(R51, R54). -/
structure Late where
  /-- ISSUESEQ at its issue. -/
  seq : Nat
  regs : List Nat
  flags : List Nat
  /-- The first CLOCK in which a dependent instruction may issue. -/
  due : Nat
  deriving DecidableEq, Repr, Inhabited

/-- Work in flight and the troupe's place in the scheduler (R53, R84, R168 to R170). -/
structure TroupeWork where
  ops : List MemOp
  dtraps : List DTrap
  /-- Runs whose fetch a fault holds (R84). -/
  holds : List FetchHold
  /-- The first CLOCK at which ST lets the troupe issue (R49). -/
  holdUntil : Nat
  /-- The active-set place, plus 1; 0 in the pending set. -/
  place : Nat
  /-- The CLOCK at which it entered its place, or the pending set. -/
  since : Nat
  /-- The first CLOCK at which its place may issue (R169). -/
  idleUntil : Nat
  /-- The CLOCK of its last issue in this place; 0 for none. -/
  lastIssue : Nat
  /-- The CLOCK of its last issue or replay, plus 1; 0 for none (R87, R168). -/
  issuedAt : Nat
  lates : List Late
  /-- Reuse slots A, B, E: register plus 1 (R53). -/
  reuse : Tbl Nat
  /-- Words fetched and not issued: PC and word (R156). -/
  ibuf : List (Nat × IWord)
  /-- The accesses that its TLBI waits for (R342). -/
  waits : List Flight
  /-- The first CLOCK at which an acquire's drop of clean copies is over (R292). -/
  orderUntil : Nat
  deriving DecidableEq, Repr, Inhabited

/-- The debug state of a troupe (R258 to R265). -/
structure TroupeDebug where
  halted : Bool
  haltrec : W64
  haltpc : W64
  haltseq : W64
  stepping : Bool
  /-- The CLOCK of the watchpoint hit whose stop is on its way, plus 1; 0 for none. -/
  hitAt : Nat
  skid : Nat
  spotlit : Bool
  /-- Issues since the last summary record (R266). -/
  summary : Nat
  deriving DecidableEq, Repr, Inhabited

/-- A troupe slot; an empty slot is not resident (R65). -/
structure Troupe extends TroupeRegs, TroupeFlow, TroupeCount, TroupeWork, TroupeDebug where
  resident : Bool
  /-- Every thread has exited and every record is free (R96). -/
  ended : Bool
  /-- The company it belongs to. -/
  company : Nat
  /-- Its index in the company. -/
  index : Nat
  nregs : Nat
  deriving DecidableEq, Repr, Inhabited

end Sys2Proof.Machine
end

