-- ==== Sys2Proof/Machine/CoreTypes.lean ====
section
/-!
DEFINITION. The state of a core, a ring and a die: caches, scratchpad, matrix engine, translation buffers, engine
queues, watchpoints and trace (R132 to R138, R195 to R208, R229, R255, R320, R348, R354).
-/
namespace Sys2Proof.Machine

/-- A line of an L1 data cache (R138, R281, R285). -/
structure L1Line where
  valid : Bool
  /-- The core holds the line's write token. -/
  owned : Bool
  dirty : Bool
  data : LineData
  /-- The CLOCK of its fill. -/
  filled : Nat
  /-- Order of use within its set; the least is replaced first. -/
  used : Nat
  /-- Marked evict-last (R139). -/
  last : Bool
  deriving DecidableEq, Repr, Inhabited

/-- A line of an L1 instruction cache (R140). -/
structure ILine where
  valid : Bool
  data : LineData
  /-- The CLOCK of its fill. -/
  filled : Nat
  deriving DecidableEq, Repr, Inhabited

/-- An activation stream (R199, R213). -/
structure MxStream where
  fmt : Nat
  bc : Nat
  scf : Nat
  rm : Nat
  ts : Nat
  deriving DecidableEq, Repr, Inhabited

/-- The format state of a latched tile (R198). -/
structure MxTile where
  fmt : Nat
  bc : Nat
  scf : Nat
  ts : Nat
  deriving DecidableEq, Repr, Inhabited

/-- A matrix array (R195 to R202). -/
structure MxArray where
  /-- The company that holds it, plus 1; 0 for none. -/
  holder : Nat
  tile : MxTile
  /-- False for the NaN tile (R209). -/
  valid : Bool
  /-- Byte `i` of column `c` at `256 c + i`. -/
  weights : Tbl Byte
  /-- Scale `j` of column `c` at `64 c + j`. -/
  scales : Tbl Byte
  streams : List MxStream
  /-- The down-converter's generator (R208). -/
  rs : BitVec 16
  /-- The formats set by the latest MXLW and MXFMT issued (R211). -/
  nextTile : MxTile
  nextStreams : List MxStream
  deriving DecidableEq, Repr, Inhabited

/-- A command in a matrix queue (R203, R207). -/
structure MxCmd where
  t : Nat
  seq : Nat
  pc : W64
  ins : Instr
  word : IWord
  run : Mask
  act : Mask
  company : Nat
  /-- Scalars captured at issue. -/
  uni : List W64
  /-- The index or data of each lane. -/
  idx : Tbl W32
  dat : Tbl W32
  /-- The physical banks of logical banks 0 up, on the issuing core and on the follower (R207). -/
  banks : List Nat
  fbanks : List Nat
  /-- Rows performed. -/
  row : Nat
  /-- Entered for ordering only: the command is performed at the other core's head (R205). -/
  shadow : Bool
  /-- Placed at or before the first CLOCK at which it may be performed. -/
  entered : Nat
  deriving DecidableEq, Repr, Inhabited

/-- An ACCALLOC that waits (R207). -/
structure AccWaiter where
  t : Nat
  company : Nat
  k : Nat
  pair : Bool
  /-- 0 while it waits, 1 granted, 2 refused: the ACCALLOC then issues. -/
  verdict : Nat
  deriving DecidableEq, Repr, Inhabited

/-- An ACCST turnstile add that has left its queue (R216). -/
structure AccAdd where
  cmd : MxCmd
  park : Option Park
  deriving DecidableEq, Repr, Inhabited

/-- The memories of a core (R132, R138, R140, R320). -/
structure CoreMem where
  l1 : Tbl L1Line
  l1i : Tbl ILine
  scratch : Tbl Byte
  /-- Scratchpad words (offset / 4) with an uncorrectable error (R152). -/
  scrErr : Tbl Bool
  /-- Lines whose write token the core has asked for (R282). -/
  want : List Nat
  tlb : List TlbEntry
  itlb : List TlbEntry
  deriving DecidableEq, Repr, Inhabited

/-- The matrix engine and accumulator store of a core (R203, R206, R207). -/
structure CoreMx where
  array : MxArray
  queue : List MxCmd
  adds : List AccAdd
  /-- Element `(row, column)` of physical bank `b` at `4096 b + 32 row + column`. -/
  acc : Tbl W32
  accErr : Tbl Bool
  /-- The row map: the physical row of a logical one, plus 1; 0 for the row of the same number (R195). -/
  rowMap : Tbl Nat
  /-- The physical rows that have failed (R196). -/
  rowsBad : List Nat
  /-- The company that holds each physical bank, plus 1. -/
  bankOwner : Tbl Nat
  waiters : List AccWaiter
  deriving DecidableEq, Repr, Inhabited

/-- A core. -/
structure Core extends CoreMem, CoreMx where
  /-- The window holder, a company plus 1; 0 for none (R220). -/
  window : Nat
  spotctl : W64
  spotco : W64
  /-- The CLOCK, plus 1, of the last cycle in which each issue port was used; 0 for none (R168). -/
  ports : Tbl Nat
  /-- Served by the ring's spare core (R369). -/
  spare : Bool
  deriving DecidableEq, Repr, Inhabited

/-- A watchpoint (R255). -/
structure Watch where
  ctl : W64
  addr : W64
  hit : Bool
  hitpc : W64
  hitseq : W64
  hitaddr : W64
  hitclock : W64
  deriving DecidableEq, Repr, Inhabited

/-- A cut slot of a ring: a cut that the tightrope wrote, with its tree (R235). -/
structure CutSlot where
  ctx : Nat
  /-- The address of its cut buffer. -/
  addr : W64
  /-- The lines that carry its mark, by PA / 128. -/
  lines : List Nat
  cut : List Nat
  deriving DecidableEq, Repr, Inhabited

/-- A ring: the queues of the tightrope and the rasteriser, the second translation level, four watchpoints (R237, R245, R320). -/
structure Ring where
  /-- Troupe key and launch site of each queued CUTSEL. -/
  tight : List (Nat × Nat)
  rast : List (Nat × Nat)
  /-- The cuts that the tightrope keeps, the latest first (R235). -/
  cuts : List CutSlot
  tlb : List TlbEntry
  wps : Tbl Watch
  deriving DecidableEq, Repr, Inhabited

/-- A command of a copy or layout engine (R162, R354 to R359). -/
structure EngCmd where
  t : Nat
  seq : Nat
  pc : W64
  ins : Instr
  word : IWord
  run : Mask
  company : Nat
  ctx : Nat
  /-- The scalars the command read. -/
  uni : List W64
  /-- The tensor descriptor or the command block, as read at the start. -/
  blk : List Nat
  started : Bool
  /-- Elements, bytes or lines performed. -/
  done : Nat
  /-- Bytes delivered, and bytes added to the turnstile. -/
  delivered : Nat
  added : Nat
  /-- Stream position of EXPAND and PACK (R358). -/
  pos : Nat
  rs : BitVec 16
  /-- An add of bytes delivered is outstanding: the amount plus 1 (R162). -/
  adding : Nat
  /-- The command has ended and its closing add is outstanding: the amount plus 1 (R419). -/
  closing : Nat
  park : Option Park
  deriving DecidableEq, Repr, Inhabited

/-- A walk or an ATS request in flight at a die, for one 4 KiB page of a context (R322, R324). -/
structure Walk where
  ctx : Nat
  /-- VA / 4096. -/
  page : Nat
  /-- What the walk has found, when that is a fault; the next access that misses on the page takes it. -/
  found : Option Park
  /-- An ATS request; `old` counts the completions that are to be passed over, since their requests were restarted (R342). -/
  ats : Bool
  old : Nat
  deriving DecidableEq, Repr, Inhabited

/-- A level-4, level-3 or level-2 table entry that a die's walker keeps (R322). -/
structure WalkEntry where
  ctx : Nat
  level : Nat
  /-- VA / 2^(12 + 9 level). -/
  index : Nat
  entry : W64
  deriving DecidableEq, Repr, Inhabited

/-- The debug trace registers of a die (R255, R267). -/
structure Trace where
  base : W64
  size : W64
  ptr : W64
  lost : W64
  /-- Records dropped since the last loss record. -/
  owed : Nat
  deriving DecidableEq, Repr, Inhabited

/-- A die: its last translation level, carousel hand and cold queue, watchpoints and trace (R320, R348, R255). -/
structure Die where
  tlb : List TlbEntry
  /-- Walks and ATS requests in flight, and the upper table entries that the walker keeps, the latest first (R322). -/
  walks : List Walk
  upper : List WalkEntry
  /-- The physical slice of a logical one, plus 1; 0 for the slice of the same number (R272). -/
  slices : Tbl Nat
  /-- Its physical slices that have been retired (R272). -/
  retired : List Nat
  hand : Nat
  cold : List Nat
  /-- The hand advances until the queue holds CQHIGH frames. -/
  sweeping : Bool
  /-- The first CLOCK at which the hand may move again: it moves once a cycle. -/
  handAt : Nat
  wps : Tbl Watch
  trace : Trace
  deriving DecidableEq, Repr, Inhabited

/-- A line held by its home slice (R273 to R281, R308). -/
structure SLine where
  present : Bool
  data : LineData
  dirty : Bool
  /-- 0 normal, 1 first, 2 last (R278). -/
  hint : Nat
  /-- The core that holds the write token, plus 1 (R281). -/
  owner : Nat
  /-- The lane that holds the lock: its key plus 1 (R309). -/
  lock : Nat
  /-- The lanes that wait for the lock, by key plus 1, in arrival order. -/
  lockq : List Nat
  deriving DecidableEq, Repr, Inhabited

/-- An outstanding-miss entry of a home slice (R280, R286). -/
structure Miss where
  line : Nat
  opened : Nat
  closed : Bool
  hint : Nat
  /-- The accesses that joined. -/
  joined : List Asker
  /-- An invalidation met the fill: the line is not installed (R286). -/
  killed : Bool
  /-- The data that left the level below before that invalidation. -/
  took : LineData
  /-- The L1 caches that a prefetch asked the line for: core and hint (R153). -/
  prefs : List (Nat × Nat)
  /-- The path whose entry it uses: GDDR-7 of die 0 to 3, or 4 for CXL (R4). -/
  path : Nat
  /-- The context and frame of the access that opened it, for the check at the controller (R326). -/
  frame : Nat
  fgen : Nat
  deriving DecidableEq, Repr, Inhabited

end Sys2Proof.Machine
end

