-- ==== Sys2Proof/Machine/PackageTypes.lean ====
section
/-!
DEFINITION. The state of the package: contexts, companies, shows, the page cache, fault services, the fabric, debug and
the host's registers (R7 to R9, R318, R333, R345, R346, R360, R362, R376, R386, R390, R397).
-/
namespace Sys2Proof.Machine

/-- A context descriptor as read (R318). -/
structure CtxDesc where
  root : W64
  pasid : Nat
  valid : Bool
  tlbiok : Bool
  trvec : W64
  deriving DecidableEq, Repr, Inhabited

/-- A context (R254, R264, R318, R325, R333). -/
structure Ctx where
  cgen : Nat
  dead : Bool
  prifail : Bool
  desc : Option CtxDesc
  /-- CTXSTATE.RELOAD has been written: the descriptor is to be read again (R333, R420). -/
  stale : Bool
  /-- An end is in progress: its reason of R335, and the TRCAUSE that goes with it; 0 for none (R339). -/
  endReason : Nat
  endCause : W64
  debug : Bool
  killrev : Bool
  arm : Bool
  stopring : Bool
  /-- CTXSTATE.REVIVE waits for its advance of the generation (R329). -/
  revive : Bool
  deriving DecidableEq, Repr, Inhabited

/-- A launch record (R362). -/
structure Launch where
  entry : W64
  param : W64
  gx : Nat
  gy : Nat
  gz : Nat
  troupes : Nat
  cflags : Nat
  nregs : Nat
  scratch : Nat
  stksize : Nat
  calliope : W64
  prio : Nat
  pcore : Nat
  savearea : W64
  savestride : Nat
  exitrec : W64
  donets : W64
  deps : List (W64 × W64)
  stackarea : W64
  deriving DecidableEq, Repr, Inhabited

/-- A show that has been taken or posted (R361, R363, R188). -/
structure Show where
  live : Bool
  launch : Launch
  ctx : Nat
  /-- The address of its record. -/
  addr : W64
  /-- The launch queue it came from, plus 1; 0 for a child show. -/
  queue : Nat
  /-- The top launch queue of its ancestors, plus 1 (R366). -/
  root : Nat
  /-- The company that posted it, plus 1. -/
  parent : Nat
  depth : Nat
  started : Bool
  startedAt : Nat
  /-- The linear index of the next company to place. -/
  next : Nat
  retired : Nat
  /-- The CLOCK since which its next company fits on no core (R364). -/
  waitSince : Nat
  deriving DecidableEq, Repr, Inhabited

/-- Where a company stands (R165 to R174). -/
inductive CoState where
  | none
  | resident
  /-- Its troupes have ended and its core resources are released. -/
  | released
  | saving
  | saved
  | retired
  deriving DecidableEq, Repr, Inhabited

/-- A company (R90, R165 to R172). -/
structure Company where
  st : CoState
  sh : Nat
  ctx : Nat
  index : Nat
  troupes : Nat
  paired : Bool
  windowed : Bool
  calliope : Bool
  nregs : Nat
  scratch : Nat
  depth : Nat
  deriving DecidableEq, Repr, Inhabited

/-- A company's grid, record and stack (R71, R89, R90). -/
structure CompanyRec where
  /-- Companies along each axis of the grid (R90, R362). -/
  dimx : Nat
  dimy : Nat
  dimz : Nat
  param : W64
  stkbase : W64
  stksize : Nat
  prio : Nat
  /-- Its own save area; 0 for none. -/
  save : W64
  savestride : Nat
  exitrec : W64
  donets : W64
  recaddr : W64
  entry : W64
  callEntry : W64
  deriving DecidableEq, Repr, Inhabited

/-- Where a company is placed and what it holds (R165, R206, R188). -/
structure CompanyPlace where
  core : Nat
  scrbase : Nat
  fscrbase : Nat
  /-- The troupe keys in troupe order, then the calliope's. -/
  slots : List Nat
  calliopeDone : Bool
  /-- Physical accumulator banks in logical order, and those of the follower (R206). -/
  banks : List Nat
  fbanks : List Nat
  /-- Banks that ACCFREE has named and the queue has not yet returned (R207). -/
  freeing : List Nat
  ffreeing : List Nat
  children : Nat
  placedAt : Nat
  waitSince : Nat
  /-- The stall banks of its troupes for the exit record: counter `i` of troupe `t` at `16 t + i` (R88). -/
  stallBank : Tbl Nat
  /-- To be delivered as a host trap once it is saved (R340): TRCAUSE plus 1. -/
  hostTrap : Nat
  /-- The address of its saved image; 0 for none (R172). -/
  image : W64
  /-- The companies that are saved together share a number; 0 for none (R221). -/
  group : Nat
  /-- The arrays it held when it was saved: 0 the leader's, 1 the follower's (R219). -/
  arrays : List Nat
  /-- Its troupes as they were saved, in the order of its slots, and its parked engine commands, each with its troupe's index for the
  slot: what a restore on this part needs and the image does not hold (log entry 74). -/
  kept : List Troupe
  keptCmds : List EngCmd
  /-- Its save cannot be written: it stays stopped (R172, R340). -/
  stuck : Bool
  deriving DecidableEq, Repr, Inhabited

/-- A company. -/
structure Co extends Company, CompanyRec, CompanyPlace where
  deriving DecidableEq, Repr, Inhabited

/-- A frame of the page cache (R345). -/
structure Frame where
  span : Nat
  resmask : BitVec 16
  dirtymask : BitVec 16
  fgen : Nat
  fstate : Nat
  accessed : Bool
  shared : Bool
  graph : Bool
  pinned : Bool
  error : Bool
  /-- Lines of the frame with an uncorrectable error, by PA / 128 (R352). -/
  errs : List Nat
  /-- The span that takes the frame after its reclaim, plus 1; 0 for none (R351). -/
  newspan : Nat
  /-- How far its reclaim has come: 1 FGEN advanced, 2 its lines dropped, 3 its granules written back (R351); 4 a reclaim with no
  new span that is still to begin. -/
  stage : Nat
  deriving DecidableEq, Repr, Inhabited

/-- A residency request (R346, R347). -/
structure FillReq where
  /-- PA / 4096. -/
  granule : Nat
  ctx : Nat
  graph : Bool
  /-- The virtual granule it was raised for, for prediction (R347). -/
  va : Nat
  /-- The graph item it was raised for: 1 plus its miss entry plus `2^32` times the graph header's address; 0 for none. -/
  item : Nat
  /-- The items of further requests for the same granule. -/
  more : List Nat := []
  /-- A predicted granule. -/
  pred : Bool := false
  /-- The batch that it is served in. -/
  turn : Nat := 0
  deriving DecidableEq, Repr, Inhabited

/-- The fault coalescing engine (R346). -/
structure Fce where
  batch : List FillReq
  opened : Nat
  /-- Requests of closed batches in the order in which they are served: by batch, span, demand before prediction, granule. -/
  waiting : List FillReq
  /-- The number of the last closed batch. -/
  turn : Nat
  /-- Granules whose fill is under way, in order. -/
  fills : List FillReq
  deriving DecidableEq, Repr, Inhabited

/-- An access of the launch scheduler that waits for the service of its fault (R330, R362). -/
structure SchedHold where
  ctx : Nat
  park : Park
  deriving DecidableEq, Repr, Inhabited

/-- An ATS invalidation whose completion has not been sent: its ITag, and the accesses that it waits for (R343, R384). -/
structure Inval where
  itag : Nat
  waits : List Flight
  deriving DecidableEq, Repr, Inhabited

/-- A page request group (R336). -/
structure Prg where
  idx : Nat
  pasid : Nat
  ctx : Nat
  cgen : Nat
  span : Nat
  dead : Bool
  /-- The records of the group: troupe key and launch site; of a held fetch, 2^32 plus its PC; of the launch scheduler,
  2^40 plus its context and the address. -/
  members : List (Nat × Nat)
  /-- The 4 KiB pages it has requested. -/
  pages : List Nat
  /-- The batch window in which it was opened. -/
  window : Nat
  deriving DecidableEq, Repr, Inhabited

/-- A directory entry (R386). -/
inductive DirState where
  | u
  | s
  | o
  deriving DecidableEq, Repr, Inhabited

/-- A region of 2 KiB that other packages cache (R386). -/
structure DirEntry where
  state : DirState
  sharers : BitVec 128
  owner : Nat
  /-- Order of allocation (R389). -/
  born : Nat
  deriving DecidableEq, Repr, Inhabited

/-- A tagged request of this package in flight (R390, R391). -/
structure Tag where
  num : Nat
  /-- The package that issued the tag: another one for a lane of a company restored here (R391). -/
  origin : Nat
  target : Nat
  t : Nat
  q : Nat
  lane : Nat
  /-- What is asked: 0 a read, 1 ownership, 2 an atomic, 3 a turnstile add. -/
  what : Nat
  pa : Nat
  /-- The hint with which the line is filled (R278). -/
  hint : Nat
  first : Nat
  sent : Nat
  /-- The time-out of R391 has passed; the tag stays bound to its lane. -/
  timedOut : Bool
  /-- An invalidation met the fill: the line is not installed (R286). -/
  killed : Bool
  /-- The reads that wait for the line (R280, R286). -/
  joined : List Asker
  deriving DecidableEq, Repr, Inhabited

/-- What this package answers to a tag (R390, R392). -/
inductive Reply where
  | none
  | value (v : W64)
  /-- A line as its bytes are sent: raw, or a block of R275. -/
  | line (b : List Nat)
  | fault (cls : Nat)
  deriving DecidableEq, Repr, Inhabited

/-- The capability list's variable words (R9, R11). -/
structure CapList where
  change : Nat
  spareCores : Nat
  spareRows : Nat
  spareSlices : Nat
  /-- The reserved rows that each GDDR-7 channel has used, of 64; a channel that has used one counts as remapped (R369). -/
  remapped : Tbl Nat
  spareChange : Nat
  /-- The ports on which block compression is advertised: a CXL port or a fabric port, and its number (R375). -/
  compress : List (Bool × Nat)
  pkg : Nat
  domain : Nat
  deriving DecidableEq, Repr, Inhabited

/-- The snapshot control and the held snapshot (R255, R268). -/
structure Snapshot where
  lock : Bool
  seq : Nat
  source : Nat
  /-- A trigger is accepted: the CLOCK of its latch; 0 for none. -/
  latchAt : Nat
  pendingSource : Nat
  /-- What the latch recorded of each troupe: key, PC table, stall counters. -/
  troupes : List (Nat × PcTable × Tbl Nat)
  clock : Nat
  /-- The state registers of the package's blocks. -/
  cores : Tbl Core
  rings : Tbl Ring
  dies : Tbl Die
  engines : Tbl (List EngCmd)
  bar2 : Tbl W64
  deriving DecidableEq, Repr, Inhabited

/-- Attestation (R397, R398). -/
structure Attest where
  busy : Bool
  done : Bool
  err : Bool
  nonce : List Nat
  dest : Nat
  deriving DecidableEq, Repr, Inhabited

/-- Power, clock and bring-up (R372, R373, R395, R396). -/
structure Power where
  off : Bool
  /-- Step 4 of R373 has completed. -/
  up : Bool
  bootStage : Nat
  bootFail : Nat
  mhz : Nat
  tj : Nat
  throt : Bool
  /-- CLOCK plus 1 at which the cause of a throttle has been clear for 10 ms (R372); 0 while the cause stands. -/
  raiseAt : Nat
  deriving DecidableEq, Repr, Inhabited

/-- A child show on its way to the scheduler (R188). -/
structure Post where
  addr : W64
  parent : Nat
  /-- The index of the troupe that issued the SHOW in its company. -/
  t : Nat
  deriving DecidableEq, Repr, Inhabited

/-- A stop of a ring on its way to a core (R259). -/
structure Stop where
  ctx : Nat
  core : Nat
  arrives : Nat
  /-- The CLOCK of the hit. -/
  hit : Nat
  deriving DecidableEq, Repr, Inhabited

/-- The issue that is being performed: the troupe, the run, its PC and its word. -/
structure Issue where
  t : Nat
  run : Mask
  pc : W64
  word : IWord
  /-- ISSUESEQ at the issue (R74). -/
  seq : BitVec 32
  deriving DecidableEq, Repr, Inhabited

/-- The page cache and its services. -/
structure PageCache where
  frames : Tbl Frame
  /-- Byte `o` of frame `f` at `65536 f + o` (R344). -/
  gddr : Tbl Byte
  /-- The state of a line toward its pool device or the host: 0 invalid, 1 shared, 2 exclusive, 3 shared with ownership asked for (R378, R382). -/
  pool : Tbl Nat
  fce : Fce
  /-- Presence snapshots of saved cut selections: epoch, granules present and misses found (R231, R238). -/
  snaps : Tbl (List Nat × List Nat)
  deriving DecidableEq, Repr, Inhabited

/-- The fault services of the host (R334 to R336). -/
structure FaultQueue where
  /-- Records that wait for room, oldest first, as bytes. -/
  buffer : List (List Nat)
  prgs : List Prg
  /-- The batch window of page requests (R336, R346): its number, the CLOCK at which it ends, and the faults in it. -/
  prgNo : Nat
  prgWindow : Nat
  prgCount : Nat
  deriving DecidableEq, Repr, Inhabited

/-- The fabric (R386 to R393). -/
structure Fabric where
  dir : Tbl DirEntry
  tags : List Tag
  /-- The reply cache, keyed by origin * 2^24 + number. -/
  replies : Tbl Reply
  nextTag : Nat
  /-- Regions (PA / 2048) of other packages' lines that this package owns (R386). -/
  owned : Tbl Bool
  /-- Peers whose link is down. -/
  down : List Nat
  /-- The ports, CXL or fabric, whose link did not train and stays down (R374). -/
  untrained : List (Bool × Nat)
  deriving DecidableEq, Repr, Inhabited

end Sys2Proof.Machine
end

