-- ==== Sys2Proof/Machine/State.lean ====
section
/-!
DEFINITION. The state of a Thokithar package as plain data, the ways a step can stop, and the state after reset.
-/
namespace Sys2Proof.Machine

/-- Why the machine stops. -/
inductive Fault where
  /-- Raised by the step of a package that is powered off (R372): nothing runs until power returns. Safe. -/
  | poweredOff
  deriving DecidableEq, Repr, Inhabited

/-- Why a step is refused. -/
inductive Refusal where
  /-- Raised by an instruction that has no meaning in this model; its mnemonic. Safe. -/
  | notModelled (mnemonic : String)
  deriving DecidableEq, Repr, Inhabited

/-- The parts of the package that run programs. -/
structure Compute where
  /-- Troupe slots, by `core * 64 + slot`; slot 63 is the calliope (R1, R165). -/
  troupes : Tbl Troupe
  cores : Tbl Core
  rings : Tbl Ring
  dies : Tbl Die
  /-- Copy and layout engines, by `die * 9 + k`; `k = 8` is the layout engine (R354). -/
  engines : Tbl (List EngCmd)
  companies : Tbl Co
  shows : Tbl Show
  contexts : Tbl Ctx
  posts : List Post
  stops : List Stop
  /-- The next free company and show numbers. -/
  nextCompany : Nat
  nextShow : Nat
  deriving DecidableEq, Repr, Inhabited

/-- The memory of the package (R5, R271 to R281, R344). -/
structure Memory where
  /-- Pool and host memory, by physical address. -/
  mem : Tbl Byte
  slices : Tbl SLine
  /-- The lines of the slices in order of use, the latest first (R279). -/
  recent : List Nat
  misses : List Miss
  /-- Accesses that wait with their translation (R326). -/
  flights : List Flight
  /-- Dirty lines with an uncorrectable error, by PA / 128 (R352). -/
  lineErr : Tbl Bool
  cache : PageCache
  deriving DecidableEq, Repr, Inhabited

/-- The host's side of the package. -/
structure HostSide where
  /-- BAR 2 registers by offset (R333, R353, R360, R376, R397). -/
  bar2 : Tbl W64
  caps : CapList
  /-- Writes of HRESTORE whose image is still being read: the address and the context (R368). -/
  restores : List (W64 × Nat)
  /-- Faults of the launch scheduler's accesses that are being served. -/
  sched : List SchedHold
  /-- ATS invalidations in flight (R384). -/
  invals : List Inval
  /-- Edits of memory by the debugger that wait (R261, R310). -/
  edits : List DebugEdit
  fq : FaultQueue
  fabric : Fabric
  snap : Snapshot
  attest : Attest
  power : Power
  deriving DecidableEq, Repr, Inhabited

/-- What the model adds to the machine: the order in which agents move, the issue being performed, and the counter
that free values are drawn with. -/
structure Model where
  /-- The steps that are to come next, each a row of the opcode table: which agent moves, and what the host does. -/
  agenda : List Instr
  cur : Issue
  free : Nat
  deriving DecidableEq, Repr, Inhabited

/-- The state of the package. -/
structure State extends Compute, Memory, HostSide, Model where
  /-- CLOCK, the package cycle count (R89). -/
  clock : Nat
  deriving DecidableEq, Repr, Inhabited

/-- The capability list as the service core builds it (R9, R373). -/
def CapList.reset : CapList :=
  { change := 0, spareCores := 0, spareRows := 0, spareSlices := 0, remapped := [], spareChange := 0,
    compress := [], pkg := 0, domain := 0 }

/-- The BAR 2 registers whose reset value is not zero: PCCTL and PWRCAP (R353); at 0x10000, the Outstanding Page Request
Allocation of the configuration space, which the spec gives no reset value (R385). -/
def bar2Reset : Tbl W64 := [(0x9000, 0x80000400#64), (0x90B8, 1500#64), (0x10000, 512#64)]

/-- The package right after it has come up (R373): nothing is resident, memory lists nothing, every queue is off. -/
def State.reset : State :=
  { troupes := [], cores := [], rings := [], dies := [], engines := [], companies := [], shows := [], contexts := [],
    posts := [], stops := [], nextCompany := 0, nextShow := 0,
    mem := [], slices := [], recent := [], misses := [], flights := [], lineErr := [],
    cache := { frames := [], gddr := [], pool := [], fce := { batch := [], opened := 0, waiting := [], turn := 0, fills := [] }, snaps := [] },
    bar2 := bar2Reset, caps := CapList.reset, restores := [], sched := [], invals := [], edits := [], fq := { buffer := [], prgs := [], prgNo := 0, prgWindow := 0, prgCount := 0 },
    fabric := { dir := [], tags := [], replies := [], nextTag := 0, owned := [], down := [], untrained := [] },
    snap := {
      lock := false, seq := 0, source := 0, latchAt := 0, pendingSource := 0, troupes := [], clock := 0, cores := [], rings := [],
      dies := [], engines := [], bar2 := [] },
    attest := { busy := false, done := false, err := false, nonce := [], dest := 0 },
    power := { off := false, up := true, bootStage := 4, bootFail := 0, mhz := 1000, tj := 0, throt := false, raiseAt := 0 },
    agenda := [], cur := { t := 0, run := 0, pc := 0, word := 0, seq := 0 }, free := 0, clock := 0 }

end Sys2Proof.Machine
end

