-- ==== Sys2Proof/Machine/Ops.lean ====
section
/-!
DEFINITION. The named operations over the state: reading and writing each unit, registers, the guard and the PC table
(R40, R47, R65 to R69), records to the host (R334, R335), trace records (R266, R267), and taking and leaving a trap
(R79 to R85, R191, R338, R340).
-/
namespace Sys2Proof.Machine

/-- The outcome of a step of the package. -/
abbrev Out := Host.Outcome State Fault Refusal

/-! ### Units of the state -/

/-- The troupe in slot `k`. -/
def State.tr (s : State) (k : Nat) : Troupe := s.troupes.read k
/-- Puts a troupe in slot `k`. -/
def State.setTr (s : State) (k : Nat) (t : Troupe) : State := { s with troupes := s.troupes.write k t }
/-- Changes the troupe in slot `k`. -/
def State.modTr (s : State) (k : Nat) (f : Troupe → Troupe) : State := s.setTr k (f (s.tr k))
def State.core (s : State) (c : Nat) : Core := s.cores.read c
def State.setCore (s : State) (c : Nat) (x : Core) : State := { s with cores := s.cores.write c x }
def State.modCore (s : State) (c : Nat) (f : Core → Core) : State := s.setCore c (f (s.core c))
def State.ring (s : State) (r : Nat) : Ring := s.rings.read r
def State.modRing (s : State) (r : Nat) (f : Ring → Ring) : State := { s with rings := s.rings.modify r f }
def State.die (s : State) (d : Nat) : Die := s.dies.read d
def State.modDie (s : State) (d : Nat) (f : Die → Die) : State := { s with dies := s.dies.modify d f }
def State.co (s : State) (k : Nat) : Co := s.companies.read k
def State.modCo (s : State) (k : Nat) (f : Co → Co) : State := { s with companies := s.companies.modify k f }
def State.ctx (s : State) (c : Nat) : Ctx := s.contexts.read c
def State.modCtx (s : State) (c : Nat) (f : Ctx → Ctx) : State := { s with contexts := s.contexts.modify c f }
def State.sh (s : State) (k : Nat) : Show := s.shows.read k
def State.modSh (s : State) (k : Nat) (f : Show → Show) : State := { s with shows := s.shows.modify k f }
def State.sline (s : State) (l : Nat) : SLine := s.slices.read l
def State.modSline (s : State) (l : Nat) (f : SLine → SLine) : State := { s with slices := s.slices.modify l f }
def State.frame (s : State) (f : Nat) : Frame := s.cache.frames.read f
def State.modFrame (s : State) (k : Nat) (f : Frame → Frame) : State :=
  { s with cache := { s.cache with frames := s.cache.frames.modify k f } }
def State.modFce (s : State) (f : Fce → Fce) : State := { s with cache := { s.cache with fce := f s.cache.fce } }
/-- A BAR 2 register (R333, R353, R360, R376, R397). -/
def State.reg (s : State) (off : Nat) : W64 := s.bar2.read off
def State.setReg (s : State) (off : Nat) (v : W64) : State := { s with bar2 := s.bar2.write off v }
/-- The next free choice of the part, and the state that has used it. -/
def State.choose (s : State) : Bool × State := (Config.choice s.free, { s with free := s.free + 1 })

/-- A host access to a BAR: until bring-up has enabled the BARs, writes are dropped (R373, R396). -/
def State.onBar (s : State) (o : Out) : Out := if s.power.up then o else .next s

/-! ### Places (R1, R90) -/

/-- The core of a troupe key. -/
def coreOf (k : Nat) : Nat := k / 64
/-- The slot of a troupe key. -/
def slotOf (k : Nat) : Nat := k % 64
/-- The ring of a core, numbered over the package. -/
def ringOf (c : Nat) : Nat := c / 8
/-- The die of a core. -/
def dieOf (c : Nat) : Nat := c / 128
/-- Slot 63 is the calliope (R191). -/
def isCalliope (k : Nat) : Bool := k % 64 == 63
/-- The context of the troupe in slot `k`. -/
def State.ctxOf (s : State) (k : Nat) : Nat := (s.co (s.tr k).company).ctx

/-! ### DUTYSPLIT (R333) -/

def State.faultsvc (s : State) : Bool := (s.reg 0).getLsbD 0
def State.victimHost (s : State) : Bool := (s.reg 0).getLsbD 1
def State.walkAts (s : State) : Bool := (s.reg 0).getLsbD 2
def State.cutHost (s : State) : Bool := (s.reg 0).getLsbD 3
def State.placeHost (s : State) : Bool := (s.reg 0).getLsbD 4
def State.trapHost (s : State) : Bool := (s.reg 0).getLsbD 5

/-! ### Registers (R40, R81) -/

/-- A vector register of a lane; VZ reads zero. -/
def Troupe.rv (t : Troupe) (r l : Nat) : W32 := if 255 ≤ r then 0 else t.v.read (64 * r + l)
/-- A 64-bit pair of a lane; the zero pair reads zero. -/
def Troupe.rpair (t : Troupe) (r l : Nat) : W64 := if 255 ≤ r then 0 else t.rv (r + 1) l ++ t.rv r l
/-- A quad of a lane, the first register lowest (R141). -/
def Troupe.rquad (t : Troupe) (r l : Nat) : BitVec 128 := if 255 ≤ r then 0 else t.rpair (r + 2) l ++ t.rpair r l
/-- A scalar; SZ reads zero, and S60 to S62 are banked by trap level (R81). -/
def Troupe.rs64 (t : Troupe) (r : Nat) : W64 :=
  if 63 ≤ r then 0 else if t.level = 1 ∧ 60 ≤ r then t.s1.read r else t.s.read r
/-- A lane predicate; PT reads all ones. -/
def Troupe.rp (t : Troupe) (r : Nat) : Mask := if 7 ≤ r then -1 else t.p.read r
/-- A scalar predicate; QT reads true. -/
def Troupe.rq (t : Troupe) (r : Nat) : Bool := if 7 ≤ r then true else t.q.read r

/-- The reuse slots without those that hold register `r` (R53). -/
def dropReuse (m : Tbl Nat) (r : Nat) : Tbl Nat := m.filter fun e => e.2 != r + 1

/-- Writes a vector register in the lanes of `act`; a write to VZ is discarded (R40, R107). -/
def Troupe.wv (t : Troupe) (r : Nat) (act : Mask) (f : Nat → W32) : Troupe :=
  if 255 ≤ r then t
  else { t with v := t.v.writeLanes (64 * r) act f lanes, reuse := dropReuse t.reuse r }
/-- Writes a pair in the lanes of `act`. -/
def Troupe.wpair (t : Troupe) (r : Nat) (act : Mask) (f : Nat → W64) : Troupe :=
  if 255 ≤ r then t
  else (t.wv r act fun l => (f l).setWidth 32).wv (r + 1) act fun l => (f l).extractLsb' 32 32
/-- Writes a quad in the lanes of `act`. -/
def Troupe.wquad (t : Troupe) (r : Nat) (act : Mask) (f : Nat → BitVec 128) : Troupe :=
  if 255 ≤ r then t
  else (t.wpair r act fun l => (f l).setWidth 64).wpair (r + 2) act fun l => (f l).extractLsb' 64 64
/-- Writes a scalar at the troupe's trap level; a write to SZ is discarded. -/
def Troupe.ws (t : Troupe) (r : Nat) (x : W64) : Troupe :=
  if 63 ≤ r then t
  else if t.level = 1 ∧ 60 ≤ r then { t with s1 := t.s1.write r x } else { t with s := t.s.write r x }
/-- Writes a scalar of the level at which an instruction issued (R81). -/
def Troupe.wsAt (t : Troupe) (level r : Nat) (x : W64) : Troupe :=
  if 63 ≤ r then t
  else if level = 1 ∧ 60 ≤ r then { t with s1 := t.s1.write r x } else { t with s := t.s.write r x }
/-- Writes the bits of a lane predicate that lie in `act`; a write to PT is discarded. -/
def Troupe.wp (t : Troupe) (r : Nat) (act : Mask) (x : Mask) : Troupe :=
  if 7 ≤ r then t else { t with p := t.p.write r ((t.p.read r &&& ~~~act) ||| (x &&& act)) }
/-- Writes a scalar predicate; a write to QT is discarded. -/
def Troupe.wq (t : Troupe) (r : Nat) (x : Bool) : Troupe :=
  if 7 ≤ r then t else { t with q := t.q.write r x }

/-- Adds one to each listed flag (R51). -/
def Troupe.raise (t : Troupe) : List Nat → Troupe
  | [] => t
  | k :: ks => Troupe.raise { t with f := t.f.write k (t.f.read k + 1) } ks

/-- Takes one from each listed flag (R51). -/
def Troupe.drop (t : Troupe) : List Nat → Troupe
  | [] => t
  | k :: ks => Troupe.drop { t with f := t.f.write k (t.f.read k - 1) } ks

/-- Ends the wait for some results of fixed latency: the flags that they hold drop (R51, R54). -/
def Troupe.endLates (t : Troupe) (over' : Late → Bool) : Troupe :=
  { (t.drop ((t.lates.filter over').flatMap (·.flags))) with lates := t.lates.filter fun e => !over' e }

/-- The active lanes of a lane-class word in a run (R47). -/
def Troupe.active (t : Troupe) (g : BitVec 4) (run : Mask) : Mask :=
  let p := t.rp (g.toNat % 8)
  run &&& (if g.getLsbD 3 then ~~~p else p)
/-- Whether a uniform word executes (R47). -/
def Troupe.enabled (t : Troupe) (g : BitVec 4) : Bool := t.rq (g.toNat % 8) != g.getLsbD 3

/-! ### The PC table (R67 to R69) -/

def PcTable.state (p : PcTable) (l : Nat) : TState := p.tst.read l
def PcTable.pc (p : PcTable) (l : Nat) : W64 := p.pcs.read l
/-- The threads in a state. -/
def PcTable.inState (p : PcTable) (x : TState) : Mask := maskOf fun l => p.state l == x
/-- Puts the threads of `m` into a state. -/
def PcTable.put (p : PcTable) (m : Mask) (x : TState) : PcTable :=
  { p with tst := p.tst.writeLanes 0 m (fun _ => x) lanes }
/-- Sets the PCs of the threads of `m`. -/
def PcTable.goto (p : PcTable) (m : Mask) (f : Nat → W64) : PcTable :=
  { p with pcs := p.pcs.writeLanes 0 m f lanes }
/-- Moves the threads of a run to PC + 16 (R69). -/
def Troupe.advance (t : Troupe) (run : Mask) (pc : W64) : Troupe :=
  { t with pt := t.pt.goto run fun _ => pc + 16 }

/-- Wakes threads that leave SLEEP or WAIT: READY, or HALTED when the troupe is halted (R258). -/
def Troupe.wakeTo (t : Troupe) : TState := if t.halted then .halted else .ready
def Troupe.wakeThreads (t : Troupe) (m : Mask) : Troupe := { t with pt := t.pt.put m t.wakeTo }

/-- What R68 picks: the run, its PC, and whether the pick is forced. -/
structure Pick where
  run : Mask
  pc : W64
  forced : Bool
  deriving DecidableEq, Repr

/-- The least of a list of numbers. -/
def minList : List Nat → Option Nat
  | [] => none
  | x :: xs => match minList xs with | some y => some (min x y) | none => some x

/-- The threads of `m` at PC `pc`. -/
def PcTable.at (p : PcTable) (m : Mask) (pc : Nat) : Mask := maskOf fun l => inMask m l && (p.pc l).toNat == pc

/-- The run that issues next (R68), among the READY threads that no fetch fault holds (R84); `none` when there is none. -/
def PcTable.pick (p : PcTable) (held : Mask) : Option Pick :=
  let rdy := p.inState .ready &&& ~~~held
  let pcsOf := fun (m : Mask) => (lanes.filter (inMask m)).map fun l => (p.pc l).toNat
  match minList (pcsOf rdy) with
  | none => none
  | some lo =>
    let cand := (pcsOf rdy).filter (· != lo)
    if p.h == 4096 && !cand.isEmpty then
      let above := cand.filter fun x => p.fp.toNat < x
      let pc := ((minList above).orElse fun _ => minList cand).getD lo
      some { run := p.at rdy pc, pc := BitVec.ofNat 64 pc, forced := true }
    else
      let pool := rdy &&& ~~~p.deferred
      let pool := if pool = 0 then rdy else pool
      let pc := (minList (pcsOf pool)).getD lo
      some { run := p.at pool pc, pc := BitVec.ofNat 64 pc, forced := false }

/-- R68's update after an issue. -/
def Troupe.issued (t : Troupe) (held : Mask) (k : Pick) : Troupe :=
  let rdy := t.pt.inState .ready &&& ~~~held
  let h := if k.forced then 0
    else if rdy &&& ~~~k.run ≠ 0 then (if k.run = t.prevRun then t.pt.h + 1 else 1)
    else 0
  let w := t.pt.w - 1
  { t with
    pt := { t.pt with h := h, w := w, deferred := if t.pt.w = 1 then 0 else t.pt.deferred,
                      fp := if k.forced then k.pc else t.pt.fp }
    prevRun := k.run, issueseq := t.issueseq + 1, issues := t.issues + 1,
    forced := if k.forced then t.forced + 1 else t.forced }

/-! ### Memory below the caches and the address map (R344, R376, R377) -/

/-- Entry `j` of the address map, when it is a window that holds a physical address: KIND and HOMEPKG (R376). -/
def State.windowAt (s : State) (j pa : Nat) : Option (Nat × Nat) :=
  let attr := (s.reg (0xB000 + 32 * j + 16)).toNat
  let kind := attr % 8
  let home := bitsOf attr 9 3
  let port := bitsOf attr 12 10
  let base := bitsOf (s.reg (0xB000 + 32 * j)).toNat 51 16
  let limit := bitsOf (s.reg (0xB000 + 32 * j + 8)).toNat 51 16
  let on := ((kind == 1 || kind == 2) && port != 0 && home ≤ s.caps.domain) || (kind == 3 && port == 0)
  if on && base ≤ pa / 65536 && pa / 65536 ≤ limit then some (kind, home) else none

/-- The window of a physical address: KIND and HOMEPKG; `none` in no window (R376). -/
def State.window (s : State) (pa : Nat) : Option (Nat × Nat) :=
  let rec go : Nat → Nat → Option (Nat × Nat)
    | 0, _ => none
    | n + 1, j => match s.windowAt j pa with
      | some w => some w
      | none => go n (j + 1)
  go 64 0

/-- The memory type of a window (R377). -/
def State.mtOf (s : State) (w : Nat × Nat) : Nat := if w.1 = 3 then 1 else if w.2 = s.caps.pkg then 0 else 2

/-- Frame `f` backs the span of a physical address (R344). -/
def State.backs (s : State) (f pa : Nat) : Bool := (s.frame f).fstate != 0 && (s.frame f).span == pa / 65536

/-- The frame that backs a span, when one does (R344). -/
def State.frameOf (s : State) (pa : Nat) : Option Nat :=
  minList ((s.cache.frames.map (·.1)).filter fun f => s.backs f pa)

/-- Granule `pa / 4096` is present in its span's frame (R345). -/
def State.granulePresent (s : State) (pa : Nat) : Bool :=
  match s.frameOf pa with
  | some f => (s.frame f).resmask.getLsbD (pa / 4096 % 16)
  | none => false

/-- A byte of the frame stands for the backing memory: its granule is present, and a line shared with the host is not
invalid (R344, R378). -/
def State.inFrame (s : State) (f pa : Nat) : Bool :=
  (s.frame f).resmask.getLsbD (pa / 4096 % 16) && (!(s.frame f).shared || s.cache.pool.read (pa / 128) != 0)

/-- A byte of the level below the slices: the frame where it stands for the backing memory, else that memory. -/
def State.lowByte (s : State) (pa : Nat) : Byte :=
  match s.frameOf pa with
  | some f => if s.inFrame f pa then s.cache.gddr.read (65536 * f + pa % 65536) else s.mem.read pa
  | none => s.mem.read pa

/-- Writes a byte of the level below the slices. -/
def State.setLowByte (s : State) (pa : Nat) (b : Byte) : State :=
  match s.frameOf pa with
  | some f =>
    if s.inFrame f pa then
      { s with cache := { s.cache with gddr := s.cache.gddr.write (65536 * f + pa % 65536) b } }
    else { s with mem := s.mem.write pa b }
  | none => { s with mem := s.mem.write pa b }

/-- A line of `n` bytes built from a byte function. -/
def lineOf (f : Nat → Byte) : LineData :=
  BitVec.ofNat 1024 ((List.range 128).foldr (fun i acc => (f i).toNat + 256 * acc) 0)

/-- The line as the level below the slices holds it. -/
def State.lowLine (s : State) (l : Nat) : LineData := lineOf fun i => s.lowByte (128 * l + i)

/-- Writes the bytes `f i` for `i` in the list into the level below. -/
def State.setLow (s : State) (l : Nat) (d : LineData) : List Nat → State
  | [] => s
  | i :: is => State.setLow (s.setLowByte (128 * l + i) (lineByte d i)) l d is

/-- The core that owns a line, if any (R281). -/
def State.owner (s : State) (l : Nat) : Option Nat := let o := (s.sline l).owner; if o = 0 then none else some (o - 1)

/-- The current copy of a line: the owner's L1, the home slice, or the level below (R281). -/
def State.current (s : State) (l : Nat) : LineData :=
  match s.owner l with
  | some c => if ((s.core c).l1.read l).valid then ((s.core c).l1.read l).data
      else if (s.sline l).present then (s.sline l).data else s.lowLine l
  | none => if (s.sline l).present then (s.sline l).data else s.lowLine l

/-- A byte of the current copy. -/
def State.byteAt (s : State) (pa : Nat) : Byte := lineByte (s.current (pa / 128)) (pa % 128)

/-- Marks the granule of a line dirty (R345). -/
def State.markDirty (s : State) (l : Nat) : State :=
  match s.frameOf (128 * l) with
  | some f => s.modFrame f fun x => { x with dirtymask := x.dirtymask ||| BitVec.ofNat 16 (2 ^ (l / 32 % 16)) }
  | none => s

/-- The controller reads or writes the frame of a line: ACCESSED is set (R345). -/
def State.touchFrame (s : State) (l : Nat) : State :=
  match s.frameOf (128 * l) with
  | some f => s.modFrame f fun x => { x with accessed := true }
  | none => s

/-- Recalls a line's token: the holder's dirty bytes go to the home, and it keeps a clean copy that it does not own (R284). -/
def State.recall (s : State) (l : Nat) : State :=
  match s.owner l with
  | none => s
  | some c =>
    let x := (s.core c).l1.read l
    let s := s.modCore c fun k => { k with l1 := k.l1.write l { x with owned := false, dirty := false } }
    let s := if x.valid && x.dirty then
        (s.modSline l fun y => { y with present := true, data := x.data, dirty := true }).markDirty l
      else s
    s.modSline l fun y => { y with owner := 0 }

/-- Replaces a line at its home, after its token is recalled (R284): every write made at the home. -/
def State.writeHome (s : State) (l : Nat) (f : LineData → LineData) : State :=
  let s := s.recall l
  let d := s.current l
  let s := if (s.sline l).present then s else s.touchFrame l
  (s.modSline l fun y => { y with present := true, data := f d, dirty := true }).markDirty l

/-- Writes a byte at the current copy of its line, at the home. -/
def State.pokeByte (s : State) (pa : Nat) (b : Byte) : State :=
  s.writeHome (pa / 128) fun d => lineSet d (pa % 128) b

/-- Writes bytes from `pa` upward at the home. -/
def State.poke (s : State) : Nat → List Nat → State
  | _, [] => s
  | pa, b :: bs => State.poke (s.pokeByte pa (BitVec.ofNat 8 b)) (pa + 1) bs

/-- Reads `n` bytes from `pa` upward at the current copy. -/
def State.peek (s : State) (pa n : Nat) : List Nat := (List.range n).map fun i => (s.byteAt (pa + i)).toNat

/-- A number of `n` bytes at the current copies. -/
def State.peekNat (s : State) (pa n : Nat) : Nat := leNat (s.peek pa n)

/-! ### Records to the host (R334, R335) -/

/-- What a fault record holds besides TAIL and CLOCK (R334). -/
structure FRec where
  type : Nat
  cls : Nat := 0
  unit : Nat := 0
  rflags : Nat := 0
  ctx : Nat := 0
  cgen : Nat := 0
  sitepc : W64 := 0
  siteseq : Nat := 0
  detail : Nat := 0
  va : W64 := 0
  pa : Nat := 0
  fgen : Nat := 0
  place : Nat := 0
  value : W64 := 0
  deriving DecidableEq, Repr

/-- The WHERE field: slot, core, ring, die (R266). -/
def whereOf (k : Nat) : Nat := slotOf k + 64 * (coreOf k)

/-- The 64 bytes of a record numbered `n` (R334). -/
def FRec.bytes (r : FRec) (n clock : Nat) : List Nat :=
  [r.type, r.cls, r.unit, r.rflags] ++ leBytes 2 r.ctx ++ [r.cgen, 0] ++ leBytes 8 r.sitepc.toNat ++ leBytes 4 r.siteseq
    ++ leBytes 4 r.detail ++ leBytes 8 r.va.toNat ++ leBytes 8 r.pa ++ leBytes 2 r.fgen ++ leBytes 2 r.place
    ++ leBytes 4 n ++ leBytes 8 clock ++ leBytes 8 r.value.toNat

/-- Adds to a turnstile at a physical address, saturating (R175, R180); says whether it saturated. -/
def State.addPhys (s : State) (pa v : Nat) : Bool × State :=
  let old := s.peekNat pa 8
  (decide (2 ^ 64 ≤ old + v), s.poke pa (leBytes 8 (min (old + v) (2 ^ 64 - 1))))

/-- FRQSIZE.SIZE in records (R333, R334). -/
def State.frqSlots (s : State) : Nat := (s.reg 0x18).toNat % 2 ^ 32 / 64
/-- Records in the fault queue. -/
def State.frqUsed (s : State) : Nat := ((s.reg 0x28).toNat + 2 ^ 32 - (s.reg 0x20).toNat % 2 ^ 32) % 2 ^ 32
/-- The records that can still be written before the queue is full; none while writing is disabled (R334, R335). -/
def State.frqRoom (s : State) : Nat :=
  if s.frqSlots = 0 then 0 else (s.frqSlots + 2 ^ 32 - s.frqUsed) % 2 ^ 32
def State.frqFull (s : State) : Bool := s.frqRoom == 0

/-- A record is dropped: FRQLOST counts it, saturating (R335). -/
def State.frqLose (s : State) : State := s.setReg 0x38 (BitVec.ofNat 64 (min ((s.reg 0x38).toNat + 1) (2 ^ 32 - 1)))

/-- Raises a record: it is on its way to the queue while there is room for it, else it waits in the buffer of 1,024 records or is
dropped (R335). FAULT_RECORD_FLUSH writes the records in this order. -/
def State.frqRaise (s : State) (r : FRec) : State :=
  let n := s.fq.buffer.length
  if n < s.frqRoom || (r.type != 1 && (n < s.frqRoom + 1024 || r.type == 2)) then
    { s with fq := { s.fq with buffer := s.fq.buffer ++ [r.bytes 0 s.clock] } }
  else s.frqLose

/-! ### Trace records (R266, R267) -/

/-- The trace buffer of a die lies wholly in one window that tracing may use (R267). -/
def State.traceOk (s : State) (base size : Nat) : Bool :=
  (List.range 64).any fun j => match s.windowAt j base, s.windowAt j (base + size - 1) with
    | some a, some _ => (a.1 == 1 && a.2 == s.caps.pkg) || a.1 == 3
    | _, _ => false

/-- The offset at which the next trace record of a die can be written (R255, R267). -/
def State.traceRoom (s : State) (d : Nat) : Option Nat :=
  let t := (s.die d).trace
  let size := t.size.toNat % 2 ^ 32
  let p := t.ptr.toNat
  if !s.traceOk t.base.toNat size then none
  else if p + 32 ≤ size then some p
  else if t.size.getLsbD 32 then some 0
  else none

/-- Puts 32 bytes at the trace pointer, straight into memory; a record that cannot be written is dropped and counted (R267). -/
def State.tracePut (s : State) (d : Nat) (b : List Nat) : State :=
  let t := (s.die d).trace
  match s.traceRoom d with
  | none => s.modDie d fun x => { x with trace := { t with lost := t.lost + 1, owed := t.owed + 1 } }
  | some p =>
    let n := if p + 32 = t.size.toNat % 2 ^ 32 ∧ t.size.getLsbD 32 then 0 else p + 32
    { s with mem := writeBytes s.mem (t.base.toNat + p) 32 (leNat b) }.modDie d fun x => { x with trace := { t with ptr := BitVec.ofNat 64 n } }

/-- Writes a trace record for the troupe in slot `k`: always of types 0x04 to 0x07, 0x10, of the others when spotlit (R266). -/
def State.traceRec (s : State) (k type flags : Nat) (seq pc d1 d2 : Nat) : State :=
  let t := s.tr k
  if !(s.ctx (s.ctxOf k)).debug then s
  else if !t.spotlit && (type < 4 || type = 0x1F) then s
  else
    let d := dieOf (coreOf k)
    let b := [type, flags] ++ leBytes 2 (whereOf k) ++ leBytes 4 seq ++ leBytes 8 pc ++ leBytes 8 d1 ++ leBytes 8 d2
    let owed := (s.die d).trace.owed
    if (s.die d).trace.size.toNat % 2 ^ 32 = 0 then s
    else if owed = 0 || (s.traceRoom d).isNone then s.tracePut d b
    else
      -- a loss record comes first
      let loss := [0x1F, 0] ++ leBytes 2 (whereOf k) ++ leBytes 4 0 ++ leBytes 8 0 ++ leBytes 8 owed ++ leBytes 8 s.clock
      ((s.tracePut d loss).modDie d fun x => { x with trace := { x.trace with owed := 0 } }).tracePut d b

/-! ### Traps (R79 to R85) -/

/-- The fields of a trap (R79). -/
structure TrapInfo where
  cause : Nat
  detail : Nat := 0
  record : Nat := 0
  value : W64 := 0
  word : IWord := 0
  /-- Where the run resumes. -/
  resume : W64
  /-- The threads of the run. -/
  run : Mask
  /-- ISSUESEQ and PC of the launch site (R266). -/
  seq : Nat := 0
  site : W64 := resume
  deriving DecidableEq, Repr

/-- TRCAUSE (R80, R91). -/
def TrapInfo.trcause (i : TrapInfo) : W64 := BitVec.ofNat 64 (i.cause + 256 * i.detail + 65536 * i.record)

/-- The trap registers set as R80 sets them; ST is discarded and the reuse slots are cleared (R80). -/
def Troupe.setTrapRegs (t : Troupe) (i : TrapInfo) : Troupe :=
  { t with trcause := i.trcause, trpc := i.resume, trmask := i.run, trval := i.value, trword := i.word,
           traps := t.traps + 1, holdUntil := 0, reuse := [] }

/-- A PC's bits [3:0] are zero: whatever a register or an image gives them is dropped (R39, log entry 66). -/
def alignPc (a : W64) : W64 := a &&& ~~~15

/-- Entry into level 1: the PC table is shadowed and all 64 threads stand READY at the handler (R80). -/
def Troupe.enterTrap (t : Troupe) (i : TrapInfo) (vec : W64) : Troupe :=
  { (t.setTrapRegs i) with
    shadow := t.pt, shadowRs := t.rs, level := 1,
    pt := { pcs := Tbl.writeLanes [] 0 (-1) (fun _ => alignPc vec) lanes, tst := [], wake := [], deferred := 0, w := 0, h := 0, fp := t.pt.fp } }

/-- The return from a trap (R82). -/
def Troupe.leaveTrap (t : Troupe) : Troupe :=
  { t with pt := t.shadow.goto t.trmask fun _ => alignPc t.trpc, level := 0, reuse := [] }

/-- Starts the end of a context: its troupes stop at their next boundary (R339). -/
def State.startEnd (s : State) (c reason : Nat) (cause : W64) : State :=
  if (s.ctx c).endReason ≠ 0 ∨ (s.ctx c).dead then s
  else s.modCtx c fun x => { x with endReason := reason, endCause := cause }

/-- Puts every thread of a troupe into EXITED (R96, R191). -/
def Troupe.exitAll (t : Troupe) : Troupe := { t with pt := t.pt.put (-1) .exited }

/-- The key of the company's troupe `i`; the calliope's comes last. -/
def Co.slot (k : Co) (i : Nat) : Nat := (k.slots[i]?).getD 0

/-- Takes a trap on the troupe in slot `k`: a calliope's is its EXIT and troupe 0's cause 0x0A (R191); under host trap
handling the company is to be saved (R85, R340); with no handler, and at level 1, the context ends (R83, R338);
otherwise level 1 is entered (R80). -/
def State.takeTrap (s : State) (k : Nat) (i : TrapInfo) : State :=
  let t := s.tr k
  let c := s.ctxOf k
  let s := s.traceRec k 5 t.level i.seq i.site.toNat i.trcause.toNat i.resume.toNat
  if isCalliope k then
    let s := s.setTr k { t.exitAll with traps := t.traps + 1, holdUntil := 0 }
    let k0 := (s.co t.company).slot 0
    if (s.tr k0).resident && !(s.tr k0).ended then
      s.modTr k0 fun x => { x with dtraps := x.dtraps ++
        [{ cause := 0x0A, detail := 0x20, record := 0, value := i.resume, word := i.word, level := 0 }] }
    else s.frqRaise { type := 3, unit := 0x0B, rflags := 16, ctx := c, cgen := (s.ctx c).cgen, sitepc := i.resume,
                      siteseq := i.seq, detail := 0x20, place := whereOf k, value := i.resume }
  else if t.level = 1 then
    (s.setTr k { t with holdUntil := 0, reuse := [] }).startEnd c 1 i.trcause
  else if s.trapHost then
    let t := t.setTrapRegs i
    (s.setTr k { t with pt := t.pt.goto i.run fun _ => i.resume }).modCo t.company fun x =>
      { x with st := .saving, hostTrap := i.trcause.toNat + 1 }
  else
    let vec := ((s.ctx c).desc.map (·.trvec)).getD 0
    if vec = 0 then (s.setTr k (t.setTrapRegs i)).startEnd c 4 i.trcause
    else s.setTr k (t.enterTrap i vec)

/-- A trap that the word being issued raises: precise, the run stays at the word, and the word holds no flag (R57, R79). -/
def State.trapWord (s : State) (cause detail : Nat) (value : W64) : State :=
  (s.modTr s.cur.t fun t => t.endLates fun e => e.seq == s.cur.seq.toNat).takeTrap s.cur.t
    { cause := cause, detail := detail, value := value, word := s.cur.word, resume := s.cur.pc, run := s.cur.run, seq := s.cur.seq.toNat }

/-- A precise trap to which the spec gives no TRVAL: the value is free (R79). -/
def State.trapOpen (s : State) (cause detail : Nat) : State :=
  ({ s with free := s.free + 1 } : State).trapWord cause detail (Config.freeWord s.free)

/-- A trap that resumes at PC + 16: TRAP and BKPT (R79, R99). -/
def State.trapAfter (s : State) (cause : Nat) (value : W64) : State :=
  s.takeTrap s.cur.t
    { cause := cause, value := value, word := s.cur.word, resume := s.cur.pc + 16, run := s.cur.run, seq := s.cur.seq.toNat,
      site := s.cur.pc }

/-- Adds a deferred trap to a troupe; for a troupe that has ended the error goes to the host (R79, R164, R188, R209). -/
def State.deferTrap (s : State) (k : Nat) (d : DTrap) (r : FRec) : State :=
  let t := s.tr k
  if t.resident && !t.ended then s.modTr k fun x => { x with dtraps := x.dtraps ++ [d] }
  else s.frqRaise { r with rflags := r.rflags ||| 16 }

/-! ### Issue (R69) -/

/-- The troupe, run and PC of the word being issued. -/
def State.curT (s : State) : Troupe := s.tr s.cur.t

/-- Advances the run of the word being issued and applies `g` to the troupe (R69). -/
def State.retire (s : State) (g : Troupe → Troupe) : State :=
  s.setTr s.cur.t (g (s.curT.advance s.cur.run s.cur.pc))

/-- A lane-class instruction that changes only its troupe: nothing beyond R69 when no lane is active (R47). -/
def laneStep (f : Fields) (s : State) (g : Mask → Troupe → Troupe) : Out :=
  let act := s.curT.active f.g s.cur.run
  .next (s.retire fun t => if act = 0 then t else g act t)

/-- A uniform-class instruction that changes only its troupe: nothing beyond R69 when its guard is false (R47). -/
def uniformStep (f : Fields) (s : State) (g : Troupe → Troupe) : Out :=
  .next (s.retire fun t => if s.curT.enabled f.g then g t else t)

end Sys2Proof.Machine
end

