-- ==== Sys2Proof/Machine/Flags.lean ====
section
/-!
DEFINITION. Completion flags (R51, R52) and the combination of a comparison with a predicate (R110).
-/
namespace Sys2Proof.Machine

/-- The flags a word names: SA and SB, once where they agree; a value of 15 names none (R51). -/
def Fields.flags (f : Fields) : List Nat :=
  let sa := f.sa.toNat
  let sb := f.sb.toNat
  (if sa < 12 then [sa] else []) ++ (if sb < 12 ∧ sb ≠ sa then [sb] else [])

/-- Some flag named in WM is not zero (R52). -/
def Troupe.flagWait (t : Troupe) (wm : BitVec 12) : Bool :=
  (List.range 12).any fun k => wm.getLsbD k && t.f.read k != 0

/-- Some flag the word would raise is at 15 (R51). -/
def Troupe.flagFull (t : Troupe) (f : Fields) : Bool := (Fields.flags f).any fun k => 15 ≤ t.f.read k

/-- The combination of a comparison with a predicate bit: AND, OR, XOR (R110). -/
def combine (cop : Nat) (cmp p : Bool) : Bool :=
  match cop with
  | 0 => cmp && p
  | 1 => cmp || p
  | _ => cmp != p

/-- COP of a condition byte (R110). -/
def condOp (e : BitVec 8) : Nat := bitsOf e.toNat 5 4
/-- SGN of a condition byte (R110). -/
def condSgn (e : BitVec 8) : Bool := e.getLsbD 6

/-- The result of a lane compare under its condition byte (R110). -/
def Troupe.condLane (t : Troupe) (e : BitVec 8) (cmp : Nat → Bool) : Mask :=
  let p := t.rp (e.toNat % 8)
  maskOf fun l => combine (condOp e) (cmp l) (inMask p l != e.getLsbD 3)

/-- The result of a scalar compare under its condition byte (R110). -/
def Troupe.condScalar (t : Troupe) (e : BitVec 8) (cmp : Bool) : Bool :=
  combine (condOp e) cmp (t.rq (e.toNat % 8) != e.getLsbD 3)

end Sys2Proof.Machine
end

