-- ==== Sys2Proof/Machine/Num.lean ====
section
/-!
DEFINITION. Number formats, rounding and exact arithmetic (R12 to R34).
-/
namespace Sys2Proof

/-- A decoded number: NaN, an infinity, or an exact finite value `m * 2^e` with a sign, zero included. -/
inductive FVal where
  | nan
  | inf (neg : Bool)
  | fin (neg : Bool) (m : Nat) (e : Int)
  deriving DecidableEq, Repr, Inhabited

/-- How a float format ends: IEEE with infinities and NaNs, E4M3's single NaN, or finite only (R14, R17 to R19). -/
inductive FEnd where
  | ieee
  | nanOnly
  | finite
  deriving DecidableEq, Repr, Inhabited

/-- A float format: fraction bits, exponent bits, bias, and how it ends. -/
structure FFmt where
  p : Nat
  w : Nat
  bias : Nat
  ending : FEnd
  deriving DecidableEq, Repr, Inhabited

def fp64 : FFmt := ⟨52, 11, 1023, .ieee⟩
def fp32 : FFmt := ⟨23, 8, 127, .ieee⟩
def fp16 : FFmt := ⟨10, 5, 15, .ieee⟩
def bf16 : FFmt := ⟨7, 8, 127, .ieee⟩
def e5m2 : FFmt := ⟨2, 5, 15, .ieee⟩
def e4m3 : FFmt := ⟨3, 4, 7, .nanOnly⟩
def e3m2 : FFmt := ⟨2, 3, 3, .finite⟩
def e2m3 : FFmt := ⟨3, 2, 1, .finite⟩
def e2m1 : FFmt := ⟨1, 2, 1, .finite⟩

/-- The value of a code (R14, R17 to R19). -/
def FFmt.decode (F : FFmt) (c : Nat) : FVal :=
  let s := c.testBit (F.p + F.w)
  let e := bitsOf c (F.p + F.w - 1) F.p
  let m := c % 2 ^ F.p
  let emax := 2 ^ F.w - 1
  if F.ending = .ieee ∧ e = emax then (if m = 0 then .inf s else .nan)
  else if F.ending = .nanOnly ∧ e = emax ∧ m = 2 ^ F.p - 1 then .nan
  else if e = 0 then .fin s m (1 - (F.bias : Int) - F.p)
  else .fin s (2 ^ F.p + m) ((e : Int) - F.bias - F.p)

/-- The code of the largest finite magnitude. -/
def FFmt.maxCode (F : FFmt) : Nat :=
  match F.ending with
  | .ieee => (2 ^ F.w - 1) * 2 ^ F.p - 1
  | .nanOnly => 2 ^ (F.p + F.w) - 2
  | .finite => 2 ^ (F.p + F.w) - 1

/-- The sign bit of a code. -/
def FFmt.signBit (F : FFmt) (neg : Bool) : Nat := if neg then 2 ^ (F.p + F.w) else 0

/-- The canonical NaN (R16); formats without a NaN write +0 (R30). -/
def FFmt.nan (F : FFmt) : Nat :=
  match F.ending with
  | .ieee => (2 ^ F.w - 1) * 2 ^ F.p + 2 ^ (F.p - 1)
  | .nanOnly => 2 ^ (F.p + F.w) - 1
  | .finite => 0

/-- The code of an infinity; the largest finite value where the format has none (R30). -/
def FFmt.inf (F : FFmt) (neg : Bool) : Nat :=
  F.signBit neg + (match F.ending with | .ieee => (2 ^ F.w - 1) * 2 ^ F.p | _ => F.maxCode)

/-- The number of bits of `n`. -/
def bitLen (n : Nat) : Nat := if n = 0 then 0 else Nat.log2 n + 1

/-- Whether a magnitude with `lo` whole units and `rem / 2^k` over rounds away from zero (R26, R27).
`draw` is the generator's value under RS. -/
def roundsUp (rm : Nat) (neg : Bool) (draw lo rem k : Nat) : Bool :=
  match rm with
  | 0 => 2 ^ k < 2 * rem || (2 * rem == 2 ^ k && lo % 2 == 1)
  | 1 => false
  | 2 => rem != 0 && !neg
  | 3 => rem != 0 && neg
  | _ => draw - 1 < rem * 65536 / 2 ^ k

/-- `m * 2^e` in units of `2^q`: the whole part, and the remainder over `2^k`. -/
def unitsOf (m : Nat) (e q : Int) : Nat × Nat × Nat :=
  if q ≤ e then (m * 2 ^ (e - q).toNat, 0, 0)
  else
    let k := (q - e).toNat
    (m / 2 ^ k, m % 2 ^ k, k)

/-- Rounds the magnitude `m * 2^e`, `m > 0`, to units of `2^q`. -/
def roundUnits (rm : Nat) (neg : Bool) (draw : Nat) (m : Nat) (e q : Int) : Nat :=
  let (lo, rem, k) := unitsOf m e q
  if roundsUp rm neg draw lo rem k then lo + 1 else lo

/-- Rounds an exact finite value once to a format (R15, R26, R27, R30): `satf` is .SATF. -/
def FFmt.roundFin (F : FFmt) (rm draw : Nat) (satf : Bool) (neg : Bool) (m : Nat) (e : Int) : Nat :=
  if m = 0 then F.signBit neg
  else
    let emin : Int := 1 - (F.bias : Int)
    let q : Int := max (e + (bitLen m : Int) - 1) emin - F.p
    -- beyond the largest finite value RS rounds as RN rounds (R27)
    let big : Bool := match F.decode F.maxCode with
      | .fin _ mm me => if me ≤ e then mm < m * 2 ^ (e - me).toNat else mm * 2 ^ (me - e).toNat < m
      | _ => false
    let rm' := if rm = 4 ∧ big then 0 else rm
    let v := roundUnits rm' neg draw m e q
    let (v, q) := if v = 2 ^ (F.p + 1) then (2 ^ F.p, q + 1) else (v, q)
    let code := if v < 2 ^ F.p then v else ((q + F.p + F.bias).toNat) * 2 ^ F.p + (v - 2 ^ F.p)
    if code ≤ F.maxCode then F.signBit neg + code
    else if satf ∨ F.ending ≠ .ieee then F.signBit neg + F.maxCode
    else match rm' with
      | 1 => F.signBit neg + F.maxCode
      | 2 => if neg then F.signBit neg + F.maxCode else F.inf neg
      | 3 => if neg then F.inf neg else F.signBit neg + F.maxCode
      | _ => F.inf neg

/-- Rounds any value to a format; NaNs become canonical (R16). -/
def FFmt.round (F : FFmt) (rm draw : Nat) (satf : Bool) : FVal → Nat
  | .nan => F.nan
  | .inf neg => if satf then F.signBit neg + F.maxCode else F.inf neg
  | .fin neg m e => F.roundFin rm draw satf neg m e

/-- The negation of a value, exact. -/
def FVal.neg : FVal → FVal
  | .nan => .nan
  | .inf n => .inf (!n)
  | .fin n m e => .fin (!n) m e

/-- The value with its sign flipped when `b` (R119). -/
def FVal.negIf (b : Bool) (v : FVal) : FVal := if b then v.neg else v

def FVal.isNan : FVal → Bool
  | .nan => true
  | _ => false

/-- The exact product (R22, R32). -/
def FVal.mul : FVal → FVal → FVal
  | .nan, _ => .nan
  | _, .nan => .nan
  | .inf a, .inf b => .inf (a != b)
  | .inf a, .fin b m _ => if m = 0 then .nan else .inf (a != b)
  | .fin a m _, .inf b => if m = 0 then .nan else .inf (a != b)
  | .fin a m e, .fin b n f => .fin (a != b) (m * n) (e + f)

/-- A signed mantissa. -/
def signedMant (neg : Bool) (m : Nat) : Int := if neg then -(m : Int) else m

/-- The exact sum; `rd` says that the rounding mode is RD, which decides the sign of an exact zero (R32). -/
def FVal.add (rd : Bool) : FVal → FVal → FVal
  | .nan, _ => .nan
  | _, .nan => .nan
  | .inf a, .inf b => if a = b then .inf a else .nan
  | .inf a, .fin _ _ _ => .inf a
  | .fin _ _ _, .inf b => .inf b
  | .fin a m e, .fin b n f =>
    let g := min e f
    let s := signedMant a (m * 2 ^ (e - g).toNat) + signedMant b (n * 2 ^ (f - g).toNat)
    if s = 0 then .fin (if m = 0 ∧ n = 0 ∧ a = b then a else rd) 0 g
    else .fin (decide (s < 0)) s.natAbs g

/-- Compares two finite or infinite values: negative, zero or positive as the first is less, equal or greater. -/
def FVal.cmp : FVal → FVal → Int
  | .fin a m e, .fin b n f =>
    let g := min e f
    signedMant a (m * 2 ^ (e - g).toNat) - signedMant b (n * 2 ^ (f - g).toNat)
  | .inf a, .inf b => if a = b then 0 else if a then -1 else 1
  | .inf a, _ => if a then -1 else 1
  | _, .inf b => if b then 1 else -1
  | _, _ => 0

/-- a + b rounded once (R32). -/
def FFmt.addR (F : FFmt) (rm draw : Nat) (a b : FVal) : Nat := F.round rm draw false (a.add (rm = 3) b)
/-- a * b rounded once (R32). -/
def FFmt.mulR (F : FFmt) (rm draw : Nat) (a b : FVal) : Nat := F.round rm draw false (a.mul b)
/-- a * b + c rounded once (R32). -/
def FFmt.fmaR (F : FFmt) (rm draw : Nat) (a b c : FVal) : Nat := F.round rm draw false ((a.mul b).add (rm = 3) c)

/-- The minimum or maximum of two codes, -0 below +0; `nanMode` is .NAN (R120). -/
def FFmt.minmax (F : FFmt) (isMax nanMode : Bool) (a b : Nat) : Nat :=
  let x := F.decode a
  let y := F.decode b
  if x.isNan || y.isNan then
    (if nanMode || (x.isNan && y.isNan) then F.nan else if x.isNan then b else a)
  else
    let c := x.cmp y
    let aLess := if c = 0 then (match x with | .fin n _ _ => n | .inf n => n | .nan => false) else decide (c < 0)
    if aLess != isMax then a else b

/-- The comparison selected by VAR, ordered or unordered (R121). -/
def FFmt.compare (F : FFmt) (var : Nat) (unord : Bool) (a b : Nat) : Bool :=
  let x := F.decode a
  let y := F.decode b
  let nan := x.isNan || y.isNan
  if var = 6 then !nan
  else if var = 7 then nan
  else if nan then unord
  else
    let c := x.cmp y
    match var with
    | 0 => c = 0
    | 1 => c ≠ 0
    | 2 => c < 0
    | 3 => c ≤ 0
    | 4 => 0 < c
    | _ => 0 ≤ c

/-- The integer comparison selected by VAR (R116). -/
def compareInt (var : Nat) (a b : Int) : Bool :=
  match var with
  | 0 => a = b
  | 1 => a ≠ b
  | 2 => a < b
  | 3 => a ≤ b
  | 4 => b < a
  | _ => b ≤ a

/-- One step of the stochastic generator (R28). -/
def lfsrStep (s : BitVec 16) : BitVec 16 := if s.getLsbD 0 then (s >>> 1) ^^^ 0xB400#16 else s >>> 1

/-- The state that a seed gives lane `l` (R28). -/
def lfsrSeed (seed : BitVec 16) (l : Nat) : BitVec 16 :=
  let s := seed + BitVec.ofNat 16 (0x9E37 * l)
  if s = 0 then 1 else s

/-! ### Format codes (R12) -/

/-- The float format of a code. -/
def floatFmt : Nat → Option FFmt
  | 0 => some fp32 | 1 => some fp64 | 2 => some fp16 | 3 => some bf16 | 4 => some e4m3 | 5 => some e5m2
  | 6 => some e3m2 | 7 => some e2m3 | 8 => some e2m1 | _ => none

/-- The width and signedness of an integer format. -/
def intFmt : Nat → Option (Nat × Bool)
  | 10 => some (8, true) | 11 => some (8, false) | 12 => some (4, true) | 13 => some (4, false)
  | 14 => some (16, true) | 15 => some (16, false) | 16 => some (32, true) | 17 => some (32, false)
  | 18 => some (64, true) | 19 => some (64, false) | _ => none

/-- The bits an element of a format takes; FP6 takes a byte (R12). -/
def fmtBits : Nat → Nat
  | 0 => 32 | 1 => 64 | 2 => 16 | 3 => 16 | 4 => 8 | 5 => 8 | 6 => 8 | 7 => 8 | 8 => 4 | 9 => 8
  | t => match intFmt t with | some (w, _) => w | none => 0

/-- A number read from memory or a register: an integer or a float value. -/
inductive Num where
  | int (i : Int)
  | flt (v : FVal)
  deriving DecidableEq, Repr, Inhabited

/-- The value of a code in a format; FP6 bits [7:6] are ignored (R13, R14, R17 to R20). -/
def decodeFmt (fmt bits : Nat) : Num :=
  match floatFmt fmt with
  | some F => .flt (F.decode (bits % 2 ^ (F.p + F.w + 1)))
  | none =>
    if fmt = 9 then .flt (if bits % 256 = 255 then .nan else .fin false 1 ((bits % 256 : Nat) - 127))
    else match intFmt fmt with
      | some (w, true) => .int (signedOf w bits)
      | some (w, false) => .int ((bits % 2 ^ w : Nat) : Int)
      | none => .int 0

/-- A number as a float value. -/
def Num.toF : Num → FVal
  | .flt v => v
  | .int i => .fin (decide (i < 0)) i.natAbs 0

/-- The range of an integer format (R13). -/
def intRange (w : Nat) (signed : Bool) : Int × Int :=
  if signed then (-((2 ^ (w - 1) : Nat) : Int), ((2 ^ (w - 1) : Nat) : Int) - 1) else (0, ((2 ^ w : Nat) : Int) - 1)

/-- A value rounded to an integer (R26, R27). -/
def roundInt (rm draw : Nat) (neg : Bool) (m : Nat) (e : Int) : Int :=
  if m = 0 then 0 else signedMant neg (roundUnits rm neg draw m e 0)

/-- Conversion to UE8M0 (R31). -/
def toUE8M0 (rm draw : Nat) : FVal → Nat
  | .nan => 255
  | .inf neg => if neg then 0 else 254
  | .fin neg m e =>
    let k : Int := e + (bitLen m : Int) - 1
    if m = 0 ∨ neg ∨ k < -127 then 0
    else
      let frac := m - 2 ^ (bitLen m - 1)
      let unit := bitLen m - 1
      let up : Bool := match rm with
        | 0 => 2 ^ unit ≤ 2 * frac
        | 1 => false
        | 2 => frac != 0
        | 3 => false
        | _ => draw - 1 < frac * 65536 / 2 ^ unit
      let k' : Int := if up then k + 1 else k
      if 127 < k' then 254 else (k' + 127).toNat

/-- The conversion of a number to a format, as its code (R30, R31). -/
def convertTo (fmt rm draw : Nat) (satf sat : Bool) (n : Num) : Nat :=
  match floatFmt fmt with
  | some F => F.round rm draw satf n.toF
  | none =>
    if fmt = 9 then toUE8M0 rm draw n.toF
    else match intFmt fmt with
      | none => 0
      | some (w, sg) =>
        let (lo, hi) := intRange w sg
        match n with
        | .int i => wrapTo w (if sat then clampInt lo hi i else i)
        | .flt .nan => 0
        | .flt (.inf neg) => wrapTo w (if neg then lo else hi)
        | .flt (.fin neg m e) => wrapTo w (clampInt lo hi (roundInt rm draw neg m e))

/-! ### Block floating point (R23 to R25) -/

/-- The greatest exponent `floor (log2 |x|)` of the nonzero finite values of a list; `none` when all are zero. -/
def maxExp : List FVal → Option Int
  | [] => none
  | .fin _ m e :: vs =>
    let rest := maxExp vs
    if m = 0 then rest
    else
      let k := e + (bitLen m : Int) - 1
      match rest with | some r => some (max k r) | none => some k
  | _ :: vs => maxExp vs

/-- Whether a value is NaN or infinite. -/
def FVal.special : FVal → Bool
  | .fin _ _ _ => false
  | _ => true

/-- The shared exponent of a block (R25). -/
def bfpExp (vs : List FVal) : Nat :=
  if vs.any FVal.special then 255
  else match maxExp vs with
    | none => 0
    | some k => (clampInt 0 254 (k + 1 + 127)).toNat

/-- Whether a block takes the NaN or the all-zero branch of R25, which rounds nothing. -/
def bfpSkips (vs : List FVal) : Bool := vs.any FVal.special || (maxExp vs).isNone

/-- The mantissa of one element of a block with exponent `x` (R25). -/
def bfpMant (m x rm draw : Nat) : FVal → Int
  | .fin neg mm e =>
    let lim : Int := ((2 ^ (m - 1) : Nat) : Int)
    clampInt (-lim) (lim - 1) (roundInt rm draw neg mm (e + ((m : Int) - 1 - ((x : Int) - 127))))
  | _ => 0

/-- The value of an element of a block (R24). -/
def bfpValue (m x : Nat) (q : Int) : FVal :=
  if x = 255 then .nan else .fin (decide (q < 0)) q.natAbs ((x : Int) - 127 - ((m : Int) - 1))

/-! ### The tree of REDUX and SCAN (R33, R34) -/

/-- The value of the node at level `j` that starts at lane `base`; `none` for an empty node. -/
def treeNode {α : Type} (op : α → α → α) (leaf : Nat → Option α) : Nat → Nat → Option α
  | 0, base => leaf base
  | j + 1, base =>
    match treeNode op leaf j base, treeNode op leaf j (base + 2 ^ j) with
    | some a, some b => some (op a b)
    | some a, none => some a
    | none, b => b

/-- Folds the maximal aligned nodes that partition the lanes `base .. base + n - 1`, from level `j` down (R34). -/
def prefixFold {α : Type} (op : α → α → α) (leaf : Nat → Option α) : Nat → Nat → Nat → Option α → Option α
  | 0, base, n, acc =>
    if n = 0 then acc else match acc, leaf base with
      | some a, some b => some (op a b)
      | none, b => b
      | a, none => a
  | j + 1, base, n, acc =>
    if 2 ^ (j + 1) ≤ n then
      let v := treeNode op leaf (j + 1) base
      let acc' := match acc, v with
        | some a, some b => some (op a b)
        | none, b => b
        | a, none => a
      prefixFold op leaf j (base + 2 ^ (j + 1)) (n - 2 ^ (j + 1)) acc'
    else prefixFold op leaf j base n acc

end Sys2Proof
end

