-- ==== Sys2Proof/Machine/Operands.lean ====
section
/-!
DEFINITION. Operand forms (R44 to R46, R107 to R109): the B operand of the lane and uniform arithmetic groups, the draws
of stochastic rounding (R28, R29), and the issue of an instruction whose operand lies in the constant bank.
-/
namespace Sys2Proof.Machine

/-- The type of a B operand: up to 32 bits, a 64-bit integer, FP64, or a 32-bit shift amount of a 64-bit instruction (R45, R108). -/
inductive OpdType where
  | b32
  | b64
  | f64
  | amount
  deriving DecidableEq, Repr, Inhabited

/-- The bytes that a constant-bank operand reads (R46, R108). -/
def OpdType.bytes : OpdType → Nat
  | .b32 | .amount => 4
  | .b64 | .f64 => 8

/-- An immediate widened to the operand's type (R45). -/
def OpdType.imm (o : OpdType) (x : W32) : W64 :=
  match o with
  | .b32 | .amount => x.setWidth 64
  | .b64 => x.signExtend 64
  | .f64 => x ++ 0#32

/-- A scalar narrowed to the operand's type (R108). -/
def OpdType.scalar (o : OpdType) (x : W64) : W64 :=
  match o with
  | .b32 | .amount => (x.setWidth 32).setWidth 64
  | .b64 | .f64 => x

/-- A vector operand of a lane (R108). -/
def OpdType.vec (o : OpdType) (t : Troupe) (r l : Nat) : W64 :=
  match o with
  | .b32 | .amount => (t.rv r l).setWidth 64
  | .b64 | .f64 => t.rpair r l

/-- What an arithmetic instruction does to its troupe, from its active lanes, its B operand and its draws. -/
abbrev Body := Mask → (Nat → W64) → Tbl Nat → Troupe → Troupe

/-- Steps the generators of the lanes of `act` `n` times each; draw `j` of lane `l` is kept at `l + 64 j` (R28, R109). -/
def drawLanes (n : Nat) (act : Mask) (t : Troupe) : Tbl Nat × Troupe :=
  let one := fun (acc : Tbl Nat × Tbl (BitVec 16)) (l : Nat) =>
    if inMask act l then
      (List.range n).foldl (fun (a : Tbl Nat × Tbl (BitVec 16)) j =>
        let x := lfsrStep (a.2.read l)
        (a.1.write (l + 64 * j) x.toNat, a.2.write l x)) acc
    else acc
  let r := lanes.foldl one ([], t.rs)
  (r.1, { t with rs := r.2 })

/-- The seed written to a troupe: its lanes' states follow (R28). -/
def Troupe.seedLanes (t : Troupe) (seed : BitVec 16) : Troupe :=
  { t with seed := seed, rs := Tbl.writeLanes [] 0 (-1) (fun l => lfsrSeed seed l) lanes }

/-- The B operand of a lane-class instruction when it is known at issue: KIND 0 to 2 (R44). -/
def laneB (o : OpdType) (f : Fields) (t : Troupe) (l : Nat) : W64 :=
  match f.kind with
  | 0 => o.vec t f.b.toNat l
  | 1 => o.scalar (t.rs64 f.b.toNat)
  | _ => o.imm f.x

/-- The B operand of a uniform instruction when it is known at issue: KIND 0 and 2 (R44). -/
def scalarB (o : OpdType) (f : Fields) (t : Troupe) : W64 :=
  if f.kind = 0 then o.scalar (t.rs64 f.b.toNat) else o.imm f.x

/-- An operation in flight with nothing captured yet: its launch site pair, word, run and lanes. -/
def State.newOp (s : State) (i : Instr) (act : Mask) : MemOp :=
  { seq := s.cur.seq.toNat, stamp := s.clock, pc := s.cur.pc, ins := i, word := s.cur.word, level := s.curT.level,
    run := s.cur.run, act := act, done := 0, size := 0, elems := 1, single := false, uni := [], addr := [], nib := [], dat := [], cmp := [], thr := [], got := [],
    prog := [], drop := [], draws := [], flags := [], recs := [], rel := false, acq := false, target := 0,
    deadline := none, readYet := false, added := false, poll := 0, leaveAt := 0, replayed := false, stuck := [], locks := [], tags := [], given := [],
    snap := [], epoch := 0, pass := 0, cursor := 0, count := 0, misses := 0, degraded := false, missList := [],
    blk1 := [], blk2 := [], best := [], park := none }

/-- Encore records that no operation in flight holds (R73). -/
def Troupe.freeRecs (t : Troupe) : List Nat := (List.range 4).filter fun k => !t.ops.any fun o => o.recs.contains k

/-- Issues an operation: it takes its flags, unless it has no register result, and its records, and joins the troupe's
operations in flight (R51, R73). The run has advanced. -/
def Troupe.launch (t : Troupe) (op : MemOp) (f : Fields) (hasResult : Bool) (nrecs : Nat) : Troupe :=
  let fl := if hasResult then Fields.flags f else []
  { (t.raise fl) with ops := t.ops ++ [{ op with flags := fl, recs := t.freeRecs.take nrecs }] }

/-- The address of a constant-bank operand (R46). -/
def State.bankAddr (s : State) (x : Nat) : W64 := (s.co s.curT.company).param + BitVec.ofNat 64 x

/-- What a register field of a kind holds: lane `l` at key `l`, a scalar or a predicate at key 0. -/
def Troupe.held (t : Troupe) (k : FieldKind) (r : Nat) : Tbl Nat :=
  let each := fun (g : Nat → Nat) => lanes.foldl (fun (m : Tbl Nat) l => m.write l (g l)) []
  match k with
  | .vec => each fun l => (t.rv r l).toNat
  | .pair => each fun l => (t.rpair r l).toNat
  | .scalar => Tbl.write [] 0 (t.rs64 r).toNat
  | .lanePred => each fun l => if inMask (t.rp r) l then 1 else 0
  | .scalarPred => Tbl.write [] 0 (if t.rq r then 1 else 0)
  | _ => []

/-- Writes register results of one kind, register `j` of lane `l` at key `l + 64 j` (R141, R179). -/
def deliverTo (kind : FieldKind) (d level : Nat) (act : Mask) (val : Nat → Nat) (t : Troupe) : Troupe :=
  match kind with
  | .vec => t.wv d act fun l => BitVec.ofNat 32 (val l)
  | .pair => t.wpair d act fun l => BitVec.ofNat 64 (val l)
  | .quad => t.wquad d act fun l => BitVec.ofNat 128 (val l)
  | .range n | .strict n =>
    (List.range n).foldl (fun (t : Troupe) j => t.wv (d + j) act fun l => BitVec.ofNat 32 (val (l + 64 * j))) t
  | .scalar => t.wsAt level d (BitVec.ofNat 64 (val 0))
  | .scalarPred => t.wq d (val 0 != 0)
  | .lanePred => t.wp d act (maskOf fun l => val l != 0)
  | _ => t

/-- Captures the register sources of an operation whose remaining operand is on its way: A and E as they stand (R76). -/
def MemOp.capture (o : MemOp) (t : Troupe) : MemOp :=
  { o with dat := t.held o.ins.layout.a o.ins.fields.a.toNat, cmp := t.held o.ins.layout.e o.ins.fields.e.toNat }

/-- The body of an operation applied to its captured sources: what its destination field of a kind then holds. -/
def MemOp.bankResult (o : MemOp) (body : Body) (kind : FieldKind) (d : Nat) (t : Troupe) : Tbl Nat :=
  let put := fun (k : FieldKind) (r : Nat) (m : Tbl Nat) (t : Troupe) => deliverTo k r o.level (-1) m.read t
  let t := { t with level := o.level }
  let t := put o.ins.layout.e o.ins.fields.e.toNat o.cmp (put o.ins.layout.a o.ins.fields.a.toNat o.dat t)
  (body o.act (fun _ => BitVec.ofNat 64 (o.got.read 0)) o.draws t).held kind d

/-- Issues an arithmetic instruction whose operand lies in the constant bank: its other sources are captured, the load is in
flight, and the body is applied when it is done (R46, R76). RS draws are taken now (R29). -/
def bankExec (i : Instr) (f : Fields) (o : OpdType) (draws : Nat) (act : Mask) (s : State) : Out :=
  let r := drawLanes draws act s.curT
  let va := s.bankAddr f.xn
  let op := { (s.newOp i act).capture s.curT with
    uni := [BitVec.ofNat 64 f.xn], addr := Tbl.write [] 0 va, size := o.bytes, single := true, draws := r.1 }
  .next (s.retire fun t => ({ t with rs := r.2.rs } : Troupe).launch op f true 1)

/-- A lane-class arithmetic instruction (R44 to R47, R107, R109): `draws` is the number of elements a lane rounds under RS. -/
def laneExec (i : Instr) (f : Fields) (o : OpdType) (draws : Nat) (body : Body) (s : State) : Out :=
  let act := s.curT.active f.g s.cur.run
  let n := if f.rm = 4 then draws else 0
  if act = 0 then .next (s.retire id)
  else if f.kind = 3 then bankExec i f o n act s
  else
    let b := laneB o f s.curT
    .next (s.retire fun t =>
      let r := drawLanes n act t
      body act b r.1 r.2)

/-- A uniform arithmetic instruction (R44 to R47, R129). -/
def scalarExec (i : Instr) (f : Fields) (o : OpdType) (body : Body) (s : State) : Out :=
  if !s.curT.enabled f.g then .next (s.retire id)
  else if f.kind = 3 then bankExec i f o 0 s.cur.run s
  else
    let b := scalarB o f s.curT
    .next (s.retire fun t => body s.cur.run (fun _ => b) [] t)

end Sys2Proof.Machine
end

