-- ==== Sys2Proof/Machine/Int32.lean ====
section
/-!
DEFINITION. Lane group 2: moves and 32-bit integers (R116, R117). Each instruction is a body over its B operand, and a
meaning that gives it that operand; the body alone is applied when a constant-bank load completes (R46).
-/
namespace Sys2Proof.Machine

/-- A 32-bit result per lane from A, E and B. -/
def body32 (f : Fields) (g : Nat → W32 → W32 → W32 → W32) : Body := fun act b _ t =>
  t.wv f.d.toNat act fun l => g l (t.rv f.a.toNat l) (t.rv f.e.toNat l) ((b l).setWidth 32)

/-- A value clamped to the range of a 32-bit or 64-bit integer type (R13). -/
def clampW (n : Nat) (signed : Bool) (i : Int) : Int :=
  let r := intRange n signed
  clampInt r.1 r.2 i

/-- A number read as signed or unsigned. -/
def readAs {n : Nat} (signed : Bool) (x : BitVec n) : Int := if signed then x.toInt else (x.toNat : Int)

/-- A sum or difference: plain, clamped signed, or clamped unsigned, as VAR selects (R117, R118). -/
def addSub (n : Nat) (var : Nat) (sub : Bool) (a b : BitVec n) : BitVec n :=
  match var with
  | 1 => BitVec.ofInt n (clampW n true (if sub then a.toInt - b.toInt else a.toInt + b.toInt))
  | 2 => BitVec.ofInt n (clampW n false (if sub then (a.toNat : Int) - b.toNat else (a.toNat : Int) + b.toNat))
  | _ => if sub then a - b else a + b

/-- The lesser or greater of two values read as a type (R117). -/
def pickMin {n : Nat} (signed isMax : Bool) (a b : BitVec n) : BitVec n :=
  let less := decide (readAs signed a ≤ readAs signed b)
  if less != isMax then a else b

/-- The three shifts: left, logical right, arithmetic right (R117, R118). -/
inductive ShiftKind where
  | left
  | logical
  | arith
  deriving DecidableEq, Repr

/-- A shift by `k`, clamped at the width, or wrapped to its low bits (R117). -/
def shiftBy (n : Nat) (kind : ShiftKind) (wrap : Bool) (a : BitVec n) (k : Nat) : BitVec n :=
  let k := if wrap then k % n else k
  match kind with
  | .left => if n ≤ k then 0 else a <<< k
  | .logical => if n ≤ k then 0 else a >>> k
  | .arith => if n ≤ k then (if a.msb then -1 else 0) else a.sshiftRight k

/-- The funnel shift of `e : a` (R117). -/
def funnel (left wrap : Bool) (a e : W32) (b : W32) : W32 :=
  let w : W64 := e ++ a
  let n := if wrap then b.toNat % 32 else min b.toNat 32
  if left then (w <<< n).extractLsb' 32 32 else (w >>> n).setWidth 32

/-- A three-input bitwise function by table (R117, R129). -/
def table3 (n : Nat) (table : Nat) (a e b : BitVec n) : BitVec n :=
  BitVec.ofNat n ((List.range n).foldl (fun acc i =>
    let idx := (if a.getLsbD i then 4 else 0) + (if e.getLsbD i then 2 else 0) + (if b.getLsbD i then 1 else 0)
    if table.testBit idx then acc + 2 ^ i else acc) 0)

/-- The number of one bits of a word (R117). -/
def countOnes (b : W32) : Nat := ((List.range 32).filter b.getLsbD).length
/-- The number of leading zero bits (R117). -/
def leadingZeros (b : W32) : Nat := 32 - bitLen b.toNat
/-- The number of trailing zero bits; 32 for zero (R117). -/
def trailingZeros (b : W32) : Nat := ((List.range 32).find? b.getLsbD).getD 32
/-- The bits in reverse order (R117). -/
def reverseBits (b : W32) : W32 :=
  BitVec.ofNat 32 ((List.range 32).foldl (fun acc i => if b.getLsbD (31 - i) then acc + 2 ^ i else acc) 0)

/-- Bit field extraction (R117). -/
def bfe (signed : Bool) (a b : W32) : W32 :=
  let pos := b.toNat % 256
  let len := min (bitsOf b.toNat 15 8) 32
  let wide : BitVec 320 := if signed then a.signExtend 320 else a.setWidth 320
  let field := (wide >>> pos).toNat % 2 ^ len
  if signed then BitVec.ofInt 32 (signedOf len field) else BitVec.ofNat 32 field

/-- Bit field insertion (R117). -/
def bfi (a e b : W32) : W32 :=
  let pos := b.toNat % 256
  let len := min (bitsOf b.toNat 15 8) 32
  let mask := BitVec.ofNat 32 ((2 ^ len - 1) * 2 ^ pos)
  (e &&& ~~~mask) ||| (BitVec.ofNat 32 (a.toNat * 2 ^ pos) &&& mask)

/-- Byte `k` of a word. -/
def byteOf (x : W32) (k : Nat) : Byte := x.extractLsb' (8 * k) 8

/-- Byte permutation (R117). -/
def prmt (a e b : W32) : W32 :=
  let pick := fun (k : Nat) =>
    let s := bitsOf b.toNat (4 * k + 3) (4 * k)
    let y := if s % 8 < 4 then byteOf a (s % 4) else byteOf e (s % 4)
    if 8 ≤ s then (if y.msb then 255#8 else 0#8) else y
  pick 3 ++ pick 2 ++ pick 1 ++ pick 0

/-- The four-byte dot product (R117). -/
def idp4 (sg : Nat) (sat : Bool) (a e b : W32) : W32 :=
  let term := fun (k : Nat) => readAs (sg == 0 || sg == 2) (byteOf a k) * readAs (sg == 0 || sg == 3) (byteOf b k)
  let sum := e.toInt + term 0 + term 1 + term 2 + term 3
  BitVec.ofInt 32 (if sat then clampW 32 true sum else sum)

/-- The magnitude or the negation, saturated by VAR 1 (R117). -/
def absNeg (neg sat : Bool) (b : W32) : W32 :=
  let r : Int := if neg then -b.toInt else b.toInt.natAbs
  BitVec.ofInt 32 (if sat then clampW 32 true r else r)

/-- MOVI's four modes (R117). -/
def moviVal (var : Nat) (x old : W32) (l : Nat) : W32 :=
  match var with
  | 1 => (old &&& 0xFFFF0000#32) ||| (x &&& 0xFFFF#32)
  | 2 => (old &&& 0xFFFF#32) ||| (x <<< 16)
  | 3 => x + BitVec.ofNat 32 l
  | _ => x

/-- The body of an integer compare (R110, R117, R118). -/
def isetpBody (f : Fields) (read : Troupe → Nat → Int) (bval : W64 → Int) : Body := fun act b _ t =>
  t.wp f.d.toNat act (t.condLane f.e fun l => compareInt f.var (read t l) (bval (b l)))

def movBody (f : Fields) : Body := body32 f fun _ _ _ b => b
def moviBody (f : Fields) : Body := fun act _ _ t =>
  t.wv f.d.toNat act fun l => moviVal f.var f.x (t.rv f.d.toNat l) l
def iaddBody (f : Fields) : Body := body32 f fun _ a _ b => addSub 32 f.var false a b
def isubBody (f : Fields) : Body := body32 f fun _ a _ b => addSub 32 f.var true a b
def imulBody (f : Fields) : Body := body32 f fun _ a _ b => a * b
def imulhBody (f : Fields) : Body := body32 f fun _ a _ b =>
  BitVec.ofInt 32 ((readAs (f.var == 0) a * readAs (f.var == 0) b) / 2 ^ 32)
def imadBody (f : Fields) : Body := body32 f fun _ a e b => a * e + b
def iminBody (f : Fields) : Body := body32 f fun _ a _ b => pickMin (f.var == 0) false a b
def imaxBody (f : Fields) : Body := body32 f fun _ a _ b => pickMin (f.var == 0) true a b
def iabsBody (f : Fields) : Body := body32 f fun _ _ _ b => absNeg false (f.var == 1) b
def inegBody (f : Fields) : Body := body32 f fun _ _ _ b => absNeg true (f.var == 1) b
def isetp32Body (f : Fields) : Body :=
  isetpBody f (fun t l => readAs (!condSgn f.e) (t.rv f.a.toNat l)) fun b => readAs (!condSgn f.e) (b.setWidth 32)
def selBody (f : Fields) : Body := fun act b _ t =>
  let p := t.rp (f.e.toNat % 8)
  t.wv f.d.toNat act fun l => if inMask p l != f.e.getLsbD 3 then t.rv f.a.toNat l else (b l).setWidth 32
def shlBody (f : Fields) : Body := body32 f fun _ a _ b => shiftBy 32 .left (f.var == 1) a b.toNat
def shrBody (f : Fields) : Body := body32 f fun _ a _ b => shiftBy 32 .logical (f.var == 1) a b.toNat
def sarBody (f : Fields) : Body := body32 f fun _ a _ b => shiftBy 32 .arith (f.var == 1) a b.toNat
def shfBody (f : Fields) : Body := body32 f fun _ a e b => funnel (f.var % 2 == 1) (2 ≤ f.var) a e b
def bitf3Body (f : Fields) : Body := body32 f fun _ a e b => table3 32 (f.xn % 256) a e b
def popcBody (f : Fields) : Body := body32 f fun _ _ _ b => BitVec.ofNat 32 (countOnes b)
def clzBody (f : Fields) : Body := body32 f fun _ _ _ b => BitVec.ofNat 32 (leadingZeros b)
def ctzBody (f : Fields) : Body := body32 f fun _ _ _ b => BitVec.ofNat 32 (trailingZeros b)
def brevBody (f : Fields) : Body := body32 f fun _ _ _ b => reverseBits b
def bfeBody (f : Fields) : Body := body32 f fun _ a _ b => bfe (f.var == 1) a b
def bfiBody (f : Fields) : Body := body32 f fun _ a e b => bfi a e b
def prmtBody (f : Fields) : Body := body32 f fun _ a e b => prmt a e b
def idp4Body (f : Fields) : Body := body32 f fun _ a e b => idp4 (f.var % 4) (4 ≤ f.var) a e b

/-- MOV. -/
def execMov (f : Fields) (s : State) : Out := laneExec (.mov f) f .b32 0 (movBody f) s
/-- MOVI. -/
def execMovi (f : Fields) (s : State) : Out := laneExec (.movi f) f .b32 0 (moviBody f) s
/-- IADD. -/
def execIadd (f : Fields) (s : State) : Out := laneExec (.iadd f) f .b32 0 (iaddBody f) s
/-- ISUB. -/
def execIsub (f : Fields) (s : State) : Out := laneExec (.isub f) f .b32 0 (isubBody f) s
/-- IMUL. -/
def execImul (f : Fields) (s : State) : Out := laneExec (.imul f) f .b32 0 (imulBody f) s
/-- IMULH. -/
def execImulh (f : Fields) (s : State) : Out := laneExec (.imulh f) f .b32 0 (imulhBody f) s
/-- IMAD. -/
def execImad (f : Fields) (s : State) : Out := laneExec (.imad f) f .b32 0 (imadBody f) s
/-- IMIN. -/
def execImin (f : Fields) (s : State) : Out := laneExec (.imin f) f .b32 0 (iminBody f) s
/-- IMAX. -/
def execImax (f : Fields) (s : State) : Out := laneExec (.imax f) f .b32 0 (imaxBody f) s
/-- IABS. -/
def execIabs (f : Fields) (s : State) : Out := laneExec (.iabs f) f .b32 0 (iabsBody f) s
/-- INEG. -/
def execIneg (f : Fields) (s : State) : Out := laneExec (.ineg f) f .b32 0 (inegBody f) s
/-- ISETP. -/
def execIsetp (f : Fields) (s : State) : Out := laneExec (.isetp f) f .b32 0 (isetp32Body f) s
/-- SEL. -/
def execSel (f : Fields) (s : State) : Out := laneExec (.sel f) f .b32 0 (selBody f) s
/-- SHL. -/
def execShl (f : Fields) (s : State) : Out := laneExec (.shl f) f .b32 0 (shlBody f) s
/-- SHR. -/
def execShr (f : Fields) (s : State) : Out := laneExec (.shr f) f .b32 0 (shrBody f) s
/-- SAR. -/
def execSar (f : Fields) (s : State) : Out := laneExec (.sar f) f .b32 0 (sarBody f) s
/-- SHF. -/
def execShf (f : Fields) (s : State) : Out := laneExec (.shf f) f .b32 0 (shfBody f) s
/-- BITF3. -/
def execBitf3 (f : Fields) (s : State) : Out := laneExec (.bitf3 f) f .b32 0 (bitf3Body f) s
/-- POPC. -/
def execPopc (f : Fields) (s : State) : Out := laneExec (.popc f) f .b32 0 (popcBody f) s
/-- CLZ. -/
def execClz (f : Fields) (s : State) : Out := laneExec (.clz f) f .b32 0 (clzBody f) s
/-- CTZ. -/
def execCtz (f : Fields) (s : State) : Out := laneExec (.ctz f) f .b32 0 (ctzBody f) s
/-- BREV. -/
def execBrev (f : Fields) (s : State) : Out := laneExec (.brev f) f .b32 0 (brevBody f) s
/-- BFE. -/
def execBfe (f : Fields) (s : State) : Out := laneExec (.bfe f) f .b32 0 (bfeBody f) s
/-- BFI. -/
def execBfi (f : Fields) (s : State) : Out := laneExec (.bfi f) f .b32 0 (bfiBody f) s
/-- PRMT. -/
def execPrmt (f : Fields) (s : State) : Out := laneExec (.prmt f) f .b32 0 (prmtBody f) s
/-- IDP4. -/
def execIdp4 (f : Fields) (s : State) : Out := laneExec (.idp4 f) f .b32 0 (idp4Body f) s

end Sys2Proof.Machine
end

