-- ==== Sys2Proof/Machine/Int64.lean ====
section
/-!
DEFINITION. Lane group 3: 64-bit integers in pairs (R118).
-/
namespace Sys2Proof.Machine

/-- A 64-bit result per lane from the pairs A and E and from B. -/
def body64 (f : Fields) (g : W64 → W64 → W64 → W64) : Body := fun act b _ t =>
  t.wpair f.d.toNat act fun l => g (t.rpair f.a.toNat l) (t.rpair f.e.toNat l) (b l)

def iadd64Body (f : Fields) : Body := body64 f fun a _ b => addSub 64 f.var false a b
def isub64Body (f : Fields) : Body := body64 f fun a _ b => addSub 64 f.var true a b
def imadwBody (f : Fields) : Body := fun act b _ t =>
  t.wpair f.d.toNat act fun l =>
    BitVec.ofInt 64 (readAs (f.var == 0) (t.rv f.a.toNat l) * readAs (f.var == 0) (t.rv f.e.toNat l)) + b l
def imad64Body (f : Fields) : Body := body64 f fun a e b => a * e + b
def isetp64Body (f : Fields) : Body :=
  isetpBody f (fun t l => readAs (!condSgn f.e) (t.rpair f.a.toNat l)) fun b => readAs (!condSgn f.e) b
def shl64Body (f : Fields) : Body := body64 f fun a _ b => shiftBy 64 .left (f.var == 1) a b.toNat
def shr64Body (f : Fields) : Body := body64 f fun a _ b => shiftBy 64 .logical (f.var == 1) a b.toNat
def sar64Body (f : Fields) : Body := body64 f fun a _ b => shiftBy 64 .arith (f.var == 1) a b.toNat

/-- IADD64. -/
def execIadd64 (f : Fields) (s : State) : Out := laneExec (.iadd64 f) f .b64 0 (iadd64Body f) s
/-- ISUB64. -/
def execIsub64 (f : Fields) (s : State) : Out := laneExec (.isub64 f) f .b64 0 (isub64Body f) s
/-- IMADW. -/
def execImadw (f : Fields) (s : State) : Out := laneExec (.imadw f) f .b64 0 (imadwBody f) s
/-- IMAD64. -/
def execImad64 (f : Fields) (s : State) : Out := laneExec (.imad64 f) f .b64 0 (imad64Body f) s
/-- ISETP64. -/
def execIsetp64 (f : Fields) (s : State) : Out := laneExec (.isetp64 f) f .b64 0 (isetp64Body f) s
/-- SHL64. -/
def execShl64 (f : Fields) (s : State) : Out := laneExec (.shl64 f) f .amount 0 (shl64Body f) s
/-- SHR64. -/
def execShr64 (f : Fields) (s : State) : Out := laneExec (.shr64 f) f .amount 0 (shr64Body f) s
/-- SAR64. -/
def execSar64 (f : Fields) (s : State) : Out := laneExec (.sar64 f) f .amount 0 (sar64Body f) s

end Sys2Proof.Machine
end

