-- ==== Sys2Proof/Machine/Float.lean ====
section
/-!
DEFINITION. Lane groups 4 and 5: floating point (R119 to R123).
-/
namespace Sys2Proof.Machine

/-- .SAT: 1.0 above 1.0, +0 below 0 and for -0 and NaN (R119). -/
def saturate01 (F : FFmt) (c : Nat) : Nat :=
  match F.decode c with
  | .nan => 0
  | .inf neg => if neg then 0 else F.bias * 2 ^ F.p
  | .fin neg m e => if neg then 0 else if 0 < (FVal.fin neg m e).cmp (.fin false 1 0) then F.bias * 2 ^ F.p else c

/-- The three rounded operations of R119. -/
inductive FOp where
  | add
  | mul
  | fma
  deriving DecidableEq, Repr

/-- One element of an add, multiply or fused multiply-add; `na` and `nb` flip signs exactly (R119). -/
def floatElem (F : FFmt) (op : FOp) (sat na nb : Bool) (rm draw a e b : Nat) : Nat :=
  let x := (F.decode a).negIf na
  let y := (F.decode b).negIf nb
  let r := match op with
    | .add => F.addR rm draw x y
    | .mul => F.mulR rm draw x y
    | .fma => F.fmaR rm draw x (F.decode e) y
  if sat then saturate01 F r else r

/-- The packed format: FP16, or BF16. -/
def packedFmt (bf : Bool) : FFmt := if bf then bf16 else fp16

/-- Applies an operation to elements 0 and 1 of packed registers (R119). -/
def packed (g : Nat → Nat → Nat → Nat → Nat) (a e b : W32) : W32 :=
  let el := fun (x : W32) (k : Nat) => (x.extractLsb' (16 * k) 16).toNat
  BitVec.ofNat 32 (g 0 (el a 0) (el e 0) (el b 0) % 65536 + 65536 * g 1 (el a 1) (el e 1) (el b 1))

def floatBody (f : Fields) (op : FOp) : Body := fun act b draws t =>
  t.wv f.d.toNat act fun l => BitVec.ofNat 32 (floatElem fp32 op (bitOf f.var 0) (bitOf f.var 2) (bitOf f.var 1) f.rm
    (draws.read l) (t.rv f.a.toNat l).toNat (t.rv f.e.toNat l).toNat (b l).toNat)
def doubleBody (f : Fields) (op : FOp) : Body := fun act b draws t =>
  t.wpair f.d.toNat act fun l => BitVec.ofNat 64 (floatElem fp64 op (bitOf f.var 0) (bitOf f.var 2) (bitOf f.var 1) f.rm
    (draws.read l) (t.rpair f.a.toNat l).toNat (t.rpair f.e.toNat l).toNat (b l).toNat)
def halfBody (f : Fields) (op : FOp) : Body := fun act b draws t =>
  t.wv f.d.toNat act fun l => packed (fun k a e b =>
    floatElem (packedFmt (bitOf f.var 2)) op (bitOf f.var 0) false (bitOf f.var 1) f.rm (draws.read (l + 64 * k)) a e b)
    (t.rv f.a.toNat l) (t.rv f.e.toNat l) ((b l).setWidth 32)

def faddBody (f : Fields) : Body := floatBody f .add
def fmulBody (f : Fields) : Body := floatBody f .mul
def ffmaBody (f : Fields) : Body := floatBody f .fma
def daddBody (f : Fields) : Body := doubleBody f .add
def dmulBody (f : Fields) : Body := doubleBody f .mul
def dfmaBody (f : Fields) : Body := doubleBody f .fma
def hadd2Body (f : Fields) : Body := halfBody f .add
def hmul2Body (f : Fields) : Body := halfBody f .mul
def hfma2Body (f : Fields) : Body := halfBody f .fma

def fminmaxBody (f : Fields) (isMax : Bool) : Body := body32 f fun _ a _ b =>
  BitVec.ofNat 32 (fp32.minmax isMax (f.var == 1) a.toNat b.toNat)
def dminmaxBody (f : Fields) (isMax : Bool) : Body := body64 f fun a _ b =>
  BitVec.ofNat 64 (fp64.minmax isMax (f.var == 1) a.toNat b.toNat)
def hminmaxBody (f : Fields) (isMax : Bool) : Body := body32 f fun _ a _ b =>
  packed (fun _ a _ b => (packedFmt (bitOf f.var 2)).minmax isMax (bitOf f.var 0) a b) a 0 b

def fminBody (f : Fields) : Body := fminmaxBody f false
def fmaxBody (f : Fields) : Body := fminmaxBody f true
def dminBody (f : Fields) : Body := dminmaxBody f false
def dmaxBody (f : Fields) : Body := dminmaxBody f true
def hmin2Body (f : Fields) : Body := hminmaxBody f false
def hmax2Body (f : Fields) : Body := hminmaxBody f true

def fsetpBody (f : Fields) : Body := fun act b _ t =>
  t.wp f.d.toNat act (t.condLane f.e fun l => fp32.compare f.var (condSgn f.e) (t.rv f.a.toNat l).toNat (b l).toNat)
def dsetpBody (f : Fields) : Body := fun act b _ t =>
  t.wp f.d.toNat act (t.condLane f.e fun l => fp64.compare f.var (condSgn f.e) (t.rpair f.a.toNat l).toNat (b l).toNat)
/-- Element 0 goes to P(D) and element 1 to P(D + 1); both read the combining predicate first (R107, R121). -/
def hsetp2Body (f : Fields) : Body := fun act b _ t =>
  let F := packedFmt (f.e.getLsbD 7)
  let cmp := fun (k l : Nat) => F.compare f.var (condSgn f.e) ((t.rv f.a.toNat l).extractLsb' (16 * k) 16).toNat
    ((b l).extractLsb' (16 * k) 16).toNat
  (t.wp f.d.toNat act (t.condLane f.e (cmp 0))).wp (f.d.toNat + 1) act (t.condLane f.e (cmp 1))

/-- Rounds an FP32 value to an integral one; a zero result keeps its sign (R122). -/
def roundIntegral (rm draw c : Nat) : Nat :=
  match fp32.decode c with
  | .fin neg m e =>
    if m = 0 ∨ 0 ≤ e then c
    else fp32.round 0 0 false (.fin neg (roundUnits rm neg draw m e 0) 0)
  | v => fp32.round 0 0 false v
def frndBody (f : Fields) : Body := fun act b draws t =>
  t.wv f.d.toNat act fun l => BitVec.ofNat 32 (roundIntegral f.rm (draws.read l) (b l).toNat)

/-- The class of a raw FP32 code (R123). -/
def classOf (c : Nat) : Nat :=
  let s := c.testBit 31
  let e := bitsOf c 30 23
  let m := c % 2 ^ 23
  if e = 255 then (if m = 0 then (if s then 2 else 9) else if m.testBit 22 then 1 else 0)
  else if e = 0 then (if m = 0 then (if s then 5 else 6) else if s then 4 else 7)
  else if s then 3 else 8
def fclassBody (f : Fields) : Body := fun act _ _ t =>
  t.wp f.d.toNat act (maskOf fun l => f.xn.testBit (classOf (t.rv f.a.toNat l).toNat))

/-- FADD. -/
def execFadd (f : Fields) (s : State) : Out := laneExec (.fadd f) f .b32 1 (faddBody f) s
/-- FMUL. -/
def execFmul (f : Fields) (s : State) : Out := laneExec (.fmul f) f .b32 1 (fmulBody f) s
/-- FFMA. -/
def execFfma (f : Fields) (s : State) : Out := laneExec (.ffma f) f .b32 1 (ffmaBody f) s
/-- FMIN. -/
def execFmin (f : Fields) (s : State) : Out := laneExec (.fmin f) f .b32 0 (fminBody f) s
/-- FMAX. -/
def execFmax (f : Fields) (s : State) : Out := laneExec (.fmax f) f .b32 0 (fmaxBody f) s
/-- FSETP. -/
def execFsetp (f : Fields) (s : State) : Out := laneExec (.fsetp f) f .b32 0 (fsetpBody f) s
/-- FRND. -/
def execFrnd (f : Fields) (s : State) : Out := laneExec (.frnd f) f .b32 1 (frndBody f) s
/-- FCLASS. -/
def execFclass (f : Fields) (s : State) : Out := laneExec (.fclass f) f .b32 0 (fclassBody f) s
/-- DADD. -/
def execDadd (f : Fields) (s : State) : Out := laneExec (.dadd f) f .f64 1 (daddBody f) s
/-- DMUL. -/
def execDmul (f : Fields) (s : State) : Out := laneExec (.dmul f) f .f64 1 (dmulBody f) s
/-- DFMA. -/
def execDfma (f : Fields) (s : State) : Out := laneExec (.dfma f) f .f64 1 (dfmaBody f) s
/-- DMIN. -/
def execDmin (f : Fields) (s : State) : Out := laneExec (.dmin f) f .f64 0 (dminBody f) s
/-- DMAX. -/
def execDmax (f : Fields) (s : State) : Out := laneExec (.dmax f) f .f64 0 (dmaxBody f) s
/-- DSETP. -/
def execDsetp (f : Fields) (s : State) : Out := laneExec (.dsetp f) f .f64 0 (dsetpBody f) s
/-- HADD2. -/
def execHadd2 (f : Fields) (s : State) : Out := laneExec (.hadd2 f) f .b32 2 (hadd2Body f) s
/-- HMUL2. -/
def execHmul2 (f : Fields) (s : State) : Out := laneExec (.hmul2 f) f .b32 2 (hmul2Body f) s
/-- HFMA2. -/
def execHfma2 (f : Fields) (s : State) : Out := laneExec (.hfma2 f) f .b32 2 (hfma2Body f) s
/-- HMIN2. -/
def execHmin2 (f : Fields) (s : State) : Out := laneExec (.hmin2 f) f .b32 0 (hmin2Body f) s
/-- HMAX2. -/
def execHmax2 (f : Fields) (s : State) : Out := laneExec (.hmax2 f) f .b32 0 (hmax2Body f) s
/-- HSETP2. -/
def execHsetp2 (f : Fields) (s : State) : Out := laneExec (.hsetp2 f) f .b32 0 (hsetp2Body f) s

end Sys2Proof.Machine
end

