-- ==== Sys2Proof/Machine/Special.lean ====
section
/-!
DEFINITION. The special functions of lane group 6, correctly rounded (R124): exact division and square roots, and
fixed-point arithmetic of 640 fraction bits for the transcendental functions.
-/
namespace Sys2Proof

/-- `floor (a / b)` with a sticky bit below it. -/
def divSticky (a b : Nat) : Nat := 2 * (a / b) + (if a % b = 0 then 0 else 1)

/-- The integer square root of `n`, decided bit by bit from bit `k - 1` down. -/
def isqrtFrom (n : Nat) : Nat → Nat → Nat
  | 0, r => r
  | k + 1, r =>
    let r' := r + 2 ^ k
    isqrtFrom n k (if r' * r' ≤ n then r' else r)

/-- The integer square root. -/
def isqrt (n : Nat) : Nat := isqrtFrom n (bitLen n / 2 + 1) 0

/-- The exact quotient of two finite magnitudes, as a magnitude and an exponent with a sticky bit. -/
def quotient (m n : Nat) : Nat × Int :=
  let k := bitLen n + 140
  (divSticky (m * 2 ^ k) n, -(k : Int) - 1)

/-- The quotient of two values, rounded once (R227, R239, R244). -/
def FFmt.divR (F : FFmt) (rm : Nat) (a b : FVal) : Nat :=
  match a, b with
  | .nan, _ | _, .nan => F.nan
  | .inf _, .inf _ => F.nan
  | .inf x, .fin y _ _ => F.inf (x != y)
  | .fin x _ _, .inf y => F.signBit (x != y)
  | .fin x m e, .fin y n f =>
    if n = 0 then (if m = 0 then F.nan else F.inf (x != y))
    else if m = 0 then F.signBit (x != y)
    else
      let (q, k) := quotient m n
      F.roundFin rm 0 false (x != y) q (k + e - f)

/-- 1/x (R124). -/
def FFmt.rcp (F : FFmt) (rm : Nat) (v : FVal) : Nat := F.divR rm (.fin false 1 0) v

/-- The square root (R124). -/
def FFmt.sqrtR (F : FFmt) (rm : Nat) : FVal → Nat
  | .nan => F.nan
  | .inf neg => if neg then F.nan else F.inf false
  | .fin neg m e =>
    if m = 0 then F.signBit neg
    else if neg then F.nan
    else
      -- an even exponent, and at least 140 bits of root
      let (m, e) := if e % 2 = 0 then (m, e) else (2 * m, e - 1)
      let n := m * 2 ^ 280
      let r := isqrt n
      F.roundFin rm 0 false false (2 * r + (if r * r = n then 0 else 1)) (e / 2 - 140 - 1)

/-- 1/sqrt x (R124). -/
def FFmt.rsqrtR (F : FFmt) (rm : Nat) : FVal → Nat
  | .nan => F.nan
  | .inf neg => if neg then F.nan else F.signBit false
  | .fin neg m e =>
    if m = 0 then F.inf neg
    else if neg then F.nan
    else
      let (m, e) := if e % 2 = 0 then (m, e) else (2 * m, e - 1)
      let k := 2 * (bitLen m + 140)
      let n := 2 ^ k / m
      let r := isqrt n
      F.roundFin rm 0 false false (2 * r + (if r * r = n ∧ 2 ^ k % m = 0 then 0 else 1)) (-(e / 2) - (k / 2 : Nat) - 1)

/-! ### Fixed-point values of `fixBits` fraction bits -/

/-- Fraction bits of the fixed-point arithmetic. -/
def fixBits : Nat := 640

/-- The sum of `term k` while `fuel` lasts. -/
def sumTerms (term : Nat → Nat) : Nat → Nat → Nat
  | 0, acc => acc
  | k + 1, acc => sumTerms term k (acc + term k)

/-- ln 2: the sum of `1 / (k 2^k)`. -/
def fixLn2 : Nat := sumTerms (fun k => 2 ^ (fixBits + 32) / ((k + 1) * 2 ^ (k + 1))) (fixBits + 40) 0 / 2 ^ 32

/-- The arctangent of `1 / n`, by its alternating series. -/
def fixAtanInv (n : Nat) : Nat :=
  let one := 2 ^ (fixBits + 32)
  let pos := sumTerms (fun k => one / ((4 * k + 1) * n ^ (4 * k + 1))) 160 0
  let neg := sumTerms (fun k => one / ((4 * k + 3) * n ^ (4 * k + 3))) 160 0
  (pos - neg) / 2 ^ 16

/-- pi with 16 guard bits below `fixBits`, by Machin's formula. -/
def fixPi16 : Nat := 16 * fixAtanInv 5 - 4 * fixAtanInv 239

/-- `e^y - 1`'s series plus one, for `0 ≤ y < 1` in fixed point: `term` is `y^k / k!`. -/
def fixExp (y : Nat) : Nat → Nat → Nat → Nat → Nat
  | 0, _, _, acc => acc
  | fuel + 1, k, term, acc =>
    let t := term * y / 2 ^ fixBits / k
    fixExp y fuel (k + 1) t (acc + t)

/-- `2^f` for a fraction `f` in fixed point. -/
def fixExp2 (f : Nat) : Nat := fixExp (f * fixLn2 / 2 ^ fixBits) 160 1 (2 ^ fixBits) (2 ^ fixBits)

/-- 2^x (R124). -/
def fex2 (rm : Nat) : FVal → Nat
  | .nan => fp32.nan
  | .inf neg => if neg then 0 else fp32.inf false
  | .fin neg m e =>
    if m = 0 then fp32.roundFin rm 0 false false 1 0
    else
      -- magnitudes of 2^12 and more leave the format, whatever their bits
      let huge : Bool := 12 ≤ e + (bitLen m : Int) - 1
      if huge then (if neg then fp32.roundFin rm 0 false false 1 (-4096) else fp32.roundFin rm 0 false false 1 4096)
      else
        let x : Int := signedMant neg (if 0 ≤ e then m * 2 ^ (fixBits + e.toNat) else m * 2 ^ fixBits / 2 ^ (-e).toNat)
        let n := x / ((2 ^ fixBits : Nat) : Int)
        let f := (x % ((2 ^ fixBits : Nat) : Int)).toNat
        if f = 0 then fp32.roundFin rm 0 false false 1 n
        else fp32.roundFin rm 0 false false (2 * fixExp2 f + 1) (n - (fixBits : Int) - 1)

/-- The series of `atanh t` for `t` in fixed point, `t2` its square. -/
def fixAtanh (t2 : Nat) : Nat → Nat → Nat → Nat → Nat
  | 0, _, _, acc => acc
  | fuel + 1, k, term, acc => fixAtanh t2 fuel (k + 2) (term * t2 / 2 ^ fixBits) (acc + term / k)

/-- log2 of `m / 2^(bitLen m - 1)`, which lies in [1, 2), in fixed point. -/
def fixLog2 (m : Nat) : Nat :=
  let one := 2 ^ (bitLen m - 1)
  let t := (m - one) * 2 ^ fixBits / (m + one)
  2 * fixAtanh (t * t / 2 ^ fixBits) 240 1 t 0 * 2 ^ fixBits / fixLn2

/-- log2 x (R124). -/
def flg2 (rm : Nat) : FVal → Nat
  | .nan => fp32.nan
  | .inf neg => if neg then fp32.nan else fp32.inf false
  | .fin neg m e =>
    if m = 0 then fp32.inf true
    else if neg then fp32.nan
    else
      let k : Int := e + (bitLen m : Int) - 1
      if m = 2 ^ (bitLen m - 1) then (if k = 0 then 0 else fp32.roundFin rm 0 false (decide (k < 0)) k.natAbs 0)
      else
        let v : Int := k * ((2 ^ fixBits : Nat) : Int) + (fixLog2 m : Int)
        -- v is a lower bound of an irrational number: of a negative one the magnitude lies just below |v|
        if 0 ≤ v then fp32.roundFin rm 0 false false (2 * v.toNat + 1) (-(fixBits : Int) - 1)
        else fp32.roundFin rm 0 false true (2 * (-v).toNat - 1) (-(fixBits : Int) - 1)

/-- The alternating series of sine (`k = 2`, `term = y`) or cosine (`k = 1`, `term = 1`) in fixed point. -/
def fixAlt (y2 : Nat) : Nat → Nat → Int → Nat → Int → Int
  | 0, _, _, _, acc => acc
  | fuel + 1, k, sgn, term, acc =>
    let t := term * y2 / 2 ^ fixBits / (k * (k + 1))
    fixAlt y2 fuel (k + 2) (-sgn) t (acc - sgn * (t : Int))

/-- The quadrant of `m * 2^e` and what remains of it, in fixed point with 16 guard bits dropped. -/
def reduceAngle (m : Nat) (e : Int) : Nat × Nat :=
  -- x and pi / 2 over 2^(fixBits + 16), x scaled by an exact power of two
  if 0 ≤ e then
    -- pi to more bits than the argument has: scale the argument's units down by working modulo pi/2 doubled e times
    let half := fixPi16 / 2
    let x := m * 2 ^ (fixBits + 16 + e.toNat)
    let q := x / half
    (q % 4, (x % half) / 2 ^ 16)
  else
    let half := fixPi16 / 2
    let x := m * 2 ^ (fixBits + 16) / 2 ^ (-e).toNat
    let q := x / half
    (q % 4, (x % half) / 2 ^ 16)

/-- Sine or cosine of a finite value that is not zero (R124). -/
def sinCos (rm : Nat) (cosine neg : Bool) (m : Nat) (e : Int) : Nat :=
  let (q, y) := reduceAngle m e
  let y2 := y * y / 2 ^ fixBits
  let s := fixAlt y2 180 2 1 y (y : Int)
  let c := fixAlt y2 180 1 1 (2 ^ fixBits) ((2 ^ fixBits : Nat) : Int)
  let q' := if cosine then (q + 1) % 4 else q
  let v := if q' % 2 = 0 then s else c
  let sg := (2 ≤ q') != (neg && !cosine)
  -- the series' value lies within 2^-600 of an irrational number
  fp32.roundFin rm 0 false sg (2 * v.toNat + 1) (-(fixBits : Int) - 1)

/-- sin x (R124). -/
def fsin (rm : Nat) : FVal → Nat
  | .fin neg m e => if m = 0 then fp32.signBit neg else sinCos rm false neg m e
  | _ => fp32.nan

/-- cos x (R124). -/
def fcos (rm : Nat) : FVal → Nat
  | .fin neg m e => if m = 0 then fp32.roundFin rm 0 false false 1 0 else sinCos rm true neg m e
  | _ => fp32.nan

end Sys2Proof
end

