-- ==== Sys2Proof/Machine/Convert.lean ====
section
/-!
DEFINITION. Lane group 6: special functions (R124) and conversions (R125 to R128).
-/
namespace Sys2Proof.Machine

/-- An FP32 function of B (R124). -/
def fnBody (f : Fields) (g : Nat → FVal → Nat) : Body := fun act b _ t =>
  t.wv f.d.toNat act fun l => BitVec.ofNat 32 (g f.rm (fp32.decode (b l).toNat))

def frcpBody (f : Fields) : Body := fnBody f fp32.rcp
def frsqBody (f : Fields) : Body := fnBody f fp32.rsqrtR
def fsqrtBody (f : Fields) : Body := fnBody f fp32.sqrtR
def fex2Body (f : Fields) : Body := fnBody f fex2
def flg2Body (f : Fields) : Body := fnBody f flg2
def fsinBody (f : Fields) : Body := fnBody f fsin
def fcosBody (f : Fields) : Body := fnBody f fcos
def drcpBody (f : Fields) : Body := fun act b _ t =>
  t.wpair f.d.toNat act fun l => BitVec.ofNat 64 (fp64.rcp f.rm (fp64.decode (b l).toNat))

/-- The width of the slot a format takes in a register (R126). -/
def slotBits (fmt : Nat) : Nat := fmtBits fmt

/-- A register with slot `k` of a format replaced; FP6 bits [7:6] are written zero (R126). -/
def slotWrite (old : W32) (fmt k v : Nat) : W32 :=
  let w := slotBits fmt
  let mask := BitVec.ofNat 32 ((2 ^ w - 1) * 2 ^ (w * k))
  (old &&& ~~~mask) ||| (BitVec.ofNat 32 (v * 2 ^ (w * k)) &&& mask)

/-- CVT (R125, R126). -/
def cvtBody (f : Fields) : Body := fun act _ draws t =>
  let df := bitsOf f.xn 4 0
  let sf := bitsOf f.xn 12 8
  let src := fun l =>
    if slotBits sf = 64 then (t.rpair f.b.toNat l).toNat
    else (t.rv f.b.toNat l).toNat / 2 ^ (slotBits sf * bitsOf f.xn 18 16) % 2 ^ slotBits sf
  let val := fun l => convertTo df f.rm (draws.read l) (bitOf f.xn 13) (bitOf f.xn 14) (decodeFmt sf (src l))
  if slotBits df = 64 then t.wpair f.d.toNat act fun l => BitVec.ofNat 64 (val l)
  else if slotBits df = 32 then t.wv f.d.toNat act fun l => BitVec.ofNat 32 (val l)
  else t.wv f.d.toNat act fun l => slotWrite (t.rv f.d.toNat l) df (bitsOf f.xn 22 20) (val l)

/-- The mantissa bits of a BFP code 0x18 to 0x1E (R23). -/
def bfpWidth (code : Nat) : Nat := code - 0x18 + 2

/-- The 256 values that QBLK reads, an inactive lane's being +0 (R127). -/
def qblkVals (f : Fields) (act : Mask) (t : Troupe) : List FVal :=
  (List.range 256).map fun i =>
    if inMask act (i / 4) then fp32.decode (t.rv (f.a.toNat + i % 4) (i / 4)).toNat else .fin false 0 0

/-- QBLK (R127). -/
def qblkRun (f : Fields) (act : Mask) (t : Troupe) : Troupe :=
  let m := bfpWidth (bitsOf f.xn 4 0)
  let vals := qblkVals f act t
  let x := bfpExp vals
  let r := drawLanes (if f.rm = 4 ∧ !bfpSkips vals then 4 else 0) act t
  let q := (vals.zip (List.range 256)).map fun p =>
    wrapTo m (if bfpSkips vals then 0 else bfpMant m x f.rm (r.1.read (p.2 / 4 + 64 * (p.2 % 4))) p.1)
  let bits := q.foldr (fun v acc => v + 2 ^ m * acc) 0
  let byte := fun i => BitVec.ofInt 8 (signedOf m ((q[i]?).getD 0))
  let word := fun l =>
    if bitOf f.xn 8 then BitVec.ofNat 32 (bits / 2 ^ (32 * l))
    else byte (4 * l + 3) ++ byte (4 * l + 2) ++ byte (4 * l + 1) ++ byte (4 * l)
  (r.2.wv f.d.toNat act word).ws f.b.toNat (BitVec.ofNat 64 x)

/-- DQBLK (R128). -/
def dqblkRun (f : Fields) (act : Mask) (t : Troupe) : Troupe :=
  let m := bfpWidth (bitsOf f.xn 4 0)
  let x := (t.rs64 f.b.toNat).toNat % 256
  let words := (List.range 64).foldr (fun l acc => (t.rv f.a.toNat l).toNat + 2 ^ 32 * acc) 0
  let q := fun l j =>
    if bitOf f.xn 8 then signedOf m (words / 2 ^ (m * (4 * l + j)))
    else signedOf m (byteOf (t.rv f.a.toNat l) j).toNat
  (List.range 4).foldl (fun (t' : Troupe) j =>
    t'.wv (f.d.toNat + j) act fun l => BitVec.ofNat 32 (fp32.round 0 0 false (bfpValue m x (q l j)))) t

/-- FRCP. -/
def execFrcp (f : Fields) (s : State) : Out := laneExec (.frcp f) f .b32 0 (frcpBody f) s
/-- FRSQ. -/
def execFrsq (f : Fields) (s : State) : Out := laneExec (.frsq f) f .b32 0 (frsqBody f) s
/-- FSQRT. -/
def execFsqrt (f : Fields) (s : State) : Out := laneExec (.fsqrt f) f .b32 0 (fsqrtBody f) s
/-- FEX2. -/
def execFex2 (f : Fields) (s : State) : Out := laneExec (.fex2 f) f .b32 0 (fex2Body f) s
/-- FLG2. -/
def execFlg2 (f : Fields) (s : State) : Out := laneExec (.flg2 f) f .b32 0 (flg2Body f) s
/-- FSIN. -/
def execFsin (f : Fields) (s : State) : Out := laneExec (.fsin f) f .b32 0 (fsinBody f) s
/-- FCOS. -/
def execFcos (f : Fields) (s : State) : Out := laneExec (.fcos f) f .b32 0 (fcosBody f) s
/-- DRCP. -/
def execDrcp (f : Fields) (s : State) : Out := laneExec (.drcp f) f .f64 0 (drcpBody f) s
/-- CVT. -/
def execCvt (f : Fields) (s : State) : Out := laneExec (.cvt f) f .b32 1 (cvtBody f) s
/-- QBLK. -/
def execQblk (f : Fields) (s : State) : Out := laneStep f s (qblkRun f)
/-- DQBLK. -/
def execDqblk (f : Fields) (s : State) : Out := laneStep f s (dqblkRun f)

end Sys2Proof.Machine
end

