-- ==== Sys2Proof/Machine/Scalar.lean ====
section
/-!
DEFINITION. Uniform group 0 but for its two loads: 64-bit scalar arithmetic (R129, R130).
-/
namespace Sys2Proof.Machine

/-- A scalar result from A, E and B. -/
def bodyS (f : Fields) (g : W64 → W64 → W64 → W64) : Body := fun _ b _ t =>
  t.ws f.d.toNat (g (t.rs64 f.a.toNat) (t.rs64 f.e.toNat) (b 0))

/-- The low, signed high or unsigned high half of a product (R129). -/
def mulHalf (var : Nat) (a b : W64) : W64 :=
  match var with
  | 1 => BitVec.ofInt 64 ((a.toInt * b.toInt) / 2 ^ 64)
  | 2 => BitVec.ofNat 64 (a.toNat * b.toNat / 2 ^ 64)
  | _ => a * b

def smovBody (f : Fields) : Body := bodyS f fun _ _ b => b
def smoviBody (f : Fields) : Body := fun _ _ _ t =>
  let old := t.rs64 f.d.toNat
  t.ws f.d.toNat (match f.var with
    | 1 => f.x ++ old.setWidth 32
    | 2 => old.extractLsb' 32 32 ++ f.x
    | _ => f.x.signExtend 64)
def saddBody (f : Fields) : Body := bodyS f fun a _ b => addSub 64 f.var false a b
def ssubBody (f : Fields) : Body := bodyS f fun a _ b => addSub 64 f.var true a b
def smulBody (f : Fields) : Body := bodyS f fun a _ b => mulHalf f.var a b
def smadBody (f : Fields) : Body := bodyS f fun a e b => a * e + b
def sminBody (f : Fields) : Body := bodyS f fun a _ b => pickMin (f.var == 0) false a b
def smaxBody (f : Fields) : Body := bodyS f fun a _ b => pickMin (f.var == 0) true a b
def sbitf3Body (f : Fields) : Body := bodyS f fun a e b => table3 64 (f.xn % 256) a e b
def sshlBody (f : Fields) : Body := bodyS f fun a _ b => shiftBy 64 .left (f.var == 1) a b.toNat
def sshrBody (f : Fields) : Body := bodyS f fun a _ b => shiftBy 64 .logical (f.var == 1) a b.toNat
def ssarBody (f : Fields) : Body := bodyS f fun a _ b => shiftBy 64 .arith (f.var == 1) a b.toNat
def ssetpBody (f : Fields) : Body := fun _ b _ t =>
  let read := fun (x : W64) => readAs (!condSgn f.e) x
  t.wq f.d.toNat (t.condScalar f.e (compareInt f.var (read (t.rs64 f.a.toNat)) (read (b 0))))
def sselBody (f : Fields) : Body := fun _ b _ t =>
  t.ws f.d.toNat (if t.rq (f.e.toNat % 8) != f.e.getLsbD 3 then t.rs64 f.a.toNat else b 0)
/-- A three-input function of single bits by table (R101, R129). -/
def tableBit (table : Nat) (a e b : Bool) : Bool :=
  table.testBit ((if a then 4 else 0) + (if e then 2 else 0) + (if b then 1 else 0))
def sqlopBody (f : Fields) : Body := fun _ _ _ t =>
  t.wq f.d.toNat (tableBit f.xn (t.rq f.a.toNat) (t.rq f.e.toNat) (t.rq f.b.toNat))

/-- SV2S (R130). -/
def sv2sRun (f : Fields) (run : Mask) (t : Troupe) : Troupe :=
  let lane := if f.var < 3 then f.xn % 64 else lowestLane run
  t.ws f.d.toNat (match f.var with
    | 1 => (t.rv f.a.toNat lane).signExtend 64
    | 2 | 4 => t.rpair f.a.toNat lane
    | _ => (t.rv f.a.toNat lane).setWidth 64)

/-- SMOV. -/
def execSmov (f : Fields) (s : State) : Out := scalarExec (.smov f) f .b64 (smovBody f) s
/-- SMOVI. -/
def execSmovi (f : Fields) (s : State) : Out := scalarExec (.smovi f) f .b64 (smoviBody f) s
/-- SADD. -/
def execSadd (f : Fields) (s : State) : Out := scalarExec (.sadd f) f .b64 (saddBody f) s
/-- SSUB. -/
def execSsub (f : Fields) (s : State) : Out := scalarExec (.ssub f) f .b64 (ssubBody f) s
/-- SMUL. -/
def execSmul (f : Fields) (s : State) : Out := scalarExec (.smul f) f .b64 (smulBody f) s
/-- SMAD. -/
def execSmad (f : Fields) (s : State) : Out := scalarExec (.smad f) f .b64 (smadBody f) s
/-- SMIN. -/
def execSmin (f : Fields) (s : State) : Out := scalarExec (.smin f) f .b64 (sminBody f) s
/-- SMAX. -/
def execSmax (f : Fields) (s : State) : Out := scalarExec (.smax f) f .b64 (smaxBody f) s
/-- SBITF3. -/
def execSbitf3 (f : Fields) (s : State) : Out := scalarExec (.sbitf3 f) f .b64 (sbitf3Body f) s
/-- SSHL. -/
def execSshl (f : Fields) (s : State) : Out := scalarExec (.sshl f) f .amount (sshlBody f) s
/-- SSHR. -/
def execSshr (f : Fields) (s : State) : Out := scalarExec (.sshr f) f .amount (sshrBody f) s
/-- SSAR. -/
def execSsar (f : Fields) (s : State) : Out := scalarExec (.ssar f) f .amount (ssarBody f) s
/-- SSETP. -/
def execSsetp (f : Fields) (s : State) : Out := scalarExec (.ssetp f) f .b64 (ssetpBody f) s
/-- SSEL. -/
def execSsel (f : Fields) (s : State) : Out := scalarExec (.ssel f) f .b64 (sselBody f) s
/-- SQLOP. -/
def execSqlop (f : Fields) (s : State) : Out := scalarExec (.sqlop f) f .b64 (sqlopBody f) s
/-- SV2S. -/
def execSv2s (f : Fields) (s : State) : Out := uniformStep f s fun t => sv2sRun f s.cur.run t

end Sys2Proof.Machine
end

