-- ==== Sys2Proof/Machine/Exchange.lean ====
section
/-!
DEFINITION. Lane group 1: predicates, votes and lane exchange (R101 to R104, R112 to R115).
-/
namespace Sys2Proof.Machine

/-- PLOP (R101). -/
def plopRun (f : Fields) (act : Mask) (t : Troupe) : Troupe :=
  let a := t.rp f.a.toNat
  let e := t.rp f.e.toNat
  let b := t.rp f.b.toNat
  t.wp f.d.toNat act (maskOf fun l => tableBit f.xn (inMask a l) (inMask e l) (inMask b l))

/-- VOTE (R102). -/
def voteRun (f : Fields) (act : Mask) (t : Troupe) : Troupe :=
  let m := t.rp f.a.toNat &&& act
  match f.var with
  | 0 => t.wq f.d.toNat (m == act)
  | 1 => t.wq f.d.toNat (m != 0)
  | 2 => t.wq f.d.toNat (m == act || m == 0)
  | _ => t.ws f.d.toNat m

/-- The highest member of a lane set. -/
def highestLane (m : Mask) : Nat := (lanes.reverse.find? (inMask m)).getD 0

/-- ELECT: all 64 bits are written (R103). -/
def electRun (f : Fields) (act : Mask) (t : Troupe) : Troupe :=
  t.wp f.d.toNat (-1) (bit64 (if f.var = 0 then lowestLane act else highestLane act))

/-- MATCH (R104). -/
def matchRun (f : Fields) (act : Mask) (t : Troupe) : Troupe :=
  let val := fun l => if f.var = 1 then t.rpair f.a.toNat l else (t.rv f.a.toNat l).setWidth 64
  t.wpair f.d.toNat act fun l => maskOf fun k => inMask act k && val k == val l

/-- The lane that SHFL reads for lane `l` (R113). -/
def shflSource (mode sw l c : Nat) : Nat :=
  let seg := 2 ^ sw
  let base := l - l % seg
  let k := l % seg
  match mode with
  | 0 => base + c % seg
  | 1 => if c ≤ k then l - c else l
  | 2 => if k + c < seg then l + c else l
  | _ => base + (k ^^^ c) % seg

/-- SHFL (R113). -/
def shflRun (f : Fields) (act : Mask) (t : Troupe) : Troupe :=
  let c := fun l => ((t.rv f.b.toNat l).toNat + f.xn % 64) % 2 ^ 32
  t.wv f.d.toNat act fun l => t.rv f.a.toNat (shflSource f.var (bitsOf f.xn 10 8) l (c l))

/-- Whether a type of REDUX and SCAN is 64 bits wide (R112). -/
def treeWide (ty : Nat) : Bool := 3 ≤ ty

/-- A node of the tree: the operation of R112 on two codes. -/
def treeOp (opn ty rm : Nat) (a b : Nat) : Nat :=
  let n := if treeWide ty then 64 else 32
  let F := if treeWide ty then fp64 else fp32
  if ty = 2 ∨ ty = 5 then
    match opn with
    | 0 => F.addR rm 0 (F.decode a) (F.decode b)
    | 1 => F.minmax false false a b
    | _ => F.minmax true false a b
  else
    let signed := ty == 0 || ty == 3
    match opn with
    | 0 => (a + b) % 2 ^ n
    | 1 => (pickMin signed false (BitVec.ofNat n a) (BitVec.ofNat n b)).toNat
    | 2 => (pickMin signed true (BitVec.ofNat n a) (BitVec.ofNat n b)).toNat
    | 3 => a &&& b
    | 4 => a ||| b
    | _ => a ^^^ b

/-- The identity of an operation (R112). -/
def treeIdentity (opn ty : Nat) : Nat :=
  let n := if treeWide ty then 64 else 32
  let F := if treeWide ty then fp64 else fp32
  if ty = 2 ∨ ty = 5 then
    match opn with
    | 0 => 0
    | 1 => F.inf false
    | _ => F.inf true
  else
    let signed := ty == 0 || ty == 3
    match opn with
    | 1 => if signed then 2 ^ (n - 1) - 1 else 2 ^ n - 1
    | 2 => if signed then 2 ^ (n - 1) else 0
    | 3 => 2 ^ n - 1
    | _ => 0

/-- The leaf of a lane: its value when it is active (R33). -/
def treeLeaf (f : Fields) (act : Mask) (t : Troupe) (l : Nat) : Option Nat :=
  if inMask act l then
    some (if treeWide (bitsOf f.xn 7 4) then (t.rpair f.a.toNat l).toNat else (t.rv f.a.toNat l).toNat)
  else none

/-- REDUX (R114). -/
def reduxRun (f : Fields) (act : Mask) (t : Troupe) : Troupe :=
  let ty := bitsOf f.xn 7 4
  let v := (treeNode (treeOp (f.xn % 16) ty (bitsOf f.xn 10 8)) (treeLeaf f act t) 6 0).getD 0
  t.ws f.d.toNat (if ty = 0 then (BitVec.ofNat 32 v).signExtend 64 else BitVec.ofNat 64 v)

/-- The value that SCAN gives lane `i` (R34, R115). -/
def scanAt (f : Fields) (act : Mask) (t : Troupe) (i : Nat) : Nat :=
  let opn := f.xn % 16
  let ty := bitsOf f.xn 7 4
  let n := if f.var = 1 then i else i + 1
  (prefixFold (treeOp opn ty (bitsOf f.xn 10 8)) (treeLeaf f act t) 6 0 n none).getD (treeIdentity opn ty)

/-- SCAN (R115). -/
def scanRun (f : Fields) (act : Mask) (t : Troupe) : Troupe :=
  if treeWide (bitsOf f.xn 7 4) then t.wpair f.d.toNat act fun l => BitVec.ofNat 64 (scanAt f act t l)
  else t.wv f.d.toNat act fun l => BitVec.ofNat 32 (scanAt f act t l)

/-- PLOP. -/
def execPlop (f : Fields) (s : State) : Out := laneStep f s (plopRun f)
/-- VOTE. -/
def execVote (f : Fields) (s : State) : Out := laneStep f s (voteRun f)
/-- ELECT. -/
def execElect (f : Fields) (s : State) : Out := laneStep f s (electRun f)
/-- MATCH. -/
def execMatch (f : Fields) (s : State) : Out := laneStep f s (matchRun f)
/-- SHFL. -/
def execShfl (f : Fields) (s : State) : Out := laneStep f s (shflRun f)
/-- REDUX. -/
def execRedux (f : Fields) (s : State) : Out := laneStep f s (reduxRun f)
/-- SCAN. -/
def execScan (f : Fields) (s : State) : Out := laneStep f s (scanRun f)

end Sys2Proof.Machine
end

