-- ==== Sys2Proof/Machine/Translation.lean ====
section
/-!
DEFINITION. Contexts, page tables, translation buffers and generations (R318 to R331, R376, R377, R420), and the checks
an access passes where it is performed.
-/
namespace Sys2Proof.Machine

/-- What an access does, for the rights it needs (R330). -/
inductive AccKind where
  | read
  | write
  | both
  | fetch
  deriving DecidableEq, Repr, Inhabited

/-- Who makes an access: an agent of a core, or an engine of a die (R320). -/
inductive Agent where
  | core (c : Nat)
  | die (d : Nat)
  deriving DecidableEq, Repr, Inhabited

/-- A fault as it is found (R74, R75, R330, R331). -/
structure FaultInfo where
  cls : Nat
  detail : Nat := 0
  addr : W64 := 0
  pa : Nat := 0
  fgen : Nat := 0
  cgen : Nat := 0
  /-- A TRANSLATION fault that no service can mend (R143). -/
  unmappable : Bool := false
  /-- The granule to fill, PA / 4096 plus 1 (R346). -/
  granule : Nat := 0
  /-- The graph item that was being read, as in a residency request (R347). -/
  item : Nat := 0
  graph : Bool := false
  write : Bool := false
  fetch : Bool := false
  /-- `addr` is a scratchpad address or an accumulator element index, no virtual address (R335). -/
  scratch : Bool := false
  deriving DecidableEq, Repr, Inhabited

/-- The outcome of translating or checking an access. -/
inductive Acc (α : Type) where
  | ok (x : α)
  | fault (f : FaultInfo)
  /-- The access waits: for an ATS completion, a lock, a fill or a token. -/
  | wait
  deriving DecidableEq, Repr, Inhabited

/-- DETAIL bits [4] and [5] (R331). -/
def AccKind.bits (k : AccKind) : Nat :=
  match k with
  | .read => 0
  | .write => 16
  | .both => 16
  | .fetch => 32

/-- Bits [63:57] equal bit 56 (R79, R143). -/
def canonical (va : W64) : Bool :=
  let top := va.toNat / 2 ^ 56
  top == 0 || top == 255

/-! ### Context descriptors (R318, R420) -/

/-- A descriptor from its 64 bytes. -/
def descOfBytes (b : List Nat) : CtxDesc :=
  { root := BitVec.ofNat 64 (fieldOf b 0 8), pasid := fieldOf b 8 4 % 2 ^ 20, valid := (fieldOf b 12 4).testBit 0,
    tlbiok := (fieldOf b 12 4).testBit 1, trvec := BitVec.ofNat 64 (fieldOf b 16 8) }

/-- The address of a descriptor (R318). -/
def State.descAddr (s : State) (c : Nat) : Nat := (s.reg 8).toNat % 2 ^ 52 + 64 * c

/-- The descriptor of a context as the part has last read it; before any read, as it stands in memory, and an address in no
window is not read (R318, R420). -/
def State.descriptor (s : State) (c : Nat) : Option CtxDesc :=
  match (s.ctx c).desc with
  | some d => some d
  | none => if (s.window (s.descAddr c)).isNone then none else some (descOfBytes (s.peek (s.descAddr c) 64))

/-! ### Page tables (R319, R322, R323) -/

/-- Reads a table entry by physical address at its current copy. -/
def State.readTable (s : State) (level pa : Nat) : Acc W64 :=
  match s.window pa with
  | none => .fault { cls := 4, detail := 8, pa := pa }
  | some w =>
    if s.mtOf w = 0 && !s.granulePresent pa && !(s.sline (pa / 128)).present && (s.owner (pa / 128)).isNone then
      .fault { cls := 2, detail := 8 + level, pa := pa, granule := pa / 4096 + 1 }
    else .ok (BitVec.ofNat 64 (s.peekNat pa 8))

/-- log2 of the bytes an entry of a level maps. -/
def levelShift (level : Nat) : Nat := 12 + 9 * level

/-- An entry with V = 1 that is read for an address keeps the layout of R319 at its level; a 64 KiB page is aligned, so the
entry of its page `i` has PFN[3:0] = `i` (log entry 60). -/
def entryOk (level e va : Nat) : Bool :=
  let leaf := bitOf e 1
  let pfn := bitsOf e 51 12
  bitsOf e 11 9 == 0 && bitsOf e 63 52 == 0 && bitsOf e 6 5 != 3
    && (level != 0 || leaf) && (level < 3 || !leaf) && (level == 0 || !bitOf e 7)
    && (level == 0 || !leaf || pfn % 2 ^ (9 * level) == 0)
    && (!(level == 0 && bitOf e 7) || pfn % 16 == va / 4096 % 16)

/-- The translation that a leaf gives. -/
def leafEntry (ctx cgen level e va : Nat) : TlbEntry :=
  let contig := level == 0 && bitOf e 7
  let size := if contig then 16 else levelShift level
  let page := 4096 * bitsOf e 51 12
  let within := if contig then va / 4096 % 16 * 4096 else 0
  { ctx := ctx, cgen := cgen, va := va / 2 ^ size * 2 ^ size, size := size, pa := (page + 2 ^ 52 - within) % 2 ^ 52,
    r := bitOf e 2, w := bitOf e 3, x := bitOf e 4, mt := bitsOf e 6 5, graph := bitOf e 8, frame := 0, fgen := 0, group := 0 }

/-- The group entry of the half line that holds a 2 MiB leaf: its 16 MiB block and the pages that belong (R320). -/
def State.groupEntry (s : State) (ctx cgen e va entryPa : Nat) : TlbEntry :=
  let x := leafEntry ctx cgen 1 e va
  let i0 := va / 2 ^ 21 % 8
  let base := x.pa + 2 ^ 52 - i0 * 2 ^ 21
  let half := entryPa / 64 * 64
  let member := fun i =>
    let g := s.peekNat (half + 8 * i) 8
    bitOf g 0 && bitOf g 1 && entryOk 1 g va && 4096 * bitsOf g 51 12 == (base + i * 2 ^ 21) % 2 ^ 52
      && bitsOf g 6 2 == bitsOf e 6 2 && bitOf g 8 == bitOf e 8
  let mask := (List.range 8).foldl (fun m i => if member i then m + 2 ^ i else m) 0
  { x with va := va / 2 ^ 24 * 2 ^ 24, size := 24, pa := base % 2 ^ 52, group := mask }

/-- What a valid or invalid table entry says at its level: a leaf, the next table, or the fault of the walk (R319, R323). -/
inductive Walked where
  | leaf (e : TlbEntry)
  | table (pa : Nat)
  | fault (f : FaultInfo)
  deriving DecidableEq, Repr

/-- Reads one entry of a walk (R319, R320, R323). -/
def State.walkEntry (s : State) (ctx cgen va level pa e : Nat) : Walked :=
  if !bitOf e 0 then .fault { cls := 1, detail := level }
  else if !entryOk level e va then .fault { cls := 7, detail := 8 + level, pa := pa }
  else if level = 0 then .leaf (leafEntry ctx cgen 0 e va)
  else if bitOf e 1 then .leaf (if level = 1 then s.groupEntry ctx cgen e va pa else leafEntry ctx cgen level e va)
  else .table (4096 * bitsOf e 51 12)

/-- The address of the entry of an address in a table. -/
def entryAddr (table level va : Nat) : Nat := table + 8 * (va / 2 ^ levelShift level % 512)

/-- The walk from a level down, as the tables stand (R319). -/
def State.walkFrom (s : State) (ctx cgen va : Nat) : Nat → Nat → Acc TlbEntry
  | 0, table => go 0 table (fun _ => .fault { cls := 7 })
  | level + 1, table => go (level + 1) table (fun next => State.walkFrom s ctx cgen va level next)
where
  go (level table : Nat) (next : Nat → Acc TlbEntry) : Acc TlbEntry :=
    match s.readTable level (entryAddr table level va) with
    | .fault f => .fault f
    | .wait => .wait
    | .ok w => match s.walkEntry ctx cgen va level (entryAddr table level va) w.toNat with
      | .leaf e => .ok e
      | .table pa => next pa
      | .fault f => .fault f

/-- The walk of a context's tables for an address (R319). -/
def State.walk (s : State) (ctx : Nat) (va : W64) : Acc TlbEntry :=
  match s.descriptor ctx with
  | none => .fault { cls := 4, detail := 8, pa := s.descAddr ctx }
  | some d => s.walkFrom ctx (s.ctx ctx).cgen (va.toNat % 2 ^ 57) 4 d.root.toNat

/-! ### Translation buffers (R320, R321) -/

/-- An entry serves an address of a context. -/
def TlbEntry.hits (e : TlbEntry) (ctx va : Nat) : Bool :=
  e.ctx == ctx && va / 2 ^ e.size == e.va / 2 ^ e.size && (e.group == 0 || e.group.testBit (va / 2 ^ 21 % 8))

/-- The physical address an entry gives. -/
def TlbEntry.physical (e : TlbEntry) (va : Nat) : Nat := (e.pa + va % 2 ^ e.size) % 2 ^ 52

/-- The entry of the first two levels for one page or 64 KiB span (R320). -/
def TlbEntry.small (e : TlbEntry) (va frame fgen : Nat) : TlbEntry :=
  let size := if e.size = 12 then 12 else 16
  { e with va := va / 2 ^ size * 2 ^ size, size := size, pa := e.physical va / 2 ^ size * 2 ^ size,
           frame := frame, fgen := fgen, group := 0 }

/-- Puts an entry first in a buffer of `n` entries, dropping what it replaces. -/
def tlbPut (n : Nat) (l : List TlbEntry) (e : TlbEntry) : List TlbEntry :=
  (e :: l.filter fun x => !(x.ctx == e.ctx && x.va == e.va && x.size == e.size)).take n

/-- The last level of a die. -/
def State.putLast (s : State) (d : Nat) (e : TlbEntry) : State := s.modDie d fun x => { x with tlb := tlbPut 32768 x.tlb e }

/-- The first two levels of an agent; an engine of a die has neither (R320). -/
def State.putSmall (s : State) (a : Agent) (fetch : Bool) (e : TlbEntry) : State :=
  match a with
  | .die _ => s
  | .core c =>
    let s := s.modCore c fun x =>
      if fetch then { x with itlb := tlbPut 16 x.itlb e } else { x with tlb := tlbPut 64 x.tlb e }
    s.modRing (ringOf c) fun x => { x with tlb := tlbPut 2048 x.tlb e }

/-- The die of an agent. -/
def Agent.die' : Agent → Nat
  | .core c => dieOf c
  | .die d => d

/-- The first level's entry for an address, and the second's. -/
def State.lookFirst (s : State) (a : Agent) (fetch : Bool) (ctx va : Nat) : Option TlbEntry :=
  match a with
  | .die _ => none
  | .core c => (if fetch then (s.core c).itlb else (s.core c).tlb).find? (·.hits ctx va)
def State.lookSecond (s : State) (a : Agent) (ctx va : Nat) : Option TlbEntry :=
  match a with
  | .die _ => none
  | .core c => (s.ring (ringOf c)).tlb.find? (·.hits ctx va)

/-- Puts an entry that the second level gave into the first (R321). -/
def State.putFirst (s : State) (a : Agent) (fetch : Bool) (e : TlbEntry) : State :=
  match a with
  | .die _ => s
  | .core c => s.modCore c fun x =>
      if fetch then { x with itlb := tlbPut 16 x.itlb e } else { x with tlb := tlbPut 64 x.tlb e }

/-- The frame that serves new translations of a span: one that is not being reclaimed (R321, R351). -/
def State.liveFrame (s : State) (pa : Nat) : Option Nat :=
  match s.frameOf pa with
  | some f => if (s.frame f).fstate = 1 then some f else none
  | none => none

/-- The walk or the ATS request in flight that covers an address (R322). -/
def Die.walkOf (d : Die) (ctx va : Nat) : Option Walk := d.walks.find? fun w => w.ctx == ctx && w.page == va / 4096

/-- The ATS requests of the package in flight (R383). -/
def State.atsLoad (s : State) : Nat := (s.dies.map fun e => (e.2.walks.filter fun w => w.ats && w.found.isNone).length).foldl (· + ·) 0

/-- Changes the walk of a page. -/
def State.modWalk (s : State) (d ctx page : Nat) (f : Walk → Option Walk) : State :=
  s.modDie d fun x => { x with walks := x.walks.filterMap fun w => if w.ctx == ctx && w.page == page then f w else some w }

/-- The fault that a walk found, as its accesses take it. -/
def Park.found (p : Park) : FaultInfo :=
  { cls := p.cls, detail := p.detail, pa := p.pa, granule := p.granule, graph := p.graph, cgen := p.cgen, fgen := p.fgen }

/-- A fault as a walk keeps it. -/
def FaultInfo.keep (f : FaultInfo) : Park :=
  { (default : Park) with
    cls := f.cls, detail := f.detail, pa := f.pa, granule := f.granule, graph := f.graph, cgen := f.cgen, fgen := f.fgen }

/-- The last level's answer for an address (R321, R322, R324, R383): a miss starts a walk or an ATS request, joins the one in
flight, or waits while 64 are; the fault that one has found goes to the next access that asks. -/
def State.lastLevel (s : State) (a : Agent) (ctx : Nat) (va : W64) : Acc TlbEntry × State :=
  let v := va.toNat % 2 ^ 57
  match (s.die a.die').tlb.find? (·.hits ctx v) with
  | some e => (.ok e, s)
  | none =>
    match (s.die a.die').walkOf ctx v with
    | some w => match w.found with
      | some p => (.fault p.found, s.modWalk a.die' ctx (v / 4096) fun _ => none)
      | none => (.wait, s)
    | none =>
      if (if s.walkAts then s.atsLoad else ((s.die a.die').walks.filter fun w => !w.ats).length) < 64 then
        let w : Walk := { ctx := ctx, page := v / 4096, found := none, ats := s.walkAts, old := 0 }
        (.wait, s.modDie a.die' fun x => { x with walks := x.walks ++ [w] })
      else (.wait, s)

/-- The entry of the first two levels that an answer of the last level gives; for MT 0 the frame of the span is looked up, and
the memory type of an ATS completion is that of the window (R321, R324). -/
def State.frameEntry (s : State) (e : TlbEntry) (v : Nat) : Acc TlbEntry :=
  let pa := e.physical v
  let e := if e.mt = 3 then { e with mt := ((s.window pa).map s.mtOf).getD 3 } else e
  if e.mt = 0 then
    match s.liveFrame pa with
    | none => .fault { cls := 2, pa := pa, granule := pa / 4096 + 1, graph := e.graph, cgen := e.cgen }
    | some f => .ok (e.small v (f + 1) (s.frame f).fgen)
  else .ok (e.small v 0 0)

/-- A first-level entry that names a frame has been installed: the frame's ACCESSED is set (R345). -/
def State.installed (s : State) (a : Agent) (e : TlbEntry) : State :=
  match a with
  | .die _ => s
  | .core _ => if e.frame = 0 then s else s.modFrame (e.frame - 1) fun y => { y with accessed := true }

/-- Translates an address (R321): the entry that serves it, installed at every level that the answer passed. An entry of the
first two levels that names a frame sets the frame's ACCESSED (R345). -/
def State.translate (s : State) (a : Agent) (fetch : Bool) (ctx : Nat) (va : W64) : Acc TlbEntry × State :=
  let v := va.toNat % 2 ^ 57
  if !canonical va then (.fault { cls := 1, unmappable := true }, s)
  else match s.lookFirst a fetch ctx v with
    | some e => (.ok e, s)
    | none => match s.lookSecond a ctx v with
      | some e => (.ok e, (s.putFirst a fetch e).installed a e)
      | none => match s.lastLevel a ctx va with
        | (.ok e, s) => match s.frameEntry e v with
          | .ok x => (.ok x, (s.putSmall a fetch x).installed a x)
          | r => (r, s)
        | r => r

/-- The entry of the last level that would serve an address as everything stands; no state changes. -/
def State.resolveLast (s : State) (a : Agent) (ctx : Nat) (va : W64) : Option TlbEntry :=
  if !canonical va then none
  else match (s.die a.die').tlb.find? (·.hits ctx (va.toNat % 2 ^ 57)) with
    | some e => some e
    | none => if s.walkAts then none else match s.walk ctx va with | .ok e => some e | _ => none

/-- The entry that would serve an address as everything stands; no state changes. -/
def State.resolve (s : State) (a : Agent) (ctx : Nat) (va : W64) : Option TlbEntry :=
  let v := va.toNat % 2 ^ 57
  if !canonical va then none
  else (s.lookFirst a false ctx v).orElse fun _ => (s.lookSecond a ctx v).orElse fun _ =>
    (s.resolveLast a ctx va).bind fun e => match s.frameEntry e v with | .ok x => some x | _ => none

/-- What a walk or an ATS request has found goes to the accesses that ask in the same cycle. -/
def State.dropFound (s : State) : State :=
  if s.dies.all fun e => e.2.walks.all fun w => w.found.isNone then s
  else { s with dies := s.dies.mapAll fun _ x => { x with walks := x.walks.filter fun w => w.found.isNone } }

/-- Every entry that an access could have used is dropped (R327). -/
def State.dropFor (s : State) (a : Agent) (ctx va : Nat) : State :=
  let keep := fun (l : List TlbEntry) => l.filter fun e => !e.hits ctx va
  let s := match a with
    | .die _ => s
    | .core c => (s.modCore c fun x => { x with tlb := keep x.tlb, itlb := keep x.itlb }).modRing (ringOf c) fun x =>
        { x with tlb := keep x.tlb }
  s.modDie a.die' fun x => { x with tlb := keep x.tlb }

/-- An entry of a context meets a block; no block stands for all of them (R342). -/
def meetsBlock (ctx : Nat) (blk : Option (Nat × Nat)) (c va size : Nat) : Bool :=
  c == ctx && (match blk with
    | none => true
    | some (b, n) =>
      let m := max n size
      b / 2 ^ m == va / 2 ^ m)

/-- Drops, at every level and in every walk cache of the package, the entries of a context whose span meets a block; walks and
ATS requests in flight that meet it are restarted (R342). -/
def State.dropBlock (s : State) (ctx : Nat) (blk : Option (Nat × Nat)) : State :=
  let keep := fun (l : List TlbEntry) => l.filter fun e => !meetsBlock ctx blk e.ctx e.va e.size
  let again := fun (w : Walk) =>
    if !meetsBlock ctx blk w.ctx (4096 * w.page) 12 then some w
    else if w.found.isSome then none
    else some { w with old := if w.ats then w.old + 1 else w.old }
  { s with cores := s.cores.mapAll fun _ x => { x with tlb := keep x.tlb, itlb := keep x.itlb }
           rings := s.rings.mapAll fun _ x => { x with tlb := keep x.tlb }
           dies := s.dies.mapAll fun _ x => { x with
             tlb := keep x.tlb
             walks := x.walks.filterMap again
             upper := x.upper.filter fun e => !meetsBlock ctx blk e.ctx (e.index * 2 ^ levelShift e.level) (levelShift e.level) } }

/-- An access in flight carries the generation that an advance of the context's would reach (R329). -/
def State.carries (s : State) (ctx cgen : Nat) : Bool := s.flights.any fun f => f.entry.ctx == ctx && f.entry.cgen == cgen % 256

/-- The advance of a context's generation has to wait (R329). -/
def State.genHold (s : State) (ctx : Nat) : Bool := s.carries ctx ((s.ctx ctx).cgen + 1)

/-- Advances a context's generation; every translation of it is dropped (R329). -/
def State.bumpCgen (s : State) (ctx : Nat) : State :=
  (s.modCtx ctx fun x => { x with cgen := (x.cgen + 1) % 256 }).dropBlock ctx none

/-- The accesses in flight that use an entry of a context that meets a block (R342). -/
def State.usersOf (s : State) (ctx : Nat) (blk : Option (Nat × Nat)) : List Flight :=
  s.flights.filter fun f => meetsBlock ctx blk f.entry.ctx f.entry.va f.entry.size

/-- Some of the accesses is still in flight (R342). -/
def State.inFlight (s : State) (l : List Flight) : Bool :=
  l.any fun w => s.flights.any fun f => f.who == w.who && f.line == w.line && f.entry == w.entry

/-! ### Checks of an access (R326, R330, R377) -/

/-- The translation grants the rights, and its window agrees with its memory type (R330, R377). -/
def State.rights (s : State) (e : TlbEntry) (pa : Nat) (k : AccKind) : Option FaultInfo :=
  let bad := fun (d : Nat) => some { cls := 4, detail := d, pa := pa, cgen := e.cgen, fgen := e.fgen : FaultInfo }
  if (k = .read || k = .both) && !e.r then bad 2
  else if (k = .write || k = .both) && !e.w then bad 3
  else if k = .fetch && !e.x then bad 4
  else match s.window pa with
    | none => bad 8
    | some w => if s.mtOf w ≠ e.mt && e.mt ≠ 3 then bad 7 else none

/-- The generations an access carries are current (R326). -/
def State.staleOf (s : State) (e : TlbEntry) : Nat :=
  (if e.frame != 0 && (s.frame (e.frame - 1)).fgen != e.fgen then 1 else 0) + (if (s.ctx e.ctx).cgen != e.cgen then 2 else 0)

/-- A region of this package that another one owns leaves an access waiting for its recall (R387). -/
def State.dirBusy (s : State) (pa : Nat) : Bool :=
  match (s.fabric.dir.read (pa / 2048)).state with
  | .u | .s => false
  | .o => true

/-- The line has an uncorrectable error where its current copy lies: in the slice or the owner's L1, or in its frame (R352). -/
def State.lost (s : State) (l : Nat) : Bool :=
  s.lineErr.read l || (!((s.sline l).present || (s.owner l).isSome) && (match s.frameOf (128 * l) with
    | some f => (s.frame f).errs.contains l
    | none => false))

/-- The line can be served at its home: generations, residency, errors, locks and other packages' copies (R310, R326, R330, R352, R387). -/
def State.homeCheck (s : State) (e : TlbEntry) (pa : Nat) (k : AccKind) : Acc Nat :=
  let l := pa / 128
  let held := (s.sline l).present || (s.owner l).isSome
  if s.staleOf e ≠ 0 then .fault { cls := 3, detail := s.staleOf e, pa := pa, cgen := e.cgen, fgen := e.fgen }
  else if e.mt = 0 && !held && !s.granulePresent pa then
    .fault { cls := 2, detail := k.bits, pa := pa, granule := pa / 4096 + 1, graph := e.graph, cgen := e.cgen, fgen := e.fgen }
  else if s.lost l then .fault { cls := 6, pa := pa, cgen := e.cgen, fgen := e.fgen }
  else if (s.sline l).lock ≠ 0 || s.dirBusy pa then .wait
  else .ok pa

/-- Adds to a fault what the access knows of it. -/
def FaultInfo.at (f : FaultInfo) (va : W64) (k : AccKind) : FaultInfo :=
  { f with addr := va, write := k = .write || k = .both, fetch := k = .fetch,
           detail := if f.cls = 1 ∨ f.cls = 2 ∨ f.cls = 7 then f.detail ||| k.bits else f.detail }

/-- Translates an address and checks its rights: the entry and the physical address. -/
def State.access (s : State) (a : Agent) (ctx : Nat) (va : W64) (k : AccKind) : Acc (TlbEntry × Nat) × State :=
  match s.translate a (k = .fetch) ctx va with
  | (.ok e, s) =>
    let pa := e.physical (va.toNat % 2 ^ 57)
    match s.rights e pa k with
    | some f => (.fault (f.at va k), s)
    | none => (.ok (e, pa), s)
  | (.fault f, s) => (.fault ({ f with cgen := (s.ctx ctx).cgen }.at va k), s)
  | (.wait, s) => (.wait, s)

/-- An access that is made at the home: by an engine, an atomic, or with .NL1. -/
def State.accessHome (s : State) (a : Agent) (ctx : Nat) (va : W64) (k : AccKind) : Acc (TlbEntry × Nat) × State :=
  match s.access a ctx va k with
  | (.ok (e, pa), s) =>
    match s.homeCheck e pa k with
    | .ok _ => (.ok (e, pa), s)
    | .fault f => (.fault (f.at va k), s)
    | .wait => (.wait, s)
  | r => r

/-- Checks `n` bytes from `va` upward for an access at the home; the physical address of each byte. -/
def State.accessBytes (s : State) (a : Agent) (ctx : Nat) (k : AccKind) : W64 → Nat → Acc (List Nat) × State
  | _, 0 => (.ok [], s)
  | va, n + 1 =>
    match s.accessHome a ctx va k with
    | (.ok (_, pa), s) =>
      match State.accessBytes s a ctx k (va + 1) n with
      | (.ok l, s) => (.ok (pa :: l), s)
      | r => r
    | (.fault f, s) => (.fault f, s)
    | (.wait, s) => (.wait, s)

end Sys2Proof.Machine
end

