-- ==== Sys2Proof/Machine/Deliver.lean ====
section
/-!
DEFINITION. Operations in flight: their elements and bytes, the values they deliver to registers, and their end (R46, R51,
R76 to R78, R96, R144, R152, R167).
-/
namespace Sys2Proof.Machine

/-! ### Elements and bytes -/

/-- The operation with launch site `q` in slot `k`. -/
def State.op (s : State) (k q : Nat) : Option MemOp := (s.tr k).ops.find? fun o => o.seq == q
/-- Puts an operation back. -/
def State.setOp (s : State) (k : Nat) (o : MemOp) : State :=
  s.modTr k fun t => { t with ops := t.ops.map fun x => if x.seq == o.seq then o else x }

/-- The elements of an operation in ascending lane and element order. -/
def MemOp.keys (o : MemOp) : List Nat :=
  if o.single then [0]
  else (lanes.filter (inMask o.act)).flatMap fun l => (List.range o.elems).map fun j => l + 64 * j

/-- Every byte of an element. -/
def MemOp.full (o : MemOp) : Nat := 2 ^ o.size - 1
/-- An element has been performed whole. -/
def MemOp.keyDone (o : MemOp) (key : Nat) : Bool := o.prog.read key == o.full
/-- Every element has been performed. -/
def MemOp.allDone (o : MemOp) : Bool := o.keys.all o.keyDone
/-- The lanes all of whose elements are performed (R152). -/
def MemOp.doneLanes (o : MemOp) : Mask :=
  if o.single then 0
  else maskOf fun l => inMask o.act l && (List.range o.elems).all fun j => o.keyDone (l + 64 * j)
/-- Marks bytes of an element as performed. -/
def MemOp.mark (o : MemOp) (key bits : Nat) : MemOp := { o with prog := o.prog.write key (o.prog.read key ||| bits) }
/-- Recomputes DONE. -/
def MemOp.settle (o : MemOp) : MemOp := { o with done := o.doneLanes }

/-- Whether an instruction's accesses go to scratchpad by their plain form (R133). -/
def isScratchOp : Instr → Bool
  | .lds _ | .sts _ | .atoms _ | .bar _ | .bara _ => true
  | .tsadd f => bitOf f.mdn 0
  | .tswait f => bitOf f.mdn 0
  | .tsread f => bitOf f.mdn 0
  | _ => false

/-- The address of byte `i` of an element. -/
def MemOp.byteVa (o : MemOp) (key i : Nat) : W64 :=
  let a := o.addr.read key + BitVec.ofNat 64 i
  if isScratchOp o.ins then (a.setWidth 32).setWidth 64 else a

/-- The bytes of an element that have not been performed. -/
def MemOp.undone (o : MemOp) (key : Nat) : List Nat :=
  (List.range o.size).filter fun i => !(o.prog.read key).testBit i

/-! ### Values (R131, R141, R144) -/

/-- The register value of a loaded element. -/
def loadValue (f : Fields) (bytes : Nat) (upper : Bool) : Nat :=
  let fmt := bitsOf f.mdn 5 1
  if !bitOf f.mdn 0 then bytes
  else
    let n := fmtBits fmt
    let raw := if n = 4 then (if upper then bytes / 16 % 16 else bytes % 16) else bytes
    if 32 ≤ n then raw
    else match intFmt fmt with
      | some (w, true) => wrapTo 32 (signedOf w raw)
      | some (w, false) => raw % 2 ^ w
      | none => convertTo 0 0 0 false false (decodeFmt fmt raw)

/-- The bytes, or the nibble, that a store of a register value writes; `draw` is its stochastic draw (R144). -/
def storeValue (f : Fields) (draw reg : Nat) : Nat :=
  let fmt := bitsOf f.mdn 5 1
  let rm := bitsOf f.xn 30 28
  let sat := bitOf f.xn 31
  if !bitOf f.mdn 0 then reg
  else if 32 ≤ fmtBits fmt then reg
  else match intFmt fmt with
    | some (_, true) => convertTo fmt rm draw false sat (.int (signedOf 32 reg))
    | some (_, false) => convertTo fmt rm draw false sat (.int ((reg % 2 ^ 32 : Nat) : Int))
    | none => convertTo fmt rm draw sat false (.flt (fp32.decode reg))

/-- The value of a scalar load (R131). -/
def scalarLoadValue (f : Fields) (bytes : Nat) : Nat :=
  match f.var with
  | 2 => wrapTo 64 (signedOf 8 bytes)
  | 4 => wrapTo 64 (signedOf 16 bytes)
  | 6 => wrapTo 64 (signedOf 32 bytes)
  | _ => bytes

/-- The register value that an element delivers. -/
def MemOp.val (o : MemOp) (key : Nat) : Nat :=
  match o.ins with
  | .ld f | .lds f | .gath f => loadValue f (o.got.read key) (o.nib.read key)
  | .sld f | .sldc f => scalarLoadValue f (o.got.read key)
  | .dcas _ | .amov _ | .mcas _ => (o.locks.read (key % 64)).result
  | _ => o.got.read key

/-- The body of an instruction whose operand lies in the constant bank (R46). -/
def bankBody : Instr → Option Body
  | .mov f => if f.kind = 3 then some (movBody f) else none
  | .iadd f => if f.kind = 3 then some (iaddBody f) else none
  | .isub f => if f.kind = 3 then some (isubBody f) else none
  | .imul f => if f.kind = 3 then some (imulBody f) else none
  | .imulh f => if f.kind = 3 then some (imulhBody f) else none
  | .imad f => if f.kind = 3 then some (imadBody f) else none
  | .imin f => if f.kind = 3 then some (iminBody f) else none
  | .imax f => if f.kind = 3 then some (imaxBody f) else none
  | .iabs f => if f.kind = 3 then some (iabsBody f) else none
  | .ineg f => if f.kind = 3 then some (inegBody f) else none
  | .isetp f => if f.kind = 3 then some (isetp32Body f) else none
  | .sel f => if f.kind = 3 then some (selBody f) else none
  | .shl f => if f.kind = 3 then some (shlBody f) else none
  | .shr f => if f.kind = 3 then some (shrBody f) else none
  | .sar f => if f.kind = 3 then some (sarBody f) else none
  | .shf f => if f.kind = 3 then some (shfBody f) else none
  | .popc f => if f.kind = 3 then some (popcBody f) else none
  | .clz f => if f.kind = 3 then some (clzBody f) else none
  | .ctz f => if f.kind = 3 then some (ctzBody f) else none
  | .brev f => if f.kind = 3 then some (brevBody f) else none
  | .bfe f => if f.kind = 3 then some (bfeBody f) else none
  | .bfi f => if f.kind = 3 then some (bfiBody f) else none
  | .prmt f => if f.kind = 3 then some (prmtBody f) else none
  | .idp4 f => if f.kind = 3 then some (idp4Body f) else none
  | .iadd64 f => if f.kind = 3 then some (iadd64Body f) else none
  | .isub64 f => if f.kind = 3 then some (isub64Body f) else none
  | .imadw f => if f.kind = 3 then some (imadwBody f) else none
  | .imad64 f => if f.kind = 3 then some (imad64Body f) else none
  | .isetp64 f => if f.kind = 3 then some (isetp64Body f) else none
  | .shl64 f => if f.kind = 3 then some (shl64Body f) else none
  | .shr64 f => if f.kind = 3 then some (shr64Body f) else none
  | .sar64 f => if f.kind = 3 then some (sar64Body f) else none
  | .fadd f => if f.kind = 3 then some (faddBody f) else none
  | .fmul f => if f.kind = 3 then some (fmulBody f) else none
  | .ffma f => if f.kind = 3 then some (ffmaBody f) else none
  | .fmin f => if f.kind = 3 then some (fminBody f) else none
  | .fmax f => if f.kind = 3 then some (fmaxBody f) else none
  | .fsetp f => if f.kind = 3 then some (fsetpBody f) else none
  | .frnd f => if f.kind = 3 then some (frndBody f) else none
  | .dadd f => if f.kind = 3 then some (daddBody f) else none
  | .dmul f => if f.kind = 3 then some (dmulBody f) else none
  | .dfma f => if f.kind = 3 then some (dfmaBody f) else none
  | .dmin f => if f.kind = 3 then some (dminBody f) else none
  | .dmax f => if f.kind = 3 then some (dmaxBody f) else none
  | .dsetp f => if f.kind = 3 then some (dsetpBody f) else none
  | .hadd2 f => if f.kind = 3 then some (hadd2Body f) else none
  | .hmul2 f => if f.kind = 3 then some (hmul2Body f) else none
  | .hfma2 f => if f.kind = 3 then some (hfma2Body f) else none
  | .hmin2 f => if f.kind = 3 then some (hmin2Body f) else none
  | .hmax2 f => if f.kind = 3 then some (hmax2Body f) else none
  | .hsetp2 f => if f.kind = 3 then some (hsetp2Body f) else none
  | .frcp f => if f.kind = 3 then some (frcpBody f) else none
  | .frsq f => if f.kind = 3 then some (frsqBody f) else none
  | .fsqrt f => if f.kind = 3 then some (fsqrtBody f) else none
  | .fex2 f => if f.kind = 3 then some (fex2Body f) else none
  | .flg2 f => if f.kind = 3 then some (flg2Body f) else none
  | .fsin f => if f.kind = 3 then some (fsinBody f) else none
  | .fcos f => if f.kind = 3 then some (fcosBody f) else none
  | .drcp f => if f.kind = 3 then some (drcpBody f) else none
  | .smov f => if f.kind = 3 then some (smovBody f) else none
  | .sadd f => if f.kind = 3 then some (saddBody f) else none
  | .ssub f => if f.kind = 3 then some (ssubBody f) else none
  | .smul f => if f.kind = 3 then some (smulBody f) else none
  | .smad f => if f.kind = 3 then some (smadBody f) else none
  | .smin f => if f.kind = 3 then some (sminBody f) else none
  | .smax f => if f.kind = 3 then some (smaxBody f) else none
  | .sshl f => if f.kind = 3 then some (sshlBody f) else none
  | .sshr f => if f.kind = 3 then some (sshrBody f) else none
  | .ssar f => if f.kind = 3 then some (ssarBody f) else none
  | .ssetp f => if f.kind = 3 then some (ssetpBody f) else none
  | .ssel f => if f.kind = 3 then some (sselBody f) else none
  | _ => none

/-- The registers an operation writes when it ends; the lanes of `zero` were discarded and write zero (R77, R78). -/
def MemOp.deliver (o : MemOp) (zero : Mask) (t : Troupe) : Troupe :=
  let f := o.ins.fields
  let o := { o with act := o.act &&& ~~~(o.given.read 0) }
  let val := fun key => if inMask zero (key % 64) then 0 else o.val key
  match bankBody o.ins with
  | some body =>
    let res := fun (kind : FieldKind) (d : Nat) => (if zero = 0 then o.bankResult body kind d t else [] : Tbl Nat)
    let m := res o.ins.layout.d f.d.toNat
    let u := deliverTo o.ins.layout.d f.d.toNat o.level o.act m.read t
    match o.ins with
    -- both predicates come from the sources as captured
    | .hsetp2 f => let n := res .lanePred (f.d.toNat + 1); u.wp (f.d.toNat + 1) o.act (maskOf fun l => n.read l != 0)
    | _ => u
  | none =>
    match o.ins with
    | .dcas f =>
      (((t.wquad f.d.toNat o.act fun l => BitVec.ofNat 128 (o.val l)).wp (bitsOf f.xn 10 8) o.act
        (maskOf fun l => (o.locks.read l).ps)).wp (bitsOf f.xn 14 12) o.act (maskOf fun l => (o.locks.read l).pb))
    | .amov f =>
      (t.wpair f.d.toNat o.act fun l => BitVec.ofNat 64 (o.val l)).wp (bitsOf f.xn 14 12) o.act
        (maskOf fun l => (o.locks.read l).pb)
    | .mcas f => t.wpair f.d.toNat o.act fun l => BitVec.ofNat 64 (o.val l)
    | .gath f =>
      -- each element by itself: some may have been delivered by a restored image
      let act := fun (j : Nat) => (o.act ||| o.given.read 0) &&& ~~~(o.given.read j)
      (List.range o.elems).foldl (fun (t : Troupe) j =>
        deliverTo (match o.ins.layout.d with | .range _ => .vec | .strict _ => .vec | x => x) (f.d.toNat + j) o.level (act j)
          (fun l => val (l + 64 * j)) t) t
    | .qpop f =>
      let t := if o.readYet then deliverTo o.ins.layout.d f.d.toNat o.level o.act val t else t
      if bitOf f.mdn 2 then t.wp f.e.toNat o.act (if o.readYet && zero = 0 then -1 else 0) else t
    | i => deliverTo i.layout.d f.d.toNat o.level o.act val t

/-! ### The end of a troupe (R96, R167, R266) -/

/-- The company has nothing left to run: every troupe has ended and its calliope has exited (R167). -/
def State.companyOver (s : State) (k : Nat) : Bool :=
  let c := s.co k
  c.st == .resident && c.calliopeDone && (c.slots.all fun t => isCalliope t || (s.tr t).ended)

/-- No access of a troupe is in flight any more. -/
def State.endAll (s : State) (k : Nat) : State := { s with flights := s.flights.filter fun f => f.who.t != k }

/-- Empties the company's slots and frees its window; its stall banks are kept for the exit record (R88, R167, R220). -/
def State.releaseSlots (s : State) (k : Nat) : State :=
  let c := s.co k
  let bank := (c.slots.zip (List.range c.slots.length)).foldl (fun (m : Tbl Nat) p =>
    (List.range 16).foldl (fun (m : Tbl Nat) i => m.write (16 * p.2 + i) ((s.tr p.1).stalls.read i)) m) c.stallBank
  let s := c.slots.foldl (fun (s : State) t => (s.endAll t).setTr t default) s
  let s := [c.core, c.core + 1].foldl (fun (s : State) x =>
    if (s.core x).window = k + 1 then s.modCore x fun y => { y with window := 0 } else s) s
  s.modCo k fun x => { x with stallBank := bank }

/-- The core resources are released as soon as a company's troupes and calliope have ended (R167). -/
def State.releaseIfOver (s : State) (k : Nat) : State :=
  if s.companyOver k then (s.releaseSlots k).modCo k fun x => { x with st := .released } else s

/-- Every thread of a troupe has exited. -/
def Troupe.allExited (t : Troupe) : Bool := lanes.all fun l => t.pt.state l == .exited

/-- A troupe ends when every thread has exited and every record is free (R96); a summary is traced (R266). -/
def State.endCheck (s : State) (k : Nat) : State :=
  let t := s.tr k
  if t.resident && !t.ended && t.allExited && t.ops.all (fun o => o.recs.isEmpty) then
    let s := s.traceRec k 0x10 0 t.issueseq.toNat 0 t.summary s.clock
    let s := s.modTr k fun t => { t with ended := true, spotlit := false }
    let s := if isCalliope k then s.modCo t.company fun c => { c with calliopeDone := true } else s
    s.releaseIfOver t.company
  else s

/-! ### The end of an operation -/

/-- The acquire of a core: every clean line that it does not own leaves its L1 (R292). -/
def State.acquire (s : State) (c : Nat) : State :=
  s.modCore c fun x => { x with l1 := x.l1.filter fun e => e.2.owned }

/-- The acquire of a troupe: the drop takes 4 cycles (R292). -/
def State.acquireBy (s : State) (k : Nat) : State :=
  (s.acquire (coreOf k)).modTr k fun t => { t with orderUntil := s.clock + 4 }

/-- Threads of an operation leave WAIT (R181, R258); under a trap they do so in the shadow of the level they issued at. -/
def Troupe.wakeOp (t : Troupe) (o : MemOp) : Troupe :=
  if o.level = 0 ∧ t.level = 1 then { t with shadow := t.shadow.put o.run .ready }
  else t.wakeThreads o.run

/-- The outstanding counter an operation holds, if any (R186). -/
def counterOf : Instr → Option Nat
  | .cpl _ => some 0
  | .accrd _ | .accwr _ => some 1
  | .gath _ | .scat _ => some 2
  | _ => none

/-- The requests of an instruction or a command are no longer in flight. -/
def State.endFlights (s : State) (t q : Nat) : State :=
  { s with flights := s.flights.filter fun f => !(f.who.t == t && f.who.q == q) }

/-- An operation ends: its registers are written, its flags drop, its records are free, its counter falls, and an acquire
follows if it holds one (R51, R77, R151, R186). -/
def State.finish (s : State) (k : Nat) (o : MemOp) (zero : Mask) : State :=
  let s := s.modTr k fun t =>
    let t := (o.deliver zero t).drop o.flags
    let t := match counterOf o.ins with
      | some c => { t with oc := t.oc.write c (t.oc.read c - 1) }
      | none => t
    { t with ops := t.ops.filter fun x => x.seq != o.seq }
  let s := if o.acq && zero = 0 then s.acquireBy k else s
  (s.endFlights k o.seq).endCheck k

/-- Ends an operation when everything is done, or puts it back. -/
def State.finishOrKeep (s : State) (k : Nat) (o : MemOp) : State :=
  if o.allDone then s.finish k o.settle 0 else s.setOp k o.settle

end Sys2Proof.Machine
end

