-- ==== Sys2Proof/Machine/Faults.lean ====
section
/-!
DEFINITION. Snapshots and watchpoints as accesses meet them (R256 to R259, R268), scratchpad addresses (R133, R220), and
the service, the parking, the discard and the fatal end of what faults (R75 to R78, R330 to R338, R346).
-/
namespace Sys2Proof.Machine

/-! ### Snapshots and watchpoints -/

/-- A trigger from a source of SNAPCTL.SOURCE: it starts a snapshot, joins a pending one, or is ignored (R268). -/
def State.trigger (s : State) (src : Nat) : State :=
  if s.snap.lock then s
  else if s.snap.latchAt ≠ 0 then { s with snap := { s.snap with pendingSource := s.snap.pendingSource ||| 2 ^ src } }
  else { s with snap := { s.snap with latchAt := s.clock + 32, pendingSource := 2 ^ src } }

/-- Who makes an access that a watchpoint compares: the launch site pair, the troupe it is traced for, the core whose ring
a stop halts (R256, R259). -/
structure Accessor where
  ctx : Nat
  pc : W64
  seq : Nat
  troupe : Option Nat
  core : Option Nat
  /-- It is made by a replay (R266). -/
  again : Bool := false
  deriving DecidableEq, Repr, Inhabited

/-- The watched range: log2 of its bytes is LEN, and it holds ADDR (R255). -/
def Watch.base (w : Watch) : Nat :=
  let n := bitsOf w.ctl.toNat 9 5
  w.addr.toNat % 2 ^ 57 / 2 ^ n * 2 ^ n

/-- The lowest byte of an access of `n` bytes from `a` that lies in the watched range, when the access matches (R256). -/
def Watch.hits (w : Watch) (ctx : Nat) (rd wr : Bool) (a n : Nat) : Option Nat :=
  let c := w.ctl.toNat
  let lo := max a w.base
  if bitOf c 0 && bitsOf c 31 16 == ctx && ((rd && bitOf c 1) || (wr && bitOf c 2))
      && lo < a + n && lo < w.base + 2 ^ bitsOf c 9 5 then some lo
  else none

/-- Counts a hit and fills WPHIT when it is clear (R257). -/
def Watch.count (w : Watch) (by' : Accessor) (a clock : Nat) : Watch :=
  let n := min (w.ctl.toNat / 2 ^ 32 + 1) (2 ^ 32 - 1)
  let w := { w with ctl := BitVec.ofNat 64 (w.ctl.toNat % 2 ^ 32 + n * 2 ^ 32) }
  if w.hit then w
  else { w with hit := true, hitpc := by'.pc, hitseq := BitVec.ofNat 64 by'.seq, hitaddr := BitVec.ofNat 64 a,
                hitclock := BitVec.ofNat 64 clock }

/-- The troupes of a context on a ring. -/
def State.ringTroupes (s : State) (ctx ring : Nat) : List Nat :=
  (s.troupes.filter fun e => ringOf (coreOf e.1) == ring && e.2.resident && (s.co e.2.company).ctx == ctx).map (·.1)

/-- A stop of the accessor's ring sets out: core `c` is reached at `h + 4 + 3 k`; the hits of one cycle make one stop (R257, R259). -/
def State.stopRing (s : State) (ctx c0 : Nat) : State :=
  let ring := ringOf c0
  let dist := fun (c : Nat) => let d := if c < c0 % 8 then c0 % 8 - c else c - c0 % 8; min d (8 - d)
  let news := (List.range 8).map fun c => { ctx := ctx, core := 8 * ring + c, arrives := s.clock + 4 + 3 * dist c, hit := s.clock : Stop }
  if s.stops.any fun x => x.ctx == ctx && ringOf x.core == ring && x.hit == s.clock then s
  else
    let s := { s with stops := s.stops ++ news }
    (s.ringTroupes ctx ring).foldl (fun (s : State) k =>
      s.modTr k fun t => if t.hitAt = 0 then { t with hitAt := s.clock + 1, skid := 0 } else t) s

/-- Troupes that become resident while a stop is on its way count their issues too (R259). -/
def State.joinStops (s : State) (ks : List Nat) : State :=
  ks.foldl (fun (s : State) k =>
    match minList ((s.stops.filter fun x => x.ctx == s.ctxOf k && x.core == coreOf k).map (·.hit)) with
    | some h => s.modTr k fun t => { t with hitAt := h + 1, skid := 0 }
    | none => s) s

/-- What a hit does beyond its own registers: a trace record, a stop, a snapshot (R257, R266). -/
def State.hitActs (s : State) (w : Watch) (by' : Accessor) (a : Nat) : State :=
  let s := match by'.troupe with
    | some k => s.traceRec k 7 ((s.tr k).level + if by'.again then 2 else 0) by'.seq by'.pc.toNat a s.clock
    | none => s
  let s := match by'.core with
    | some c => if bitOf w.ctl.toNat 3 then s.stopRing by'.ctx c else s
    | none => s
  if bitOf w.ctl.toNat 4 then s.trigger 2 else s

/-- Compares a global access of an agent of die `d` with the die's eight watchpoints (R256). -/
def State.watchDie (s : State) (d : Nat) (by' : Accessor) (rd wr : Bool) (va : W64) (n : Nat) : State :=
  if !(s.ctx by'.ctx).debug then s
  else (List.range 8).foldl (fun (s : State) i =>
    let w := (s.die d).wps.read i
    match w.hits by'.ctx rd wr (va.toNat % 2 ^ 57) n with
    | none => s
    | some a => (s.modDie d fun x => { x with wps := x.wps.write i (w.count by' a s.clock) }).hitActs w by' a) s

/-- Compares an access at physical scratchpad offset `off` of core `c` with the ring's four watchpoints (R256, R259). -/
def State.watchRing (s : State) (c : Nat) (by' : Accessor) (rd wr : Bool) (off n : Nat) : State :=
  if !(s.ctx by'.ctx).debug then s
  else (List.range 4).foldl (fun (s : State) i =>
    let w := (s.ring (ringOf c)).wps.read i
    -- the offset is in ADDR[18:0] (R255)
    if bitsOf w.ctl.toNat 12 10 ≠ c % 8 then s
    else match { w with addr := w.addr &&& 0x7FFFF }.hits by'.ctx rd wr off n with
      | none => s
      | some a => (s.modRing (ringOf c) fun x => { x with wps := x.wps.write i (w.count by' a s.clock) }).hitActs w
          { by' with core := by'.core.map fun _ => c } a) s

/-- The accessor of an operation in flight. -/
def State.accessor (s : State) (k : Nat) (o : MemOp) : Accessor :=
  { ctx := s.ctxOf k, pc := o.pc, seq := o.seq, troupe := some k, core := some (coreOf k), again := o.replayed }

/-! ### Scratchpad addresses (R133, R220) -/

/-- The physical offset of a company's allocation on a core it stands on. -/
def Co.base (k : Co) (c : Nat) : Nat := if c = k.core then k.scrbase else k.fscrbase

/-- The core and physical offset of a scratchpad byte, for an access by company `k` on core `c`. -/
def State.scratchAt (s : State) (k c addr : Nat) : Acc (Nat × Nat) :=
  let bad := fun (d : Nat) => .fault { cls := 4, detail := d, addr := BitVec.ofNat 64 addr, scratch := true }
  let ofs := addr % 2 ^ 19
  let num := bitsOf addr 22 19
  if 2 ^ 24 ≤ addr then bad 5
  else if !bitOf addr 23 then
    if num ≠ 0 || (s.co k).scratch ≤ ofs || (s.co k).st == .released then bad 5 else .ok (c, (s.co k).base c + ofs)
  else if 8 ≤ num then bad 5
  else
    let tc := ringOf c * 8 + num
    let h := (s.core tc).window
    if h = 0 then bad 6
    else
      let co := s.co (h - 1)
      if co.ctx ≠ (s.co k).ctx || co.scratch ≤ ofs then bad 6
      else if co.st = .saving && !(co.group != 0 && co.group == (s.co k).group) then .wait
      else .ok (tc, co.base tc + ofs)

/-- Reads a scratchpad byte; a word in error gives DATA_LOST (R152). -/
def State.scratchRead (s : State) (k c addr : Nat) : Acc Byte :=
  match s.scratchAt k c addr with
  | .ok (tc, p) =>
    if (s.core tc).scrErr.read (p / 4) then .fault { cls := 6, addr := BitVec.ofNat 64 addr, scratch := true }
    else .ok ((s.core tc).scratch.read p)
  | .fault f => .fault f
  | .wait => .wait

/-- Writes a scratchpad byte by physical offset; the word is no longer in error (R152). -/
def State.scratchPut (s : State) (tc p : Nat) (b : Byte) : State :=
  s.modCore tc fun x => { x with scratch := x.scratch.write p b, scrErr := x.scrErr.write (p / 4) false }

/-- Reads `n` scratchpad bytes from an address upward as one number. -/
def State.scratchNat (s : State) (k c : Nat) : Nat → Nat → Acc Nat
  | _, 0 => .ok 0
  | addr, n + 1 =>
    match s.scratchRead k c addr with
    | .ok b => match State.scratchNat s k c ((addr + 1) % 2 ^ 32) n with
      | .ok r => .ok (b.toNat + 256 * r)
      | x => x
    | .fault f => .fault f
    | .wait => .wait

/-- Checks that `n` scratchpad bytes can be written. -/
def State.scratchOk (s : State) (k c : Nat) : Nat → Nat → Acc Unit
  | _, 0 => .ok ()
  | addr, n + 1 =>
    match s.scratchAt k c addr with
    | .ok _ => State.scratchOk s k c ((addr + 1) % 2 ^ 32) n
    | .fault f => .fault f
    | .wait => .wait

/-- Writes bytes from a scratchpad address upward, where they are allowed. -/
def State.scratchPoke (s : State) (k c : Nat) : Nat → List Nat → State
  | _, [] => s
  | addr, b :: bs =>
    let s := match s.scratchAt k c addr with
      | .ok (tc, p) => s.scratchPut tc p (BitVec.ofNat 8 b)
      | _ => s
    State.scratchPoke s k c ((addr + 1) % 2 ^ 32) bs

/-! ### Fault services (R75, R330 to R336, R346, R393) -/

/-- Who takes a fault: what its records name. -/
structure Site where
  unit : Nat
  ctx : Nat
  pc : W64
  seq : Nat
  key : Nat
  /-- VALUE of its records: the encore record, 0xFF for an engine record, 0xFE for a fetch (R335). -/
  value : Nat
  deriving DecidableEq, Repr, Inhabited

/-- A request is served before another: by batch, span, demand before prediction, granule (R346). -/
def FillReq.before (a b : FillReq) : Bool :=
  a.turn < b.turn || (a.turn == b.turn && (a.granule / 16 < b.granule / 16 || (a.granule / 16 == b.granule / 16 &&
    ((!a.pred && b.pred) || (a.pred == b.pred && a.granule < b.granule)))))

/-- Puts a request in its place among those that wait. -/
def placeReq (r : FillReq) (l : List FillReq) : List FillReq :=
  (l.takeWhile fun x => x.before r) ++ r :: l.dropWhile fun x => x.before r

/-- The frame of a span is being taken for it (R346, R351). -/
def State.taking (s : State) (span : Nat) : Bool := s.cache.frames.any fun e => e.2.newspan == span + 1

/-- A request for a granule (R346): it waits on a fill that is in flight or on its span's frame that is being taken, and else
joins the batch. -/
def State.askFill (s : State) (r : FillReq) : State :=
  let f := s.cache.fce
  if f.fills.any fun x => x.granule == r.granule then s
  else match f.waiting.find? fun x => x.granule == r.granule with
    | some x => if x.pred then s.modFce fun f => { f with waiting := placeReq { r with turn := x.turn } (f.waiting.filter (· != x)) } else s
    | none => match f.waiting.find? fun x => s.taking (r.granule / 16) && x.granule / 16 == r.granule / 16 with
      | some x => s.modFce fun f => { f with waiting := placeReq { r with turn := x.turn } f.waiting }
      | none => s.modFce fun f => { f with batch := f.batch ++ [r], opened := if f.batch.isEmpty then s.clock else f.opened }

/-- A restartable class, as the fault stands (R75, R393). -/
def FaultInfo.restartable (f : FaultInfo) : Bool :=
  !f.unmappable && (f.cls == 1 || f.cls == 2 || f.cls == 3 || (f.cls == 5 && (f.detail == 0 || f.detail == 2)))

/-- A record about a fault. -/
def Site.record (w : Site) (s : State) (f : FaultInfo) (type : Nat) : FRec :=
  let host := (f.cls == 1 || f.cls == 2) && (s.faultsvc || f.cls == 1)
  { type := type, cls := f.cls, unit := w.unit,
    rflags := (if f.write then 1 else 0) + (if f.fetch then 2 else 0) + (if f.restartable then 4 else 0) + (if host then 8 else 0),
    ctx := w.ctx, cgen := f.cgen, sitepc := w.pc, siteseq := w.seq, detail := f.detail, va := if f.scratch then 0 else f.addr, pa := f.pa,
    fgen := f.fgen, place := whereOf w.key, value := if type < 3 then BitVec.ofNat 64 w.value else if f.scratch then f.addr else 0 }

/-- The record of type 0x01 that LOGALL asks for (R335). -/
def State.logAll (s : State) (w : Site) (f : FaultInfo) : State :=
  if (s.reg 0x18).getLsbD 32 then
    (if s.frqSlots = 0 then s.frqLose else s.frqRaise (w.record s f 1))
  else s

/-- Starts the service that a fault's class gives it: what it leaves, pending, ready or fatal (R330, R335, R336). -/
def State.service (s : State) (w : Site) (f : FaultInfo) : Park × State :=
  let p : Park := {
    cls := f.cls, state := .pending, addr := f.addr, pa := f.pa, fgen := f.fgen, cgen := f.cgen,
    detail := f.detail, granule := f.granule, since := s.clock, write := f.write, graph := f.graph, item := f.item,
    scratch := f.scratch, host := s.faultsvc }
  let fatal := { p with state := .fatal }
  if !f.restartable then (fatal, s)
  else if f.cls = 3 then ({ p with state := .ready }, s.logAll w f)
  else if f.cls = 5 then (p, s.logAll w f)
  else if s.faultsvc then
    if (s.ctx w.ctx).prifail then (fatal, s) else (p, s.logAll w f)
  else if f.cls = 2 then
    (p, (s.askFill { granule := f.granule - 1, ctx := w.ctx, graph := f.graph, va := f.addr.toNat / 4096, item := f.item }).logAll w f)
  else if s.frqSlots = 0 then (fatal, s.frqLose)
  else (p, s.frqRaise (w.record s f 2))

/-- The fault as a record of its park names it. -/
def Park.info (p : Park) : FaultInfo :=
  { cls := p.cls, detail := p.detail, addr := p.addr, pa := p.pa, fgen := p.fgen, cgen := p.cgen, granule := p.granule, item := p.item,
    graph := p.graph, write := p.write, scratch := p.scratch, unmappable := p.state = .fatal }

/-! ### Operations that fault -/

/-- UNIT of an encore record (R74, R183). -/
def MemOp.unit (o : MemOp) : Nat :=
  match o.ins with
  | .atom _ | .red _ | .dcas _ | .amov _ | .mcas _ => 2
  | .tsadd f | .tswait f | .tsread f => if bitOf f.mdn 0 then 1 else 2
  | .tex _ | .texg _ | .texq _ => 3
  | .rayt _ | .rayr _ => 4
  | .cutsel _ => 5
  | .rast _ => 6
  | .sld _ | .sldc _ => 7
  | i => if (bankBody i).isSome then 7 else 1

/-- UNIT of a record to the host (R334): a CPL's is the copy engines'. -/
def MemOp.hostUnit (o : MemOp) : Nat := match o.ins with | .cpl _ => 9 | _ => o.unit

/-- The site of an operation. -/
def State.opSite (s : State) (k : Nat) (o : MemOp) : Site :=
  { unit := o.hostUnit, ctx := s.ctxOf k, pc := o.pc, seq := o.seq, key := k, value := o.recs.headD 0 }

/-- The lanes that a discard leaves unfinished. -/
def MemOp.zeroLanes (o : MemOp) : Mask := if o.single then -1 else o.act &&& ~~~o.doneLanes

/-- A QPOP that is discarded advances POPPED, where its header can be reached (R194). -/
def State.popOver (s : State) (k : Nat) (o : MemOp) : State :=
  let a := ((o.uni.headD 0).toNat + 4) % 2 ^ 32
  let c := coreOf k
  let co := (s.tr k).company
  match s.scratchNat co c a 4 with
  | .ok v =>
    let at' := (s.co co).base c + a
    let s := s.watchRing c (s.accessor k o) true false at' 4
    (s.scratchPoke co c a (leBytes 4 (v + 1))).watchRing c (s.accessor k o) false true at' 4
  | _ => s

/-- Results of a discarded locked operation: unfinished lanes change nothing and write their instruction's failure (R315). -/
def MemOp.failLanes (o : MemOp) : MemOp :=
  let r := match o.ins with | .mcas _ => 0x200 | _ => 0
  { o with locks := lanes.foldl (fun (m : Tbl LockLane) l =>
      if inMask o.act l && (m.read l).phase != .ended then
        m.write l { (default : LockLane) with phase := .ended, result := r } else m) o.locks }

/-- The bytes that a CPL's turnstile counts (R158). -/
def MemOp.cplTotal (o : MemOp) : Nat := popCount o.act * o.size

/-- The result registers of a lane that misses (R240): +infinity and all ones, or 0 with .ANY. -/
def rayMiss (any : Bool) : Nat := if any then 0 else 0x7F800000 + 2 ^ 32 * 0xFFFFFFFF

/-- .ANY of a ray instruction. -/
def rayAny : Instr → Bool
  | .rayt f | .rayr f => bitOf f.mdn 0
  | _ => false

/-- The locks and lock requests of one lane, or of every lane of a troupe, are dropped (R309, R315). -/
def State.dropLocks (s : State) (mine : Nat → Bool) : State :=
  { s with slices := s.slices.mapAll fun _ y =>
      { y with lock := if y.lock ≠ 0 ∧ mine (y.lock - 1) then 0 else y.lock
               lockq := y.lockq.filter fun x => !mine (x - 1) } }

/-- Discards an operation (R78): its unfinished lanes write what its chapter states and change nothing else. -/
def State.discardOp (s : State) (k : Nat) (o : MemOp) : State :=
  let o := { o with park := none }
  match o.ins with
  | .tswait f => (s.modTr k fun t => (t.wq f.d.toNat false).wakeOp o).finish k { o with acq := false, single := true, got := [] } (-1)
  | .bar _ => (s.modTr k fun t => t.wakeOp o).finish k { o with acq := false } (-1)
  | .qpop _ => (s.popOver k o).finish k { o with acq := false, readYet := true } (-1)
  | .dcas _ | .amov _ | .mcas _ => (s.dropLocks fun x => x / 64 == k).finish k o.failLanes 0
  | .cpl _ =>
    -- the closing add of the full count is performed like any add, and the counter drops after it (R419)
    if o.target = 0 then s.finish k o 0
    else s.setOp k { o with act := 0, added := false, readYet := true, count := o.cplTotal }
  | .cutsel _ => s.setOp k { o with pass := 5 }
  | .rast _ => s.finish k { o with got := [(0, o.count)].filter fun e => e.2 != 0 } 0
  | .rayt _ | .rayr _ =>
    s.finish k { o with got := (lanes.filter (inMask o.zeroLanes)).foldl (fun (m : Tbl Nat) l => m.write l (rayMiss (rayAny o.ins))) o.got } 0
  | _ => s.finish k { o with acq := false } o.zeroLanes

/-- An operation's fault has become fatal (R78, R83, R335): the host is told; the troupe takes cause 0x06 at a boundary of
level 0, the context of a handler's operation ends, and a troupe whose threads have all exited discards the record. -/
def State.fatalOp (s : State) (k : Nat) (o : MemOp) : State :=
  let t := s.tr k
  let p := o.park.getD default
  let r := (s.opSite k o).record s p.info 3
  let closing := (match o.ins with | .cpl _ => o.readYet | _ => false)
  if closing then
    -- a closing add that cannot be performed is dropped (R419)
    (s.frqRaise { r with value := 0 }).finish k { o with park := none } 0
  else if t.allExited then
    (s.frqRaise { r with rflags := r.rflags ||| 16 }).discardOp k o
  else
    let s := s.frqRaise r
    -- a halted troupe takes the verdict after its release (R263)
    if o.level = 1 && !t.halted then s.startEnd (s.ctxOf k) 1 (BitVec.ofNat 64 (6 + 256 * p.cls + 65536 * o.recs.headD 0))
    else s.modTr k fun t => { t with dtraps := t.dtraps ++
      [{ cause := 6, detail := p.cls, record := o.recs.headD 0, value := p.addr, word := 0, level := o.level }] }

/-- An operation faults: it parks in its records, and its service starts (R72, R74, R77). -/
def State.parkOp (s : State) (k : Nat) (o : MemOp) (f : FaultInfo) : State :=
  let o := o.settle
  let s := if f.restartable then
      (s.modTr k fun t => { t with faults := t.faults + 1 }).traceRec k 4 (o.level + if o.replayed then 2 else 0) o.seq o.pc.toNat (f.cls + 256 * o.unit) f.addr.toNat
    else s
  let r := s.service (s.opSite k o) f
  let o := { o with park := some r.1 }
  let s := r.2.setOp k o
  if r.1.state = .fatal then s.fatalOp k o else s

/-- Marks an operation's record ready (R77). -/
def MemOp.ready (o : MemOp) : MemOp := { o with park := o.park.map fun p => { p with state := .ready } }

/-- A pending record becomes fatal by a verdict of its service (R332, R336). -/
def State.condemnOp (s : State) (k : Nat) (o : MemOp) : State :=
  let o := { o with park := o.park.map fun p => { p with state := .fatal } }
  (s.setOp k o).fatalOp k o

/-- Every thread has exited: fatal records are discarded, and the troupe may end (R78, R96). -/
def State.orphanCheck (s : State) (k : Nat) : State :=
  if !(s.tr k).allExited then s
  else
    let dead := (s.tr k).ops.filter fun o => match o.park with | some p => p.state == .fatal | none => false
    let s := dead.foldl (fun (s : State) o =>
      let r := (s.opSite k o).record s (o.park.getD default).info 3
      (s.frqRaise { r with rflags := r.rflags ||| 16 }).discardOp k o) s
    (if dead.isEmpty then s else s.modTr k fun t => { t with dtraps := t.dtraps.filter fun d => d.cause != 6 }).endCheck k

/-! ### Every park of the package -/

/-- Applies a function to the parks of every operation, engine command, turnstile add and held fetch that satisfy `p`; `p` sees the context. -/
def State.mapParks (s : State) (p : Nat → Park → Bool) (f : Park → Park) : State :=
  let upd := fun (ctx : Nat) (x : Option Park) => match x with
    | some y => if p ctx y then some (f y) else some y
    | none => none
  { s with
    troupes := s.troupes.mapAll fun _ e =>
      let c := (s.co e.company).ctx
      { e with
        ops := e.ops.map fun o => { o with park := upd c o.park }
        holds := e.holds.map fun h => { h with park := if p c h.park then f h.park else h.park } }
    engines := s.engines.mapAll fun _ e => e.map fun x => { x with park := upd x.ctx x.park }
    sched := s.sched.map fun h => { h with park := if p h.ctx h.park then f h.park else h.park }
    cores := s.cores.mapAll fun _ e =>
      { e with adds := e.adds.map fun a => { a with park := upd (s.co a.cmd.company).ctx a.park } } }

/-- Pending parks that satisfy `p` become ready (R77). -/
def State.readyIf (s : State) (p : Nat → Park → Bool) : State :=
  s.mapParks (fun c x => x.state == .pending && p c x) fun x => { x with state := .ready }

end Sys2Proof.Machine
end

