-- ==== Sys2Proof/Machine/Slice.lean ====
section
/-!
DEFINITION. The order of a troupe's accesses (R290 to R293), its store queue (R282), the L1 data cache (R138, R139, R285), and
the home slices: how they hold lines, recall tokens, evict and are written (R271 to R284).
-/
namespace Sys2Proof.Machine

/-! ### The order of a troupe's accesses (R290 to R293) -/

/-- The instruction reads a location as an access of its troupe. -/
def readsMem : Instr → Bool
  | .ld _ | .lds _ | .gath _ | .sld _ | .sldc _ | .atom _ | .atoms _ | .dcas _ | .amov _ | .mcas _ | .tsadd _
  | .tsread _ | .cutsel _ | .rayt _ | .rayr _ | .rast _ | .tex _ | .texg _ | .texq _ => true
  | i => (bankBody i).isSome

/-- The instruction writes a location as an access of its troupe. -/
def writesMem : Instr → Bool
  | .st _ | .sts _ | .scat _ | .atom _ | .atoms _ | .red _ | .dcas _ | .amov _ | .mcas _ | .tsadd _ | .bar _
  | .bara _ | .cutsel _ | .rast _ => true
  | _ => false

/-- An instruction of lane group 12 (R236). -/
def isGeo : Instr → Bool
  | .cutsel _ | .rayt _ | .rayr _ | .rast _ | .tex _ | .texg _ | .texq _ => true
  | _ => false

/-- An operation that locks its lines (R308). -/
def isLocked : Instr → Bool
  | .dcas _ | .amov _ | .mcas _ => true
  | _ => false

/-- An operation whose accesses take part in no later order: its own are performed, or it makes none of its troupe's
(R148, R181, R203, R291). -/
def MemOp.performed (o : MemOp) : Bool :=
  match o.ins with
  | .tswait _ => o.readYet
  | .bar _ | .bara _ => o.added
  | .showq _ | .accrd _ | .accwr _ => true
  | .cpl _ => o.allDone
  | _ => false

/-- The operations of a troupe that issued before one. -/
def State.earlier (s : State) (k : Nat) (o : MemOp) : List MemOp := (s.tr k).ops.takeWhile fun e => e.seq != o.seq

/-- Every CPT of the troupe that issued before `q` has read its sources (R291). -/
def State.copiesRead (s : State) (k q : Nat) : Bool :=
  !s.engines.any fun e => e.2.any fun x =>
    x.t == k && x.closing == 0 && (match x.ins with | .cpt _ => true | _ => false) && (q + 2 ^ 32 - x.seq) % 2 ^ 32 < 2 ^ 31

/-- Every matrix command of the troupe that issued before `q` has entered its queue (R204, R291). -/
def State.matrixEntered (s : State) (k q : Nat) : Bool :=
  !s.cores.any fun e => e.2.queue.any fun x => x.t == k && decide (s.clock < x.entered) && (q + 2 ^ 32 - x.seq) % 2 ^ 32 < 2 ^ 31

/-- The order of the troupe lets an access of `o` be performed now (R290 to R293). -/
def State.mayPerform (s : State) (k : Nat) (o : MemOp) : Bool :=
  (!o.rel || (s.copiesRead k o.seq && s.matrixEntered k o.seq)) &&
  (s.earlier k o).all fun e =>
    e.performed || !(e.acq || o.rel || isLocked e.ins || (o.acq && e.rel) || (writesMem o.ins && readsMem e.ins))

/-- Every earlier access of the troupe is performed, every CPT has read its sources and every matrix command has entered its
queue: release(troupe) is over (R291). -/
def State.drained (s : State) (k : Nat) : Bool :=
  s.copiesRead k (s.tr k).issueseq.toNat && s.matrixEntered k (s.tr k).issueseq.toNat && (s.tr k).ops.all MemOp.performed

/-- Some scratchpad access that the operation has still to make is local to its core (R133, R135). -/
def MemOp.localLeft (o : MemOp) : Bool :=
  isScratchOp o.ins && o.keys.any fun key => !o.keyDone key && !(o.addr.read key).getLsbD 23

/-- The local scratchpad accesses of a core are performed in issue order; one that has faulted has none left to make (R135). -/
def State.scratchTurn (s : State) (k : Nat) (o : MemOp) : Bool :=
  ((s.earlier k o).all fun e => !isScratchOp e.ins || e.performed) &&
  s.troupes.all fun x =>
    x.1 == k || coreOf x.1 != coreOf k ||
      x.2.ops.all fun e => !o.localLeft || !e.localLeft || e.performed || o.stamp ≤ e.stamp || e.park.isSome

/-! ### Lines of an operation -/

/-- The unfinished bytes of an operation on a line of its address space: element and byte number. -/
def MemOp.pieces (o : MemOp) (line : Nat) : List (Nat × Nat) :=
  o.keys.flatMap fun key => ((o.undone key).filter fun i => (o.byteVa key i).toNat / 128 == line).map fun i => (key, i)

/-- The lines that an operation has still to reach. -/
def MemOp.lines (o : MemOp) : List Nat :=
  nubNat (o.keys.flatMap fun key => (o.undone key).map fun i => (o.byteVa key i).toNat / 128)

/-- The physical line of a virtual one, when it has a translation. -/
def State.lineOfVa (s : State) (k line : Nat) : Option Nat :=
  (s.resolve (.core (coreOf k)) (s.ctxOf k) (BitVec.ofNat 64 (128 * line))).map fun e => e.physical (128 * line % 2 ^ 57) / 128

/-- The virtual lines of an operation that lie on a physical line. -/
def State.linesAt (s : State) (k : Nat) (o : MemOp) (p : Nat) : List Nat :=
  o.lines.filter fun l => s.lineOfVa k l == some p

/-- The format of a typed access has 4 bits (R144). -/
def isNibble (f : Fields) : Bool := bitOf f.mdn 0 && fmtBits (bitsOf f.mdn 5 1) == 4

/-- The cache hint of an access (R139). -/
def hintOf : Instr → Nat
  | .ld f | .st f | .gath f | .scat f => bitsOf f.xn 27 26
  | _ => 0

/-- A store whose value later loads of its troupe take from the queue (R282). -/
def MemOp.queued (o : MemOp) : Bool :=
  match o.ins with
  | .st f | .scat f => !o.rel && !isNibble f && hintOf o.ins != 3
  | _ => false

/-- A load that may be served before the current copy is reached (R289). -/
def MemOp.plainLoad (o : MemOp) : Bool := readsMem o.ins && !writesMem o.ins && !o.acq && hintOf o.ins != 3

/-- How an earlier operation of the troupe stands to an access of a line. -/
inductive Conflict where
  | none
  | forward
  | block
  deriving DecidableEq, Repr

/-- An earlier operation against an access by `o` of a line at physical line `p` (R148, R282). -/
def State.conflict (s : State) (k : Nat) (o e : MemOp) (line p : Nat) : Conflict :=
  if isScratchOp e.ins || e.performed || !(readsMem e.ins || writesMem e.ins) || isLocked e.ins then .none
  else if isGeo e.ins then (if writesMem e.ins && !(e.park.isSome && e.level < o.level) then .block else .none)
  else
    let met := e.lines.filter fun l => match s.lineOfVa k l with | some x => x == p | none => true
    if met.isEmpty then .none
    else if o.plainLoad && e.queued && met.all (· == line) then .forward
    else .block

/-- The byte that a queued store of the troupe holds for an address, the latest first (R282). -/
def MemOp.queuedByte (e : MemOp) (va : W64) : Option Byte :=
  let hit := (e.keys.flatMap fun key => (e.undone key).map fun i => (key, i)).filter fun x =>
    e.byteVa x.1 x.2 == va && !(e.drop.read x.1).testBit x.2
  hit.head?.map fun x => BitVec.ofNat 8 (e.dat.read x.1 / 256 ^ x.2)

/-- The value a load of `o` takes from the troupe's store queue. -/
def State.forwarded (s : State) (k : Nat) (o : MemOp) (va : W64) : Option Byte :=
  ((s.earlier k o).filter MemOp.queued).reverse.findSome? fun e => e.queuedByte va

/-! ### Stores into an owned line (R282) -/

/-- Watches the elements of the pieces that an operation performs (R256). -/
def State.watchPieces (s : State) (k : Nat) (o : MemOp) (rd wr : Bool) (ps : List (Nat × Nat)) : State :=
  (nubNat (ps.map (·.1))).foldl (fun (s : State) key =>
    let mine := ps.filter fun x => x.1 == key
    match mine.head? with
    | some x => s.watchDie (dieOf (coreOf k)) (s.accessor k o) rd wr (o.byteVa key x.2) mine.length
    | none => s) s

/-- One byte of a store applied to the byte that stands there (R144, R146). -/
def MemOp.storeByte (o : MemOp) (f : Fields) (key i : Nat) (old : Byte) : Byte :=
  if (o.drop.read key).testBit i then old
  else if isNibble f then
    let v := o.dat.read key % 16
    if o.nib.read key then BitVec.ofNat 8 (old.toNat % 16 + 16 * v) else BitVec.ofNat 8 (old.toNat / 16 * 16 + v)
  else BitVec.ofNat 8 (o.dat.read key / 256 ^ i)

/-- The fields of a store. -/
def storeFields : Instr → Fields
  | .st f | .scat f | .sts f => f
  | _ => {}

/-- A store's bytes applied to a line. -/
def MemOp.storeLine (o : MemOp) (ps : List (Nat × Nat)) (d : LineData) : LineData :=
  ps.foldl (fun (d : LineData) x =>
    let j := (o.byteVa x.1 x.2).toNat % 128
    lineSet d j (o.storeByte (storeFields o.ins) x.1 x.2 (lineByte d j))) d

/-- Marks pieces as performed. -/
def MemOp.markAll (o : MemOp) (ps : List (Nat × Nat)) : MemOp := ps.foldl (fun (o : MemOp) x => o.mark x.1 (2 ^ x.2)) o

/-- The order of use of the next access to a set. -/
def State.l1Next (s : State) (c l : Nat) : Nat :=
  ((s.core c).l1.filter fun e => e.1 % 128 == l % 128).foldl (fun m e => max m e.2.used) 0 + 1

/-- Notes a use of an L1 line. -/
def State.l1Touch (s : State) (c l hint : Nat) : State :=
  let u := s.l1Next c l
  s.modCore c fun x => { x with l1 := x.l1.modify l fun y =>
    { y with used := if hint = 1 then y.used else u, last := y.last || hint == 2 } }

/-- The pieces of a store written into the core's owned L1 line (R282). -/
def State.storeOwned (s : State) (k : Nat) (o : MemOp) (line p : Nat) : State :=
  let c := coreOf k
  let ps := o.pieces line
  let s := (s.l1Touch c p (hintOf o.ins)).modCore c fun x => { x with l1 := x.l1.modify p fun y =>
    { y with data := o.storeLine ps y.data, dirty := true } }
  (s.watchPieces k o false true ps).finishOrKeep k (o.markAll ps)

/-- The stores of a core that wait for a line, in issue order: troupe key, launch site, virtual line (R282). -/
def State.waiting (s : State) (c p : Nat) : List (Nat × Nat × Nat) :=
  let all := s.troupes.flatMap fun x =>
    if coreOf x.1 != c then []
    else x.2.ops.flatMap fun o => match o.ins with
      | .st _ | .scat _ =>
        if hintOf o.ins = 3 then [] else (s.linesAt x.1 o p).map fun l => (o.stamp, x.1, o.seq, l)
      | _ => []
  (sortBy (fun (x : Nat × Nat × Nat × Nat) => x.1) all).map fun x => (x.2.1, x.2.2.1, x.2.2.2)

/-- The translation of a queued store lets it be written now. -/
def State.mayStore (s : State) (k line : Nat) : Bool :=
  match s.resolve (.core (coreOf k)) (s.ctxOf k) (BitVec.ofNat 64 (128 * line)) with
  | some e => (s.rights e (e.physical (128 * line % 2 ^ 57)) .write).isNone
  | none => false

/-- The queued stores of a core to a line that it owns are written into its L1, in issue order, as far as the order of their
troupes lets them (R282, R284). -/
def State.flushStores (s : State) (c p : Nat) : State :=
  (s.waiting c p).foldl (fun (s : State) x =>
    match s.op x.1 x.2.1 with
    | some o =>
      if ((s.core c).l1.read p).owned && !s.lost p && s.mayPerform x.1 o && s.mayStore x.1 x.2.2
          && (s.earlier x.1 o).all (fun e => s.conflict x.1 o e x.2.2 p == .none) then s.storeOwned x.1 o x.2.2 p
      else s
    | none => s) s

/-- The token of a line is recalled: the holder writes the line's queued stores into its L1, its dirty bytes go home, and it
keeps a clean copy that it does not own (R284). -/
def State.takeBack (s : State) (l : Nat) : State :=
  match s.owner l with
  | some c => (s.flushStores c l).recall l
  | none => s

/-! ### How a slice holds its lines (R271 to R279) -/

/-- The home slice of a physical address, numbered over the package (R271). -/
def homeSlice (pa : Nat) : Nat :=
  bitsOf pa 14 7 ^^^ bitsOf pa 22 15 ^^^ bitsOf pa 30 23 ^^^ bitsOf pa 38 31 ^^^ bitsOf pa 46 39 ^^^ bitsOf pa 51 47

/-- The set of a line in its home slice (R274). -/
def setOf (l : Nat) : Nat := Config.sliceSet l % 4096

/-- A slice keeps a tag for a line: its data, its owner, or a lock (R273, R281, R309). -/
def SLine.tagged (y : SLine) : Bool := y.present || y.owner != 0 || y.lock != 0 || !y.lockq.isEmpty

/-- The halves of its set that a line occupies (R274). -/
def SLine.halves (y : SLine) : Nat := if y.present then lineHalves y.data else 0

/-- The lines with a tag in the home slice of a line, and those of them in its set. -/
def State.sliceLines (s : State) (l : Nat) : List (Nat × SLine) :=
  s.slices.filter fun e => homeSlice (128 * e.1) == homeSlice (128 * l) && e.2.tagged
def State.setLines (s : State) (l : Nat) : List (Nat × SLine) := (s.sliceLines l).filter fun e => setOf e.1 == setOf l

/-- Every line has room in its set: 32 tags and 32 halves. Sixteen lines always have (R274). -/
def State.setFits (s : State) (l : Nat) : Bool :=
  decide ((s.sliceLines l).length ≤ 16) ||
    (decide ((s.setLines l).length ≤ 32) && decide (((s.setLines l).map fun e => e.2.halves).foldl (· + ·) 0 ≤ 32))

/-- A waiter of a turnstile on a line holds a watch entry (R177). -/
def State.watched (s : State) (l : Nat) : Bool :=
  s.troupes.any fun e => e.2.ops.any fun o => (match o.ins with | .tswait f => !bitOf f.mdn 0 | _ => false)
    && o.readYet && o.poll == 0 && s.lineOfVa e.1 ((o.addr.read 0).toNat / 128) == some l

/-- A line that is never chosen as a victim: locked, with a fill or a merge pending, or watched (R279). A recall of its owner
is over at once. -/
def State.kept (s : State) (l : Nat) : Bool :=
  (s.sline l).lock != 0 || !(s.sline l).lockq.isEmpty || s.misses.any (fun m => m.line == l) || s.watched l

/-- The position of a line in the order of use; a line that is not listed was used longest ago. -/
def State.age (s : State) (l : Nat) : Nat := s.recent.takeWhile (fun x => x != l) |>.length

/-- The victims of a set in the order of their choice: first, normal, last, and in each the least recently used first (R279). -/
def State.victims (s : State) (l : Nat) : List Nat :=
  let mine := ((s.setLines l).filter fun e => e.1 != l && !s.kept e.1)
  let state := fun (h : Nat) => (mine.filter fun e => e.2.hint == h).map (·.1)
  let oldest := fun (ls : List Nat) => sortBy (fun x => s.recent.length - s.age x) ls
  oldest (state 1) ++ oldest (state 0) ++ oldest (state 2)

/-- The rings drop the cut slots that hold a mark on a line (R235). -/
def State.dropCuts (s : State) (l : Nat) : State :=
  if s.rings.all fun e => e.2.cuts.all fun x => !x.lines.contains l then s
  else { s with rings := s.rings.mapAll fun _ x => { x with cuts := x.cuts.filter fun c => !c.lines.contains l } }

/-- A line of host memory leaves the package: its CXL.cache state is invalid (R382). -/
def State.dropHost (s : State) (l : Nat) : State :=
  match s.window (128 * l) with
  | some w => if w.1 = 3 then { s with cache := { s.cache with pool := s.cache.pool.write l 0 } } else s
  | none => s

/-- A slice evicts a line: its token is recalled, and it is written to the level below when it is dirty (R279, R284). -/
def State.evictLine (s : State) (l : Nat) : State :=
  let s := (s.takeBack l).dropCuts l
  let y := s.sline l
  let s := if y.present && y.dirty then (s.touchFrame l).setLow l y.data (List.range 128) else s
  ({ s.dropHost l with recent := s.recent.filter (· != l) }).modSline l fun y =>
    { y with present := false, data := 0, dirty := false, hint := 0 }

/-- Evicts victims of a line's set until its lines fit (R279); at most one turn for each tag. -/
def State.fitIn (l : Nat) : Nat → State → State
  | 0, s => s
  | n + 1, s => if s.setFits l then s else match s.victims l with
    | [] => s
    | v :: _ => State.fitIn l n (s.evictLine v)

/-- The set of a line has room for it as it now is. -/
def State.fit (s : State) (l : Nat) : State := State.fitIn l 33 s

/-- A line could be held raw in its set, when every victim were evicted (R279). -/
def State.hasRoom (s : State) (l : Nat) : Bool :=
  decide ((s.sliceLines l).length < 16) ||
    (let stay := (s.setLines l).filter fun e => e.1 != l && s.kept e.1
     decide (stay.length < 32) && decide ((stay.map fun e => e.2.halves).foldl (· + ·) 0 + 2 ≤ 32))

/-- Notes a use of a line in its slice (R279). -/
def State.useLine (s : State) (l : Nat) : State := { s with recent := l :: s.recent.filter (· != l) }

/-- The hint state of a line after an access (R278). -/
def SLine.hinted (y : SLine) (hint : Nat) : SLine :=
  { y with hint := if hint = 2 then 2 else if hint = 1 && y.hint != 2 then 1 else y.hint }

/-- A set has at most 24 lines in state last: a 25th sets the least recently used of them to normal (R279). -/
def State.limitLast (s : State) (l : Nat) : State :=
  if (s.sliceLines l).length ≤ 24 then s
  else
    let last := ((s.setLines l).filter fun e => e.2.hint == 2).map (·.1)
    if last.length ≤ 24 then s
    else match (sortBy (fun x => s.recent.length - s.age x) (last.filter (· != l))).head? with
      | some v => s.modSline v fun y => { y with hint := 0 }
      | none => s

/-- An access with a hint meets a line that the slice holds, or fills it with the hint (R278, R279). -/
def State.hintLine (s : State) (l hint : Nat) : State := (s.modSline l fun y => y.hinted hint).limitLast l

/-- Installs a line in its slice: clean, and in the state that the filling access's hint gives (R276, R278). -/
def State.install (s : State) (l : Nat) (d : LineData) (hint : Nat) : State :=
  ((((s.modSline l fun y => { y with present := true, data := d, dirty := false, hint := if hint = 3 then 0 else hint }).limitLast l)).useLine l).fit l

/-- A read from another core of an owned line: the owner writes its dirty bytes back and keeps the token (R283). -/
def State.forwardRead (s : State) (l : Nat) : State :=
  match s.owner l with
  | none => s
  | some c =>
    let x := (s.core c).l1.read l
    if x.valid && x.dirty then
      (((s.modCore c fun k => { k with l1 := k.l1.write l { x with dirty := false } }).modSline l fun y =>
        { y with present := true, data := x.data, dirty := true }).markDirty l).fit l
    else s

/-- A read at the home, as an access that is being performed: the owner's dirty bytes come home first (R283). -/
def State.readHome (s : State) (l : Nat) : State := (s.forwardRead l).useLine l

/-- Writes bytes at their home, as an access that is being performed: the token is recalled first, the slots that mark the line
are dropped, and the set has room for the line as it now is (R235, R276, R279, R284). -/
def State.writeBytes (s : State) (pa : Nat) (b : List Nat) : State :=
  let ls := nubNat ((List.range b.length).map fun i => (pa + i) / 128)
  let s := ls.foldl (fun (s : State) l => (s.takeBack l).dropCuts l) s
  ls.foldl (fun (s : State) l => (s.useLine l).fit l) (s.poke pa b)

/-- An add at the home of a turnstile (R175, R180): whether it saturates, and the state after it. -/
def State.addHome (s : State) (pa v : Nat) : Bool × State :=
  let r := ((s.takeBack (pa / 128)).dropCuts (pa / 128)).addPhys pa v
  (r.1, (r.2.useLine (pa / 128)).fit (pa / 128))

/-! ### The L1 data cache (R138, R139, R285) -/

/-- Drops a line from an L1; an owned one is written back and its token returned (R284). -/
def State.l1Drop (s : State) (c l : Nat) : State :=
  let s := if ((s.core c).l1.read l).owned then (s.recall l).fit l else s
  s.modCore c fun x => { x with l1 := x.l1.write l default }

/-- Makes room for a line in its set of eight ways: least recently used first, evict-last lines last (R138, R139). -/
def State.l1Room (s : State) (c l : Nat) : State :=
  let set := (s.core c).l1.filter fun e => e.1 % 128 == l % 128 && e.1 != l
  if set.length < 8 then s
  else
    let order := sortBy (fun (e : Nat × L1Line) => e.2.used + (if e.2.last then 2 ^ 64 else 0)) set
    match order.head? with
    | some e => s.l1Drop c e.1
    | none => s

/-- Puts a line into an L1 under a hint (R139). -/
def State.l1Put (s : State) (c l : Nat) (d : LineData) (hint : Nat) (owned : Bool) : State :=
  let s := s.l1Room c l
  let u := if hint = 1 then 0 else s.l1Next c l
  let y : L1Line := {
    valid := true, owned := owned, dirty := false, data := d, filled := s.clock, used := u
    last := hint == 2 || (((s.core c).l1.read l).valid && ((s.core c).l1.read l).last) }
  s.modCore c fun x => { x with l1 := x.l1.write l y }

/-- A core whose troupe reads or writes a line at its home keeps no older copy of it (R148, R297). -/
def State.l1Forget (s : State) (c l : Nat) : State :=
  let x := (s.core c).l1.read l
  if x.valid && !x.owned then s.modCore c fun y => { y with l1 := y.l1.write l default } else s


end Sys2Proof.Machine
end

