-- ==== Sys2Proof/Machine/Access.lean ====
section
/-!
DEFINITION. The order and the performance of a troupe's accesses to memory and scratchpad (R135, R138, R143 to R152, R278
to R293, R378, R386 to R391).
-/
namespace Sys2Proof.Machine

/-! ### The home slice (R278 to R284, R378, R382, R386) -/

/-- No miss entry of the fabric is left, or no tag number toward the target for a request that carries one (R4, R390). -/
def State.tagsFull (s : State) (home what : Nat) : Bool :=
  decide (40960 ≤ s.fabric.tags.length) ||
    (what != 0 && decide (4096 ≤ (s.fabric.tags.filter fun x => x.what != 0 && x.target == home).length))

/-- The number of a new tag: the next that no tag of this origin has in use (R390). -/
def State.newTagNumber (s : State) : Nat :=
  let used := fun (n : Nat) => s.fabric.tags.any fun g => g.origin == s.caps.pkg && g.num == n
  (((List.range (s.fabric.tags.length + 1)).map fun i => (s.fabric.nextTag + i) % 2 ^ 24).find? fun n => !used n).getD s.fabric.nextTag

/-- A tagged request to another package; one request for a line or a region is outstanding at a time (R386, R390), and the
fabric's miss entries bound them (R4). -/
def State.askTag (s : State) (w : Asker) (what pa hint : Nat) : State :=
  let home := ((s.window pa).map (·.2)).getD 0
  let same := fun (x : Tag) => x.what == what && (if what = 0 then x.pa / 128 == pa / 128 else if what = 1 then x.pa / 2048 == pa / 2048
    else x.t == w.t && x.q == w.q && x.lane == w.lane)
  if s.fabric.tags.any same then
    -- a tag that has timed out is sent again (R391); a read joins the one that is outstanding (R280)
    { s with fabric := { s.fabric with tags := s.fabric.tags.map fun x =>
        if !(same x) then x
        else if x.timedOut then
          { x with target := home, pa := pa, t := w.t, q := w.q, lane := w.lane, first := s.clock, sent := s.clock, timedOut := false }
        else if what = 0 && !x.killed && !x.joined.contains w then { x with joined := x.joined ++ [w] }
        else x } }
  else if s.tagsFull home what then s
  else
    let tag : Tag := {
      num := s.newTagNumber, origin := s.caps.pkg, target := home, t := w.t, q := w.q, lane := w.lane, what := what, pa := pa,
      hint := hint, first := s.clock, sent := s.clock, timedOut := false, killed := false, joined := if what = 0 then [w] else [] }
    { s with fabric := { s.fabric with nextTag := (s.newTagNumber + 1) % 2 ^ 24, tags := s.fabric.tags ++ [tag] } }

/-- The link to a line's home package is down (R393). -/
def State.peerDown (s : State) (pa : Nat) : Bool := s.fabric.down.contains (((s.window pa).map (·.2)).getD 0)

/-- The fault of an access to a package whose link is down: fatal, with target class 0 (R393). -/
def downFault (pa : Nat) : FaultInfo := { cls := 5, detail := 0, pa := pa, unmappable := true }

/-- A miss entry for a line is open, or its fill is on its way. -/
def State.missOf (s : State) (l : Nat) : Option Miss := s.misses.find? fun m => m.line == l

/-- Changes the miss entry of a line. -/
def State.modMiss (s : State) (l : Nat) (f : Miss → Miss) : State :=
  { s with misses := s.misses.map fun m => if m.line == l then f m else m }

/-- The path of a miss: GDDR-7 of the home die, or CXL for host memory (R4). -/
def missPath (mt l : Nat) : Nat := if mt = 1 then 4 else homeSlice (128 * l) / 64

/-- The entries of a path in use: a granule fill reads its 32 lines over CXL (R4, R378). -/
def State.pathLoad (s : State) (p : Nat) : Nat :=
  (s.misses.filter fun m => m.path == p).length + (if p = 4 then 32 * s.cache.fce.fills.length else 0)

/-- A path has an entry left (R4). -/
def State.pathOpen (s : State) (p : Nat) : Bool := s.pathLoad p < if p = 4 then 20480 else 10240

/-- A read that misses opens an entry, joins an open one, or waits: behind a closed one, and while its path has no entry left
(R4, R280). -/
def State.joinMiss (s : State) (w : Asker) (e : TlbEntry) (l hint : Nat) : State :=
  match s.missOf l with
  | some m =>
    if m.closed || m.joined.contains w then s
    else s.modMiss l fun m => { m with joined := m.joined ++ [w] }
  | none =>
    if !s.pathOpen (missPath e.mt l) then s
    else
      let m : Miss := {
        line := l, opened := s.clock, closed := false, hint := hint, joined := [w], killed := false, took := 0,
        prefs := [], path := missPath e.mt l, frame := e.frame, fgen := e.fgen }
      { s with misses := s.misses ++ [m] }

/-- The line lies in the slice, or with an owner. -/
def State.held (s : State) (l : Nat) : Bool := (s.sline l).present || (s.owner l).isSome

/-- A line that this package must own toward its pool device or the host before it is written (R378, R382). -/
def State.needsOwn (s : State) (e : TlbEntry) (pa : Nat) : Bool :=
  e.mt = 1 || (e.mt = 0 && (match s.window pa with | some (kind, _) => kind == 2 | none => false))

/-- A line of a resident granule that its pool device has invalidated is read from the pool again, as shared (R378). -/
def State.refill (s : State) (l : Nat) : State :=
  match s.frameOf (128 * l) with
  | some f =>
    if (s.frame f).shared && (s.frame f).resmask.getLsbD (l / 32 % 16) && s.cache.pool.read l == 0 then
      let d := lineOf fun i => s.mem.read (128 * l + i)
      let g := (List.range 128).foldl (fun (g : Tbl Byte) i => g.write (65536 * f + 128 * l % 65536 + i) (lineByte d i)) s.cache.gddr
      { s with cache := { s.cache with gddr := g, pool := s.cache.pool.write l 1 } }
    else s
  | none => s

/-- A write at the home of a region that other packages hold read-only invalidates their copies (R387). -/
def State.unshare (s : State) (pa : Nat) : State :=
  if (s.fabric.dir.read (pa / 2048)).state = .s then { s with fabric := { s.fabric with dir := s.fabric.dir.write (pa / 2048) default } } else s

/-- An access at the home, after its translation: it may be performed, it faults, or it waits for a fill, a lock, room in its
set, ownership or another package (R279, R280, R310, R326, R378, R382, R386). -/
def State.atHome (s : State) (w : Asker) (e : TlbEntry) (pa : Nat) (k : AccKind) (hint : Nat) : Acc Unit × State :=
  let l := pa / 128
  match s.homeCheck e pa k with
  | .fault f => (.fault f, s)
  | .wait => (.wait, s)
  | .ok _ =>
    let writes := k = .write || k = .both
    let miss := (s.missOf l).isSome
    if miss && writes then (.wait, s.modMiss l fun m => { m with closed := true })
    else if !s.held l && !s.hasRoom l then (.wait, s)
    else if e.mt = 2 then
      if writes && !s.fabric.owned.read (pa / 2048) then
        (if s.peerDown pa then (.fault (downFault pa), s) else (.wait, s.askTag w 1 pa hint))
      else if !s.held l then
        (if s.peerDown pa then (.fault (downFault pa), s) else (.wait, s.askTag w 0 pa hint))
      else (.ok (), s.hintLine l hint)
    else if writes && s.needsOwn e pa && s.cache.pool.read l ≠ 2 then
      let s := s.refill l
      (.wait, { s with cache := { s.cache with pool := s.cache.pool.write l 3 } })
    else if !writes && !s.held l then (.wait, s.joinMiss w e l hint)
    else (.ok (), (if writes then s.unshare pa else s).hintLine l hint)

/-! ### Accesses in flight (R286, R326) -/

/-- The access of an asker to a virtual line that waits with its translation. -/
def State.flightOf (s : State) (w : Asker) (line : Nat) : Option Flight := s.flights.find? fun f => f.who == w && f.line == line

/-- An access begins to wait with its translation. -/
def State.putFlight (s : State) (w : Asker) (line : Nat) (e : TlbEntry) : State :=
  if (s.flightOf w line).isSome then s
  else { s with flights := s.flights ++ [{ who := w, line := line, entry := e, took := none }] }

/-- An access in flight is performed or rejected. -/
def State.landFlight (s : State) (w : Asker) (line : Nat) : State :=
  { s with flights := s.flights.filter fun f => !(f.who == w && f.line == line) }

/-- The physical line of an access in flight. -/
def Flight.phys (f : Flight) : Nat := f.entry.physical (128 * f.line % 2 ^ 57) / 128

/-- The translation of an access: the one it carries, or a new one with its rights checked (R326, R330). -/
def State.carried (s : State) (a : Agent) (ctx : Nat) (w : Asker) (va : W64) (k : AccKind) : Acc (TlbEntry × Nat) × State :=
  match s.flightOf w (va.toNat / 128) with
  | some f => (.ok (f.entry, f.entry.physical (va.toNat % 2 ^ 57)), s)
  | none => s.access a ctx va k

/-- An access at its home, once it has its translation: it lands when it may be performed or when it faults, and else waits
with that translation. The data is what a fill brought before an invalidation, for the accesses that waited on it (R286). -/
def State.arrive (s : State) (w : Asker) (va : W64) (e : TlbEntry) (pa : Nat) (k : AccKind) (hint : Nat) :
    Acc (Option LineData) × State :=
  let line := va.toNat / 128
  match (s.flightOf w line).bind (·.took) with
  | some d => (.ok (some d), s.landFlight w line)
  | none =>
    match s.atHome w e pa k hint with
    | (.ok _, s) => (.ok none, s.landFlight w line)
    | (.fault f, s) => (.fault (f.at va k), s.landFlight w line)
    | (.wait, s) => (.wait, s.putFlight w line e)

/-- An access that is made at the home: translated, and performed there when it can be. -/
def State.homeAccess (s : State) (a : Agent) (ctx : Nat) (w : Asker) (va : W64) (k : AccKind) (hint : Nat) :
    Acc (TlbEntry × Nat × Option LineData) × State :=
  match s.carried a ctx w va k with
  | (.fault f, s) => (.fault f, s)
  | (.wait, s) => (.wait, s)
  | (.ok (e, pa), s) => match s.arrive w va e pa k hint with
    | (.ok d, s) => (.ok (e, pa, d), s)
    | (.fault f, s) => (.fault f, s)
    | (.wait, s) => (.wait, s)

/-- Reaches a virtual line as an agent at its home: translation, rights and the home's checks. -/
def State.reach (s : State) (a : Agent) (ctx : Nat) (w : Asker) (va : W64) (k : AccKind) (hint : Nat) :
    Acc (Nat × Option LineData) × State :=
  match s.homeAccess a ctx w va k hint with
  | (.ok (_, pa, d), s) => (.ok (pa, d), s)
  | (.fault f, s) => (.fault f, s)
  | (.wait, s) => (.wait, s)

/-! ### Bytes that move -/

/-- A load takes bytes: each from the troupe's own queued store where there is one, else from the line. -/
def MemOp.take (o : MemOp) (fwd : W64 → Option Byte) (line : Nat → Byte) : List (Nat × Nat) → MemOp
  | [] => o
  | (key, i) :: ps =>
    let va := o.byteVa key i
    let b := (fwd va).getD (line (va.toNat % 128))
    MemOp.take ({ o with got := o.got.write key (o.got.read key + b.toNat * 256 ^ i) }.mark key (2 ^ i)) fwd line ps

/-- The lowest unfinished element whose access faults, with its fault (R152). -/
def State.firstFault (s : State) (k : Nat) (o : MemOp) (kind : AccKind) : Option FaultInfo :=
  let probe := fun (va : W64) =>
    match s.access (.core (coreOf k)) (s.ctxOf k) va kind with
    | (.fault f, _) => some f
    | (.ok (e, pa), s') =>
      match s'.homeCheck e pa kind with
      | .fault f => some (f.at va kind)
      | _ => none
    | _ => none
  o.keys.findSome? fun key => (o.undone key).findSome? fun i => probe (o.byteVa key i)

/-- An access of an operation faults: the record shows the lowest unfinished element that faults (R152). -/
def State.faultAccess (s : State) (k : Nat) (o : MemOp) (kind : AccKind) (line : Nat) (f : FaultInfo) : State :=
  let o := { o with stuck := o.stuck ++ [line] }
  if o.park.isSome then s.setOp k o.settle else s.parkOp k o ((s.firstFault k o kind).getD f)

/-- A load meets a line; an error in the line reaches every access to it (R147, R151, R286, R289, R352). -/
def State.loadLine (s : State) (k : Nat) (o : MemOp) (line : Nat) : State :=
  let c := coreOf k
  let w : Asker := ⟨k, o.seq, 0⟩
  let ps := o.pieces line
  match ps.head? with
  | none => s
  | some x =>
    let va := o.byteVa x.1 x.2
    match s.carried (.core c) (s.ctxOf k) w va .read with
    | (.wait, s) => s
    | (.fault f, s) => s.faultAccess k o .read line f
    | (.ok (e, pa), s) =>
      let p := pa / 128
      let cs := (s.earlier k o).map fun x => s.conflict k o x line p
      if cs.contains .block then s
      else
        let fwd := fun (a : W64) => if cs.contains .forward then s.forwarded k o a else none
        let direct := o.acq || hintOf o.ins == 3
        let hint := hintOf o.ins
        let copy := (s.core c).l1.read p
        let perform := fun (s : State) (d : LineData) =>
          (s.watchPieces k o true false ps).finishOrKeep k (o.take fwd (lineByte d) ps)
        if copy.valid && (copy.owned || !direct) && !s.lost p then perform ((s.landFlight w line).l1Touch c p hint) copy.data
        else if ps.all fun x => (fwd (o.byteVa x.1 x.2)).isSome then perform (s.landFlight w line) 0
        else match s.arrive w va e pa .read hint with
          | (.fault f, s) => s.faultAccess k o .read line f
          | (.wait, s) => s
          | (.ok (some d), s) => perform (s.l1Forget c p) d
          | (.ok none, s) =>
            let s := s.readHome p
            let d := s.current p
            let s := if hint = 3 then s.l1Forget c p else s.l1Put c p d hint false
            perform s d

/-- A store meets a line: it is written at the home with .NL1, into the owned L1 line, or the token is asked for (R139, R282,
R284). -/
def State.storeAt (s : State) (k : Nat) (o : MemOp) (line : Nat) : State :=
  let c := coreOf k
  let w : Asker := ⟨k, o.seq, 0⟩
  let ps := o.pieces line
  match ps.head? with
  | none => s
  | some x =>
    let va := o.byteVa x.1 x.2
    match s.carried (.core c) (s.ctxOf k) w va .write with
    | (.wait, s) => s
    | (.fault f, s) => s.faultAccess k o .write line f
    | (.ok (e, pa), s) =>
      let p := pa / 128
      if (s.earlier k o).any fun x => s.conflict k o x line p != .none then s
      else if hintOf o.ins = 3 then
        match s.arrive w va e pa .write 3 with
        | (.fault f, s) => s.faultAccess k o .write line f
        | (.wait, s) => s
        | (.ok _, s) =>
          let s := (s.takeBack p).l1Forget c p
          let s := s.writeBytes (128 * p) (lineBytes (o.storeLine ps (s.current p)))
          (s.watchPieces k o false true ps).finishOrKeep k (o.markAll ps)
      else if ((s.core c).l1.read p).owned && !s.lost p then (s.landFlight w line).storeOwned k o line p
      else match s.homeCheck e pa .write with
        | .fault f => (s.landFlight w line).faultAccess k o .write line (f.at va .write)
        | .wait => s.putFlight w line e
        | .ok _ =>
          let s := s.putFlight w line e
          if (s.core c).want.contains p then s else s.modCore c fun x => { x with want := x.want ++ [p] }

/-- The home grants a token with the line's data, and the queued stores of the core are performed (R235, R282, R284). -/
def State.grantToken (s : State) (c p : Nat) : State :=
  let drop := fun (s : State) => s.modCore c fun x => { x with want := x.want.filter (· != p) }
  match (s.waiting c p).head? with
  | none => drop s
  | some (k, q, line) =>
    match s.op k q with
    | none => drop s
    | some o =>
      let va := BitVec.ofNat 64 (128 * line)
      match s.carried (.core c) (s.ctxOf k) ⟨k, q, 0⟩ va .write with
      | (.wait, s) => s
      | (.fault f, s) => drop (s.faultAccess k o .write line f)
      | (.ok (e, pa), s) =>
        match s.arrive ⟨k, q, 0⟩ va e pa .write (hintOf o.ins) with
        | (.fault f, s) => drop (s.faultAccess k o .write line f)
        | (.wait, s) => s
        | (.ok _, s) =>
          let s := (s.takeBack p).dropCuts p
          let d := s.current p
          let s := if (s.sline p).present then s else s.touchFrame p
          let s := ((s.l1Put c p d (hintOf o.ins) true).modSline p fun y => { y with owner := c + 1 }).useLine p
          drop ((s.waiting c p).foldl (fun (s : State) x =>
            match s.op x.1 x.2.1 with
            | some o => if s.mayPerform x.1 o then s.storeAt x.1 o x.2.2 else s
            | none => s) (s.fit p))

/-- Watches the scratchpad elements that an operation has performed (R256). -/
def State.watchScratch (s : State) (k : Nat) (o : MemOp) (isStore : Bool) (ps : List (Nat × Nat)) : State :=
  (nubNat (ps.map (·.1))).foldl (fun (s : State) key =>
    let mine := ps.filter fun x => x.1 == key
    match mine.head? with
    | none => s
    | some x =>
      match s.scratchAt (s.tr k).company (coreOf k) (o.byteVa key x.2).toNat with
      | .ok (tc, p) => s.watchRing tc (s.accessor k o) (!isStore) isStore p mine.length
      | _ => s) s

/-- The form whose addresses are layout offsets, which name local bytes only (R137, R149). -/
def isLayoutForm : Instr → Bool
  | .lds f | .sts f => f.kind == 3
  | _ => false

/-- Whether a scratchpad byte of an operation can be reached: its core and offset, or the fault (R133, R152, R220). -/
def State.scratchByte (s : State) (k : Nat) (o : MemOp) (isStore : Bool) (x : Nat × Nat) : Acc (Nat × Nat) :=
  let addr := (o.byteVa x.1 x.2).toNat
  if isLayoutForm o.ins && decide (2 ^ 19 ≤ addr) then
    .fault { cls := 4, detail := 5, addr := BitVec.ofNat 64 addr, write := isStore, scratch := true }
  else match s.scratchAt (s.tr k).company (coreOf k) addr with
  | .ok (tc, p) =>
    if !isStore && (s.core tc).scrErr.read (p / 4) then .fault { cls := 6, addr := BitVec.ofNat 64 addr, scratch := true } else .ok (tc, p)
  | .fault g => .fault { g with write := isStore }
  | .wait => .wait

/-- The fault of the lowest unfinished element that faults (R152). -/
def State.firstBad (s : State) (k : Nat) (o : MemOp) (isStore : Bool) : Option FaultInfo :=
  o.keys.findSome? fun key => (o.undone key).findSome? fun i => match s.scratchByte k o isStore (key, i) with
    | .fault g => some g
    | _ => none

/-- The scratchpad bytes of an operation on a line of its addresses (R133, R135, R152). -/
def State.scratchLine (s : State) (k : Nat) (o : MemOp) (line : Nat) : State :=
  let isStore := writesMem o.ins
  let ps := o.pieces line
  let ok := ps.filter fun x => match s.scratchByte k o isStore x with | .ok _ => true | _ => false
  let bad := ps.findSome? fun x => match s.scratchByte k o isStore x with | .fault g => some g | _ => none
  let r := ok.foldl (fun (a : State × MemOp) x =>
    match s.scratchByte k o isStore x with
    | .ok (tc, p) =>
      let old := (a.1.core tc).scratch.read p
      if isStore then (a.1.scratchPut tc p (a.2.storeByte (storeFields o.ins) x.1 x.2 old), a.2.mark x.1 (2 ^ x.2))
      else (a.1, ({ a.2 with got := a.2.got.write x.1 (a.2.got.read x.1 + old.toNat * 256 ^ x.2) }).mark x.1 (2 ^ x.2))
    | _ => a) (s, o)
  let s := r.1.watchScratch k o isStore ok
  match bad with
  | some g =>
    let o := { r.2 with stuck := o.stuck ++ [line] }
    if o.park.isSome then s.setOp k o.settle else s.parkOp k o ((s.firstBad k o isStore).getD g)
  | none => s.finishOrKeep k r.2

/-- A lane access, a scalar load or a constant-bank load: what LANE_ACCESS_PERFORMED performs. -/
def isLaneMem (i : Instr) : Bool :=
  match i with
  | .ld _ | .st _ | .lds _ | .sts _ | .gath _ | .scat _ | .sld _ | .sldc _ => true
  | i => (bankBody i).isSome

/-- Performs the unfinished bytes of an operation on one line, as far as its order allows (R147, R151). -/
def State.performLine (s : State) (k q line : Nat) : State :=
  match s.op k q with
  | none => s
  | some o =>
    if !isLaneMem o.ins || !s.mayPerform k o || !(o.lines.contains line) || o.stuck.contains line then s
    else if isScratchOp o.ins then (if s.scratchTurn k o then s.scratchLine k o line else s)
    else if writesMem o.ins then s.storeAt k o line
    else s.loadLine k o line

/-! ### Spans of memory that a unit reads or writes at their homes -/

/-- A piece of a span: its physical address, its bytes, and the fill data that the access took (R286). -/
abbrev Piece := Nat × Nat × Option LineData

/-- Reaches `n` bytes from `va` line by line, each at its home: their physical pieces, or the first fault. -/
def State.spanReach (a : Agent) (ctx : Nat) (w : Asker) (kind : AccKind) (hint : Nat) : Nat → W64 → Nat → State → Acc (List Piece) × State
  | 0, _, _, s => (.ok [], s)
  | _, _, 0, s => (.ok [], s)
  | fuel + 1, va, n, s =>
    let m := min n (128 - va.toNat % 128)
    -- fill data that has been taken is kept while a later line of the span is awaited
    let fl := s.flightOf w (va.toNat / 128)
    match s.reach a ctx w va kind hint with
    | (.fault f, s) => (.fault f, s)
    | (.wait, s) => (.wait, s)
    | (.ok (pa, d), s) =>
      match State.spanReach a ctx w kind hint fuel (va + BitVec.ofNat 64 m) (n - m) s with
      | (.ok r, s) => (.ok ((pa, m, d) :: r), s)
      | (.fault f, s) => (.fault f, s)
      | (.wait, s) => (.wait, if d.isSome then { s with flights := s.flights ++ fl.toList } else s)

/-- Reads the current copy of physical pieces; a core's troupe keeps no older copy of what it read (R148, R283, R297). -/
def State.spanPeek (a : Agent) : List Piece → State → List Nat × State
  | [], s => ([], s)
  | (pa, n, d) :: ps, s =>
    let s := match a with | .core c => s.l1Forget c (pa / 128) | .die _ => s
    match d with
    | some d =>
      let r := State.spanPeek a ps s
      ((List.range n).map (fun i => (lineByte d (pa % 128 + i)).toNat) ++ r.1, r.2)
    | none =>
      let s := s.readHome (pa / 128)
      let r := State.spanPeek a ps s
      (s.peek pa n ++ r.1, r.2)

/-- Reads `n` bytes from `va` as one access of a unit, watched as one read (R256). -/
def State.spanRead (a : Agent) (by' : Accessor) (w : Asker) (va : W64) (n : Nat) (s : State) (hint : Nat := 0) : Acc (List Nat) × State :=
  match State.spanReach a by'.ctx w .read hint (n / 128 + 2) va n s with
  | (.fault f, s) => (.fault f, s)
  | (.wait, s) => (.wait, s)
  | (.ok ps, s) =>
    let r := State.spanPeek a ps s
    (.ok r.1, if n = 0 then r.2 else r.2.watchDie a.die' by' true false va n)

/-- Writes bytes to physical pieces at their homes. -/
def State.spanPoke : List Piece → List Nat → State → State
  | [], _, s => s
  | (pa, n, _) :: ps, b, s => State.spanPoke ps (b.drop n) (s.writeBytes pa (b.take n))

/-- Writes bytes from `va` as one access of a unit, watched as one write (R256); nothing is written on a fault. -/
def State.spanWrite (a : Agent) (by' : Accessor) (w : Asker) (va : W64) (b : List Nat) (s : State) (hint : Nat := 0) : Acc Unit × State :=
  match State.spanReach a by'.ctx w .write hint (b.length / 128 + 2) va b.length s with
  | (.fault f, s) => (.fault f, s)
  | (.wait, s) => (.wait, s)
  | (.ok ps, s) =>
    let s := State.spanPoke ps b s
    let s := match a with | .core c => ps.foldl (fun (s : State) x => s.l1Forget c (x.1 / 128)) s | .die _ => s
    (.ok (), if b.isEmpty then s else s.watchDie a.die' by' false true va b.length)

end Sys2Proof.Machine
end

