-- ==== Sys2Proof/Machine/Control.lean ====
section
/-!
DEFINITION. Control flow of a troupe (R93 to R100, R264): lane group 0, and the halt of a troupe (R258, R260).
-/
namespace Sys2Proof.Machine

/-! ### Halting (R258 to R260) -/

/-- The PC that the head run would issue next; with no READY thread, that of the lowest-PC thread that has not exited. -/
def Troupe.headPc (t : Troupe) : W64 :=
  match t.pt.pick 0 with
  | some p => p.pc
  | none => BitVec.ofNat 64 ((minList ((lanes.filter fun l => t.pt.state l != .exited).map fun l => (t.pt.pc l).toNat)).getD 0)

/-- HALTREC (R260). -/
def haltRec (skid cause level : Nat) : W64 := BitVec.ofNat 64 (min skid 65535 + 65536 * cause + 2 ^ 18 * level)

/-- Halts a troupe at its instruction boundary; a troupe that is halted already is left as it is (R258, R260). -/
def State.haltTroupe (s : State) (k cause : Nat) : State :=
  let t := s.tr k
  if t.halted || !t.resident || t.ended then s
  else
    let skid := if cause = 1 then t.skid else 0
    let r := haltRec skid cause t.level
    let ready := t.pt.inState .ready
    let s := s.setTr k { t with
      halted := true, haltrec := r, haltpc := t.headPc, haltseq := t.issueseq.setWidth 64, pt := t.pt.put ready .halted,
      hitAt := 0, stepping := false }
    s.traceRec k 6 t.level t.issueseq.toNat t.headPc.toNat r.toNat s.clock

/-! ### Lane group 0 -/

/-- NOP (R94). -/
def execNop (f : Fields) (s : State) : Out := laneStep f s fun _ t => t

/-- Targets are checked before any change, and the lowest lane with an offending target gives TRVAL (R79, R95, log entry 71); then
active lanes link and move, and an indirect branch is traced (R266). -/
def State.branch (s : State) (f : Fields) (tgt : Nat → W64) (link : Bool) (kind : Nat) : State :=
  let act := s.curT.active f.g s.cur.run
  let mine := lanes.filter (inMask act)
  let off := fun l => (tgt l).toNat % 16 != 0
  match mine.find? fun l => off l || !canonical (tgt l) with
  | some l => s.trapWord 4 (if off l then 1 else 2) (tgt l)
  | none =>
    let s' := s.retire fun t =>
      if act = 0 then t
      else
        let t := if link then t.wpair f.d.toNat act fun _ => s.cur.pc + 16 else t
        { t with pt := t.pt.goto act tgt }
    if kind = 0 || act = 0 then s'
    else s'.traceRec s.cur.t kind s.curT.level s.cur.seq.toNat s.cur.pc.toNat (tgt (lowestLane act)).toNat s.clock

/-- The target of a direct branch (R95). -/
def State.directTarget (s : State) (f : Fields) : W64 := s.cur.pc + 16 * f.x.signExtend 64

/-- BRA (R95). -/
def execBra (f : Fields) (s : State) : Out := .next (s.branch f (fun _ => s.directTarget f) false 0)

/-- BRI (R95). -/
def execBri (f : Fields) (s : State) : Out := .next (s.branch f (fun l => s.curT.rpair f.a.toNat l) false 2)

/-- CALL (R95). -/
def execCall (f : Fields) (s : State) : Out :=
  if f.var = 1 then .next (s.branch f (fun l => s.curT.rpair f.a.toNat l) true 2)
  else .next (s.branch f (fun _ => s.directTarget f) true 0)

/-- RET (R95). -/
def execRet (f : Fields) (s : State) : Out := .next (s.branch f (fun l => s.curT.rpair f.a.toNat l) false 3)

/-- EXIT (R96): the troupe may end, and its fatal records are then discarded (R78). -/
def execExit (f : Fields) (s : State) : Out :=
  let act := s.curT.active f.g s.cur.run
  .next ((s.retire fun t => { t with pt := t.pt.put act .exited }).orphanCheck s.cur.t)

/-- YIELD (R97): R68's update for its own issue is done, and the window opens after it. -/
def execYield (f : Fields) (s : State) : Out :=
  laneStep f s fun act t =>
    { t with pt := { t.pt with deferred := t.pt.deferred ||| act, w := 64 }, windows := t.windows + 1 }

/-- SLEEP (R98): active lanes sleep until `t + max(1, n)`. -/
def execSleep (f : Fields) (s : State) : Out :=
  let until' := s.clock + max 1 (f.xn % 2 ^ 24)
  laneStep f s fun act t =>
    { t with pt := { t.pt.put act .sleep with wake := t.pt.wake.writeLanes 0 act (fun _ => until') lanes } }

/-- TRAP (R99). -/
def execTrap (f : Fields) (s : State) : Out :=
  let act := s.curT.active f.g s.cur.run
  if act = 0 then .next (s.retire id) else .next (s.trapAfter 3 (BitVec.ofNat 64 (f.xn % 65536)))

/-- TRET (R82, R100): at level 0 it is cause 0x0B. -/
def execTret (f : Fields) (s : State) : Out :=
  let act := s.curT.active f.g s.cur.run
  if act = 0 then .next (s.retire id)
  else if s.curT.level = 0 then .next (s.trapWord 0x0B 1 0)
  else .next (s.setTr s.cur.t s.curT.leaveTrap)

/-- BKPT (R99, R264): armed at level 0 it halts its troupe, and the ring with STOPRING; else it is cause 0x07. -/
def execBkpt (f : Fields) (s : State) : Out :=
  let act := s.curT.active f.g s.cur.run
  let c := s.ctx (s.ctxOf s.cur.t)
  if act = 0 then .next (s.retire id)
  else if s.curT.level = 0 && c.debug && c.arm then
    let s' := (s.retire id).haltTroupe s.cur.t 2
    let s' := s'.modTr s.cur.t fun t => { t with haltpc := s.cur.pc + 16 }
    .next (if c.stopring then s'.stopRing (s.ctxOf s.cur.t) (coreOf s.cur.t) else s')
  else .next (s.trapAfter 7 (BitVec.ofNat 64 (f.xn % 65536)))

end Sys2Proof.Machine
end

