-- ==== Sys2Proof/Machine/Accounts.lean ====
section
/-!
DEFINITION. Accumulator banks: the waiters of ACCALLOC and the test that grants and refuses them (R206, R207).
-/
namespace Sys2Proof.Machine

/-- The follower core of a company on core `c` (R166). -/
def Co.follower (k : Co) : Nat := k.core + 1

/-- Banks of a core that no company holds. -/
def State.freeBanks (s : State) (c : Nat) : List Nat := (List.range 16).filter fun b => (s.core c).bankOwner.read b == 0

/-- Banks of a core that a company holds, those it has named for freeing among them. -/
def State.heldBanks (s : State) (c k : Nat) : Nat := ((List.range 16).filter fun b => (s.core c).bankOwner.read b == k + 1).length

/-- A waiter whose request is not decided; one whose company is pre-empted has left the list (R207). -/
def State.waits (s : State) (w : AccWaiter) : Bool := w.verdict == 0 && (s.co w.company).st == .resident

/-- The company waits: some troupe of it, on either of its cores, is a waiter (R207). -/
def State.blockedCo (s : State) (k : Nat) : Bool :=
  [(s.co k).core, (s.co k).follower].any fun c => (s.core c).waiters.any fun w => w.company == k && s.waits w

/-- Free banks and those of companies that are not blocked (R207). -/
def State.availBanks (s : State) (c : Nat) : Nat :=
  ((List.range 16).filter fun b =>
    let o := (s.core c).bankOwner.read b
    o == 0 || !s.blockedCo (o - 1)).length

/-- Gives a company banks of a core, zeroed, as its next logical banks (R206). -/
def State.giveBanks (s : State) (c k n : Nat) : State :=
  let bs := (s.freeBanks c).take n
  let s := s.modCore c fun x =>
    let acc := x.acc.filter fun e => !bs.contains (e.1 / 4096)
    let err := x.accErr.filter fun e => !bs.contains (e.1 / 4096)
    { x with acc := acc, accErr := err, bankOwner := bs.foldl (fun (m : Tbl Nat) b => m.write b (k + 1)) x.bankOwner }
  s.modCo k fun x => if c = x.core then { x with banks := x.banks ++ bs } else { x with fbanks := x.fbanks ++ bs }

/-- The cores a waiter waits on. -/
def State.waiterCores (s : State) (w : AccWaiter) : List Nat :=
  if w.pair then [(s.co w.company).core, (s.co w.company).follower] else [coreOf w.t]

/-- Decides a waiter on each of its cores: 1 granted, 2 refused. -/
def State.settleWaiter (s : State) (w : AccWaiter) (v : Nat) : State :=
  (s.waiterCores w).foldl (fun (s : State) c => s.modCore c fun x =>
    { x with waiters := x.waiters.map fun y => if y.t == w.t then { y with verdict := v } else y }) s

/-- The oldest undecided waiter of a core. -/
def State.oldest (s : State) (c : Nat) : Option AccWaiter := (s.core c).waiters.find? s.waits

/-- The oldest waiter is granted when its banks are free on every core it waits on, and it is the oldest on each (R207). -/
def State.grantOldest (s : State) (c : Nat) : State :=
  match s.oldest c with
  | none => s
  | some w =>
    let cs := s.waiterCores w
    if cs.all fun x => s.oldest x == some w && w.k ≤ (s.freeBanks x).length then
      (cs.foldl (fun (s : State) x => s.giveBanks x w.company w.k) s).settleWaiter w 1
    else s

/-- One turn of the test: the newest waiter is refused while the oldest cannot fit (R207). -/
def State.refuseNewest (s : State) (c : Nat) : State :=
  match s.oldest c with
  | none => s
  | some w =>
    if w.k ≤ s.availBanks c then s
    else match ((s.core c).waiters.filter s.waits).getLast? with
      | some n => s.settleWaiter n 2
      | none => s

/-- The cores on which a decision at a core can free the way for others: its own and those beside it, which a pair shares. -/
def nearCores (c : Nat) : List Nat := (if c % 8 = 0 then [] else [c - 1]) ++ [c] ++ (if c % 8 = 7 then [] else [c + 1])

/-- Repeats grants and refusals on a core and its neighbours until no waiter is undecided, at most `n` times (R207). -/
def State.accTurns (c : Nat) : Nat → State → State
  | 0, s => s
  | n + 1, s =>
    if (nearCores c).all fun x => (s.oldest x).isNone then s
    else State.accTurns c n ((nearCores c).foldl (fun (s : State) x => (s.grantOldest x).refuseNewest x) s)

/-- The test of a core's waiters (R207): each turn decides a waiter or is the last that changes anything, and the three cores
have at most 192. -/
def State.accTest (s : State) (c : Nat) : State := State.accTurns c 192 s

/-- A request for banks arrives: refused at once beyond 16, else a waiter (R207). -/
def State.accArrive (s : State) (t k : Nat) (pair : Bool) : State :=
  let c := coreOf t
  if (s.core c).waiters.any fun w => w.t == t then s
  else
    let co := (s.tr t).company
    let w : AccWaiter := { t := t, company := co, k := k, pair := pair, verdict := 0 }
    let cs := s.waiterCores w
    let w := if cs.any fun x => 16 < s.heldBanks x co + k then { w with verdict := 2 } else w
    let s := cs.foldl (fun (s : State) x => s.modCore x fun y => { y with waiters := y.waiters ++ [w] }) s
    cs.foldl (fun (s : State) x => s.accTest x) s

/-- The verdict on a troupe's request: 0 while it waits. -/
def State.accVerdict (s : State) (t : Nat) : Nat :=
  (((s.core (coreOf t)).waiters.find? fun w => w.t == t).map (·.verdict)).getD 0

/-- A decided waiter leaves the lists. -/
def State.accLeave (s : State) (t : Nat) : State :=
  match (s.core (coreOf t)).waiters.find? fun w => w.t == t with
  | none => s
  | some w => (s.waiterCores w).foldl (fun (s : State) x => s.modCore x fun y =>
      { y with waiters := y.waiters.filter fun z => z.t != t }) s

end Sys2Proof.Machine
end

