-- ==== Sys2Proof/Machine/Issue.lean ====
section
/-!
DEFINITION. What a troupe issues next and what holds it: instruction fetch (R84, R140, R156), interlocks and holds (R48 to R55,
R72, R73), the stall-reason counters (R86, R87), and the active and pending sets (R168 to R170).
-/
namespace Sys2Proof.Machine

/-! ### Fetch (R84, R140) -/

/-- The line that the L1 instruction cache is filled from: its home, and never an owner's dirty data (R140). -/
def State.homeLineData (s : State) (l : Nat) : LineData := if (s.sline l).present then (s.sline l).data else s.lowLine l

/-- The word at `pc` in a line's data (R38). -/
def wordIn (d : LineData) (pc : Nat) : IWord := d.extractLsb' (8 * (pc % 128)) 128

/-- An L1 instruction cache of 512 lines takes a line; the one that was filled longest ago makes room (R140, log entry 62). -/
def iPut (m : Tbl ILine) (l clock : Nat) (d : LineData) : Tbl ILine :=
  let m := if m.length < 512 || (m.read l).valid then m
    else match (sortBy (fun (e : Nat × ILine) => e.2.filled) m).head? with
      | some e => m.drop e.1
      | none => m
  m.write l { valid := true, data := d, filled := clock }

/-- The asker of a fetch of a line by a troupe. -/
def fetcher (k : Nat) (pc : W64) : Asker := ⟨k, 2 ^ 32 + pc.toNat / 128, 65⟩

/-- Fetches the word at a PC for a troupe (R84, R140, R280). Fill data that an invalidation met serves this fetch only (R286). -/
def State.fetchWord (s : State) (k : Nat) (pc : W64) : Acc IWord × State :=
  match (s.tr k).ibuf.find? fun e => e.1 == pc.toNat with
  | some e => (.ok e.2, s)
  | none =>
    let c := coreOf k
    let w := fetcher k pc
    match s.carried (.core c) (s.ctxOf k) w pc .fetch with
    | (.fault f, s) => (.fault f, s)
    | (.wait, s) => (.wait, s)
    | (.ok (e, pa), s) =>
      let l := pa / 128
      if ((s.core c).l1i.read l).valid then
        (.ok (wordIn ((s.core c).l1i.read l).data pc.toNat), if (s.flightOf w (pc.toNat / 128)).isSome then s.landFlight w (pc.toNat / 128) else s)
      else match s.arrive w pc e pa .fetch 0 with
        | (.fault f, s) => (.fault f, s)
        | (.wait, s) => (.wait, s)
        | (.ok (some d), s) => (.ok (wordIn d pc.toNat), s)
        | (.ok none, s) =>
          let d := s.homeLineData l
          (.ok (wordIn d pc.toNat), (s.useLine l).modCore c fun x => { x with l1i := iPut x.l1i l s.clock d })

/-- The threads whose fetch a fault holds (R84). -/
def Troupe.heldThreads (t : Troupe) : Mask :=
  maskOf fun l => t.holds.any fun h => h.park.state != .fatal && h.pc == t.pt.pc l

/-- A fetch fault begins to hold its run, and its service starts (R84, R330). -/
def State.holdFetch (s : State) (k : Nat) (pc : W64) (f : FaultInfo) : State :=
  let t := s.tr k
  let w : Site := { unit := 0, ctx := s.ctxOf k, pc := pc, seq := t.issueseq.toNat, key := k, value := 0xFE }
  let s := if f.restartable then
      (s.modTr k fun t => { t with faults := t.faults + 1 }).traceRec k 4 t.level w.seq pc.toNat f.cls f.addr.toNat
    else s
  let r := s.service w f
  r.2.modTr k fun t => { t with holds := t.holds ++ [{ pc := pc, park := r.1 }] }

/-! ### Holds (R48 to R55, R72, R73) -/

/-- The word has an effect under its guard: an active lane, or a true guard (R47). -/
def Troupe.acts (t : Troupe) (i : Instr) (run : Mask) : Bool :=
  let g := i.fields.g
  if i.isUniform then t.enabled g else t.active g run != 0

/-- Registers as an instruction of a trap level names them: S60 to S62 of level 1 are registers of their own (R81). -/
def atLevel (level : Nat) (rs : List Nat) : List Nat := if level = 1 then rs.map fun r => if 316 ≤ r && r ≤ 318 then r + 1024 else r else rs

/-- The registers that a word reads and writes at a trap level. -/
def namesAt (i : Instr) (level : Nat) : List Nat := atLevel level (i.reads ++ i.writes)

/-- The registers an operation in flight still writes; its sources were captured at issue (R55, R76). -/
def MemOp.pending (o : MemOp) : List Nat := atLevel o.level o.ins.writes

/-- Two register lists meet. -/
def meets (a b : List Nat) : Bool := a.any fun x => b.contains x

/-- The latency L of an instruction of class FIX4, FIX8 or FIX16, as its description names the class; 0 for VAR and NONE
(R54, R93, R111, R112, R116 to R129, R188, R205, R206, R269). -/
def latency (i : Instr) : Nat :=
  if (bankBody i).isSome then 0
  else match i with
    | .call _ | .plop _ | .vote _ | .elect _ | .mov _ | .movi _ | .iadd _ | .isub _ | .imul _ | .imulh _ | .imad _ | .imin _
    | .imax _ | .iabs _ | .ineg _ | .isetp _ | .sel _ | .shl _ | .shr _ | .sar _ | .shf _ | .bitf3 _ | .popc _ | .clz _
    | .ctz _ | .brev _ | .bfe _ | .bfi _ | .prmt _ | .idp4 _ | .iadd64 _ | .isub64 _ | .isetp64 _ | .shl64 _ | .shr64 _
    | .sar64 _ | .fadd _ | .fmul _ | .ffma _ | .fmin _ | .fmax _ | .fsetp _ | .frnd _ | .fclass _ | .hadd2 _ | .hmul2 _
    | .hfma2 _ | .hmin2 _ | .hmax2 _ | .hsetp2 _ | .smov _ | .smovi _ | .sadd _ | .ssub _ | .smin _ | .smax _ | .sbitf3 _
    | .sshl _ | .sshr _ | .ssar _ | .ssetp _ | .ssel _ | .sqlop _ => 4
    | .match _ | .shfl _ | .redux _ | .scan _ | .imadw _ | .imad64 _ | .dadd _ | .dmul _ | .dfma _ | .dmin _ | .dmax _
    | .dsetp _ | .cvt _ | .dqblk _ | .smul _ | .smad _ | .sv2s _ | .perf _ | .snap _ | .mxacq _ | .accalloc _ => 8
    | .frcp _ | .frsq _ | .fsqrt _ | .fex2 _ | .flg2 _ | .fsin _ | .fcos _ | .drcp _ | .qblk _ => 16
    | .sysr f => if 0x1000 ≤ f.xn then 0 else 8
    | .showq f => if bitOf f.mdn 0 then 0 else 8
    | _ => 0

/-- What a word of fixed latency, issued at a trap level, leaves pending (R48, R51, R54, R81). -/
def lateOf (i : Instr) (level seq clock : Nat) : List Late :=
  if latency i = 0 then [] else [{ seq := seq, regs := atLevel level i.writes, flags := Fields.flags i.fields, due := clock + latency i }]

/-- A word must wait for a result of fixed latency (R48, R54). -/
def Troupe.lateFor (t : Troupe) (i : Instr) (clock : Nat) : Bool :=
  t.lates.any fun e => clock < e.due && meets (namesAt i t.level) e.regs

/-- A word issued at a trap level must wait for an operation's registers (R48, R81). -/
def interlocked (i : Instr) (level : Nat) (o : MemOp) : Bool := meets (namesAt i level) o.pending

/-- A word depends on a parked operation: through registers, flags, or the memory class (R55, R72). -/
def dependsOn (i : Instr) (level : Nat) (o : MemOp) : Bool :=
  i.layout.mem || interlocked i level o || o.flags.any fun k => i.fields.wm.getLsbD k

/-- The instruction begins only when release(troupe) is over (R158, R162, R188, R204, R342, R355, R356). -/
def releasesAtIssue : Instr → Bool
  | .cpl _ | .cpt _ | .cps _ | .layex _ | .mxlw _ | .accld _ | .mxmul _ | .show _ | .tlbi _ => true
  | .mxfmt f => bitOf f.mdn 5
  | .mxchn f => bitOf f.mdn 1
  | .fence f => bitOf f.mdn 1
  | _ => false

/-- The instruction acquires at its issue (R292). -/
def acquiresAtIssue : Instr → Bool
  | .fence f => bitOf f.mdn 0
  | .waitoc _ => true
  | _ => false

/-- An access of the troupe's TLBI is still in flight (R342). -/
def State.tlbiWaits (s : State) (k : Nat) : Bool := s.inFlight (s.tr k).waits

/-- An ordering instruction still waits; an acquire waits for every earlier release and its drop takes four cycles; an advance
of the context's generation waits for the accesses that carry the next one (R155, R291 to R293, R329). -/
def State.orderHold (s : State) (k : Nat) (i : Instr) : Bool :=
  let t := s.tr k
  (releasesAtIssue i && !s.drained k) ||
  (acquiresAtIssue i && t.ops.any fun o => o.rel && !o.performed) ||
  (i.layout.mem && s.clock < t.orderUntil) ||
  (match i with
   | .fence f => bitOf f.mdn 0 && t.ops.any fun o => readsMem o.ins && !o.performed
   | .tlbi f => decide (2 ≤ f.mdn % 4) && s.genHold (s.ctxOf k)
   | _ => false)

/-- An access of the troupe asks for a miss entry of a path that has none left (R4). -/
def State.missHold (s : State) (k : Nat) : Bool :=
  s.flights.any fun f =>
    f.who.t == k && !s.held f.phys && (s.missOf f.phys).isNone &&
      (if f.entry.mt = 2 then s.tagsFull (((s.window (128 * f.phys)).map (·.2)).getD 0) 1 && !s.fabric.tags.any (fun x => x.pa / 128 == f.phys)
       else !s.pathOpen (missPath f.entry.mt f.phys))

/-- The counter that an instruction raises at issue (R186). -/
def raises : Instr → Option Nat
  | .cpl _ | .cpt _ => some 0
  | .mxlw _ | .mxfmt _ | .mxmul _ | .mxchn _ | .mxrel _ | .accz _ | .accld _ | .accst _ | .accfree _ | .accrd _ | .accwr _ => some 1
  | .gath _ | .scat _ => some 2
  | .cps _ | .layex _ => some 3
  | _ => none

/-- Queues of the matrix engines that a command enters: its own core's, and the follower's (R203, R205, R212, R213). -/
def matrixQueues (i : Instr) (leader c : Nat) : List Nat :=
  match i with
  | .mxlw f | .mxfmt f => if bitOf f.mdn 5 then [leader + 1] else [c]
  | .mxmul f | .mxchn f => if bitOf f.mdn 1 then [leader, leader + 1] else [c]
  | .mxrel f | .accfree f => if bitOf f.mdn 0 then [leader, leader + 1] else [c]
  | .accz _ | .accld _ | .accst _ | .accrd _ | .accwr _ => [c]
  | _ => []

/-- The engine that a copy or layout command goes to: copy engine `r mod 8` of the die for ring `r`, or the die's layout
engine (R163, R354). -/
def engineOf (i : Instr) (c : Nat) : Option Nat :=
  match i with
  | .cpt _ | .cps _ => some (9 * dieOf c + c / 8 % 16 % 8)
  | .layex _ => some (9 * dieOf c + 8)
  | _ => none

/-- The commands a ring's tightrope or rasteriser has to perform (R237, R245). -/
def State.ringLoad (s : State) (ring : Nat) (cut : Bool) : Nat :=
  (s.troupes.flatMap fun e => if ringOf (coreOf e.1) == ring then e.2.ops.filter fun o =>
    o.park.isNone && (match o.ins with | .cutsel _ => cut | .rast _ => !cut | _ => false) else []).length

/-- An engine, a queue or a counter refuses the instruction for now: reason 10 (R187, R188, R193, R203, R207, R354). -/
def State.engineHold (s : State) (k : Nat) (i : Instr) : Bool :=
  let t := s.tr k
  (match raises i with | some c => 255 ≤ t.oc.read c | none => false) ||
  (match engineOf i (coreOf k) with | some e => 16 ≤ (s.engines.read e).length | none => false) ||
  ((matrixQueues i (s.co t.company).core (coreOf k)).any fun c => 32 ≤ (s.core c).queue.length) ||
  (match i with
   | .waitoc f => f.xn % 256 < t.oc.read (f.mdn % 4)
   | .cutsel _ => 8 ≤ s.ringLoad (ringOf (coreOf k)) true
   | .rast _ => 8 ≤ s.ringLoad (ringOf (coreOf k)) false
   | .show _ => (s.co t.company).depth != 10 && (s.co t.company).children == 65535
   | _ => false)

/-- A queue instruction of the troupe has issued and waits: the troupe issues nothing (R193, R194). -/
def Troupe.queueWait (t : Troupe) : Bool :=
  t.ops.any fun o => o.park.isNone && (match o.ins with | .qpush _ | .qpop _ => true | _ => false)

/-- Every hold of a decoded word, in the order of R87, each with its reason. -/
def State.allHolds (s : State) (k : Nat) (i : Instr) (run : Mask) : List Nat :=
  let t := s.tr k
  let acts := t.acts i run
  let when := fun (r : Nat) (b : Bool) => if b then [r] else []
  when 5 (t.ops.any fun o => o.park.isSome && dependsOn i t.level o)
    ++ when 0 (decide (s.clock < t.holdUntil))
    ++ when 2 (t.flagWait i.fields.wm)
    ++ when 3 (acts && t.flagFull i.fields)
    ++ when 6 (acts && decide (t.freeRecs.length < i.layout.recs))
    ++ when 9 (s.tlbiWaits k || (acts && s.orderHold k i))
    ++ when 10 (t.queueWait || (acts && s.engineHold k i))
    ++ when 8 (acts && i.layout.mem && s.missHold k)
    ++ when 1 ((t.ops.any fun o => interlocked i t.level o) || t.lateFor i s.clock)

/-- What holds a decoded word, by the order of R87; `none` when it can issue. -/
def State.holdReason (s : State) (k : Nat) (i : Instr) (run : Mask) : Option Nat := (s.allHolds k i run).head?

/-- The holds of a word make its troupe long-stalled: reasons 5, 6, 8, 9 and 10, and a wait for a register or a flag of an
operation in flight, whose class is VAR. One without a register result holds no flag (R51, R169). -/
def Troupe.longHold (t : Troupe) (i : Instr) (reasons : List Nat) : Bool :=
  reasons.any fun r => match r with
    | 5 | 6 | 8 | 9 | 10 => true
    | 1 => t.ops.any fun o => interlocked i t.level o
    | 2 => t.ops.any fun o => o.flags.any fun k => i.fields.wm.getLsbD k
    | _ => false

/-! ### The next word of a troupe -/

/-- What a troupe would do in its port cycle. -/
inductive Next where
  /-- No thread can issue. -/
  | none
  /-- A fetch that no service can mend: cause 0x05 (R84). -/
  | fetchTrap (p : Pick) (h : FetchHold)
  /-- Held under a stall reason; `long` where that makes the troupe long-stalled. -/
  | held (reason : Nat) (long : Bool)
  /-- A word that fails the checks of R56. -/
  | bad (p : Pick) (word : IWord) (e : EncTrap)
  | word (p : Pick) (word : IWord) (i : Instr)
  deriving DecidableEq, Repr

/-- The next word of a troupe, and the state after its fetch. A word that fails the checks of R56 waits for its predecessor's ST and
for no named flag (R49, R52, log entry 73). -/
def State.nextWord (s : State) (k : Nat) : Next × State :=
  let t := s.tr k
  match t.pt.pick t.heldThreads with
  | none => (if t.heldThreads &&& t.pt.inState .ready = 0 then .none else .held 4 false, s)
  | some p =>
    match t.holds.find? fun h => h.pc == p.pc with
    | some h => (.fetchTrap p h, s)
    | none =>
      match s.fetchWord k p.pc with
      | (.wait, s) => (.held 4 false, s)
      | (.fault f, s) => (.held 4 false, s.holdFetch k p.pc f)
      | (.ok w, s) =>
        match decodeFor (isCalliope k) t.nregs w with
        | .error e => (if s.clock < t.holdUntil then .held 0 false else .bad p w e, s)
        | .ok i =>
          let rs := s.allHolds k i p.run
          match rs.head? with
          | some r => (.held r ((s.tr k).longHold i rs), s)
          | none => match i with
            | .accalloc f =>
              -- the request arrives when nothing else holds the word, and is then held until it is decided (R207)
              if !t.enabled f.g || (bitOf f.mdn 0 && !(s.co t.company).paired) then (.word p w i, s)
              else
                let s := s.accArrive k (f.xn % 32) (bitOf f.mdn 0)
                (if s.accVerdict k = 0 then .held 10 true else .word p w i, s)
            | _ => (.word p w i, s)

/-! ### The stall-reason counters (R86 to R88) -/

/-- The company of a troupe runs: it is neither being saved nor does its context end (R171, R339). -/
def State.runs (s : State) (k : Nat) : Bool :=
  let t := s.tr k
  let c := s.co t.company
  t.resident && !t.ended && c.st == .resident && (s.ctx c.ctx).endReason == 0 && !(s.ctx c.ctx).dead

/-- The reason when no thread is READY: the lowest-PC thread that has not exited sleeps or waits, of several at that PC the
one of the lowest lane (log entry 63); with none, records are outstanding (R86). -/
def Troupe.idleReason (t : Troupe) : Nat :=
  let live := lanes.filter fun l => t.pt.state l != .exited
  match minList (live.map fun l => (t.pt.pc l).toNat) with
  | none => 5
  | some lo =>
    match live.find? fun l => (t.pt.pc l).toNat == lo with
    | some l => if t.pt.state l == .sleep then 13 else 14
    | none => 5

/-- A ready record waits for replay (R77). -/
def Troupe.replayReady (t : Troupe) : Bool :=
  t.ops.any fun o => match o.park with | some p => p.state == .ready | none => false

/-- A place, or a calliope, in which the troupe may issue (R168, R169, R191). -/
def State.mayIssue (s : State) (k : Nat) : Bool :=
  let t := s.tr k
  if isCalliope k then t.issuedAt == 0 || t.issuedAt + 1 ≤ s.clock
  else t.place != 0 && t.idleUntil ≤ s.clock

/-- Issue port `p` of a core has not been used in this cycle (R168). -/
def State.portFree (s : State) (c p : Nat) : Bool := (s.core c).ports.read p != s.clock + 1

/-- The port through which a troupe can issue in this cycle: places `p` and `p + 4` share port `p`, and a calliope takes any
that no place has used (R168, R191). -/
def State.portOf (s : State) (k : Nat) : Option Nat :=
  let c := coreOf k
  if isCalliope k then (List.range 4).find? (s.portFree c)
  else let p := ((s.tr k).place - 1) % 4; if s.portFree c p then some p else none

/-- The stall reason of a cycle in which the troupe does not issue (R87). A troupe that could issue and is stopped by a save,
by its context's end or by a trap counts under 12, as one that is not active (log entry 63). -/
def State.stallReason (s : State) (k : Nat) : Nat :=
  let t := s.tr k
  if t.halted then 15
  else match (s.nextWord k).1 with
    | .none => t.idleReason
    | .held r _ => if r = 5 then 5 else if !isCalliope k && !s.mayIssue k then 12 else r
    | _ => if (isCalliope k || s.mayIssue k) && (s.portOf k).isNone then 11 else 12

/-- Counts a stall cycle of a troupe; the counters saturate at 48 bits (R87, R88). -/
def Troupe.stall (t : Troupe) (r : Nat) : Troupe :=
  { t with stalls := t.stalls.write r (min (t.stalls.read r + 1) (2 ^ 48 - 1)), cycles := t.cycles + 1 }

/-- A port of the troupe's core is used in this cycle, by its issue or its replay (R77, R168). -/
def State.usePort (s : State) (k : Nat) : State :=
  let s' := match s.portOf k with
    | some p => s.modCore (coreOf k) fun x => { x with ports := x.ports.write p (s.clock + 1) }
    | none => s
  s'.modTr k fun t => { t with issuedAt := s.clock + 1 }

/-- One cycle passes: every resident troupe that has not used a port in it counts its stall reason (R87), results of fixed
latency come to be readable (R51, R54), and invalidations whose waits are over are completed (R343, R384). -/
def State.tick (s : State) : State :=
  { s.dropFound with
    clock := s.clock + 1
    invals := s.invals.filter fun i => s.inFlight i.waits
    troupes := s.troupes.mapAll fun k t =>
      let t := t.endLates fun e => e.due ≤ s.clock + 1
      if !t.resident || t.ended || t.issuedAt = s.clock + 1 then t else t.stall (s.stallReason k) }

/-! ### The two sets (R168 to R170) -/

/-- Long-stalled: no READY thread, or the next word waits under reason 5, 6, 8, 9 or 10, or for a result of class VAR (R169). -/
def State.longStalled (s : State) (k : Nat) : Bool :=
  match (s.nextWord k).1 with
  | .none => true
  | .held _ long => long
  | _ => false

/-- The launch priority of a troupe's company. -/
def State.prioOf (s : State) (k : Nat) : Nat := (s.co (s.tr k).company).prio

/-- The troupes of a core in its active set, or in its pending set. -/
def State.setOf (s : State) (c : Nat) (active : Bool) : List Nat :=
  (s.troupes.filter fun e => coreOf e.1 == c && !isCalliope e.1 && e.2.resident && !e.2.ended && (e.2.place != 0) == active).map (·.1)

/-- The pending troupe that comes in: highest priority, then longest in the set, then the lowest slot (R169). -/
def State.incoming (s : State) (c : Nat) (atLeast : Nat) : Option Nat :=
  let l := (s.setOf c false).filter fun k => !s.longStalled k && atLeast ≤ s.prioOf k
  (sortBy (fun k => ((63 - s.prioOf k) * 2 ^ 64 + (s.tr k).since) * 64 + slotOf k) l).head?

/-- A troupe enters a place: it issues nothing in the next two cycles (R169, R170). -/
def Troupe.enterPlace (t : Troupe) (place clock : Nat) : Troupe :=
  { t with place := place + 1, since := clock, idleUntil := clock + 3, lastIssue := 0, reuse := [] }

/-- A troupe returns to the pending set, without its reuse slots (R170). -/
def Troupe.leavePlace (t : Troupe) (clock : Nat) : Troupe := { t with place := 0, since := clock, lastIssue := 0, reuse := [] }

/-- Swaps the troupe in a place with an incoming one, if there is one (R169). -/
def State.swapPlace (s : State) (c k atLeast : Nat) : State :=
  match s.incoming c atLeast with
  | none => s
  | some n =>
    let p := (s.tr k).place - 1
    (s.modTr k fun t => t.leavePlace s.clock).modTr n fun t => t.enterPlace p s.clock

/-- The troupe in a place of a core. -/
def State.inPlace (s : State) (c p : Nat) : Option Nat := (s.setOf c true).find? fun k => (s.tr k).place == p + 1

/-- A place at the end of a cycle: filled when it is empty; swapped when its troupe is long-stalled, or, for a ready troupe of its
priority or higher, when it has held the place for 1,024 cycles (R169, R170). -/
def State.turnPlace (s : State) (c p : Nat) : State :=
  match s.inPlace c p with
  | none =>
    let l := s.setOf c false
    match (sortBy (fun k => ((63 - s.prioOf k) * 2 ^ 64 + (s.tr k).since) * 64 + slotOf k) l).head? with
    | some n => s.modTr n fun t => t.enterPlace p s.clock
    | none => s
  | some k =>
    if s.longStalled k then s.swapPlace c k 0
    else if (s.tr k).since + 1024 ≤ s.clock then s.swapPlace c k (s.prioOf k)
    else s

/-- The end of a cycle on a core: its places take their incoming troupes in ascending number (R169, R170). -/
def State.swapSets (s : State) (c : Nat) : State := (List.range 8).foldl (fun (s : State) p => s.turnPlace c p) s

/-- ACTIVE_SET_SWAP (R169, R170). -/
def execActiveSetSwap (c : Nat) (s : State) : Out := .next (s.swapSets c)

/-- TENURE_EXPIRY (R169): after 1,024 cycles in its place a troupe gives way to a ready one of its priority or higher. -/
def execTenureExpiry (c place : Nat) (s : State) : Out :=
  match s.inPlace c place with
  | none => .next s
  | some k => if (s.tr k).since + 1024 ≤ s.clock then .next (s.swapPlace c k (s.prioOf k)) else .next s

end Sys2Proof.Machine
end

