-- ==== Sys2Proof/Machine/Place.lean ====
section
/-!
DEFINITION. The state in which a given word is the first that a troupe issues: a context, an address map, a company with one
troupe of eight registers, and the word where its fetch reads it (R65, R140, R165, R318, R376).
-/
namespace Sys2Proof.Machine

/-- A troupe as its launch leaves it (R28, R65). -/
def Troupe.launched (index company n : Nat) (entry : W64) (param : W64) (coIndex : Nat) : Troupe :=
  let ids := fun (m : Tbl W32) (r : Nat) (g : Nat → Nat) => m.writeLanes (64 * r) (-1) (fun l => BitVec.ofNat 32 (g l)) lanes
  let t : Troupe := { (default : Troupe) with
    resident := true, company := company, index := index, nregs := n
    v := ids (ids [] 0 id) 1 fun l => 64 * index + l
    s := (Tbl.write [] 0 param).write 1 (BitVec.ofNat 64 coIndex)
    pt := { (default : PcTable) with pcs := Tbl.writeLanes [] 0 (-1) (fun _ => entry) lanes } }
  t.seedLanes (BitVec.ofNat 16 (0xACE1 + index))

/-- The address at which `placeWord` puts its word, virtual and physical. -/
def placeVa : Nat := 0x10000

/-- A company of context 0 with one troupe in slot 0 of core 0, whose L1 instruction cache holds the word at its PC. -/
def State.placeWord (s : State) (w : IWord) : State :=
  let e : TlbEntry := {
    ctx := 0, cgen := (s.ctx 0).cgen, va := placeVa, size := 16, pa := placeVa, r := true, w := true, x := true, mt := 0, graph := false, frame := 1,
    fgen := (s.frame 0).fgen, group := 0 }
  let co : Co := { (default : Co) with
    st := .resident, ctx := 0, troupes := 1, nregs := 248, scratch := 2048, slots := [0], calliopeDone := true, depth := 1,
    dimx := 1, dimy := 1, dimz := 1 }
  let s := s.setReg 0xB000 0
  let s := s.setReg 0xB008 0xFFFFFFFFF0000#64
  let s := s.setReg 0xB010 (BitVec.ofNat 64 (1 + 8 * s.caps.pkg + 4096))
  let s := { s with agenda := [] }
  let s := s.modCtx 0 fun x => { x with desc := some { (default : CtxDesc) with valid := true, tlbiok := true } }
  let s := { s with companies := s.companies.write 0 co }
  let s := s.modCore 0 fun x => { x with
    itlb := e :: x.itlb
    l1i := x.l1i.write (placeVa / 128) { valid := true, data := w.setWidth 1024, filled := 0 } }
  -- the carousels have moved in this cycle
  let s := (List.range 4).foldl (fun (s : State) d => s.modDie d fun x => { x with handAt := s.clock + 1 }) s
  let t := Troupe.launched 0 0 248 (BitVec.ofNat 64 placeVa) 0 0
  s.setTr 0 { t with place := 1 }

end Sys2Proof.Machine
end

