-- ==== Sys2Proof/Machine/Encore.lean ====
section
/-!
DEFINITION. Encore replay, retried fetches, deferred traps and the end of sleep (R77, R79, R84, R98).
-/
namespace Sys2Proof.Machine

/-- The threads a deferred trap takes as its run: the head run of R68, or with no READY thread those at the lowest PC among
the threads that have not exited. -/
def Troupe.headRun (t : Troupe) : Mask × W64 :=
  match t.pt.pick 0 with
  | some p => (p.run, p.pc)
  | none => (maskOf fun l => t.pt.state l != .exited && t.pt.pc l == t.headPc, t.headPc)

/-- The deferred trap that can be taken next: of level 1 at any boundary, of level 0 at a boundary of that level (R79, R83, R263). -/
def Troupe.nextTrap (t : Troupe) : Option DTrap := t.dtraps.find? fun d => d.level == 1 || t.level == 0

/-- A deferred trap can be taken: the troupe stands at a boundary and is not halted (R79, R83, R263). -/
def State.trapDue (s : State) (k : Nat) : Bool := s.runs k && !(s.tr k).halted && (s.tr k).nextTrap.isSome

/-- DEFERRED_TRAP (R79): the oldest is taken; a troupe whose threads have all exited has no handler, and the error goes to
the host. -/
def execDeferredTrap (k : Nat) (s : State) : Out :=
  if !s.trapDue k then .next s
  else
    match (s.tr k).nextTrap with
    | none => .next s
    | some d =>
      let t := s.tr k
      let s := s.setTr k { t with dtraps := t.dtraps.erase d }
      if d.level = 1 then .next (s.startEnd (s.ctxOf k) 1 (BitVec.ofNat 64 (d.cause + 256 * d.detail + 65536 * d.record)))
      else if t.allExited then
        let r : FRec := {
          type := 3, cls := if d.cause = 6 then d.detail else 0, rflags := 16, ctx := s.ctxOf k, detail := d.detail,
          va := d.value, place := whereOf k, value := d.value }
        .next (s.frqRaise r)
      else
        let h := t.headRun
        .next ((s.takeTrap k { cause := d.cause, detail := d.detail, record := d.record, value := d.value, word := d.word,
                               resume := h.2, run := h.1, seq := t.issueseq.toNat }).orphanCheck k)

/-- The entries that a rejected access used are dropped before it is made again (R327). -/
def State.dropStale (s : State) (k : Nat) (p : Park) : State :=
  if p.cls = 3 then s.dropFor (.core (coreOf k)) (s.ctxOf k) (p.addr.toNat % 2 ^ 57) else s

/-- The oldest ready record of a troupe (R77). -/
def Troupe.readyOp (t : Troupe) : Option MemOp :=
  t.ops.find? fun o => match o.park with | some p => p.state == .ready | none => false

/-- A ready record can be replayed: the troupe has its port cycle and is not halted (R77, R261). -/
def State.replayDue (s : State) (k : Nat) : Bool :=
  s.runs k && !(s.tr k).halted && s.mayIssue k && (s.tr k).replayReady && (s.tr k).issuedAt != s.clock + 1 && (s.portOf k).isSome

/-- An element that is not performed whole is made again from the log, with every byte of it, and an engine of lane group 12 tries
every unfinished lane again (R76, R145, R242, R251). -/
def MemOp.again (o : MemOp) : MemOp :=
  let part := o.keys.filter fun key => !o.keyDone key
  { o with prog := part.foldl (fun (m : Tbl Nat) key => m.write key 0) o.prog
           thr := if isGeo o.ins then [] else o.thr
           got := if readsMem o.ins && !writesMem o.ins then part.foldl (fun (m : Tbl Nat) key => m.write key 0) o.got else o.got }

/-- ENCORE_REPLAY (R77): the cycle counts under "replay", whatever the state of the threads, and the unfinished lanes are
performed again (R87, log entry 63). -/
def execEncoreReplay (k q : Nat) (s : State) : Out :=
  match (s.tr k).readyOp with
  | none => .next s
  | some o =>
    if o.seq ≠ q || !s.replayDue k then .next s
    else
      let s := s.dropStale k (o.park.getD default)
      let s := (s.usePort k).modTr k fun t =>
        { t.stall 7 with replays := t.replays + 1 }
      let o := if isLaneMem o.ins then o.again else o
      let s := s.setOp k { o with park := none, stuck := [], replayed := true }
      .next (o.lines.foldl (fun (s : State) l => s.performLine k q l) s)

/-- FETCH_RETRY (R84): a run whose fault has been served is fetched again. -/
def execFetchRetry (k : Nat) (s : State) : Out :=
  let t := s.tr k
  let due := t.holds.filter fun h => h.park.state == .ready
  let s := due.foldl (fun (s : State) h => s.dropStale k h.park) s
  .next (if due.isEmpty then s else s.modTr k fun t => { t with holds := t.holds.filter fun h => h.park.state != .ready })

/-- The sleepers of a PC table whose counts have elapsed. -/
def PcTable.awake (p : PcTable) (clock : Nat) : Mask :=
  maskOf fun l => p.state l == .sleep && p.wake.read l ≤ clock

/-- Wakes the sleepers of a PC table into a state. -/
def PcTable.wakeDue (p : PcTable) (clock : Nat) (x : TState) : PcTable :=
  let m := p.awake clock
  if m = 0 then p else { p.put m x with wake := p.wake.writeLanes 0 m (fun _ => 0) lanes }

/-- SLEEP_EXPIRY (R98): counts run on through traps, so those in the shadow elapse too. -/
def execSleepExpiry (k : Nat) (s : State) : Out :=
  let t := s.tr k
  if !t.resident then .next s
  else
    .next (s.setTr k { t with
      pt := t.pt.wakeDue s.clock t.wakeTo,
      shadow := if t.level = 1 then t.shadow.wakeDue s.clock .ready else t.shadow })

end Sys2Proof.Machine
end

