-- ==== Sys2Proof/Machine/Coherence.lean ====
section
/-!
DEFINITION. The events of the caches and home slices (R151, R280 to R286), and of pool and host coherence (R378 to R382).
-/
namespace Sys2Proof.Machine

/-- TOKEN_GRANT (R282). -/
def execTokenGrant (c line : Nat) (s : State) : Out :=
  .next (if (s.core c).want.contains line then s.grantToken c line else s)

/-- TOKEN_RECALL (R284): the holder's queued stores are written first, then its dirty bytes go home. -/
def execTokenRecall (line : Nat) (s : State) : Out :=
  .next (if (s.owner line).isSome then (s.takeBack line).fit line else s)

/-- READ_FORWARD (R283). -/
def execReadForward (line : Nat) (s : State) : Out := .next (s.forwardRead line)

/-- MERGE_WINDOW_CLOSE (R280): 64 cycles after the entry's allocation. -/
def execMergeWindowClose (line : Nat) (s : State) : Out :=
  match s.missOf line with
  | some m => .next (if m.opened + 64 ≤ s.clock then s.modMiss line fun m => { m with closed := true } else s)
  | none => .next s

/-- The lane accesses among the accesses in flight on a line are performed; other agents go on by their own events (R280). -/
def State.serveJoined (s : State) (l : Nat) (js : List Asker) : State :=
  (s.flights.filter fun f => js.contains f.who && f.phys == l).foldl
    (fun (s : State) f => s.performLine f.who.t f.who.q f.line) s

/-- The fill of a line can be made: its frame is the one the access carried, and the line is neither absent nor in error (R326, R352). -/
def State.fillOk (s : State) (m : Miss) : Bool :=
  !s.lost m.line && (m.frame == 0 || ((s.frame (m.frame - 1)).fgen == m.fgen && s.granulePresent (128 * m.line)))

/-- The L1 caches that a prefetch asked a line for take it (R153). -/
def State.servePrefs (s : State) (l : Nat) (ps : List (Nat × Nat)) : State :=
  ps.foldl (fun (s : State) p =>
    if p.2 = 3 || ((s.core p.1).l1.read l).valid then s else s.l1Put p.1 l (s.current l) p.2 false) s

/-- Fill data that arrives after an invalidation is given once to each access that waited for it (R286). -/
def State.giveOnce (s : State) (l : Nat) (js : List Asker) (d : LineData) : State :=
  { s with flights := s.flights.map fun f => if js.contains f.who && f.phys == l then { f with took := some d } else f }

/-- FILL_RETURN (R280, R286): the line is installed and every joined access is served; after an invalidation each takes
the fill data once and the line is not installed. -/
def execFillReturn (line : Nat) (s : State) : Out :=
  match s.missOf line with
  | none => .next s
  | some m =>
    let s := { s with misses := s.misses.filter fun x => x.line != line }
    if m.killed then .next ((s.giveOnce line m.joined m.took).serveJoined line m.joined)
    -- a write at the home has meanwhile brought the line in
    else if s.held line then .next ((s.servePrefs line m.prefs).serveJoined line m.joined)
    else if !s.fillOk m then .next (s.serveJoined line m.joined)
    else
      let s := (s.refill line).touchFrame line
      let host := match s.window (128 * line) with | some w => w.1 == 3 | none => false
      let s := if host && s.cache.pool.read line == 0 then
          { s with cache := { s.cache with pool := s.cache.pool.write line 1 } } else s
      let s := s.install line (s.lowLine line) m.hint
      .next ((s.servePrefs line m.prefs).serveJoined line m.joined)

/-- CLEAN_COPY_EXPIRY (R285): a clean copy may leave at any time, and leaves by 65,536 cycles after its fill. -/
def execCleanCopyExpiry (c line : Nat) (s : State) : Out := .next (s.l1Forget c line)

/-- POOL_OWNERSHIP_GRANT (R378, R382): what the line's device was asked for. -/
def execPoolOwnershipGrant (line : Nat) (s : State) : Out :=
  .next (if s.cache.pool.read line = 3 then { s with cache := { s.cache with pool := s.cache.pool.write line 2 } } else s)

/-- An invalidation meets the fill of a line: the data that left before it is kept for those that wait (R286). -/
def State.killMiss (s : State) (l : Nat) : State :=
  let d := s.lowLine l
  s.modMiss l fun m => if m.killed then m else { m with killed := true, took := d, closed := true }

/-- Bytes of a line written by another device into the backing memory. -/
def State.deviceWrite (s : State) (l : Nat) (w : List (Nat × Byte)) : State :=
  w.foldl (fun (s : State) x => if x.1 < 128 then { s with mem := s.mem.write (128 * l + x.1) x.2 } else s) s

/-- The frame of a line is being reclaimed and its granule is not yet written back (R351). -/
def State.reclaimBusy (s : State) (l : Nat) : Bool :=
  match s.frameOf (128 * l) with
  | some f => (s.frame f).fstate == 2 && (s.frame f).stage < 3
  | none => false

/-- The line differs from its device's copy: dirty in the slice or its owner, or in a dirty granule. -/
def State.dirtyLine (s : State) (l : Nat) : Bool :=
  (s.sline l).dirty || (match s.owner l with | some c => ((s.core c).l1.read l).dirty | none => false) ||
    (match s.frameOf (128 * l) with
     | some f => (s.frame f).dirtymask.getLsbD (l / 32 % 16)
     | none => false)

/-- A snoop on a line: it waits for locks and for a reclaim under way; then the token is recalled, a dirty line is written
to its device, the line is dropped, and the device's write follows (R379, R382). -/
def State.snoop (s : State) (l : Nat) (w : List (Nat × Byte)) : State :=
  if (s.sline l).lock ≠ 0 || s.reclaimBusy l then s
  else
    let s := ((s.killMiss l).takeBack l).dropCuts l
    let dirty := s.dirtyLine l && 2 ≤ s.cache.pool.read l
    let d := s.current l
    let s := if dirty then s.deviceWrite l ((List.range 128).map fun i => (i, lineByte d i)) else s
    let s := s.modSline l fun y => { y with present := false, data := 0, dirty := false, hint := 0 }
    let s := { s with recent := s.recent.filter (· != l) }
    let s := { s with cache := { s.cache with pool := s.cache.pool.write l 0 } }
    s.deviceWrite l w

/-- BACK_INVALIDATE_SNOOP (R379): from the device of a shared pool span. -/
def execBackInvalidateSnoop (line : Nat) (w : List (Nat × Byte)) (s : State) : Out :=
  match s.window (128 * line) with
  | some (2, h) => .next (if h = s.caps.pkg then s.snoop line w else s)
  | _ => .next s

/-- HOST_SNOOP (R382): on a line of host memory. -/
def execHostSnoop (line : Nat) (w : List (Nat × Byte)) (s : State) : Out :=
  match s.window (128 * line) with
  | some (3, _) => .next (s.snoop line w)
  | _ => .next s

end Sys2Proof.Machine
end

