-- ==== Sys2Proof/Machine/Cycle.lean ====
section
/-!
DEFINITION. One issue: which troupe issues, what its issue changes before and after the word acts
(R50, R53, R57, R68, R84, R168, R266), and fetching ahead (R156).
-/
namespace Sys2Proof.Machine

/-- A troupe may use a port in this cycle (R79, R168, R191, R258). -/
def State.onPort (s : State) (k : Nat) : Bool :=
  s.runs k && !(s.tr k).halted && s.mayIssue k && !s.trapDue k && (s.tr k).issuedAt != s.clock + 1 && (s.portOf k).isSome

/-- The troupes on ports that are free in this cycle, the lower port first (R203); of those that share a port the one that issued
less recently first, then the lower place; calliopes come last (R168, R191). -/
def State.ports (s : State) : List Nat :=
  let rank := fun (k : Nat) => if isCalliope k then 2 ^ 80
    else 2 ^ 70 * (((s.tr k).place - 1) % 4) + 8 * (s.tr k).lastIssue + (s.tr k).place
  sortBy rank ((s.troupes.map (·.1)).filter s.onPort)

/-- The first troupe on the ports that issues, or whose fetch traps. -/
def State.chooseIssue : List Nat → State → Option (Nat × Next) × State
  | [], s => (none, s)
  | k :: ks, s =>
    match s.nextWord k with
    | (.none, s) => State.chooseIssue ks s
    | (.held _ _, s) => State.chooseIssue ks s
    | (n, s) => (some (k, n), s)

/-- A register field holds vector registers (R40). -/
def isVector : FieldKind → Bool
  | .vec | .pair | .quad | .quadBase | .range _ | .strict _ | .two => true
  | _ => false

/-- The reuse slots after the reads of a word: the vector register that a position names with its RU bit set is kept, of several
the first (R53, log entry 64). -/
def Troupe.reused (t : Troupe) (i : Instr) : Troupe :=
  let f := i.fields
  let l := i.layout
  let slot := fun (m : Tbl Nat) (pos : Nat) (bit : Bool) (k : FieldKind) (v : Nat) =>
    if bit && isVector k && v < 255 then m.write pos (v + 1) else m
  let m := slot t.reuse 0 (f.ru.getLsbD 2) l.a f.a.toNat
  let m := if l.bWritten then m else slot m 1 (f.ru.getLsbD 1) l.b f.b.toNat
  { t with reuse := if l.eWritten then m else slot m 2 (f.ru.getLsbD 0) l.e f.e.toNat }

/-- What an issue changes before its word acts: R68's update, the counters, ST, the trace and the site of the issue. -/
def State.beginIssue (s : State) (k : Nat) (p : Pick) (w : IWord) (i : Option Instr) : State :=
  let t := s.tr k
  let st := match i with | some i => i.fields.st.toNat | none => 0
  let t' := t.issued t.heldThreads p
  let t' := match i with | some i => t'.reused i | none => t'
  let late := match i with | some i => if t.acts i p.run then lateOf i t.level t.issueseq.toNat s.clock else [] | none => []
  let t' := t'.raise (late.flatMap (·.flags))
  let s := (s.usePort k).setTr k { t' with
    issuedAt := s.clock + 1, lates := t.lates ++ late,
    cycles := t.cycles + 1, holdUntil := s.clock + 1 + st, lastIssue := s.clock + 1, summary := t.summary + 1,
    ibuf := t.ibuf.filter fun e => e.1 != p.pc.toNat, skid := if t.hitAt = 0 ∨ s.clock < t.hitAt then t.skid else t.skid + 1 }
  let s := s.traceRec k 1 t.level t.issueseq.toNat p.pc.toNat p.run.toNat s.clock
  { s with cur := { t := k, run := p.run, pc := p.pc, word := w, seq := t.issueseq } }

/-- The part may fetch the next word of the line that it has just issued from (R156). -/
def State.fetchAhead (s : State) (k : Nat) (pc : W64) : State :=
  let c := s.choose
  let pc' := pc + 16
  if !c.1 || pc.toNat % 128 = 112 || !(c.2.tr k).resident || (c.2.tr k).ibuf.any (fun e => e.1 == pc'.toNat) then c.2
  else match (c.2.fetchWord k pc').1 with
    | .ok w => c.2.modTr k fun t => { t with ibuf := t.ibuf ++ [(pc'.toNat, w)] }
    | _ => c.2

/-- The word yields: YL = 1, or a YIELD with an active lane (R50, R97). -/
def yields (i : Instr) (acted : Bool) : Bool :=
  i.fields.yl || (match i with | .yield _ => acted | _ => false)

/-- What follows an issue: fatal records of a troupe that has exited, a summary, a step's halt, a swap, and fetching ahead
(R50, R78, R262, R266). -/
def State.endIssue (s : State) (k : Nat) (pc : W64) (yl : Bool) : State :=
  let s := s.orphanCheck k
  let t := s.tr k
  let s := if t.resident && 4096 ≤ t.summary then
      (s.traceRec k 0x10 0 t.issueseq.toNat 0 4096 s.clock).modTr k fun t => { t with summary := 0 }
    else s
  let s := if t.stepping then s.haltTroupe k 3 else s
  let s := if yl && t.place != 0 && t.resident then s.swapPlace (coreOf k) k 0 else s
  s.fetchAhead k pc

/-- A trap of R56 as the cause of R79 and its detail. -/
def EncTrap.cause : EncTrap → Nat × Nat
  | .illegalInstruction d => (1, d)
  | .illegalEncoding d => (2, d)

/-- A fetch that no service can mend raises cause 0x05; it is not an issue (R57, R84). -/
def State.takeFetchTrap (s : State) (k : Nat) (p : Pick) (h : FetchHold) : State :=
  let s := s.modTr k fun t => { t with holds := t.holds.filter fun x => x != h }
  (s.takeTrap k { cause := 5, detail := h.park.cls, value := h.park.addr, resume := p.pc, run := p.run,
                   seq := (s.tr k).issueseq.toNat }).orphanCheck k

end Sys2Proof.Machine
end

