-- ==== Sys2Proof/Machine/Tiles.lean ====
section
/-!
DEFINITION. Layout words: the offset of a tile's element (R136, R137).
-/
namespace Sys2Proof.Machine

/-- A layout word: the low 32 bits of three scalars (R136). -/
structure LayWord where
  w0 : Nat
  w1 : Nat
  w2 : Nat
  deriving DecidableEq, Repr, Inhabited

/-- The layout word in scalars `n` to `n + 2` (R136). -/
def Troupe.layWord (t : Troupe) (n : Nat) : LayWord :=
  { w0 := (t.rs64 n).toNat % 2 ^ 32, w1 := (t.rs64 (n + 1)).toNat % 2 ^ 32, w2 := (t.rs64 (n + 2)).toNat % 2 ^ 32 }

def LayWord.base (w : LayWord) : Nat := w.w0 % 2 ^ 19
def LayWord.esize (w : LayWord) : Nat := bitsOf w.w0 21 19
def LayWord.perm (w : LayWord) : Nat := bitsOf w.w0 25 22

/-- A reserved ESIZE, or bits that must be zero and are not (R136). -/
def LayWord.malformed (w : LayWord) : Bool := 5 ≤ w.esize || bitsOf w.w0 31 26 != 0 || bitsOf w.w2 31 20 != 0

/-- PERM: the lowest source bit, the width, and the lowest destination bit (R137). -/
def permBits : Nat → Nat × Nat × Nat
  | 1 => (7, 3, 2)
  | 2 => (8, 3, 2)
  | 3 => (9, 3, 2)
  | 4 => (10, 3, 2)
  | 5 => (7, 4, 2)
  | 6 => (8, 4, 2)
  | 7 => (9, 4, 2)
  | 8 => (10, 4, 2)
  | 9 => (7, 5, 2)
  | 10 => (8, 5, 2)
  | 11 => (10, 5, 2)
  | 12 => (10, 4, 4)
  | 13 => (10, 5, 4)
  | 14 => (10, 6, 4)
  | 15 => (10, 8, 2)
  | _ => (0, 0, 0)

/-- The scratchpad offset of element `(i0, i1, i2)` (R137). -/
def LayWord.off (w : LayWord) (i0 i1 i2 : Nat) : Nat :=
  let o := i0 * (w.w1 % 65536) + i1 * (w.w1 / 65536) + i2 * (w.w2 % 2 ^ 20)
  let p := permBits w.perm
  let o' := o ^^^ ((o / 2 ^ p.1 % 2 ^ p.2.1) * 2 ^ p.2.2)
  (w.base + o') % 2 ^ 32


end Sys2Proof.Machine
end

