-- ==== Sys2Proof/Machine/Memory.lean ====
section
/-!
DEFINITION. The issue of lane group 7 and of the scalar loads (R131, R141 to R156): addresses, captured operands, prefetch,
cache control and fences.
-/
namespace Sys2Proof.Machine

/-! ### Addresses (R143, R149, R150) -/

/-- The lane's own source of an address: V(A) or its pair, or V(B). -/
def laneSource (f : Fields) (scratch : Bool) (t : Troupe) (l : Nat) : Nat :=
  match f.kind with
  | 0 => if scratch then (t.rv f.a.toNat l).toNat else (t.rpair f.a.toNat l).toNat
  | 1 => 0
  | _ => (t.rv f.b.toNat l).toNat

/-- The effective sum of R143, in bytes or nibbles, from the uniform and the lane's source. -/
def laneSum (f : Fields) (scratch : Bool) (base : W64) (src : Nat) : W64 :=
  let ofs := BitVec.ofInt 64 (f.ofs 24)
  let sum := match f.kind with
    | 0 => BitVec.ofNat 64 src + ofs
    | 1 => base + ofs
    | 2 => base + BitVec.ofNat 64 src + ofs
    | _ => base + BitVec.ofInt 64 (signedOf 32 src) + ofs
  if scratch then (sum.setWidth 32).setWidth 64 else sum

/-- A sum as an address, and whether it names the upper half of its byte (R143). -/
def nibbleAddr (nib : Bool) (sum : W64) : W64 × Bool := if nib then (sum >>> 1, sum.getLsbD 0) else (sum, false)

/-- The address of a lane in the layout form (R149). -/
def layoutAddr (nib : Bool) (w : LayWord) (coord : Nat) : W64 × Bool :=
  let i0 := coord % 2 ^ 11
  let i1 := bitsOf coord 21 11
  let i2 := bitsOf coord 31 22
  if nib then (BitVec.ofNat 64 (w.off (i0 / 2) i1 i2), i0 % 2 == 1) else (BitVec.ofNat 64 (w.off i0 i1 i2), false)

/-- The layout form's format fault: a malformed word, or a size that is not ESIZE's (R149). -/
def layoutBad (f : Fields) (w : LayWord) : Bool :=
  w.malformed || (if isNibble f then w.esize != 0 else 8 * 2 ^ w.esize != accessBits f)

/-- The bytes of an element; a nibble lies in one byte. -/
def accessBytes (f : Fields) : Nat := max 1 (accessBits f / 8)

/-- The register data of a lane: a vector register, a pair or a quad (R141). -/
def laneData (f : Fields) (t : Troupe) (r l : Nat) : Nat :=
  match accessBits f with
  | 64 => (t.rpair r l).toNat
  | 128 => (t.rquad r l).toNat
  | _ => (t.rv r l).toNat

/-- A table of one value for each lane of a set. -/
def laneTable {α : Type} [Inhabited α] [DecidableEq α] (act : Mask) (g : Nat → α) : Tbl α :=
  Tbl.writeLanes [] 0 act g lanes

/-- The bytes that a later lane or element of the same store writes, per element (R146). -/
def MemOp.overwritten (o : MemOp) (nib : Bool) : Tbl Nat :=
  let name := fun (key i : Nat) => (o.byteVa key i).toNat * 2 + (if nib && o.nib.read key then 1 else 0)
  let r := o.keys.reverse.foldl (fun (a : List Nat × Tbl Nat) key =>
    let mine := (List.range o.size).map fun i => (i, name key i)
    let lost := (mine.filter fun x => a.1.contains x.2).foldl (fun b x => b + 2 ^ x.1) 0
    (mine.map (·.2) ++ a.1, a.2.write key lost)) ([], [])
  r.2

/-! ### Loads and stores (R151) -/

/-- LD, ST, LDS and STS: the operation as it stands at issue. With a 4-bit format the sum counts nibbles in every mode but the
layout form, the .SX mode included (R143, log entry 65). -/
def laneAccess (i : Instr) (f : Fields) (store scratch : Bool) (act : Mask) (s : State) : Tbl (BitVec 16) × MemOp :=
  let t := s.curT
  let nib := isNibble f
  let layout := scratch && f.kind == 3
  let w := t.layWord f.a.toNat
  let src := laneSource f scratch t
  let at' := fun l => if layout then layoutAddr nib w (src l) else nibbleAddr nib (laneSum f scratch (t.rs64 f.a.toNat) (src l))
  let rs := store && bitOf f.mdn 0 && bitsOf f.xn 30 28 == 4
  let r := drawLanes (if rs then 1 else 0) act t
  let o := { s.newOp i act with
    size := accessBytes f
    uni := if layout then [t.rs64 f.a.toNat, t.rs64 (f.a.toNat + 1), t.rs64 (f.a.toNat + 2)]
      else if f.kind = 0 then [] else [t.rs64 f.a.toNat]
    cmp := if f.kind = 1 then [] else laneTable act src
    addr := laneTable act fun l => (at' l).1
    nib := laneTable act fun l => (at' l).2
    dat := if store then laneTable act fun l => storeValue f (r.1.read l) (laneData f t f.e.toNat l) else []
    rel := store && bitsOf f.xn 25 24 == 1
    acq := !store && bitsOf f.xn 25 24 == 1 }
  (r.2.rs, if store then { o with drop := o.overwritten nib } else o)

/-- Issues an operation, which then takes a fault that it cannot avoid at once. -/
def State.launchWith (s : State) (rs : Tbl (BitVec 16)) (o : MemOp) (f : Fields) (hasResult : Bool) (nrecs : Nat)
    (g : Option FaultInfo) : State :=
  let s' := s.retire fun t => ({ t with rs := rs } : Troupe).launch o f hasResult nrecs
  match g with
  | none => s'
  | some g => match s'.op s.cur.t o.seq with
    -- no line of it is performed (R152)
    | some o' => s'.parkOp s.cur.t { o' with stuck := o'.lines } g
    | none => s'

/-- The meaning LD, ST, LDS and STS share. -/
def accessExec (i : Instr) (f : Fields) (store scratch : Bool) (nrecs : Nat) (s : State) : Out :=
  let act := s.curT.active f.g s.cur.run
  if act = 0 then .next (s.retire id)
  else
    let r := laneAccess i f store scratch act s
    let bad := scratch && f.kind == 3 && layoutBad f (s.curT.layWord f.a.toNat)
    let g : FaultInfo := { cls := 7, detail := if store then 16 else 0, addr := r.2.addr.read (lowestLane act), write := store }
    .next (s.launchWith r.1 r.2 f (!store) nrecs (if bad then some g else none))

/-- LD (R151). -/
def execLd (f : Fields) (s : State) : Out := accessExec (.ld f) f false false 2 s
/-- ST (R151). -/
def execSt (f : Fields) (s : State) : Out := accessExec (.st f) f true false 4 s
/-- LDS (R151). -/
def execLds (f : Fields) (s : State) : Out := accessExec (.lds f) f false true 1 s
/-- STS (R151). -/
def execSts (f : Fields) (s : State) : Out := accessExec (.sts f) f true true 4 s

/-- The address of element `j` of a lane of GATH or SCAT (R150, R151); a 4-bit format counts nibbles (R143). -/
def gatherAddr (f : Fields) (t : Troupe) (l j : Nat) : W64 × Bool :=
  let v := BitVec.ofInt 64 (signedOf 32 (t.rv (f.b.toNat + j) l).toNat)
  nibbleAddr (isNibble f) (t.rs64 f.a.toNat + (v <<< bitsOf f.xn 18 16) + BitVec.ofInt 64 (signedOf 16 (f.xn % 65536)))

/-- A table of one value for each lane and element of a set. -/
def elemTable {α : Type} [Inhabited α] [DecidableEq α] (act : Mask) (n : Nat) (g : Nat → Nat → α) : Tbl α :=
  (List.range n).foldl (fun (m : Tbl α) j => Tbl.writeLanes m (64 * j) act (fun l => g l j) lanes) []

/-- The meaning GATH and SCAT share (R150, R151, R186). -/
def gatherExec (i : Instr) (f : Fields) (store : Bool) (nrecs : Nat) (s : State) : Out :=
  let t := s.curT
  let act := t.active f.g s.cur.run
  if act = 0 then .next (s.retire id)
  else
    let k := f.kind + 1
    let rs := store && bitOf f.mdn 0 && bitsOf f.xn 30 28 == 4
    let r := drawLanes (if rs then k else 0) act t
    let o := { s.newOp i act with
      size := accessBytes f
      elems := k
      uni := [t.rs64 f.a.toNat]
      cmp := elemTable act k fun l j => (t.rv (f.b.toNat + j) l).toNat
      addr := elemTable act k fun l j => (gatherAddr f t l j).1
      nib := elemTable act k fun l j => (gatherAddr f t l j).2
      dat := if store then elemTable act k fun l j =>
        storeValue f (r.1.read (l + 64 * j)) (laneData f t (f.e.toNat + j) l) else []
      rel := store && bitsOf f.xn 25 24 == 1
      acq := !store && bitsOf f.xn 25 24 == 1 }
    let o := if store then { o with drop := o.overwritten (isNibble f) } else o
    let s' := s.launchWith r.2.rs o f (!store) nrecs none
    .next (s'.modTr s.cur.t fun t => { t with oc := t.oc.write 2 (t.oc.read 2 + 1) })

/-- GATH (R151). -/
def execGath (f : Fields) (s : State) : Out := gatherExec (.gath f) f false 2 s
/-- SCAT (R151). -/
def execScat (f : Fields) (s : State) : Out := gatherExec (.scat f) f true 3 s

/-- The meaning SLD and SLDC share: one load of a scalar (R131). -/
def scalarLoadExec (i : Instr) (f : Fields) (va : W64) (s : State) : Out :=
  if !s.curT.enabled f.g then .next (s.retire id)
  else
    let size := match f.var with | 0 => 8 | 1 => 1 | 2 => 1 | 3 => 2 | 4 => 2 | _ => 4
    let o := { s.newOp i s.cur.run with uni := [va], addr := Tbl.write [] 0 va, size := size, single := true }
    .next (s.launchWith s.curT.rs o f true 1 none)

/-- SLD (R131). -/
def execSld (f : Fields) (s : State) : Out :=
  scalarLoadExec (.sld f) f (s.curT.rs64 f.a.toNat + f.x.signExtend 64) s

/-- SLDC (R131): the sum wraps in the bank and is aligned. -/
def execSldc (f : Fields) (s : State) : Out :=
  let n := match f.var with | 0 => 8 | 1 => 1 | 2 => 1 | 3 => 2 | 4 => 2 | _ => 4
  let o := ((s.curT.rs64 f.a.toNat).toNat + f.xn) % 65536
  scalarLoadExec (.sldc f) f (s.bankAddr (o / n * n)) s

/-! ### Prefetch, cache control and fences (R153 to R156) -/

/-- A prefetch of a line joins the miss entry of the line, or opens one when its path has an entry left (R4, R153, R280). -/
def State.prefMiss (s : State) (e : TlbEntry) (l level hint : Nat) : State :=
  let ask := if level = 0 && hint != 3 then [(coreOf s.cur.t, hint)] else []
  match s.missOf l with
  | some m => if m.closed then s else s.modMiss l fun m => { m with prefs := m.prefs ++ ask }
  | none =>
    if !s.pathOpen (missPath e.mt l) then s
    else { s with misses := s.misses ++ [{
      line := l, opened := s.clock, closed := false, hint := hint, joined := [], killed := false, took := 0, prefs := ask,
      path := missPath e.mt l, frame := e.frame, fgen := e.fgen }] }

/-- A prefetch of one address: dropped on any fault but an absent granule under .PC, and wherever the part drops it (R153, R346). -/
def State.prefetch (s : State) (level hint : Nat) (va : W64) : State :=
  let c := coreOf s.cur.t
  let ctx := s.ctxOf s.cur.t
  let r := s.choose
  match r.2.resolveLast (.core c) ctx va with
  | none => r.2
  | some e =>
    let s := r.2
    let pa := e.physical (va.toNat % 2 ^ 57)
    let p := pa / 128
    if !r.1 || (s.rights e pa .read).isSome then s
    else if level = 2 then
      (if e.mt = 0 && !s.granulePresent pa && !s.faultsvc then
        s.askFill { granule := pa / 4096, ctx := ctx, graph := e.graph, va := va.toNat / 4096, item := 0 }
       else s)
    else match s.frameEntry e (va.toNat % 2 ^ 57) with
      | .ok x => match s.homeCheck x pa .read with
        | .ok _ =>
          if s.held p then
            let s := (s.readHome p).hintLine p hint
            if level = 0 && hint != 3 && !((s.core c).l1.read p).valid then s.l1Put c p (s.current p) hint false else s
          else if !s.hasRoom p then s
          else if x.mt = 2 then (if s.peerDown pa then s else s.askTag ⟨s.cur.t, 2 ^ 33, 64⟩ 0 pa hint)
          else s.prefMiss x p level hint
        | _ => s
      | _ => s

/-- PREF (R153). -/
def execPref (f : Fields) (s : State) : Out :=
  let t := s.curT
  let act := t.active f.g s.cur.run
  let va := fun l => laneSum f false (t.rs64 f.a.toNat) (laneSource f false t l)
  let s' := (lanes.filter (inMask act)).foldl (fun (s : State) l =>
    s.prefetch (bitsOf f.mdn 5 1) (bitsOf f.xn 27 26) (va l)) s
  .next (s'.retire id)

/-- One line of CCTL: 0 .WB, 1 .INV, 2 .WBINV (R154). -/
def State.cacheLine (s : State) (c kind l : Nat) : State :=
  let s := if ((s.core c).l1.read l).owned then s.forwardRead l else s
  if kind = 0 then s else s.l1Drop c l

/-- The physical line of a lane's address, when it translates. -/
def State.lineOf (s : State) (ctx c : Nat) (va : W64) : Option Nat :=
  (s.resolve (.core c) ctx va).map fun e => e.physical (va.toNat % 2 ^ 57) / 128

/-- CCTL (R154): every home it writes has acknowledged when it has issued. -/
def execCctl (f : Fields) (s : State) : Out :=
  let t := s.curT
  let c := coreOf s.cur.t
  let act := t.active f.g s.cur.run
  let k := f.var
  let mine := if act = 0 then []
    else if 3 ≤ k then (s.core c).l1.map (·.1)
    else (lanes.filter (inMask act)).filterMap fun l =>
      s.lineOf (s.ctxOf s.cur.t) c (laneSum f false (t.rs64 f.a.toNat) (laneSource f false t l))
  let s' := (nubNat mine).foldl (fun (s : State) l => if ((s.core c).l1.read l).valid then s.cacheLine c (k % 3) l else s) s
  .next (s'.retire id)

/-- FENCE (R155): it issues when its waits are over; an acquire follows. -/
def execFence (f : Fields) (s : State) : Out :=
  let act := s.curT.active f.g s.cur.run
  let s' := if act ≠ 0 ∧ bitOf f.mdn 0 then s.acquireBy s.cur.t else s
  .next (s'.retire id)

/-- ICINV (R156): the lines leave the L1 instruction cache of every core. -/
def execIcinv (f : Fields) (s : State) : Out :=
  let t := s.curT
  let act := t.active f.g s.cur.run
  if act = 0 then .next (s.retire id)
  else
    let drop := (lanes.filter (inMask act)).filterMap fun l =>
      s.lineOf (s.ctxOf s.cur.t) (coreOf s.cur.t) (t.rpair f.a.toNat l + BitVec.ofInt 64 (f.ofs 24))
    let keep := fun (m : Tbl ILine) => if bitOf f.mdn 0 then [] else m.filter fun e => !drop.contains e.1
    let s' := { s with cores := s.cores.mapAll fun _ e => { e with l1i := keep e.l1i } }
    .next (s'.retire id)

/-- IFENCE (R156): the words fetched and not issued are discarded. -/
def execIfence (f : Fields) (s : State) : Out :=
  laneStep f s fun _ t => { t with ibuf := [] }

end Sys2Proof.Machine
end

