-- ==== Sys2Proof/Machine/Sync.lean ====
section
/-!
DEFINITION. Turnstiles, barriers and outstanding counters (R175 to R187).
-/
namespace Sys2Proof.Machine

/-! ### Adds and reads of a turnstile -/

/-- The record of an add that saturates (R180, R335). -/
def State.saturated (s : State) (by' : Accessor) (unit : Nat) (va : W64) (pa v place : Nat) : State :=
  s.frqRaise { type := 4, unit := unit, ctx := by'.ctx, cgen := (s.ctx by'.ctx).cgen, sitepc := by'.pc, siteseq := by'.seq,
               va := va, pa := pa, place := place, value := BitVec.ofNat 64 v }

/-- The add at a physical address: the old value, saturation recorded (R175, R180). -/
def State.tsAddPhys (s : State) (by' : Accessor) (unit : Nat) (va : W64) (pa v place : Nat) : Nat × State :=
  let old := (s.takeBack (pa / 128)).peekNat pa 8
  let r := s.addHome pa v
  (old, if r.1 then r.2.saturated by' unit va pa v place else r.2)

/-- The add to a scratchpad turnstile by company `k` on core `c`: the old value (R177, R183). -/
def State.tsAddScratch (s : State) (by' : Accessor) (unit k c addr v place : Nat) : Acc Nat × State :=
  match s.scratchNat k c addr 8, s.scratchOk k c addr 8 with
  | .ok old, .ok _ =>
    let s := s.scratchPoke k c addr (leBytes 8 (min (old + v) (2 ^ 64 - 1)))
    let s := match s.scratchAt k c addr with
      | .ok (tc, p) => s.watchRing tc by' true true p 8
      | _ => s
    (.ok old, if 2 ^ 64 ≤ old + v then s.saturated by' unit (BitVec.ofNat 64 addr) 0 v place else s)
  | .fault f, _ => (.fault { f with write := true }, s)
  | _, .fault f => (.fault { f with write := true }, s)
  | _, _ => (.wait, s)

/-- A global turnstile's add by an agent (R177, R390): the old value; for another package's line a tagged request is sent. -/
def State.tsAddGlobal (s : State) (a : Agent) (by' : Accessor) (w : Asker) (unit : Nat) (va : W64) (v : Nat) : Acc Nat × State :=
  match s.carried a by'.ctx w va .both with
  | (.fault f, s) => (.fault f, s)
  | (.wait, s) => (.wait, s)
  | (.ok (e, pa), s) =>
    let line := va.toNat / 128
    if e.mt = 2 then
      if s.staleOf e ≠ 0 then
        (.fault { cls := 3, detail := s.staleOf e, addr := va, pa := pa, cgen := e.cgen, write := true }, s.landFlight w line)
      else if s.peerDown pa then (.fault ((downFault pa).at va .both), s.landFlight w line)
      else (.wait, (s.putFlight w line e).askTag w 3 pa 0)
    else match s.arrive w va e pa .both 0 with
      | (.fault f, s) => (.fault f, s)
      | (.wait, s) => (.wait, s)
      | (.ok _, s) =>
        let r := s.tsAddPhys by' unit va pa v (whereOf w.t)
        (.ok r.1, r.2.watchDie a.die' by' true true va 8)

/-- A global turnstile's value at its current copy. -/
def State.tsReadGlobal (s : State) (k : Nat) (o : MemOp) : Acc Nat × State :=
  let c := coreOf k
  match s.reach (.core c) (s.ctxOf k) ⟨k, o.seq, 0⟩ (o.addr.read 0) .read 0 with
  | (.ok (pa, d), s) =>
    let r := State.spanPeek (.core c) [(pa, 8, d)] s
    (.ok (leNat r.1), r.2)
  | (.fault f, s) => (.fault f, s)
  | (.wait, s) => (.wait, s)

/-- A turnstile's value as an operation reads it. -/
def State.tsRead (s : State) (k : Nat) (o : MemOp) : Acc Nat × State :=
  if isScratchOp o.ins then (s.scratchNat (s.tr k).company (coreOf k) (o.addr.read 0).toNat 8, s) else s.tsReadGlobal k o

/-- Watches the 8 bytes of a turnstile that an operation has reached (R256). -/
def State.watchTs (s : State) (k : Nat) (o : MemOp) (wr : Bool) : State :=
  let a := o.addr.read 0
  if isScratchOp o.ins then
    match s.scratchAt (s.tr k).company (coreOf k) a.toNat with
    | .ok (tc, p) => s.watchRing tc (s.accessor k o) true wr p 8
    | _ => s
  else s.watchDie (dieOf (coreOf k)) (s.accessor k o) true wr a 8

/-- The accesses that must come before a turnstile operation's own leave it free to be performed (R148, R290 to R293). -/
def State.tsTurn (s : State) (k : Nat) (o : MemOp) : Bool :=
  o.park.isNone && s.mayPerform k o &&
    (if isScratchOp o.ins then s.scratchTurn k o
     else
       let line := (o.addr.read 0).toNat / 128
       match s.lineOfVa k line with
       | none => true
       | some p => (s.earlier k o).all fun e => s.conflict k o e line p == .none)

/-! ### TSADD and TSREAD (R180, R182) -/

/-- The address of a turnstile instruction: a scratchpad address lies in bits [31:0] (R175). -/
def tsAddr (scratch : Bool) (a : W64) : W64 := if scratch then (a.setWidth 32).setWidth 64 else a

/-- TSADD (R180). -/
def execTsadd (f : Fields) (s : State) : Out :=
  let t := s.curT
  if !t.enabled f.g then .next (s.retire id)
  else
    let a := tsAddr (bitOf f.mdn 0) (t.rs64 f.a.toNat)
    let v := if bitOf f.mdn 2 then f.x.setWidth 64 else t.rs64 f.b.toNat
    if a.toNat % 8 ≠ 0 then .next (s.trapWord 0x0A 2 a)
    else if 2 ^ 32 ≤ v.toNat then .next (s.trapWord 0x0A 4 v)
    else
      let o := { s.newOp (.tsadd f) s.cur.run with
        uni := [t.rs64 f.a.toNat, v], addr := Tbl.write [] 0 a, dat := Tbl.write [] 0 v.toNat, size := 8, single := true
        rel := !bitOf f.mdn 1 }
      .next (s.launchWith t.rs o f (f.d.toNat != 63) 1 none)

/-- TSREAD (R182). -/
def execTsread (f : Fields) (s : State) : Out :=
  let t := s.curT
  if !t.enabled f.g then .next (s.retire id)
  else
    let a := tsAddr (bitOf f.mdn 0) (t.rs64 f.a.toNat)
    if a.toNat % 8 ≠ 0 then .next (s.trapWord 0x0A 2 a)
    else
      let o := { s.newOp (.tsread f) s.cur.run with
        uni := [t.rs64 f.a.toNat], addr := Tbl.write [] 0 a, size := 8, single := true, acq := bitOf f.mdn 1 }
      .next (s.launchWith t.rs o f (f.d.toNat != 63) 1 none)

/-- TSWAIT (R181): the run's threads wait at PC + 16. -/
def execTswait (f : Fields) (s : State) : Out :=
  let t := s.curT
  if !t.enabled f.g then .next (s.retire id)
  else
    let a := tsAddr (bitOf f.mdn 0) (t.rs64 f.a.toNat)
    if a.toNat % 8 ≠ 0 then .next (s.trapWord 0x0A 2 a)
    else
      let o := { s.newOp (.tswait f) s.cur.run with
        uni := [t.rs64 f.a.toNat, t.rs64 f.b.toNat], addr := Tbl.write [] 0 a, size := 8, single := true
        target := t.rs64 f.b.toNat, acq := true
        deadline := if bitOf f.mdn 1 then some (s.clock + f.xn) else none }
      .next ((s.launchWith t.rs o f (f.d.toNat != 7) 1 none).modTr s.cur.t fun t => { t with pt := t.pt.put s.cur.run .wait })

/-- The unit that keeps a waiter's watch entry: a home slice, or above 256 the barrier unit of a core (R177). -/
def State.watchUnit (s : State) (k : Nat) (o : MemOp) : Nat :=
  if isScratchOp o.ins then
    match s.scratchAt (s.tr k).company (coreOf k) (o.addr.read 0).toNat with
    | .ok (tc, _) => 256 + tc
    | _ => 256 + coreOf k
  else match s.lineOfVa k ((o.addr.read 0).toNat / 128) with
    | some p => homeSlice (128 * p)
    | none => 0

/-- The waiters that hold a watch entry of a unit. -/
def State.watchers (s : State) (u : Nat) : Nat :=
  (s.troupes.flatMap fun e => e.2.ops.filter fun o =>
    (match o.ins with | .tswait _ | .bar _ => true | _ => false) && o.readYet && o.poll == 0 && s.watchUnit e.1 o == u).length

/-- A waiter's first read: it takes a watch entry where one is free, else it polls (R177). -/
def State.waiterSeated (s : State) (k : Nat) (o : MemOp) : MemOp :=
  if o.readYet then { o with poll := if o.poll = 0 then 0 else s.clock + 1024 }
  else
    let u := s.watchUnit k o
    let room := if 256 ≤ u then 64 else 512
    { o with readYet := true, poll := if s.watchers u < room then 0 else s.clock + 1024 }

/-- A TSWAIT ends: with an acquire and Q(D) := 1 when it is satisfied, else Q(D) := 0 (R181). -/
def State.endWait (s : State) (k : Nat) (o : MemOp) (sat : Bool) : State :=
  (s.modTr k fun t => t.wakeOp o).finish k
    { o with got := if sat then [(0, 1)] else [], acq := sat, prog := Tbl.write [] 0 o.full } 0

/-- The extra cycles each way of a window address (R185). -/
def windowDelay (a : W64) : Nat := if a.getLsbD 23 then 8 else 0

/-- The cycles from a satisfying read to the end of a wait: a barrier unit's waiters leave two cycles after the add, and a window
address adds eight (R185). -/
def MemOp.lag (o : MemOp) : Nat := if isScratchOp o.ins then (if o.readYet then 2 else 0) + windowDelay (o.addr.read 0) else 0

/-- A TSWAIT reads its turnstile: it is satisfied, it expires, or it waits on (R181). -/
def State.waitRead (s : State) (k : Nat) (o : MemOp) : State :=
  match s.tsRead k o with
  | (.wait, s) => s
  | (.fault f, s) => s.parkOp k o f
  | (.ok v, s) =>
    let due := match o.deadline with | some d => decide (d ≤ s.clock) | none => false
    let s := s.watchTs k o false
    if o.target.toNat ≤ v then
      (if o.lag = 0 then s.endWait k o true else s.setOp k { o with readYet := true, leaveAt := s.clock + o.lag })
    else if due then s.endWait k o false
    else s.setOp k (s.waiterSeated k o)

/-- A TSWAIT of a troupe that can read its turnstile. -/
def State.waiter (s : State) (k q : Nat) : Option MemOp :=
  match s.op k q with
  | some o => match o.ins with
    | .tswait _ => if o.leaveAt = 0 && (o.readYet && o.park.isNone || s.tsTurn k o) then some o else none
    | _ => none
  | none => none

/-- What a watch entry sees of its turnstile: the value at the current copy; `none` where it has to be read again. -/
def State.watchSees (s : State) (k : Nat) (o : MemOp) : Option Nat :=
  if isScratchOp o.ins then
    match s.scratchNat (s.tr k).company (coreOf k) (o.addr.read 0).toNat 8 with | .ok v => some v | _ => none
  else match s.lineOfVa k ((o.addr.read 0).toNat / 128) with
    | some p => if s.held p then some (s.peekNat (128 * p + (o.addr.read 0).toNat % 128) 8) else none
    | none => none

/-- The turnstile may have reached the target of an operation that holds a watch entry. -/
def State.watchTells (s : State) (k : Nat) (o : MemOp) : Bool :=
  match s.watchSees k o with | some v => decide (o.target.toNat ≤ v) | none => true

/-- TSWAIT_SATISFIED (R177, R181, R185): a waiter makes its first read, is told by its watch entry, or leaves. -/
def execTswaitSatisfied (t q : Nat) (s : State) : Out :=
  match s.op t q with
  | none => .next s
  | some o =>
    match o.ins with
    | .tswait _ =>
      if o.leaveAt ≠ 0 && o.park.isNone then .next (if s.clock < o.leaveAt then s else s.endWait t o true)
      else match s.waiter t q with
        | none => .next s
        | some o =>
          if !o.readYet then
            .next (if isScratchOp o.ins && s.clock < o.stamp + windowDelay (o.addr.read 0) then s else s.waitRead t o)
          else .next (if o.poll = 0 && s.watchTells t o then s.waitRead t o else s)
    | _ => .next s

/-- TSWAIT_TIMEOUT (R181): only after a read has been performed; a satisfying read in the same cycle counts as satisfied. -/
def execTswaitTimeout (t q : Nat) (s : State) : Out :=
  match s.waiter t q with
  | none => .next s
  | some o => match o.deadline with
    | some d => .next (if o.readYet && d ≤ s.clock then s.waitRead t o else s)
    | none => .next s

/-! ### Barriers (R184, R185) -/

/-- BAR and BARA at issue. -/
def barExec (i : Instr) (f : Fields) (waits : Bool) (s : State) : Out :=
  let t := s.curT
  if !t.enabled f.g then .next (s.retire id)
  else
    let a := tsAddr true (t.rs64 f.a.toNat)
    if a.toNat % 8 ≠ 0 then .next (s.trapWord 0x0A 2 a)
    else
      let o := { s.newOp i s.cur.run with
        uni := [t.rs64 f.a.toNat], addr := Tbl.write [] 0 a, size := 8, single := true, rel := true, acq := waits }
      let s' := s.launchWith t.rs o f false 1 none
      .next (if waits then s'.modTr s.cur.t fun t => { t with pt := t.pt.put s.cur.run .wait } else s')

/-- BAR (R184). -/
def execBar (f : Fields) (s : State) : Out := barExec (.bar f) f true s
/-- BARA (R184). -/
def execBara (f : Fields) (s : State) : Out := barExec (.bara f) f false s

/-- BARRIER_ADD (R184, R185): two cycles after issue on a local address, once the release is over. -/
def execBarrierAdd (k q : Nat) (s : State) : Out :=
  match s.op k q with
  | none => .next s
  | some o =>
    let a := o.addr.read 0
    let n := match o.ins with | .bar f => f.xn % 65536 | _ => 1
    let isBar := match o.ins with | .bar _ | .bara _ => true | _ => false
    if !isBar || o.added || !s.tsTurn k o || s.clock < o.stamp + 2 + windowDelay a then .next s
    else
      match s.tsAddScratch (s.accessor k o) 1 (s.tr k).company (coreOf k) a.toNat 1 (whereOf k) with
      | (.wait, s) => .next s
      | (.fault f, s) => .next (s.parkOp k o f)
      | (.ok old, s) =>
        match o.ins with
        | .bar _ => .next (s.setOp k (s.waiterSeated k { o with added := true, target := BitVec.ofNat 64 ((old / n + 1) * n) }))
        | _ => .next (s.finish k { o with prog := Tbl.write [] 0 o.full } 0)

/-- BARRIER_DEPARTURE (R184, R185): the phase is complete, and two cycles later the threads leave with an acquire. -/
def execBarrierDeparture (k q : Nat) (s : State) : Out :=
  match s.op k q with
  | none => .next s
  | some o =>
    let isBar := match o.ins with | .bar _ => true | _ => false
    if !isBar || !o.added || o.park.isSome || s.clock < o.poll then .next s
    else if o.leaveAt ≠ 0 then
      .next (if s.clock < o.leaveAt then s
        else (s.modTr k fun t => t.wakeOp o).finish k { o with prog := Tbl.write [] 0 o.full } 0)
    else if o.poll = 0 && !s.watchTells k o then .next s
    else match s.tsRead k o with
      | (.wait, s) => .next s
      | (.fault f, s) => .next (s.parkOp k o f)
      | (.ok v, s) =>
        let s := s.watchTs k o false
        .next (if o.target.toNat ≤ v then s.setOp k { o with leaveAt := s.clock + 2 + windowDelay (o.addr.read 0) }
          else if o.poll = 0 then s else s.setOp k { o with poll := s.clock + 1024 })

/-- TURNSTILE_POLL (R177): a waiter without a watch entry reads again every 1,024 cycles. -/
def execTurnstilePoll (t q : Nat) (s : State) : Out :=
  match s.waiter t q with
  | some o => .next (if o.poll ≠ 0 && o.poll ≤ s.clock then s.waitRead t o else s)
  | none => execBarrierDeparture t q s

/-! ### The add itself -/

/-- The add of a TSADD, or the add that ends a CPL, which is made at its home and may fault (R158, R180, R183, R419). -/
def State.performAdd (s : State) (k : Nat) (o : MemOp) : State :=
  match o.ins with
  | .tsadd _ =>
    if !s.tsTurn k o then s
    else
      let v := o.dat.read 0
      let a := o.addr.read 0
      let r := if isScratchOp o.ins then s.tsAddScratch (s.accessor k o) 1 (s.tr k).company (coreOf k) a.toNat v (whereOf k)
        else s.tsAddGlobal (.core (coreOf k)) (s.accessor k o) ⟨k, o.seq, 0⟩ 2 a v
      match r with
      | (.wait, s) => s
      | (.fault f, s) => s.parkOp k o f
      | (.ok old, s) =>
        let s := match (if isScratchOp o.ins then none else s.lineOfVa k (a.toNat / 128)) with
          | some p => s.l1Forget (coreOf k) p
          | none => s
        s.finish k { o with got := [(0, old)].filter (fun e => e.2 != 0), prog := Tbl.write [] 0 o.full } 0
  | .cpl _ =>
    if o.park.isSome || !o.allDone || o.target = 0 then s
    else
      let v := if o.readYet then o.count else o.cplTotal
      match s.tsAddGlobal (.die (dieOf (coreOf k))) { s.accessor k o with core := none } ⟨k, o.seq, 0⟩ 9 o.target v with
      | (.wait, s) => s
      | (.fault f, s) => s.parkOp k o f
      | (.ok _, s) => s.finish k o 0
  | _ => s

/-- TURNSTILE_ADD (R180): a troupe's add, or the add that ends its CPL. -/
def execTurnstileAdd (t q : Nat) (s : State) : Out :=
  match s.op t q with
  | some o => .next (s.performAdd t o)
  | none => .next s

/-- TSREAD is performed (R182). -/
def State.performTsread (s : State) (k : Nat) (o : MemOp) : State :=
  if !s.tsTurn k o then s
  else match s.tsRead k o with
    | (.wait, s) => s
    | (.fault f, s) => s.parkOp k o f
    | (.ok v, s) =>
      (s.watchTs k o false).finish k { o with got := [(0, v)].filter (fun e => e.2 != 0), prog := Tbl.write [] 0 o.full } 0

/-- LANE_ACCESS_PERFORMED (R147, R151, R182): the accesses of an instruction that meet one line. -/
def execLaneAccessPerformed (t q line : Nat) (s : State) : Out :=
  match s.op t q with
  | some o => match o.ins with
    | .tsread _ => .next (if (o.addr.read 0).toNat / 128 = line then s.performTsread t o else s)
    | _ => .next (s.performLine t q line)
  | none => .next s

/-! ### Outstanding counters (R187) -/

/-- WAITOC (R187): it has been held until its counter is low enough, and acquires. -/
def execWaitoc (f : Fields) (s : State) : Out :=
  let s' := if s.curT.enabled f.g then s.acquireBy s.cur.t else s
  .next (s'.retire id)

/-- WAITOC_DONE (R187): the counter of a held WAITOC is at or below its threshold, and it issues. -/
def execWaitocDone (k : Nat) (s : State) : Out :=
  if !s.onPort k then .next s
  else match (s.nextWord k).1 with
    | .word p w (.waitoc f) =>
      match execWaitoc f (s.beginIssue k p w (some (.waitoc f))) with
      | .next t => .next (t.endIssue k p.pc f.yl)
      | r => r
    | _ => .next s

end Sys2Proof.Machine
end

