-- ==== Sys2Proof/Machine/Atomic.lean ====
section
/-!
DEFINITION. ATOM, ATOMS and RED (R300 to R306).
-/
namespace Sys2Proof.Machine

/-- The bytes that an atomic's type moves (R302). -/
def atomSize (f : Fields) : Nat :=
  match bitsOf f.mdn 6 4 with
  | 2 | 3 | 5 => 8
  | _ => 4

/-- Integers of `n` bits, by signedness, in order (R302). -/
def intLess (n : Nat) (signed : Bool) (a b : Nat) : Bool :=
  if signed then decide (signedOf n a < signedOf n b) else decide (a < b)

/-- The value an atomic writes; `none` where it writes nothing (R302). -/
def atomNew (opn ty old b e : Nat) : Option Nat :=
  let n := if ty = 2 ∨ ty = 3 ∨ ty = 5 then 64 else 32
  let F := if ty = 5 then fp64 else fp32
  let float := 4 ≤ ty
  let signed := ty == 1 || ty == 3
  match opn with
  | 0 => some (if float then F.addR 0 0 (F.decode old) (F.decode b) else (old + b) % 2 ^ n)
  | 1 => some (if float then F.minmax false false old b else if intLess n signed b old then b else old)
  | 2 => some (if float then F.minmax true false old b else if intLess n signed old b then b else old)
  | 3 => some (old &&& b)
  | 4 => some (old ||| b)
  | 5 => some (old ^^^ b)
  | 6 => some b
  | 7 => if old = e then some b else none
  | 8 => some (if b ≤ old then 0 else old + 1)
  | _ => some (if old = 0 ∨ b < old then b else old - 1)

/-- A vector register or pair of a lane, by the type's width. -/
def atomData (size : Nat) (t : Troupe) (r l : Nat) : Nat :=
  if size = 8 then (t.rpair r l).toNat else (t.rv r l).toNat

/-- The address of a lane (R305). -/
def atomAddr (f : Fields) (scratch : Bool) (t : Troupe) (l : Nat) : W64 :=
  let ofs := BitVec.ofInt 64 (f.ofs 16)
  let base := if bitsOf f.xn 19 18 = 1 then t.rs64 f.a.toNat
    else if scratch then (t.rv f.a.toNat l).setWidth 64 else t.rpair f.a.toNat l
  if scratch then ((base + ofs).setWidth 32).setWidth 64 else base + ofs

/-- The release that ORD asks for before an instruction of lane group 8 (R303). -/
def ordRel (f : Fields) : Bool := bitOf f.xn 17
/-- The acquire that ORD asks for after it. -/
def ordAcq (f : Fields) : Bool := bitOf f.xn 16

/-- The meaning ATOM, ATOMS and RED share at issue (R304, R305). -/
def atomicExec (i : Instr) (f : Fields) (scratch red : Bool) (s : State) : Out :=
  let t := s.curT
  let act := t.active f.g s.cur.run
  let n := atomSize f
  let at' := atomAddr f scratch t
  if act = 0 then .next (s.retire id)
  else match (lanes.filter (inMask act)).find? fun l => (at' l).toNat % n != 0 with
    | some l => .next (s.trapWord 0x0A 1 (at' l))
    | none =>
      let o := { s.newOp i act with
        size := n
        uni := if bitsOf f.xn 19 18 = 1 then [t.rs64 f.a.toNat] else []
        addr := laneTable act at'
        dat := laneTable act fun l => atomData n t f.b.toNat l
        cmp := if !red && bitsOf f.mdn 3 0 == 7 then laneTable act fun l => atomData n t f.e.toNat l else []
        rel := ordRel f
        acq := ordAcq f }
      .next (s.launchWith t.rs o f (!red) i.layout.recs none)

/-- ATOM (R305). -/
def execAtom (f : Fields) (s : State) : Out := atomicExec (.atom f) f false false s
/-- ATOMS (R305). -/
def execAtoms (f : Fields) (s : State) : Out := atomicExec (.atoms f) f true false s
/-- RED (R305): an ATOM whose result is discarded. -/
def execRed (f : Fields) (s : State) : Out := atomicExec (.red f) f false true s

/-- Fields of an atomic. -/
def atomFields : Instr → Option Fields
  | .atom f | .atoms f | .red f => some f
  | _ => none

/-- The physical address of an operation's address, when it has a translation. -/
def State.physOf (s : State) (k : Nat) (va : W64) : Option Nat :=
  (s.lineOfVa k (va.toNat / 128)).map fun p => 128 * p + va.toNat % 128

/-- Two addresses of an operation name one location: as they stand, or where they lead (R301). -/
def State.sameWord (s : State) (k : Nat) (o : MemOp) (a b : W64) : Bool :=
  a == b || (if isScratchOp o.ins then
      match s.scratchAt (s.tr k).company (coreOf k) a.toNat, s.scratchAt (s.tr k).company (coreOf k) b.toNat with
      | .ok x, .ok y => x == y
      | _, _ => false
    else (s.physOf k a).isSome && s.physOf k a == s.physOf k b)

/-- A lower lane that names the same location is still to be performed (R301). -/
def State.laneBehind (s : State) (k : Nat) (o : MemOp) (lane : Nat) : Bool :=
  (lanes.filter (inMask o.act)).any fun l =>
    decide (l < lane) && !o.keyDone l && s.sameWord k o (o.addr.read l) (o.addr.read lane)

/-- A lane of an atomic takes its old value. -/
def MemOp.laneResult (o : MemOp) (lane old : Nat) : MemOp :=
  ({ o with got := o.got.write lane old }).mark lane o.full

/-- A lane of an atomic on a scratchpad word, by the barrier unit of its core (R300, R305). -/
def State.atomScratch (s : State) (k : Nat) (o : MemOp) (f : Fields) (lane : Nat) : State :=
  let co := (s.tr k).company
  let c := coreOf k
  let a := (o.addr.read lane).toNat
  let bad := fun (g : FaultInfo) =>
    let o := { o with stuck := o.stuck ++ [a / 128] }
    if o.park.isSome then s.setOp k o.settle else s.parkOp k o { g with write := true }
  match s.scratchNat co c a o.size, s.scratchOk co c a o.size with
  | .ok old, .ok _ =>
    let new := atomNew (bitsOf f.mdn 3 0) (bitsOf f.mdn 6 4) old (o.dat.read lane) (o.cmp.read lane)
    let s := match new with | some v => s.scratchPoke co c a (leBytes o.size v) | none => s
    let s := match s.scratchAt co c a with
      | .ok (tc, p) => s.watchRing tc (s.accessor k o) true new.isSome p o.size
      | _ => s
    s.finishOrKeep k (o.laneResult lane old)
  | .fault g, _ => bad g
  | _, .fault g => bad g
  | _, _ => s

/-- A lane of an atomic on a global word, by the arithmetic unit of its home slice (R300, R305); a word of another package
is asked of its home (R390). -/
def State.atomGlobal (s : State) (k : Nat) (o : MemOp) (f : Fields) (lane : Nat) : State :=
  let c := coreOf k
  let va := o.addr.read lane
  let line := va.toNat / 128
  let w : Asker := ⟨k, o.seq, lane + 1⟩
  match s.carried (.core c) (s.ctxOf k) w va .both with
  | (.wait, s) => s
  | (.fault g, s) => s.faultAccess k o .both line g
  | (.ok (e, pa), s) =>
    let p := pa / 128
    if (s.earlier k o).any fun x => s.conflict k o x line p != .none then s
    else if e.mt = 2 then
      if s.staleOf e ≠ 0 then
        (s.landFlight w line).faultAccess k o .both line
          { cls := 3, detail := s.staleOf e, addr := va, pa := pa, cgen := e.cgen, write := true }
      else if s.peerDown pa then (s.landFlight w line).faultAccess k o .both line ((downFault pa).at va .both)
      else (s.putFlight w line e).askTag w 2 pa 0
    else match s.arrive w va e pa .both (bitsOf f.xn 21 20 % 3) with
      | (.fault g, s) => s.faultAccess k o .both line g
      | (.wait, s) => s
      | (.ok _, s) =>
        let s := s.takeBack p
        let old := s.peekNat pa o.size
        let new := atomNew (bitsOf f.mdn 3 0) (bitsOf f.mdn 6 4) old (o.dat.read lane) (o.cmp.read lane)
        let s := match new with | some v => s.writeBytes pa (leBytes o.size v) | none => s.useLine p
        let s := (s.l1Forget c p).watchDie (dieOf c) (s.accessor k o) true new.isSome va o.size
        s.finishOrKeep k (o.laneResult lane old)

/-- HOME_ATOMIC (R301, R305): one lane of an atomic is performed. -/
def execHomeAtomic (t q lane : Nat) (s : State) : Out :=
  match s.op t q with
  | none => .next s
  | some o =>
    match atomFields o.ins with
    | none => .next s
    | some f =>
      if !inMask o.act lane || o.keyDone lane || o.stuck.contains ((o.addr.read lane).toNat / 128) || !s.mayPerform t o
          || s.laneBehind t o lane then .next s
      else if isScratchOp o.ins then .next (if s.scratchTurn t o then s.atomScratch t o f lane else s)
      else .next (s.atomGlobal t o f lane)

end Sys2Proof.Machine
end

