-- ==== Sys2Proof/Machine/Engines.lean ====
section
/-!
DEFINITION. The copy and layout engines: CPT, CPS and LAYEX (R160 to R164, R275, R276, R354 to R359, R419).
-/
namespace Sys2Proof.Machine

/-! ### Commands and their queues -/

/-- The commands of an engine. -/
def State.engine (s : State) (e : Nat) : List EngCmd := s.engines.read e
/-- The command of an engine with a launch site. -/
def State.engCmd (s : State) (e t q : Nat) : Option EngCmd := (s.engine e).find? fun x => x.t == t && x.seq == q
/-- Puts a command back. -/
def State.setCmd (s : State) (e : Nat) (x : EngCmd) : State :=
  { s with engines := s.engines.modify e fun l => l.map fun y => if y.t == x.t && y.seq == x.seq then x else y }

/-- A command enters its engine, and its counter rises (R162, R354). -/
def State.engAccept (s : State) (i : Instr) (e : Nat) (uni : List W64) (counter : Nat) : State :=
  let t := s.curT
  let x : EngCmd := {
    t := s.cur.t, seq := s.cur.seq.toNat, pc := s.cur.pc, ins := i, word := s.cur.word, run := s.cur.run, company := t.company,
    ctx := s.ctxOf s.cur.t, uni := uni, blk := [], started := false, done := 0, delivered := 0, added := 0, pos := 0,
    rs := 0, adding := 0, closing := 0, park := none }
  let s := s.retire fun t => { t with oc := t.oc.write counter (t.oc.read counter + 1) }
  { s with engines := s.engines.modify e fun l => l ++ [x] }

/-- A CPT: while its company is being saved it runs on until it has completed or faulted, where a CPS or LAYEX stops at its next
unit (R163, R359). -/
def isCpt : Instr → Bool
  | .cpt _ => true
  | _ => false

/-- The company of a command is in no state in which its work stands still (R163, R339, R359). -/
def State.cmdRuns (s : State) (x : EngCmd) : Bool :=
  let c := s.co x.company
  (c.st == .resident || c.st == .released || (c.st == .saving && x.park.isNone && (isCpt x.ins || x.adding != 0)))
    && (s.ctx x.ctx).endReason == 0 && !(s.ctx x.ctx).dead

/-- A command can go on: it is not parked, or its record is ready. -/
def EngCmd.free (x : EngCmd) : Bool := match x.park with | none => true | some p => p.state == .ready

/-- The first command in acceptance order that can go on; a troupe's later commands stay behind its parked one (R163, R354). -/
def engHead (ok : EngCmd → Bool) : List Nat → List EngCmd → Option EngCmd
  | _, [] => none
  | behind, x :: xs =>
    if x.free && ok x && x.closing == 0 && !behind.contains x.t then some x else engHead ok (x.t :: behind) xs

/-- The command that an engine performs. -/
def State.engActive (s : State) (e : Nat) : Option EngCmd := engHead s.cmdRuns [] (s.engine e)

/-- The counter that a command holds (R186). -/
def engCounter : Instr → Nat
  | .cpt _ => 0
  | _ => 3

/-- A command leaves its engine, and its counter falls (R162, R355, R419). -/
def State.engRemove (s : State) (e : Nat) (x : EngCmd) : State :=
  let s := { s.endFlights x.t x.seq with engines := s.engines.modify e fun l => l.filter fun y => !(y.t == x.t && y.seq == x.seq) }
  let t := s.tr x.t
  if t.resident && t.company == x.company then
    s.modTr x.t fun t => { t with oc := t.oc.write (engCounter x.ins) (t.oc.read (engCounter x.ins) - 1) }
  else s

/-! ### Operands -/

/-- Word `i` of the scalars that a command read. -/
def EngCmd.u (x : EngCmd) (i : Nat) : W64 := x.uni.getD i 0

/-- HINT of a command, for the L2 lines that its data lies in (R139, R160, R278, R354). -/
def EngCmd.hint (x : EngCmd) : Nat :=
  match x.ins with
  | .cpt f => bitsOf f.mdn 2 1
  | .cps f => f.mdn % 4
  | _ => 0

/-- The turnstile of a command; 0 for none. -/
def EngCmd.ts (x : EngCmd) : W64 :=
  match x.ins with
  | .cpt _ => x.u 6
  | .cps _ => x.u 3
  | _ => x.u 1

/-- The layout word of a CPT. -/
def EngCmd.lay (x : EngCmd) : LayWord :=
  { w0 := (x.u 1).toNat % 2 ^ 32, w1 := (x.u 2).toNat % 2 ^ 32, w2 := (x.u 3).toNat % 2 ^ 32 }

/-- The tile's extents (R160). -/
def EngCmd.tile (x : EngCmd) : Nat × Nat × Nat :=
  let n := x.ins.fields.xn
  (n % 1024 + 1, bitsOf n 19 10 + 1, bitsOf n 25 20 + 1)

/-- Bytes of an element whose size code is defined (R136). -/
def EngCmd.esz (x : EngCmd) : Nat := 2 ^ x.lay.esize

/-- The bytes a format takes in memory. -/
def fmtBytes (fmt : Nat) : Nat := fmtBits fmt / 8

/-- A field of a LAYEX block (R356). -/
def EngCmd.src (x : EngCmd) : Nat := fieldOf x.blk 0 8
def EngCmd.dst (x : EngCmd) : Nat := fieldOf x.blk 8 8
def EngCmd.dim (x : EngCmd) (i : Nat) : Nat := fieldOf x.blk (0x10 + 4 * i) 4
def EngCmd.sfmt (x : EngCmd) : Nat := fieldOf x.blk 0x1C 1
def EngCmd.dfmt (x : EngCmd) : Nat := fieldOf x.blk 0x1D 1
def EngCmd.sstr (x : EngCmd) (i : Nat) : Int := signedOf 64 (fieldOf x.blk (0x20 + 8 * i) 8)
def EngCmd.dstr (x : EngCmd) (i : Nat) : Int := signedOf 64 (fieldOf x.blk (0x38 + 8 * i) 8)
def EngCmd.nlines (x : EngCmd) : Nat := fieldOf x.blk 0x50 8
def EngCmd.sbytes (x : EngCmd) : Nat := fieldOf x.blk 0x58 8

/-- LAYEX's operation: 0 .REFMT, 1 .EXPAND, 2 .PACK. -/
def EngCmd.lop (x : EngCmd) : Nat := x.ins.fields.mdn % 4
/-- LAYEX's rounding mode. -/
def EngCmd.lrm (x : EngCmd) : Nat := bitsOf x.ins.fields.mdn 4 2
/-- LAYEX's .SAT. -/
def EngCmd.lsat (x : EngCmd) : Bool := bitOf x.ins.fields.mdn 5

/-- The units a command performs: tile elements, bytes, elements or lines. -/
def EngCmd.units (x : EngCmd) : Nat :=
  match x.ins with
  | .cpt _ => x.tile.1 * x.tile.2.1 * x.tile.2.2
  | .cps _ => (x.u 2).toNat
  | _ => if x.lop = 0 then x.dim 0 * x.dim 1 * x.dim 2 else x.nlines

/-- The bytes that a unit adds to the turnstile (R162, R355, R356). -/
def EngCmd.unitBytes (x : EngCmd) : Nat :=
  match x.ins with
  | .cpt _ => x.esz
  | .cps _ => 1
  | _ => if x.lop = 0 then fmtBytes x.dfmt else 128

/-- The total of a command; `none` where its operands give it no size or its block has not been read (R164, R356, R359). -/
def EngCmd.total (x : EngCmd) : Option Nat :=
  match x.ins with
  | .cpt _ => if 5 ≤ x.lay.esize then none else some (x.units * x.esz)
  | .cps _ => some x.units
  | _ => if x.blk.isEmpty || (x.lop == 0 && x.unitBytes == 0) then none else some (x.units * x.unitBytes)

/-! ### Issue (R160, R354) -/

/-- CPT (R160, R162). -/
def execCpt (f : Fields) (s : State) : Out :=
  let t := s.curT
  let u := fun (r : Nat) => t.rs64 r
  let a := u f.a.toNat
  let ts := u (f.e.toNat + 2)
  if !t.enabled f.g then .next (s.retire id)
  else if a.toNat % 64 ≠ 0 then .next (s.trapOpen 0x0A 3)
  else if ts.toNat % 8 ≠ 0 then .next (s.trapOpen 0x0A 2)
  else
    let uni := [a, u f.b.toNat, u (f.b.toNat + 1), u (f.b.toNat + 2), u f.e.toNat, u (f.e.toNat + 1), ts]
    .next (s.engAccept (.cpt f) ((engineOf (.cpt f) (coreOf s.cur.t)).getD 0) uni 0)

/-- CPS (R354, R355). -/
def execCps (f : Fields) (s : State) : Out :=
  let t := s.curT
  let n := t.rs64 f.e.toNat
  let ts := t.rs64 (f.e.toNat + 1)
  if !t.enabled f.g then .next (s.retire id)
  else if 2 ^ 40 ≤ n.toNat then .next (s.trapWord 0x0A 8 n)
  else if ts.toNat % 8 ≠ 0 then .next (s.trapOpen 0x0A 2)
  else .next (s.engAccept (.cps f) ((engineOf (.cps f) (coreOf s.cur.t)).getD 0) [t.rs64 f.a.toNat, t.rs64 f.b.toNat, n, ts] 3)

/-- LAYEX (R354, R356). -/
def execLayex (f : Fields) (s : State) : Out :=
  let t := s.curT
  let a := t.rs64 f.a.toNat
  let ts := t.rs64 f.e.toNat
  if !t.enabled f.g then .next (s.retire id)
  else if ts.toNat % 8 ≠ 0 then .next (s.trapOpen 0x0A 2)
  else if a.toNat % 128 ≠ 0 then .next (s.trapOpen 0x0A 3)
  else .next (s.engAccept (.layex f) ((engineOf (.layex f) (coreOf s.cur.t)).getD 0) [a, ts] 3)

/-! ### Faults and turnstile adds (R162, R164, R359, R419) -/

/-- The site of a command. -/
def EngCmd.site (x : EngCmd) : Site := { unit := 9, ctx := x.ctx, pc := x.pc, seq := x.seq, key := x.t, value := 0xFF }

/-- Who makes a command's accesses. -/
def State.engAccessor (s : State) (x : EngCmd) : Accessor :=
  { ctx := x.ctx, pc := x.pc, seq := x.seq, troupe := if (s.tr x.t).resident && (s.tr x.t).company == x.company then some x.t else none,
    core := none }

/-- Who asks at a home for a command. -/
def EngCmd.asker (x : EngCmd) : Asker := ⟨x.t, x.seq, 0⟩

/-- A command faults: it parks in a record of the engine, or a fatal verdict is to end it (R164). A restartable fault counts for the
troupe that launched it, though the record is the engine's (R106, log entry 67). -/
def State.engPark (s : State) (e : Nat) (x : EngCmd) (f : FaultInfo) : State :=
  let here := (s.engAccessor x).troupe
  let s := match here with
    | some k => if f.restartable then
        (s.modTr k fun t => { t with faults := t.faults + 1 }).traceRec k 4 0 x.seq x.pc.toNat (f.cls + 256) f.addr.toNat
      else s
    | none => s
  let r := s.service x.site f
  r.2.setCmd e { x with park := some r.1 }

/-- A fault at the next unit: what is delivered is added first, so that ADDED equals DELIVERED when the command parks (R164). -/
def State.engFault (s : State) (e : Nat) (x : EngCmd) (f : FaultInfo) : State :=
  if x.ts ≠ 0 ∧ x.added < x.delivered then s.setCmd e { x with adding := x.delivered - x.added + 1 }
  else s.engPark e x f

/-- The add of bytes delivered: a release that covers every byte it counts (R162). -/
def State.engAdd (s : State) (e : Nat) (x : EngCmd) : State :=
  match s.tsAddGlobal (.die (e / 9)) (s.engAccessor x) x.asker 9 x.ts (x.adding - 1) with
  | (.wait, s) => s.setCmd e x
  | (.fault f, s) => s.engPark e x f
  | (.ok _, s) => s.setCmd e { x with added := x.added + (x.adding - 1), adding := 0 }

/-- A unit is delivered: the engine adds at a point of its choosing, no more than 4 KiB apart and at the end (R162, R355). -/
def State.engDelivered (s : State) (e : Nat) (x : EngCmd) (n : Nat) : State :=
  let x := { x with delivered := x.delivered + n }
  let r := s.choose
  let due := x.ts ≠ 0 ∧ x.added < x.delivered ∧ (x.done = x.units ∨ 4096 - 128 < x.delivered - x.added ∨ r.1)
  r.2.setCmd e (if due then { x with adding := x.delivered - x.added + 1 } else x)

/-- A record that is ready is replayed: the entries that a rejected access used are dropped first (R77, R327). -/
def State.engUnpark (s : State) (e : Nat) (x : EngCmd) : State × EngCmd :=
  match x.park with
  | none => (s, x)
  | some p =>
    let s := if p.cls = 3 then s.dropFor (.die (e / 9)) x.ctx (p.addr.toNat % 2 ^ 57) else s
    let x := { x with park := none }
    (s.setCmd e x, x)

/-- An engine event on the active command: an outstanding add is performed, or the command's next unit. -/
def State.engStep (s : State) (e : Nat) (isMine : EngCmd → Bool) (unit : State → EngCmd → State) : State :=
  match s.engActive e with
  | none => s
  | some x =>
    if !x.started || !isMine x then s
    else
      let r := s.engUnpark e x
      if r.2.adding ≠ 0 then r.1.engAdd e r.2 else unit r.1 r.2

/-! ### The start of a command (R161, R356) -/

/-- A tensor descriptor keeps R161's table, and the layout word is well formed. -/
def descOk (x : EngCmd) (b : List Nat) : Bool :=
  let esz := x.esz
  !x.lay.malformed && fieldOf b 0 8 % esz == 0 && fieldOf b 8 4 != 0 && fieldOf b 0xC 4 != 0 && fieldOf b 0x10 4 != 0
    && fieldOf b 0x14 4 == 0 && fieldOf b 0x18 8 % esz == 0 && fieldOf b 0x20 8 % esz == 0
    && fieldOf b 0x28 1 == x.lay.esize && fieldOf b 0x29 23 == 0

/-- A format code that .REFMT takes (R356). -/
def refmtCode (c : Nat) : Bool := c ≤ 0x13 && c != 8 && c != 0xC && c != 0xD

/-- SAT suits a pair of formats (R30). -/
def satSuits (sf df : Nat) : Bool := df ≤ 3 || df == 5 || ((intFmt sf).isSome && (intFmt df).isSome)

/-- A LAYEX block keeps R356's table; `x` holds it. -/
def blockOk (x : EngCmd) : Bool :=
  let d := fun (i : Nat) => x.dim i
  fieldOf x.blk 0x68 24 == 0 &&
    (if x.lop = 0 then
      (List.range 3).all (fun i => 1 ≤ d i && d i ≤ 2 ^ 24) && d 0 * d 1 * d 2 ≤ 2 ^ 34
        && refmtCode x.sfmt && refmtCode x.dfmt && x.nlines == 0
        && (List.range 3).all (fun i => x.sstr i % (fmtBytes x.sfmt : Int) == 0 && x.dstr i % (fmtBytes x.dfmt : Int) == 0)
        && (!x.lsat || satSuits x.sfmt x.dfmt)
     else
      (List.range 3).all (fun i => d i == 0) && x.sfmt == 0 && x.dfmt == 0 && 1 ≤ x.nlines && x.nlines ≤ 2 ^ 32
        && (x.lop != 1 || x.dst % 128 == 0))

/-- COPY_COMMAND_START (R161, R354, R356): the engine takes its next command and reads its descriptor or block, once. -/
def execCopyCommandStart (e : Nat) (s : State) : Out :=
  match s.engActive e with
  | none => .next s
  | some x =>
    if x.started then .next s
    else
      let r := s.engUnpark e x
      let s := r.1
      let x := r.2
      match x.ins with
      | .cps _ => .next (if x.units = 0 then s.engRemove e x else s.setCmd e { x with started := true })
      | .cpt _ =>
        match State.spanRead (.die (e / 9)) (s.engAccessor x) x.asker (x.u 0) 64 s with
        | (.wait, s) => .next s
        | (.fault f, s) => .next (s.engPark e x f)
        | (.ok b, s) =>
          if descOk x b then .next (s.setCmd e { x with started := true, blk := b })
          else .next (s.engPark e x { cls := 7, addr := x.u 0 })
      | _ =>
        match State.spanRead (.die (e / 9)) (s.engAccessor x) x.asker (x.u 0) 128 s with
        | (.wait, s) => .next s
        | (.fault f, s) => .next (s.engPark e x f)
        | (.ok b, s) =>
          let seed := fieldOf b 0x1E 2
          let x := { x with blk := b, rs := BitVec.ofNat 16 (if seed = 0 then 1 else seed) }
          if blockOk x then .next (s.setCmd e { x with started := true })
          else .next (s.engPark e x { cls := 7, addr := x.u 0 })

/-! ### CPT (R162) -/

/-- A scratchpad address of a CPT is local (R162). -/
def localFault (addr : Nat) (write : Bool) : Option FaultInfo :=
  if 2 ^ 19 ≤ addr then some { cls := 4, detail := 5, addr := BitVec.ofNat 64 addr, write := write, scratch := true } else none

/-- The element of a CPT that comes next: its scratchpad offset, its global address, and whether it lies in the tensor. -/
def EngCmd.element (x : EngCmd) : Nat × W64 × Bool :=
  let (t0, t1, _) := x.tile
  let i0 := x.done % t0
  let i1 := x.done / t0 % t1
  let i2 := x.done / t0 / t1
  let g0 := signedOf 32 (x.u 4).toNat + i0
  let g1 := signedOf 32 ((x.u 4).toNat / 2 ^ 32) + i1
  let g2 := signedOf 32 (x.u 5).toNat + i2
  let dim := fun (k : Nat) => (fieldOf x.blk (8 + 4 * k) 4 : Int)
  let inside := 0 ≤ g0 ∧ g0 < dim 0 ∧ 0 ≤ g1 ∧ g1 < dim 1 ∧ 0 ≤ g2 ∧ g2 < dim 2
  let ga := (fieldOf x.blk 0 8 : Int) + g0 * x.esz + g1 * fieldOf x.blk 0x18 8 + g2 * fieldOf x.blk 0x20 8
  (x.lay.off i0 i1 i2, BitVec.ofInt 64 ga, decide inside)

/-- Watches a scratchpad access of a command (R256). -/
def State.engWatch (s : State) (x : EngCmd) (wr : Bool) (addr n : Nat) : State :=
  match s.scratchAt x.company (coreOf x.t) addr with
  | .ok (tc, p) => s.watchRing tc (s.engAccessor x) (!wr) wr p n
  | _ => s

/-- One element into scratchpad. -/
def State.cptIn (s : State) (e : Nat) (x : EngCmd) (sp : Nat) (ga : W64) (inside : Bool) : State :=
  let c := coreOf x.t
  let done := fun (s : State) (b : List Nat) =>
    ((s.scratchPoke x.company c sp b).engWatch x true sp x.esz).engDelivered e { x with done := x.done + 1 } x.esz
  match localFault sp true, s.scratchOk x.company c sp x.esz with
  | some f, _ => s.engFault e x f
  | none, .fault f => s.engFault e x { f with write := true }
  | none, .wait => s
  | none, .ok _ =>
    if !inside then done s (List.replicate x.esz 0)
    else match State.spanRead (.die (e / 9)) (s.engAccessor x) x.asker ga x.esz s x.hint with
      | (.wait, s) => s
      | (.fault f, s) => s.engFault e x f
      | (.ok b, s) => done s b

/-- One element out of scratchpad; one outside the tensor is only counted. -/
def State.cptOut (s : State) (e : Nat) (x : EngCmd) (sp : Nat) (ga : W64) (inside : Bool) : State :=
  let c := coreOf x.t
  if !inside then s.engDelivered e { x with done := x.done + 1 } x.esz
  else match localFault sp false, s.scratchNat x.company c sp x.esz with
    | some f, _ => s.engFault e x f
    | none, .fault f => s.engFault e x f
    | none, .wait => s
    | none, .ok v =>
      match State.spanWrite (.die (e / 9)) (s.engAccessor x) x.asker ga (leBytes x.esz v) s x.hint with
      | (.wait, s) => s
      | (.fault f, s) => s.engFault e x f
      | (.ok _, s) => (s.engWatch x false sp x.esz).engDelivered e { x with done := x.done + 1 } x.esz

/-- The next element of a CPT, in tile order. -/
def State.cptUnit (s : State) (e : Nat) (x : EngCmd) : State :=
  if x.done = x.units then s.engRemove e x
  else
    let el := x.element
    if bitOf x.ins.fields.mdn 0 then s.cptOut e x el.1 el.2.1 el.2.2 else s.cptIn e x el.1 el.2.1 el.2.2

/-- CPT_ELEMENT_DELIVERED (R162). -/
def execCptElementDelivered (e : Nat) (s : State) : Out :=
  .next (s.engStep e (fun x => match x.ins with | .cpt _ => true | _ => false) fun s x => s.cptUnit e x)

/-! ### CPS (R355) -/

/-- The next chunk of a CPS, up to the next destination line: read, then written. -/
def State.cpsUnit (s : State) (e : Nat) (x : EngCmd) : State :=
  if x.done = x.units then s.engRemove e x
  else
    let dst := x.u 0 + BitVec.ofNat 64 x.done
    let n := min (128 - dst.toNat % 128) (x.units - x.done)
    match State.spanRead (.die (e / 9)) (s.engAccessor x) x.asker (x.u 1 + BitVec.ofNat 64 x.done) n s x.hint with
    | (.wait, s) => s
    | (.fault f, s) => s.engFault e x f
    | (.ok b, s) =>
      match State.spanWrite (.die (e / 9)) (s.engAccessor x) x.asker dst b s x.hint with
      | (.wait, s) => s
      | (.fault f, s) => s.engFault e x f
      | (.ok _, s) => s.engDelivered e { x with done := x.done + n } n

/-- CPS_CHUNK_COPIED (R355). -/
def execCpsChunkCopied (e : Nat) (s : State) : Out :=
  .next (s.engStep e (fun x => match x.ins with | .cps _ => true | _ => false) fun s x => s.cpsUnit e x)

/-! ### LAYEX.REFMT (R357) -/

/-- An element's address: the base plus the strides of its coordinates, mod 2^64. -/
def EngCmd.strided (x : EngCmd) (base : Nat) (str : Nat → Int) : W64 :=
  let i0 := x.done % x.dim 0
  let i1 := x.done / x.dim 0 % x.dim 1
  let i2 := x.done / x.dim 0 / x.dim 1
  BitVec.ofInt 64 ((base : Int) + i0 * str 0 + i1 * str 1 + i2 * str 2)

/-- The next element of a .REFMT: read, converted, written; under RS the engine's generator steps once. -/
def State.refmtUnit (s : State) (e : Nat) (x : EngCmd) : State :=
  if x.done = x.units then s.engRemove e x
  else
    match State.spanRead (.die (e / 9)) (s.engAccessor x) x.asker (x.strided x.src x.sstr) (fmtBytes x.sfmt) s with
    | (.wait, s) => s
    | (.fault f, s) => s.engFault e x f
    | (.ok b, s) =>
      let rs := if x.lrm = 4 then lfsrStep x.rs else x.rs
      let v := convertTo x.dfmt x.lrm rs.toNat x.lsat x.lsat (decodeFmt x.sfmt (leNat b))
      match State.spanWrite (.die (e / 9)) (s.engAccessor x) x.asker (x.strided x.dst x.dstr) (leBytes (fmtBytes x.dfmt) v) s with
      | (.wait, s) => s
      | (.fault f, s) => s.engFault e x f
      | (.ok _, s) => s.engDelivered e { x with done := x.done + 1, rs := rs } (fmtBytes x.dfmt)

/-- LAYEX_REFMT_ELEMENT (R357). -/
def execLayexRefmtElement (e : Nat) (s : State) : Out :=
  .next (s.engStep e (fun x => match x.ins with | .layex _ => x.lop == 0 | _ => false) fun s x => s.refmtUnit e x)

/-! ### LAYEX.EXPAND and .PACK (R275, R276, R358) -/

/-- The FORMAT fault of a stream at an address. -/
def streamFault (addr : W64) : FaultInfo := { cls := 7, addr := addr }

/-- The next line of an .EXPAND; after the last the stream must be used up. -/
def State.expandUnit (s : State) (e : Nat) (x : EngCmd) : State :=
  let at' := BitVec.ofNat 64 (x.src + x.pos)
  let a := Agent.die (e / 9)
  if x.done = x.units then
    (if x.pos ≠ x.sbytes ∧ x.closing = 0 then s.engPark e x (streamFault at') else s.engRemove e x)
  else match State.spanRead a (s.engAccessor x) x.asker at' 1 s with
    | (.wait, s) => s
    | (.fault f, s) => s.engFault e x f
    | (.ok h, s) =>
      let h := h.getD 0 0
      let n := recordLen (h % 8)
      if h / 8 ≠ 0 ∨ 4 < h % 8 ∨ x.sbytes < x.pos + n then s.engFault e x (streamFault at')
      else match State.spanRead a (s.engAccessor x) x.asker at' n s with
        | (.wait, s) => s
        | (.fault f, s) => s.engFault e x f
        | (.ok b, s) =>
          match State.spanWrite a (s.engAccessor x) x.asker (BitVec.ofNat 64 (x.dst + 128 * x.done)) (decodeRecord (h % 8) b) s with
          | (.wait, s) => s
          | (.fault f, s) => s.engFault e x f
          | (.ok _, s) =>
            let y := { x with done := x.done + 1, pos := x.pos + n }
            -- the check at the end comes before the last add
            if y.done = y.units ∧ y.pos ≠ y.sbytes then
              s.setCmd e { y with delivered := y.delivered + 128 }
            else s.engDelivered e y 128

/-- LAYEX_EXPAND_LINE (R358). -/
def execLayexExpandLine (e : Nat) (s : State) : Out :=
  .next (s.engStep e (fun x => match x.ins with | .layex _ => x.lop == 1 | _ => false) fun s x => s.expandUnit e x)

/-- PLEN of a .PACK whose records are written: the last line counts as delivered only with it, so that the last add comes after
it (R358, log entry 68). -/
def State.packEnd (s : State) (e : Nat) (x : EngCmd) : State :=
  let total := 128 * x.units
  if x.ts ≠ 0 ∧ x.added = total then s.engRemove e x
  else match State.spanWrite (.die (e / 9)) (s.engAccessor x) x.asker (x.u 0 + 0x60) (leBytes 8 x.pos) s with
    | (.wait, s) => s
    | (.fault f, s) => s.engFault e { x with delivered := total - 128 } f
    | (.ok _, s) =>
      if x.ts = 0 then s.engRemove e x
      else s.setCmd e { x with delivered := total, adding := total - x.added + 1 }

/-- The next line of a .PACK; after the last PLEN is written. -/
def State.packUnit (s : State) (e : Nat) (x : EngCmd) : State :=
  let a := Agent.die (e / 9)
  if x.done = x.units then s.packEnd e x
  else match State.spanRead a (s.engAccessor x) x.asker (BitVec.ofNat 64 (x.src + 128 * x.done)) 128 s with
    | (.wait, s) => s
    | (.fault f, s) => s.engFault e x f
    | (.ok b, s) =>
      let r := encodeRecord b
      let to' := BitVec.ofNat 64 (x.dst + x.pos)
      if x.sbytes < x.pos + r.length then s.engFault e x (streamFault to')
      else match State.spanWrite a (s.engAccessor x) x.asker to' r s with
        | (.wait, s) => s
        | (.fault f, s) => s.engFault e x f
        | (.ok _, s) =>
          let y := { x with done := x.done + 1, pos := x.pos + r.length }
          if y.done < y.units then s.engDelivered e y 128 else s.setCmd e y

/-- LAYEX_PACK_LINE (R358). -/
def execLayexPackLine (e : Nat) (s : State) : Out :=
  .next (s.engStep e (fun x => match x.ins with | .layex _ => x.lop == 2 | _ => false) fun s x => s.packUnit e x)

/-! ### The fatal end (R164, R359, R419) -/

/-- A fatal verdict ends a command: the issuer takes cause 0x06, the host is told, and the rest of the total is to be added. -/
def State.engEnd (s : State) (e : Nat) (x : EngCmd) (p : Park) : State :=
  let here := (s.tr x.t).resident && !(s.tr x.t).ended && (s.tr x.t).company == x.company
  let r := x.site.record s p.info 3
  let s := s.frqRaise (if here then r else { r with rflags := r.rflags ||| 16 })
  let s := if here then s.modTr x.t fun t => { t with dtraps := t.dtraps ++
      [{ cause := 6, detail := p.cls, record := 0, value := p.addr, word := 0, level := 0 }] } else s
  let total := match x.total with | some n => n | none => (Config.freeWord s.free).toNat
  let s := match x.total with | some _ => s | none => { s with free := s.free + 1 }
  if x.ts = 0 then s.engRemove e x
  else s.setCmd e { x with park := none, adding := 0, closing := total - x.added + 1 }

/-- The closing add: performed, parked until its fault is served, or dropped with a further record (R419). -/
def State.engClose (s : State) (e : Nat) (x : EngCmd) : State :=
  let drop := fun (s : State) (p : Park) => (s.frqRaise (x.site.record s p.info 3)).engRemove e x
  match x.park with
  | some p => if p.state = .fatal then drop s p else if p.state = .pending then s else close s
  | none => close s
where
  close (s : State) : State :=
    let r := s.engUnpark e x
    let x := r.2
    match r.1.tsAddGlobal (.die (e / 9)) (r.1.engAccessor x) x.asker 9 x.ts (x.closing - 1) with
    | (.wait, s) => s
    | (.fault f, s) => s.engPark e x f
    | (.ok _, s) => s.engRemove e x

/-- ENGINE_FATAL_END (R164, R359, R419). -/
def execEngineFatalEnd (e t q : Nat) (s : State) : Out :=
  match s.engCmd e t q with
  | none => .next s
  | some x =>
    if x.closing ≠ 0 then .next (s.engClose e x)
    else match x.park with
      | some p => .next (if p.state = .fatal then s.engEnd e x p else s)
      | none => .next s

end Sys2Proof.Machine
end

