-- ==== Sys2Proof/Machine/Matrix.lean ====
section
/-!
DEFINITION. The matrix engine at issue: holding, the checks of its commands, and their entry into the queues (R195 to R217).
-/
namespace Sys2Proof.Machine

/-! ### Holding (R202, R212) -/

/-- The company of the issuing troupe. -/
def State.curCo (s : State) : Co := s.co s.curT.company

/-- The company holds the array of a core. -/
def State.holds (s : State) (k c : Nat) : Bool := (s.core c).array.holder == k + 1

/-- The arrays that a company's command needs: its core's, or both of the pair from the leader (R202). -/
def State.mxHolds (s : State) (both : Bool) : Bool :=
  let k := s.curT.company
  let c := coreOf s.cur.t
  if both then (s.co k).paired && c == (s.co k).core && s.holds k c && s.holds k (c + 1) else s.holds k c

/-- The tile of an array just acquired: +0 in F16, with a tensor scale of 1.0 (R202). -/
def plainTile : MxTile := { fmt := 2, bc := 4, scf := 0, ts := 0x3F80 }
/-- A stream of an array just acquired: F16, block 128, RN (R202). -/
def plainStream : MxStream := { fmt := 2, bc := 4, scf := 0, rm := 0, ts := 0x3F80 }

/-- An array as an acquisition resets it (R202). -/
def freshArray (holder : Nat) (seed : BitVec 16) : MxArray :=
  { holder := holder, tile := plainTile, valid := true, weights := [], scales := [], streams := List.replicate 4 plainStream,
    rs := if seed = 0 then 1 else seed, nextTile := plainTile, nextStreams := List.replicate 4 plainStream }

/-- MXACQ (R212): it acts at issue. -/
def execMxacq (f : Fields) (s : State) : Out :=
  let t := s.curT
  let k := t.company
  let c := coreOf s.cur.t
  let pair := bitOf f.mdn 0
  if !t.enabled f.g then .next (s.retire id)
  else if pair && (!s.curCo.paired || c != s.curCo.core) then .next (s.trapWord 0x0A 0x10 0)
  else
    let cs := if pair then [c, c + 1] else [c]
    if cs.all fun x => (s.core x).array.holder == 0 || s.holds k x then
      let s := cs.foldl (fun (s : State) x =>
        if s.holds k x then s else s.modCore x fun y => { y with array := freshArray (k + 1) t.seed }) s
      .next (s.retire fun t => t.wq f.d.toNat true)
    else .next (s.retire fun t => t.wq f.d.toNat false)

/-! ### Entry into the queues (R201, R203) -/

/-- The physical banks that a company's logical banks name on a core (R206, R207). -/
def State.banksOf (s : State) (k c : Nat) : List Nat := if c = (s.co k).core then (s.co k).banks else (s.co k).fbanks

/-- The command of the word being issued. -/
def State.mxCmd (s : State) (i : Instr) (act : Mask) (uni : List W64) : MxCmd :=
  let k := s.curT.company
  { t := s.cur.t, seq := s.cur.seq.toNat, pc := s.cur.pc, ins := i, word := s.cur.word, run := s.cur.run, act := act,
    company := k, uni := uni, idx := [], dat := [], banks := s.banksOf k (coreOf s.cur.t), fbanks := (s.co k).fbanks,
    row := 0, shadow := false, entered := s.clock + 1 }

/-- Puts a command into a core's queue, in order of entry (R201, R203). -/
def State.mxPut (s : State) (c : Nat) (x : MxCmd) : State :=
  s.modCore c fun y => { y with queue := insertBy (fun (z : MxCmd) => z.entered) x y.queue }

/-- A command enters its queues: its own core's in the next cycle, the follower's three cycles later, where a double-stop
command only keeps its place (R201, R205). -/
def State.mxEnter (s : State) (x : MxCmd) (own follower shadow : Bool) : State :=
  let c := coreOf x.t
  let s := if own then s.mxPut c x else s
  if follower then s.mxPut (c + 1) { x with entered := x.entered + 3, shadow := shadow } else s

/-- Issues a command: it enters its queues, and the .MATRIX counter rises (R186, R203). -/
def State.mxIssue (s : State) (x : MxCmd) (own follower shadow : Bool) : State :=
  ((s.mxEnter x own follower shadow).retire fun t => { t with oc := t.oc.write 1 (t.oc.read 1 + 1) })

/-! ### Checks (R197, R199, R206, R211, R215) -/

/-- A row operand has bits above [10:0] (R211). -/
def rowBad (v : W64) : Bool := v.toNat / 2048 != 0

/-- The first row of a range that the company does not hold (R206). -/
def rowMiss (row n banks : Nat) : Option Nat := if row + n ≤ 128 * banks then none else some (max row (128 * banks))

/-- The stream that the latest MXFMT issued sets on an array (R211). -/
def MxArray.issued (a : MxArray) (stream : Nat) : MxStream := a.nextStreams.getD stream plainStream

/-- The streams and tiles of a product are of one class (R197, R205). -/
def State.classesMeet (s : State) (c stream : Nat) (ds : Bool) : Bool :=
  let cls := matrixClass ((s.core c).array.issued stream).fmt
  let same := fun (x : Nat) => matrixClass (s.core x).array.nextTile.fmt == cls
  same c && (!ds || same (c + 1))

/-- Banks held where a product writes: on both cores with .DS (R205, R215). -/
def State.productBanks (s : State) (c : Nat) (ds : Bool) : Nat :=
  let k := s.curT.company
  if ds then min (s.banksOf k c).length (s.banksOf k (c + 1)).length else (s.banksOf k c).length

/-- The elements of a row of a class (R197). -/
def classK (cls : Option Nat) : Nat :=
  match cls with
  | some 0 => 128
  | some 2 => 512
  | _ => 256

/-! ### Issue of each command -/

/-- MXREL (R212). -/
def execMxrel (f : Fields) (s : State) : Out :=
  let t := s.curT
  let k := t.company
  let c := coreOf s.cur.t
  let pair := bitOf f.mdn 0
  if !t.enabled f.g then .next (s.retire id)
  else if pair && (!s.curCo.paired || c != s.curCo.core) then .next (s.trapOpen 0x0A 0x10)
  else if !s.holds k c || (pair && !s.holds k (c + 1)) then .next (s.trapOpen 0x0A 0x11)
  else .next (s.mxIssue (s.mxCmd (.mxrel f) s.cur.run []) true pair false)

/-- MXFMT (R213). -/
def execMxfmt (f : Fields) (s : State) : Out :=
  let t := s.curT
  let fol := bitOf f.mdn 5
  if !t.enabled f.g then .next (s.retire id)
  else if !s.mxHolds fol then .next (s.trapOpen 0x0A 0x10)
  else
    let c := coreOf s.cur.t + (if fol then 1 else 0)
    let st : MxStream := {
      fmt := f.mdn % 32, bc := bitsOf f.xn 4 2, scf := bitsOf f.xn 6 5, rm := bitsOf f.xn 10 8,
      ts := if bitOf f.xn 7 then (t.rs64 f.a.toNat).toNat % 65536 else 0x3F80 }
    let s := s.modCore c fun x => { x with array := { x.array with nextStreams := x.array.nextStreams.set (f.xn % 4) st } }
    .next (s.mxIssue (s.mxCmd (.mxfmt f) s.cur.run [t.rs64 f.a.toNat]) (!fol) fol false)

/-- The tile that an MXLW latches, but for its weights and scales (R214). -/
def lwTile (f : Fields) (sb : W64) : MxTile :=
  { fmt := f.mdn % 32, bc := f.xn % 8, scf := bitsOf f.xn 4 3, ts := if bitOf f.xn 5 then bitsOf sb.toNat 47 32 else 0x3F80 }

/-- MXLW (R214). -/
def execMxlw (f : Fields) (s : State) : Out :=
  let t := s.curT
  let fol := bitOf f.mdn 5
  if !t.enabled f.g then .next (s.retire id)
  else if !s.mxHolds fol then .next (s.trapOpen 0x0A 0x10)
  else
    let sb := t.rs64 f.b.toNat
    let c := coreOf s.cur.t + (if fol then 1 else 0)
    let s := s.modCore c fun x => { x with array := { x.array with nextTile := lwTile f sb } }
    .next (s.mxIssue (s.mxCmd (.mxlw f) s.cur.run [t.rs64 f.a.toNat, sb]) (!fol) fol false)

/-- MXMUL (R215). -/
def execMxmul (f : Fields) (s : State) : Out :=
  let t := s.curT
  let c := coreOf s.cur.t
  let ds := bitOf f.mdn 1
  let stream := bitsOf f.xn 9 8
  let drow := t.rs64 f.e.toNat
  let cls := matrixClass ((s.core c).array.issued stream).fmt
  if !t.enabled f.g then .next (s.retire id)
  else if rowBad drow then .next (s.trapWord 0x0A 0x12 drow)
  else if !s.mxHolds ds then .next (s.trapOpen 0x0A 0x10)
  else if !s.classesMeet c stream ds || (bitOf f.mdn 0 && cls != some 0 && cls != some 1) then .next (s.trapOpen 0x0A 0x15)
  else match rowMiss drow.toNat (f.xn % 256 + 1) (s.productBanks c ds) with
    | some r => .next (s.trapWord 0x0A 0x12 (BitVec.ofNat 64 r))
    | none =>
      let a := f.a.toNat
      let uni := [t.rs64 a, t.rs64 (a + 1), t.rs64 (a + 2), t.rs64 f.b.toNat, drow]
      .next (s.mxIssue (s.mxCmd (.mxmul f) s.cur.run uni) true ds true)

/-- The source of an MXCHN lies in banks held and within its bank's rows, and does not meet the destination (R215). -/
def chainSourceOk (srow drow n k banks : Nat) : Bool :=
  let sb := srow / 128
  let sr := srow % 128
  sr + n ≤ 128 && sb + k / 32 ≤ banks &&
    (List.range n).all fun i =>
      let l := drow + i
      !(sb ≤ l / 128 && l / 128 < sb + k / 32 && sr ≤ l % 128 && l % 128 < sr + n)

/-- MXCHN (R208, R215). -/
def execMxchn (f : Fields) (s : State) : Out :=
  let t := s.curT
  let c := coreOf s.cur.t
  let ds := bitOf f.mdn 1
  let stream := (s.core c).array.issued (bitsOf f.xn 9 8)
  let srow := t.rs64 f.a.toNat
  let drow := t.rs64 f.e.toNat
  let n := f.xn % 128 + 1
  if !t.enabled f.g then .next (s.retire id)
  else if rowBad srow then .next (s.trapWord 0x0A 0x12 srow)
  else if rowBad drow then .next (s.trapWord 0x0A 0x12 drow)
  else if !s.mxHolds ds then .next (s.trapOpen 0x0A 0x10)
  else if !s.classesMeet c (bitsOf f.xn 9 8) ds || 2 ≤ stream.scf then .next (s.trapOpen 0x0A 0x15)
  else match rowMiss drow.toNat n (s.productBanks c ds) with
    | some r => .next (s.trapWord 0x0A 0x12 (BitVec.ofNat 64 r))
    | none =>
      if !chainSourceOk srow.toNat drow.toNat n (classK (matrixClass stream.fmt)) (s.banksOf t.company c).length then
        .next (s.trapOpen 0x0A 0x13)
      else .next (s.mxIssue (s.mxCmd (.mxchn f) s.cur.run [srow, drow]) true ds true)

/-- ACCALLOC (R207): it issues when its request is decided. -/
def execAccalloc (f : Fields) (s : State) : Out :=
  let pair := bitOf f.mdn 0
  if !s.curT.enabled f.g then .next (s.retire id)
  else if pair && !s.curCo.paired then .next (s.trapOpen 0x0A 0x10)
  else
    let s := s.accArrive s.cur.t (f.xn % 32) pair
    let v := s.accVerdict s.cur.t
    if v = 0 then .next s else .next ((s.accLeave s.cur.t).retire fun t => t.wq f.d.toNat (v == 1))

/-- Names a company's top `n` logical banks on a core as freed: they no longer count as held (R207). -/
def State.nameBanks (s : State) (k c n : Nat) : State :=
  s.modCo k fun x =>
    if c = x.core then { x with banks := x.banks.take (x.banks.length - n), freeing := x.freeing ++ x.banks.drop (x.banks.length - n) }
    else { x with fbanks := x.fbanks.take (x.fbanks.length - n), ffreeing := x.ffreeing ++ x.fbanks.drop (x.fbanks.length - n) }

/-- ACCFREE (R207). -/
def execAccfree (f : Fields) (s : State) : Out :=
  let t := s.curT
  let k := t.company
  let c := coreOf s.cur.t
  let pair := bitOf f.mdn 0
  let n := f.xn % 32
  let cs := if pair then [s.curCo.core, s.curCo.follower] else [c]
  if !t.enabled f.g then .next (s.retire id)
  else if pair && !s.curCo.paired then .next (s.trapOpen 0x0A 0x10)
  else if cs.any fun x => (s.banksOf k x).length < n then .next (s.trapWord 0x0A 0x14 (BitVec.ofNat 64 n))
  else
    let cmd := fun (x : Nat) => { s.mxCmd (.accfree f) s.cur.run [] with
      banks := (s.banksOf k x).drop ((s.banksOf k x).length - n), entered := s.clock + (if x = c then 1 else 4) }
    let s' := cs.foldl (fun (z : State) x => (z.mxPut x (cmd x)).nameBanks k x n) s
    .next (s'.retire fun t => { t with oc := t.oc.write 1 (t.oc.read 1 + 1) })

/-- ACCZ, ACCLD and ACCST at issue: the row operand and what is checked before it may enter (R206, R211, R216). -/
def accMoveExec (i : Instr) (f : Fields) (row : W64) (addr : Option W64) (ts : Option W64) (uni : List W64) (s : State) : Out :=
  let t := s.curT
  let c := coreOf s.cur.t
  let off := fun (a : Option W64) (n : Nat) => match a with | some a => a.toNat % n != 0 | none => false
  if !t.enabled f.g then .next (s.retire id)
  else if rowBad row then .next (s.trapWord 0x0A 0x12 row)
  else if off addr 4 then .next (s.trapWord 0x0A 1 (addr.getD 0))
  else if off ts 8 then .next (s.trapWord 0x0A 2 (ts.getD 0))
  else match rowMiss row.toNat (f.xn % 2048 + 1) (s.banksOf t.company c).length with
    | some r => .next (s.trapWord 0x0A 0x12 (BitVec.ofNat 64 r))
    | none => .next (s.mxIssue (s.mxCmd i s.cur.run uni) true false false)

/-- ACCZ (R216). -/
def execAccz (f : Fields) (s : State) : Out :=
  let r := s.curT.rs64 f.a.toNat
  accMoveExec (.accz f) f r none none [r] s
/-- ACCLD (R216). -/
def execAccld (f : Fields) (s : State) : Out :=
  let a := s.curT.rs64 f.a.toNat
  let r := s.curT.rs64 f.b.toNat
  accMoveExec (.accld f) f r (some (tsAddr true a)) none [a, r] s
/-- ACCST (R216): a scratchpad turnstile's address lies in bits [31:0]. -/
def execAccst (f : Fields) (s : State) : Out :=
  let a := s.curT.rs64 f.a.toNat
  let r := s.curT.rs64 f.b.toNat
  let ts := tsAddr (bitOf f.mdn 0) (s.curT.rs64 f.e.toNat)
  accMoveExec (.accst f) f r (some (tsAddr true a)) (some ts) [a, r, s.curT.rs64 f.e.toNat] s

/-- The first element index of a lane of ACCRD or ACCWR (R217). -/
def accIndex (f : Fields) (t : Troupe) (l : Nat) : W64 := t.rs64 f.a.toNat + (t.rv f.b.toNat l).setWidth 64

/-- ACCRD and ACCWR at issue (R217): an operation that holds its destinations or data, and a command in the queue. -/
def accElemExec (i : Instr) (f : Fields) (write : Bool) (s : State) : Out :=
  let t := s.curT
  let act := t.active f.g s.cur.run
  let k := f.mdn % 4 + 1
  let banks := s.banksOf t.company (coreOf s.cur.t)
  let e := accIndex f t
  if act = 0 then .next (s.retire id)
  else match (lanes.filter (inMask act)).find? fun l => 4096 * banks.length ≤ (e l).toNat + k - 1 with
    | some l => .next (s.trapWord 0x0A 0x12 (e l))
    | none =>
      let o := { s.newOp i act with
        size := 4, elems := k, uni := [t.rs64 f.a.toNat], blk1 := banks
        addr := laneTable act e
        cmp := laneTable act fun l => (t.rv f.b.toNat l).toNat
        dat := if write then elemTable act k fun l j => (t.rv (f.e.toNat + j) l).toNat else [] }
      let x := s.mxCmd i act o.uni
      let s' := s.launchWith t.rs o f (!write) i.layout.recs none
      let s' := s'.modTr s.cur.t fun t => { t with oc := t.oc.write 1 (t.oc.read 1 + 1) }
      .next (s'.mxPut (coreOf s.cur.t) x)

/-- ACCRD (R217). -/
def execAccrd (f : Fields) (s : State) : Out := accElemExec (.accrd f) f false s
/-- ACCWR (R217). -/
def execAccwr (f : Fields) (s : State) : Out := accElemExec (.accwr f) f true s

end Sys2Proof.Machine
end

