-- ==== Sys2Proof/Machine/MatrixRun.lean ====
section
/-!
DEFINITION. The matrix queues: what each command does at the head of its queue, its errors and its retirement (R195 to R217).
-/
namespace Sys2Proof.Machine

/-! ### Heads, retirement and errors (R203, R209) -/

/-- The same command. -/
def MxCmd.is (x y : MxCmd) : Bool := x.t == y.t && x.seq == y.seq

/-- The command at the head of a core's queue, once it has entered; a place kept for the leader's command is none. -/
def State.mxHead (s : State) (c : Nat) : Option MxCmd :=
  match (s.core c).queue with
  | x :: _ => if x.entered ≤ s.clock && !x.shadow then some x else none
  | [] => none

/-- Double-stop: the command holds its place at the follower's head (R205). -/
def State.followerReady (s : State) (c : Nat) (x : MxCmd) : Bool :=
  match (s.core (c + 1)).queue with
  | y :: _ => y.shadow && y.is x && y.entered ≤ s.clock
  | [] => false

/-- Takes a command out of a core's queue. -/
def State.mxDrop (s : State) (c : Nat) (x : MxCmd) : State :=
  s.modCore c fun y => { y with queue := y.queue.filter fun z => !z.is x }

/-- The .MATRIX counter of a command's troupe falls (R186). -/
def State.mxLower (s : State) (x : MxCmd) : State :=
  let t := s.tr x.t
  if t.resident && t.company == x.company then s.modTr x.t fun t => { t with oc := t.oc.write 1 (t.oc.read 1 - 1) } else s

/-- A command retires on a core; the counter falls once, when no queue of the pair holds it (R203, R205). -/
def State.mxRetire (s : State) (c : Nat) (x : MxCmd) : State :=
  let s := s.mxDrop c x
  let co := s.co x.company
  if [co.core, co.core + 1].any fun d => (s.core d).queue.any fun y => y.is x && !y.shadow then s
  else (s.mxDrop (co.core + 1) x).mxLower x

/-- Changes a command in its queue. -/
def State.mxSet (s : State) (c : Nat) (x : MxCmd) : State :=
  s.modCore c fun y => { y with queue := y.queue.map fun z => if z.is x then x else z }

/-- Tells the troupe and the host of an error in a matrix command (R209). -/
def State.mxReport (s : State) (x : MxCmd) (f : FaultInfo) : State :=
  let t := s.tr x.t
  let here := t.resident && !t.ended && t.company == x.company
  let r : FRec := {
    type := 3, cls := f.cls, unit := 8, rflags := (if f.write then 1 else 0) + (if here then 0 else 16), ctx := (s.co x.company).ctx,
    cgen := (s.ctx (s.co x.company).ctx).cgen, sitepc := x.pc, siteseq := x.seq, detail := f.detail,
    va := if f.scratch then 0 else f.addr, pa := f.pa, fgen := f.fgen, place := whereOf x.t, value := if f.scratch then f.addr else 0 }
  let s := s.frqRaise r
  if here then s.modTr x.t fun t => { t with dtraps := t.dtraps ++
      [{ cause := 6, detail := f.cls, record := 0, value := f.addr, word := 0, level := 0 }] }
  else s

/-- The turnstile of an ACCST, and whether it lies in scratchpad. -/
def MxCmd.target (x : MxCmd) : W64 × Bool :=
  match x.ins with
  | .accst f => (tsAddr (bitOf f.mdn 0) (x.uni.getD 2 0), bitOf f.mdn 0)
  | _ => (0, false)

/-- An ACCST makes a turnstile add when S(E) is not zero, whatever the form's address bits (R216). -/
def MxCmd.addsTs (x : MxCmd) : Bool := match x.ins with | .accst _ => x.uni.getD 2 0 != 0 | _ => false

/-- A command has left its queue with its turnstile add to make (R216). -/
def State.mxLeave (s : State) (c : Nat) (x : MxCmd) : State :=
  (s.mxDrop c x).modCore c fun y => { y with adds := y.adds ++ [{ cmd := x, park := none }] }

/-- An error ends a command: an MXLW leaves the NaN tile, an ACCST's turnstile receives its full count (R209). -/
def State.mxEnd (s : State) (c : Nat) (x : MxCmd) (f : FaultInfo) : State :=
  let s := s.mxReport x f
  let s := match x.ins with
    | .mxlw g => s.modCore c fun y => { y with array := { y.array with
        tile := lwTile g (x.uni.getD 1 0), valid := false, weights := [], scales := [] } }
    | _ => s
  if x.addsTs then s.mxLeave c x
  else ((s.mxDrop c x).mxDrop (c + 1) x).mxLower x

/-- An error to which the spec gives neither a scratchpad address nor an element index: a free value stands for it. -/
def State.mxEndOpen (s : State) (c : Nat) (x : MxCmd) (cls : Nat) : State :=
  ({ s with free := s.free + 1 } : State).mxEnd c x { cls := cls, addr := Config.freeWord s.free, scratch := true }

/-! ### Scratchpad and accumulators -/

/-- Reads scratchpad bytes from an address upward for a command of core `c` (R200). -/
def State.mxBytes (s : State) (x : MxCmd) (c addr n : Nat) : Acc (List Nat) :=
  match s.scratchNat x.company c (addr % 2 ^ 32) n with
  | .ok v => .ok (leBytes n v)
  | .fault f => .fault f
  | .wait => .wait

/-- The store's key of element `e` of a command's logical banks (R206). -/
def accKey (banks : List Nat) (e : Nat) : Nat := 4096 * banks.getD (e / 4096) 0 + e % 4096

/-- The elements of a logical row. -/
def rowElems (row : Nat) : List Nat := (List.range 32).map fun c => 32 * row + c

/-- The first element of a list that is in error (R209). -/
def State.accBad (s : State) (c : Nat) (banks : List Nat) (es : List Nat) : Option FaultInfo :=
  (es.find? fun e => (s.core c).accErr.read (accKey banks e)).map fun e => { cls := 6, addr := BitVec.ofNat 64 e, scratch := true }

/-- An accumulator element. -/
def State.accGet (s : State) (c : Nat) (banks : List Nat) (e : Nat) : W32 := (s.core c).acc.read (accKey banks e)

/-- Writes accumulator elements; a written element is no longer in error. -/
def State.accPut (s : State) (c : Nat) (banks : List Nat) (es : List (Nat × W32)) : State :=
  s.modCore c fun y => es.foldl (fun (y : Core) e =>
    { y with acc := y.acc.write (accKey banks e.1) e.2, accErr := y.accErr.write (accKey banks e.1) false }) y

/-- Watches the scratchpad access of an ACCLD or ACCST; the feeders' reads are not compared (R256). -/
def State.mxWatch (s : State) (x : MxCmd) (c : Nat) (wr : Bool) (addr n : Nat) : State :=
  let t := s.tr x.t
  let who : Accessor := {
    ctx := (s.co x.company).ctx, pc := x.pc, seq := x.seq, troupe := if t.resident && t.company == x.company then some x.t else none,
    core := none }
  match s.scratchAt x.company c (addr % 2 ^ 32) with
  | .ok (tc, p) => s.watchRing tc who (!wr) wr p n
  | _ => s

/-! ### MXLW, MXFMT, MXREL, ACCFREE -/

/-- The elements of a block code (R210). -/
def blockSize (bc : Nat) : Nat := 8 * 2 ^ bc

/-- The bytes of a weight column or an activation row of a format (R197, R198). -/
def rowBytes (fmt : Nat) : Nat := if matrixClass fmt = some 3 then 32 * bfpWidth fmt else 256

/-- The scales of a row or column: one byte for each block, the exponent in BFP, none without a scale format (R198, R199). -/
def scaleCount (fmt bc scf : Nat) : Nat :=
  if matrixClass fmt = some 3 then 1 else if scf = 0 then 0 else classK (matrixClass fmt) / blockSize bc

/-- A list of accesses, each read whole or the first fault. -/
def readAll (get : Nat → Acc (List Nat)) : List Nat → Acc (List (List Nat))
  | [] => .ok []
  | i :: is =>
    match get i with
    | .fault f => .fault f
    | .wait => .wait
    | .ok b => match readAll get is with
      | .ok bs => .ok (b :: bs)
      | r => r

/-- Bytes of the 32 columns as one table, byte `i` of column `c` at `stride * c + i`. -/
def columnTable (stride : Nat) (cols : List (List Nat)) : Tbl Byte :=
  (cols.zip (List.range cols.length)).foldl (fun (m : Tbl Byte) p =>
    (p.1.zip (List.range p.1.length)).foldl (fun (m : Tbl Byte) q => m.write (stride * p.2 + q.2) (BitVec.ofNat 8 q.1)) m) []

/-- The physical row of a logical one (R195). -/
def Core.physRow (x : Core) (r : Nat) : Nat := if x.rowMap.read r = 0 then r else x.rowMap.read r - 1

/-- A logical row of the array stands on a failed physical row: the commands that use the array meet its error (R196). -/
def Core.rowErr (x : Core) : Bool := (List.range 32).any fun r => x.rowsBad.contains (x.physRow r)

/-- An array with more than two failed rows takes its core out of service (R196). -/
def Core.rowsOut (x : Core) : Bool := decide (2 < x.rowsBad.length)

/-- MXLW_EXECUTE (R198, R214): weights, formats, scales and tensor scale are latched together. -/
def execMxlwExecute (c : Nat) (s : State) : Out :=
  match s.mxHead c with
  | none => .next s
  | some x =>
    match x.ins with
    | .mxlw f =>
      let tile := lwTile f (x.uni.getD 1 0)
      let wofs := (x.uni.getD 0 0).toNat % 2 ^ 32
      let sofs := (x.uni.getD 1 0).toNat % 2 ^ 32
      let cstr := bitsOf f.xn 23 8
      let n := rowBytes tile.fmt
      let m := scaleCount tile.fmt tile.bc tile.scf
      if (s.core c).rowErr then .next (s.mxEndOpen c x 6)
      else match readAll (fun i => s.mxBytes x c (wofs + i * cstr) n) (List.range 32),
          readAll (fun i => s.mxBytes x c (sofs + i * m) m) (List.range 32) with
        | .ok w, .ok sc =>
          let s := s.modCore c fun y => { y with array := { y.array with
            tile := tile, valid := true, weights := columnTable 256 w, scales := columnTable 64 sc } }
          .next (s.mxRetire c x)
        | .fault g, _ => .next (s.mxEnd c x g)
        | _, .fault g => .next (s.mxEnd c x g)
        | _, _ => .next s
    | _ => .next s

/-- MXFMT_EXECUTE (R213). -/
def execMxfmtExecute (c : Nat) (s : State) : Out :=
  match s.mxHead c with
  | none => .next s
  | some x =>
    match x.ins with
    | .mxfmt f =>
      let st : MxStream := {
        fmt := f.mdn % 32, bc := bitsOf f.xn 4 2, scf := bitsOf f.xn 6 5, rm := bitsOf f.xn 10 8,
        ts := if bitOf f.xn 7 then (x.uni.getD 0 0).toNat % 65536 else 0x3F80 }
      let s := s.modCore c fun y => { y with array := { y.array with streams := y.array.streams.set (f.xn % 4) st } }
      .next (s.mxRetire c x)
    | _ => .next s

/-- MXREL_EXECUTE (R212): the array becomes free. -/
def execMxrelExecute (c : Nat) (s : State) : Out :=
  match s.mxHead c with
  | none => .next s
  | some x =>
    match x.ins with
    | .mxrel _ => .next ((s.modCore c fun y => { y with array := { y.array with holder := 0 } }).mxRetire c x)
    | _ => .next s

/-- ACCFREE_EXECUTE (R207): the named banks return to the core, and the waiters are tested. -/
def execAccfreeExecute (c : Nat) (s : State) : Out :=
  match s.mxHead c with
  | none => .next s
  | some x =>
    match x.ins with
    | .accfree _ =>
      let s := s.modCore c fun y => { y with bankOwner := x.banks.foldl (fun (m : Tbl Nat) b => m.write b 0) y.bankOwner }
      let drop := fun (l : List Nat) => l.filter fun b => !x.banks.contains b
      let s := s.modCo x.company fun k => if c = k.core then { k with freeing := drop k.freeing } else { k with ffreeing := drop k.ffreeing }
      .next ((s.mxRetire c x).accTest c)
    | _ => .next s

/-! ### Products (R35, R36, R197 to R199, R205, R208, R215) -/

/-- Element `k` of a row or column of a class, from its bytes; a BFP mantissa is an integer (R13, R22, R23, R35). -/
def rowElem (fmt : Nat) (b : List Nat) (k : Nat) : FVal :=
  match matrixClass fmt with
  | some 0 => (decodeFmt fmt (fieldOf b (2 * k) 2)).toF
  | some 1 => (decodeFmt fmt (b.getD k 0)).toF
  | some 2 => (decodeFmt fmt (b.getD (k / 2) 0 / 16 ^ (k % 2) % 16)).toF
  | _ =>
    let m := bfpWidth fmt
    (Num.int (signedOf m (leNat b / 2 ^ (m * k)))).toF

/-- The value of a scale byte; a BFP exponent's is the factor of R24 (R20, R35). -/
def scaleValue (fmt scf code : Nat) : FVal :=
  if matrixClass fmt = some 3 then
    (if code = 255 then .nan else .fin false 1 ((code : Int) - 127 - ((bfpWidth fmt : Int) - 1)))
  else match scf with
    | 1 => (decodeFmt 9 code).toF
    | 2 => (decodeFmt 5 code).toF
    | 3 => (decodeFmt 4 code).toF
    | _ => .fin false 1 0

/-- A row of activations as it enters the array: its elements, and the scale of each block of `ba` elements. -/
structure ActRow where
  elems : List FVal
  scales : List FVal
  ba : Nat
  deriving DecidableEq, Repr

/-- The exact sum of a group's products; an exact zero is +0 (R35, R36). -/
def groupSum (a w : List FVal) : FVal :=
  match (a.zip w).foldl (fun (acc : FVal) p => acc.add false (p.1.mul p.2)) (.fin false 0 0) with
  | .fin n m e => .fin (n && m != 0) m e
  | v => v

/-- The contribution of a group: one rounding of the sum and its scales, in the order S, sa, sb, ta, tb (R35, R36). -/
def groupTerm (sum sa sb ta tb : FVal) : Nat :=
  let v := (((sum.mul sa).mul sb).mul ta).mul tb
  let z := match sum, v with
    | .fin _ 0 _, .fin _ _ e => .fin false 0 e
    | _, v => v
  fp32.round 0 0 false z

/-- An accumulator element after the groups of one product row (R35). -/
def dotInto (groups : List Nat) : Nat → Nat :=
  fun acc => groups.foldl (fun (acc : Nat) c => fp32.addR 0 0 (fp32.decode acc) (fp32.decode c)) acc

/-- The group terms of an activation row with column `col` of an array (R35). -/
def columnTerms (ar : MxArray) (row : ActRow) (ta : FVal) (col : Nat) : List Nat :=
  let fmt := ar.tile.fmt
  let k := classK (matrixClass fmt)
  let n := rowBytes fmt
  let bytes := (List.range n).map fun i => (ar.weights.read (256 * col + i)).toNat
  let bw := if matrixClass fmt = some 3 then 256 else if matrixClass fmt = some 0 then 128 else blockSize ar.tile.bc
  let g := min row.ba bw
  let tb := (decodeFmt 3 ar.tile.ts).toF
  let w := (List.range k).map fun i => if ar.valid then rowElem fmt bytes i else .nan
  (List.range (k / g)).map fun j =>
    let cut := fun (l : List FVal) => (l.drop (g * j)).take g
    let sb := if scaleCount fmt ar.tile.bc ar.tile.scf = 0 then .fin false 1 0
      else scaleValue fmt ar.tile.scf (ar.scales.read (64 * col + g * j / bw)).toNat
    groupTerm (groupSum (cut row.elems) (cut w)) (row.scales.getD (g * j / row.ba) (.fin false 1 0)) sb ta tb

/-- Adds one activation row's products into a logical accumulator row of a core. -/
def State.productRow (s : State) (c : Nat) (banks : List Nat) (row : ActRow) (ta : FVal) (drow : Nat) : State :=
  let ar := (s.core c).array
  s.accPut c banks ((List.range 32).map fun col =>
    let e := 32 * drow + col
    (e, BitVec.ofNat 32 (dotInto (columnTerms ar row ta col) (s.accGet c banks e).toNat)))

/-- Ends or performs a product row on the leader and, double-stop, the follower: all of it or none (R205, R209). -/
def State.enterRow (s : State) (c : Nat) (x : MxCmd) (ds : Bool) (row : ActRow) (ta : FVal) (drow n : Nat) : State :=
  let es := rowElems drow
  let bad := (s.accBad c x.banks es).orElse fun _ => if ds then s.accBad (c + 1) x.fbanks es else none
  match bad with
  | some f => s.mxEnd c x f
  | none =>
    let s := s.productRow c x.banks row ta drow
    let s := if ds then s.productRow (c + 1) x.fbanks row ta drow else s
    let x := { x with row := x.row + 1 }
    if x.row = n then s.mxRetire c x else s.mxSet c x

/-- The scratchpad address of unit `k` of activation row `i` (R199). -/
def actAddr (w : LayWord) (tr : Bool) (k i : Nat) : Nat := if tr then w.off i k 0 else w.off k i 0

/-- The bytes of an activation row, read through its layout word (R199). -/
def State.actBytes (s : State) (x : MxCmd) (c : Nat) (w : LayWord) (tr : Bool) (unit n i : Nat) : Acc (List Nat) :=
  let get := fun (k : Nat) =>
    let a := actAddr w tr k i
    if 2 ^ 19 ≤ a then .fault { cls := 4, detail := 5, addr := BitVec.ofNat 64 a, scratch := true } else s.mxBytes x c a unit
  match readAll get (List.range (n / unit)) with
  | .ok bs => .ok bs.flatten
  | .fault f => .fault f
  | .wait => .wait

/-- An activation row from its bytes and scale codes. -/
def actRow (st : MxStream) (b codes : List Nat) : ActRow :=
  let cls := matrixClass st.fmt
  let k := classK cls
  { elems := (List.range k).map (rowElem st.fmt b), scales := codes.map (scaleValue st.fmt st.scf)
    ba := if cls = some 3 then 256 else if cls = some 0 then 128 else blockSize st.bc }

/-- One activation row of an MXMUL (R199, R215). -/
def State.mulRow (s : State) (c : Nat) (x : MxCmd) (f : Fields) : State :=
  let st := (s.core c).array.streams.getD (bitsOf f.xn 9 8) plainStream
  let ds := bitOf f.mdn 1
  let w : LayWord := {
    w0 := (x.uni.getD 0 0).toNat % 2 ^ 32, w1 := (x.uni.getD 1 0).toNat % 2 ^ 32, w2 := (x.uni.getD 2 0).toNat % 2 ^ 32 }
  let unit := if matrixClass st.fmt = some 0 then 2 else 1
  let m := scaleCount st.fmt st.bc st.scf
  let aofs := (x.uni.getD 3 0).toNat % 2 ^ 32
  let i := x.row
  if (s.core c).rowErr || (ds && (s.core (c + 1)).rowErr) then s.mxEndOpen c x 6
  else if w.malformed || 2 ^ w.esize != unit then s.mxEndOpen c x 7
  else match s.actBytes x c w (bitOf f.mdn 0) unit (rowBytes st.fmt) i, s.mxBytes x c (aofs + i * m) m with
    | .ok b, .ok codes =>
      s.enterRow c x ds (actRow st b codes) (decodeFmt 3 st.ts).toF ((x.uni.getD 4 0).toNat + i) (f.xn % 256 + 1)
    | .fault g, _ => s.mxEnd c x g
    | _, .fault g => s.mxEnd c x g
    | _, _ => s

/-- MXMUL_ROW (R215): a row enters, or in BFP a group of up to eight (R201). -/
def execMxmulRow (c : Nat) (s : State) : Out :=
  match s.mxHead c with
  | none => .next s
  | some x =>
    match x.ins with
    | .mxmul f =>
      if bitOf f.mdn 1 && !s.followerReady c x then .next s
      else
        let st := (s.core c).array.streams.getD (bitsOf f.xn 9 8) plainStream
        let n := if matrixClass st.fmt = some 3 then 8 else 1
        .next ((List.range n).foldl (fun (s : State) _ =>
          match s.mxHead c with
          | some y => if y.is x then s.mulRow c y f else s
          | none => s) s)
    | _ => .next s

/-- The exponent of the largest magnitude of an element format (R208). -/
def formatEmax : Nat → Int
  | 4 => 8
  | 5 => 15
  | 6 => 4
  | 7 => 2
  | 8 => 2
  | 10 => 6
  | _ => 2

/-- Converts elements one after another; under RS each takes its own draw (R29, R208). -/
def convertList (fmt rm : Nat) (satf : Bool) : List FVal → BitVec 16 → List Nat × BitVec 16
  | [], g => ([], g)
  | v :: vs, g =>
    let g' := if rm = 4 then lfsrStep g else g
    let r := convertList fmt rm satf vs g'
    (convertTo fmt rm g'.toNat satf false (.flt v) :: r.1, r.2)

/-- A block under a UE8M0 scale: its element codes, its scale code and the generator (R208). -/
def convertBlock (fmt rm : Nat) (vs : List FVal) (g : BitVec 16) : List Nat × Nat × BitVec 16 :=
  if vs.any FVal.special then (vs.map fun _ => 0, 0xFF, g)
  else match maxExp vs with
    | none => (vs.map fun v => convertTo fmt 0 0 false false (.flt v), 0x7F, g)
    | some k =>
      let e := clampInt (-127) 127 (k - formatEmax fmt)
      let scaled := vs.map fun v => match v with | .fin n m x => .fin n m (x - e) | v => v
      let r := convertList fmt rm true scaled g
      (r.1, (e + 127).toNat, r.2)

/-- Cuts a list into pieces of `n`. -/
def pieces (n : Nat) : Nat → List FVal → List (List FVal)
  | 0, _ => []
  | fuel + 1, l => if l.isEmpty then [] else l.take n :: pieces n fuel (l.drop n)

/-- The values of converted codes; integers and floats alike. -/
def codeValues (fmt : Nat) (l : List Nat) : List FVal := l.map fun c => (decodeFmt fmt c).toF

/-- The mantissas of a BFP row, each under its own draw (R25, R208). -/
def convertBfp (m x rm : Nat) : List FVal → BitVec 16 → List FVal × BitVec 16
  | [], g => ([], g)
  | v :: vs, g =>
    let g' := if rm = 4 then lfsrStep g else g
    let r := convertBfp m x rm vs g'
    ((Num.int (bfpMant m x rm g'.toNat v)).toF :: r.1, r.2)

/-- The down-converter: a row of accumulator values as an activation row, and the generator after it (R208). -/
def downConvert (st : MxStream) (vs : List FVal) (g : BitVec 16) : ActRow × BitVec 16 :=
  match matrixClass st.fmt with
  | some 0 =>
    let r := convertList st.fmt st.rm false vs g
    ({ elems := codeValues st.fmt r.1, scales := [], ba := 128 }, r.2)
  | some 3 =>
    let m := bfpWidth st.fmt
    let x := bfpExp vs
    let r := if bfpSkips vs then (vs.map fun _ => .fin false 0 0, g) else convertBfp m x st.rm vs g
    ({ elems := r.1, scales := [scaleValue st.fmt 0 x], ba := 256 }, r.2)
  | _ =>
    let ba := blockSize st.bc
    if st.scf = 0 then
      let r := convertList st.fmt st.rm true vs g
      ({ elems := codeValues st.fmt r.1, scales := [], ba := ba }, r.2)
    else
      let r := (pieces ba vs.length vs).foldl (fun (a : List FVal × List FVal × BitVec 16) b =>
        let c := convertBlock st.fmt st.rm b a.2.2
        (a.1 ++ codeValues st.fmt c.1, a.2.1 ++ [scaleValue st.fmt 1 c.2.1], c.2.2)) ([], [], g)
      ({ elems := r.1, scales := r.2.1, ba := ba }, r.2.2)

/-- MXCHN_ROW (R208, R215): a row of accumulators is converted and multiplied. -/
def execMxchnRow (c : Nat) (s : State) : Out :=
  match s.mxHead c with
  | none => .next s
  | some x =>
    match x.ins with
    | .mxchn f =>
      let ds := bitOf f.mdn 1
      let st := (s.core c).array.streams.getD (bitsOf f.xn 9 8) plainStream
      let srow := (x.uni.getD 0 0).toNat
      let es := (List.range (classK (matrixClass st.fmt))).map fun k => 32 * (128 * (srow / 128 + k / 32) + srow % 128 + x.row) + k % 32
      if ds && !s.followerReady c x then .next s
      else if (s.core c).rowErr || (ds && (s.core (c + 1)).rowErr) then .next (s.mxEndOpen c x 6)
      else match s.accBad c x.banks es with
        | some g => .next (s.mxEnd c x g)
        | none =>
          let vs := es.map fun e => fp32.decode (s.accGet c x.banks e).toNat
          let r := downConvert st vs (s.core c).array.rs
          let s := s.modCore c fun y => { y with array := { y.array with rs := r.2 } }
          .next (s.enterRow c x ds r.1 (decodeFmt 3 st.ts).toF ((x.uni.getD 1 0).toNat + x.row) (f.xn % 128 + 1))
    | _ => .next s

/-! ### ACCZ, ACCLD, ACCST (R216) -/

/-- Rows of an ACCZ, ACCLD or ACCST. -/
def MxCmd.rows (x : MxCmd) : Nat := x.ins.fields.xn % 2048 + 1

/-- The next row of a command is done. -/
def State.rowDone (s : State) (c : Nat) (x : MxCmd) : State :=
  let x := { x with row := x.row + 1 }
  if x.row < x.rows then s.mxSet c x
  else if x.addsTs then s.mxLeave c x
  else s.mxRetire c x

/-- ACCZ_ROW (R216). -/
def execAcczRow (c : Nat) (s : State) : Out :=
  match s.mxHead c with
  | none => .next s
  | some x =>
    match x.ins with
    | .accz _ =>
      let row := (x.uni.getD 0 0).toNat + x.row
      .next ((s.accPut c x.banks ((rowElems row).map fun e => (e, 0))).rowDone c x)
    | _ => .next s

/-- ACCLD_ROW (R216). -/
def execAccldRow (c : Nat) (s : State) : Out :=
  match s.mxHead c with
  | none => .next s
  | some x =>
    match x.ins with
    | .accld f =>
      let row := (x.uni.getD 1 0).toNat + x.row
      let a := (x.uni.getD 0 0).toNat + x.row * (f.xn / 65536)
      match s.mxBytes x c a 128 with
      | .wait => .next s
      | .fault g => .next (s.mxEnd c x g)
      | .ok b =>
        let s := s.mxWatch x c false a 128
        .next ((s.accPut c x.banks ((List.range 32).map fun i => (32 * row + i, BitVec.ofNat 32 (fieldOf b (4 * i) 4)))).rowDone c x)
    | _ => .next s

/-- ACCST_ROW (R216). -/
def execAccstRow (c : Nat) (s : State) : Out :=
  match s.mxHead c with
  | none => .next s
  | some x =>
    match x.ins with
    | .accst f =>
      let row := (x.uni.getD 1 0).toNat + x.row
      let a := ((x.uni.getD 0 0).toNat + x.row * (f.xn / 65536)) % 2 ^ 32
      match s.accBad c x.banks (rowElems row), s.scratchOk x.company c a 128 with
      | some g, _ => .next (s.mxEnd c x g)
      | none, .fault g => .next (s.mxEnd c x { g with write := true })
      | none, .wait => .next s
      | none, .ok _ =>
        let b := (rowElems row).flatMap fun e => leBytes 4 (s.accGet c x.banks e).toNat
        let s := (s.scratchPoke x.company c a b).mxWatch x c true a 128
        .next (s.rowDone c x)
    | _ => .next s

/-- An add has been made or dropped: the ACCST retires (R216). -/
def State.addDone (s : State) (c : Nat) (x : MxCmd) : State :=
  (s.modCore c fun y => { y with adds := y.adds.filter fun z => !z.cmd.is x }).mxLower x

/-- Puts an add back with its park. -/
def State.addSet (s : State) (c : Nat) (x : MxCmd) (p : Option Park) : State :=
  s.modCore c fun y => { y with adds := y.adds.map fun z => if z.cmd.is x then { z with park := p } else z }

/-- An add faults: it parks in an engine record, or a fatal verdict ends it without an add (R216). -/
def State.addFault (s : State) (c : Nat) (x : MxCmd) (f : FaultInfo) : State :=
  let w : Site := { unit := 8, ctx := (s.co x.company).ctx, pc := x.pc, seq := x.seq, key := x.t, value := 0xFF }
  let t := s.tr x.t
  let s := if f.restartable && t.resident && t.company == x.company then
      (s.modTr x.t fun t => { t with faults := t.faults + 1 }).traceRec x.t 4 0 x.seq x.pc.toNat (f.cls + 512) f.addr.toNat
    else s
  let r := s.service w f
  if r.1.state = .fatal then (r.2.mxReport x f).addDone c x else r.2.addSet c x (some r.1)

/-- Makes the turnstile add of an ACCST: 128 for each row. -/
def State.addMake (s : State) (c : Nat) (x : MxCmd) : State :=
  let v := 128 * x.rows
  let ctx := (s.co x.company).ctx
  let t := s.tr x.t
  let who : Accessor := { ctx := ctx, pc := x.pc, seq := x.seq, troupe := if t.resident && t.company == x.company then some x.t else none, core := some c }
  let r := if x.target.2 then s.tsAddScratch who 8 x.company c x.target.1.toNat v (whereOf x.t)
    else s.tsAddGlobal (.core c) who ⟨x.t, x.seq, 0⟩ 8 x.target.1 v
  match r with
  | (.wait, s) => s.addSet c x none
  | (.fault f, s) => s.addFault c x f
  | (.ok _, s) => s.addDone c x

/-- ACCST_TURNSTILE (R216): the first add of the core that is not waiting for a service. -/
def execAccstTurnstile (c : Nat) (s : State) : Out :=
  let go := fun (a : AccAdd) => match a.park with | none => true | some p => p.state != .pending
  match (s.core c).adds.find? go with
  | none => .next s
  | some a =>
    match a.park with
    | some p =>
      if p.state = .fatal then .next ((s.mxReport a.cmd p.info).addDone c a.cmd)
      else .next ((if p.cls = 3 then s.dropFor (.core c) (s.co a.cmd.company).ctx (p.addr.toNat % 2 ^ 57) else s).addMake c a.cmd)
    | none => .next (s.addMake c a.cmd)

/-! ### ACCRD and ACCWR (R217) -/

/-- The operation of an ACCRD or ACCWR that may be performed on a core: the one at the head of its queue, or one that is
replayed after it left the queue. -/
def State.elemOp (s : State) (c : Nat) (mine : Instr → Bool) : Option (Nat × MemOp × Option MxCmd) :=
  match s.mxHead c with
  | some x =>
    match s.op x.t x.seq with
    | some o => if mine o.ins then some (x.t, o, some x) else none
    | none => none
  | none =>
    s.troupes.findSome? fun e =>
      if coreOf e.1 != c then none
      else (e.2.ops.find? fun o => mine o.ins && o.park.isNone && o.replayed &&
        !(s.core c).queue.any fun x => x.t == e.1 && x.seq == o.seq).map fun o => (e.1, o, none)

/-- The elements of a lane. -/
def MemOp.laneElems (o : MemOp) (l : Nat) : List Nat := (List.range o.elems).map fun j => (o.addr.read l).toNat + j

/-- ACCRD_EXECUTE (R217): the lanes whose elements are good are read; another parks the instruction with DATA_LOST. -/
def execAccrdExecute (c : Nat) (s : State) : Out :=
  match s.elemOp c (fun i => match i with | .accrd _ => true | _ => false) with
  | none => .next s
  | some (k, o, x) =>
    let s := match x with | some x => s.mxDrop c x | none => s
    let todo := (lanes.filter (inMask o.act)).filter fun l => !o.keyDone l
    let good := fun (l : Nat) => (s.accBad c o.blk1 (o.laneElems l)).isNone
    let o' := (todo.filter good).foldl (fun (o : MemOp) l =>
      (List.range o.elems).foldl (fun (o : MemOp) j =>
        { o with got := o.got.write (l + 64 * j) (s.accGet c o.blk1 ((o.addr.read l).toNat + j)).toNat
                 prog := o.prog.write (l + 64 * j) o.full }) o) o
    match todo.find? fun l => !good l with
    | some l => .next (s.parkOp k o' { cls := 6, addr := o.addr.read l, scratch := true })
    | none => .next (s.finishOrKeep k o')

/-- ACCWR_EXECUTE (R217): lanes in ascending order, so that the highest lane's value stays (R146). -/
def execAccwrExecute (c : Nat) (s : State) : Out :=
  match s.elemOp c (fun i => match i with | .accwr _ => true | _ => false) with
  | none => .next s
  | some (k, o, x) =>
    let s := match x with | some x => s.mxDrop c x | none => s
    let ws := (lanes.filter (inMask o.act)).flatMap fun l => (List.range o.elems).map fun j =>
      ((o.addr.read l).toNat + j, BitVec.ofNat 32 (o.dat.read (l + 64 * j)))
    let s := s.accPut c o.blk1 ws
    .next (s.finish k { o with prog := o.keys.foldl (fun (m : Tbl Nat) key => m.write key o.full) o.prog } 0)

end Sys2Proof.Machine
end

