-- ==== Sys2Proof/Machine/CopyLane.lean ====
section
/-!
DEFINITION. CPL: the per-lane copy between memory and scratchpad (R157 to R159).
-/
namespace Sys2Proof.Machine

/-- CPL (R157, R158): the addresses are checked and captured, and the copy counter rises. -/
def execCpl (f : Fields) (s : State) : Out :=
  let t := s.curT
  let act := t.active f.g s.cur.run
  let n := 4 * 2 ^ (f.mdn % 4)
  let ga := fun (l : Nat) => t.rpair f.a.toNat l
  let sa := fun (l : Nat) => t.rv f.b.toNat l
  let ts := t.rs64 f.e.toNat
  let badG := fun (l : Nat) => (ga l).toNat % n != 0
  let badS := fun (l : Nat) => (sa l).toNat % n != 0
  if act = 0 then .next (s.retire id)
  else match (lanes.filter (inMask act)).find? fun l => badG l || badS l with
    | some l => .next (s.trapWord 0x0A 1 (if badG l then ga l else (sa l).setWidth 64))
    | none =>
      if ts.toNat % 8 ≠ 0 then .next (s.trapWord 0x0A 2 ts)
      else
        let toMem := bitOf f.mdn 2
        let dest := laneTable act fun l => if toMem then ga l else (sa l).setWidth 64
        let o := { s.newOp (.cpl f) act with
          size := n, uni := [ts], target := ts, addr := laneTable act ga, cmp := laneTable act fun l => (sa l).toNat }
        let o := { o with drop := { o with addr := dest }.overwritten false }
        let s' := s.launchWith t.rs o f false (Instr.layout (.cpl f)).recs none
        .next (s'.modTr s.cur.t fun t => { t with oc := t.oc.write 0 (t.oc.read 0 + 1) })

/-- A lane of a CPL from memory to scratchpad: `b` is what memory holds. -/
def State.cplIn (s : State) (k : Nat) (o : MemOp) (l : Nat) (b : List Nat) : Acc Unit × State :=
  let co := (s.tr k).company
  let c := coreOf k
  let a := o.cmp.read l
  match s.scratchOk co c a o.size with
  | .fault f => (.fault { f with write := true }, s)
  | .wait => (.wait, s)
  | .ok _ =>
    let keep := fun (i : Nat) => (o.drop.read l).testBit i
    let s := (List.range o.size).foldl (fun (s : State) i =>
      if keep i then s else s.scratchPoke co c (a + i) [b.getD i 0]) s
    let s := match s.scratchAt co c a with
      | .ok (tc, p) => s.watchRing tc (s.accessor k o) false true p o.size
      | _ => s
    (.ok (), s)

/-- A lane of a CPL from scratchpad to memory at physical address `pa`. -/
def State.cplOut (s : State) (k : Nat) (o : MemOp) (l pa : Nat) : Acc Unit × State :=
  let co := (s.tr k).company
  let c := coreOf k
  let a := o.cmp.read l
  match s.scratchNat co c a o.size with
  | .fault f => (.fault f, s)
  | .wait => (.wait, s)
  | .ok v =>
    let s := match s.scratchAt co c a with
      | .ok (tc, p) => s.watchRing tc (s.accessor k o) true false p o.size
      | _ => s
    let s := (List.range o.size).foldl (fun (s : State) i =>
      if (o.drop.read l).testBit i then s else s.writeBytes (pa + i) [v / 256 ^ i]) s
    (.ok (), s)

/-- One lane of a CPL, whose line has been reached at physical line `p`, with the fill data it took, if any (R286): the state and the operation after it, or its fault. -/
def State.cplLane (s : State) (k : Nat) (o : MemOp) (toMem : Bool) (p : Nat) (took : Option LineData) (l : Nat) : MemOp × State × Option FaultInfo :=
  let va := o.addr.read l
  let pa := 128 * p + va.toNat % 128
  let by' := { s.accessor k o with core := none }
  let b := match took with
    | some d => (List.range o.size).map fun i => (lineByte d (pa % 128 + i)).toNat
    | none => s.peek pa o.size
  let r := if toMem then s.cplOut k o l pa else s.cplIn k o l b
  match r with
  | (.ok _, s) => (o.mark l o.full, s.watchDie (dieOf (coreOf k)) by' (!toMem) toMem va o.size, none)
  | (.fault f, s) => (o, s, some f)
  | (.wait, s) => (o, s, none)

/-- The lanes of a CPL on one line, in ascending order; the first scratchpad fault is kept. -/
def State.cplLanes (k : Nat) (toMem : Bool) (p : Nat) (took : Option LineData) : List Nat → MemOp → State → Option FaultInfo → MemOp × State × Option FaultInfo
  | [], o, s, g => (o, s, g)
  | l :: ls, o, s, g =>
    let r := s.cplLane k o toMem p took l
    State.cplLanes k toMem p took ls r.1 r.2.1 (g.orElse fun _ => r.2.2)

/-- CPL_DELIVERY (R158): the lanes on one global line are delivered; without a turnstile the copy then ends. -/
def execCplDelivery (t q line : Nat) (s : State) : Out :=
  match s.op t q with
  | none => .next s
  | some o =>
    match o.ins with
    | .cpl f =>
      let toMem := bitOf f.mdn 2
      let mine := (lanes.filter (inMask o.act)).filter fun l => !o.keyDone l && (o.addr.read l).toNat / 128 == line
      if mine.isEmpty || o.stuck.contains line then .next s
      else
        let kind := if toMem then AccKind.write else AccKind.read
        let w : Asker := ⟨t, q, 1⟩
        let va := o.addr.read (mine.headD 0)
        match s.reach (.die (dieOf (coreOf t))) (s.ctxOf t) w va kind (bitsOf f.mdn 6 5 % 3) with
        | (.wait, s) => .next s
        | (.fault g, s) => .next (s.faultAccess t o kind line g)
        | (.ok (pa, d), s) =>
            let s := if toMem then s.takeBack (pa / 128) else s.readHome (pa / 128)
            let r := State.cplLanes t toMem (pa / 128) d mine o s none
            match r.2.2 with
            | some g =>
              let o := { r.1 with stuck := r.1.stuck ++ [line] }
              .next (if o.park.isSome then r.2.1.setOp t o.settle else r.2.1.parkOp t o g)
            | none =>
              .next (if r.1.allDone && o.target = 0 then r.2.1.finish t r.1.settle 0 else r.2.1.setOp t r.1.settle)
    | _ => .next s

end Sys2Proof.Machine
end

