-- ==== Sys2Proof/Machine/Locked.lean ====
section
/-!
DEFINITION. DCAS, AMOV and MCAS: operations that lock every line they touch (R303, R304, R307 to R317).
-/
namespace Sys2Proof.Machine

/-! ### Issue (R303, R304) -/

/-- The checks of R304 on the lanes, then the operation: `two` says that the lanes name two addresses. -/
def lockedExec (i : Instr) (f : Fields) (align : Nat) (two : Bool) (dat cmp : Troupe → Nat → Nat) (s : State) : Out :=
  let t := s.curT
  let act := t.active f.g s.cur.run
  let a0 := fun (l : Nat) => t.rpair f.a.toNat l
  let a1 := fun (l : Nat) => t.rpair f.e.toNat l
  let mine := lanes.filter (inMask act)
  let off := fun (l : Nat) => (a0 l).toNat % align != 0
  let off1 := fun (l : Nat) => two && (a1 l).toNat % align != 0
  let isDcas := match i with | .dcas _ => true | _ => false
  if act = 0 then .next (s.retire id)
  else if isDcas && decide (32 < popCount act) then .next (s.trapWord 0x0A 0x40 (BitVec.ofNat 64 (popCount act)))
  else match mine.find? fun l => off l || off1 l with
    | some l => .next (s.trapWord 0x0A 1 (if off l then a0 l else a1 l))
    | none => match mine.find? fun l => two && a0 l == a1 l with
      | some l => .next (s.trapWord 0x0A 0x41 (a0 l))
      | none =>
        let second := if two then laneTable act a1 else []
        let o := { s.newOp i act with
          size := 1
          addr := second.foldl (fun (m : Tbl W64) x => m.write (x.1 + 64) x.2) (laneTable act a0)
          dat := laneTable act (dat t)
          cmp := laneTable act (cmp t)
          rel := ordRel f
          acq := ordAcq f }
        .next (s.launchWith t.rs o f true i.layout.recs none)

/-- DCAS (R311): the data operand is the quad of expected values, the other that of new values. -/
def execDcas (f : Fields) (s : State) : Out :=
  lockedExec (.dcas f) f 8 true (fun t l => (t.rquad f.b.toNat l).toNat) (fun t l => (t.rquad (f.xn % 256) l).toNat) s
/-- AMOV (R312): the data operand is the refill value. -/
def execAmov (f : Fields) (s : State) : Out :=
  lockedExec (.amov f) f 8 true (fun t l => (t.rpair f.b.toNat l).toNat) (fun _ _ => 0) s
/-- MCAS (R314). -/
def execMcas (f : Fields) (s : State) : Out := lockedExec (.mcas f) f 16 false (fun _ _ => 0) (fun _ _ => 0) s

/-! ### Phase 1 (R308, R313) -/

/-- A word of an attempt: its address and whether it may be written. -/
abbrev LockWord := W64 × Bool

/-- COUNT of a block. -/
def blkCount (b : List Nat) : Nat := fieldOf b 0 1
/-- The address, expected value and new value of an entry. -/
def blkAddr (b : List Nat) (i : Nat) : Nat := fieldOf b (0x10 + 24 * i) 8
def blkExpect (b : List Nat) (i : Nat) : Nat := fieldOf b (0x18 + 24 * i) 8
def blkNew (b : List Nat) (i : Nat) : Nat := fieldOf b (0x20 + 24 * i) 8
/-- An entry that is compared and not written. -/
def blkKeeps (b : List Nat) (i : Nat) : Bool := bitOf (fieldOf b 1 1) i

/-- The header of a block is malformed (R313). -/
def blkHeadBad (b : List Nat) : Bool :=
  let n := blkCount b
  n == 0 || 8 < n || fieldOf b 1 1 / 2 ^ n != 0 || fieldOf b 2 14 != 0

/-- An earlier store or atomic of the troupe on the lines of a block is still to be performed (R148, R314). -/
def State.blockBehind (s : State) (k : Nat) (o : MemOp) (va : W64) (n : Nat) : Bool :=
  (nubNat ((List.range n).map fun i => (va + BitVec.ofNat 64 i).toNat / 128)).any fun line =>
    match s.lineOfVa k line with
    | some p => (s.earlier k o).any fun e => s.conflict k o e line p != .none
    | none => false

/-- Bytes of a block read as loads of the lane (R314); the read is watched when the whole block has been reached. -/
def State.readBlock (s : State) (k : Nat) (o : MemOp) (lane : Nat) (va : W64) (n : Nat) : Acc (List Nat) × State :=
  if s.blockBehind k o va n then (.wait, s)
  else
    let a := Agent.core (coreOf k)
    match State.spanReach a (s.ctxOf k) ⟨k, o.seq, lane + 1⟩ .read 0 (n / 128 + 2) va n s with
    | (.fault f, s) => (.fault f, s)
    | (.wait, s) => (.wait, s)
    | (.ok ps, s) => let r := State.spanPeek a ps s; (.ok r.1, r.2)

/-- The parameter block of an MCAS lane: a malformed header is a FORMAT fault (R313). -/
def State.mcasBlock (s : State) (k : Nat) (o : MemOp) (lane : Nat) : Acc (List Nat) × State :=
  let va := o.addr.read lane
  let watch := fun (s : State) (n : Nat) => s.watchDie (dieOf (coreOf k)) (s.accessor k o) true false va n
  match s.readBlock k o lane va 16 with
  | (.ok h, s) =>
    if blkHeadBad h then (.fault { cls := 7, addr := va }, watch s 16)
    else match s.readBlock k o lane (va + 16) (24 * blkCount h) with
      | (.ok r, s) =>
        let s := watch s (16 + 24 * blkCount h)
        if (List.range (blkCount h)).any fun i => blkAddr (h ++ r) i % 8 != 0 then (.fault { cls := 7, addr := va }, s)
        else (.ok (h ++ r), s)
      | r => r
  | r => r

/-- What phase 1 finds out about a word: its virtual line, its physical address and its translation. -/
structure LockSite where
  line : Nat
  pa : Nat
  entry : TlbEntry
  deriving DecidableEq, Repr, Inhabited

/-- Translates a word, for write, or for read alone where it is only compared; checks that its line's home device is this
package, and makes its granule resident (R307, R308). -/
def State.lockWord (s : State) (k : Nat) (w : LockWord) : Acc LockSite × State :=
  let kind := if w.2 then AccKind.both else AccKind.read
  match s.access (.core (coreOf k)) (s.ctxOf k) w.1 kind with
  | (.fault f, s) => (.fault f, s)
  | (.wait, s) => (.wait, s)
  | (.ok (e, pa), s) =>
    if e.mt ≠ 0 then (.fault { cls := 4, detail := 1, addr := w.1, pa := pa, cgen := e.cgen, fgen := e.fgen, write := w.2 }, s)
    else if s.staleOf e ≠ 0 then
      (.fault { cls := 3, detail := s.staleOf e, addr := w.1, pa := pa, cgen := e.cgen, fgen := e.fgen, write := w.2 }, s)
    else if !s.held (pa / 128) && !s.granulePresent pa then
      (.fault { cls := 2, detail := kind.bits, addr := w.1, pa := pa, granule := pa / 4096 + 1, graph := e.graph,
                cgen := e.cgen, fgen := e.fgen, write := w.2 }, s)
    else (.ok { line := w.1.toNat / 128, pa := pa, entry := e }, s)

/-- Every word of an attempt. -/
def State.lockWords (s : State) (k : Nat) : List LockWord → Acc (List LockSite) × State
  | [] => (.ok [], s)
  | w :: ws =>
    match s.lockWord k w with
    | (.fault f, s) => (.fault f, s)
    | (.wait, s) => (.wait, s)
    | (.ok x, s) => match State.lockWords s k ws with
      | (.ok xs, s) => (.ok (x :: xs), s)
      | r => r

/-- The words of a lane, and its block where it has one. -/
def State.lockPlan (s : State) (k : Nat) (o : MemOp) (lane : Nat) : Acc (List LockWord × List Nat) × State :=
  match o.ins with
  | .mcas _ =>
    match s.mcasBlock k o lane with
    | (.ok b, s) => (.ok ((List.range (blkCount b)).map fun i => (BitVec.ofNat 64 (blkAddr b i), !blkKeeps b i), b), s)
    | (.fault f, s) => (.fault f, s)
    | (.wait, s) => (.wait, s)
  | _ => (.ok ([(o.addr.read lane, true), (o.addr.read (lane + 64), true)], []), s)

/-- The key by which a lane holds and waits for locks. -/
def lockKey (k lane : Nat) : Nat := 64 * k + lane + 1

/-- Changes a lane's locking state. -/
def State.modLane (s : State) (k : Nat) (o : MemOp) (lane : Nat) (g : LockLane → LockLane) : State :=
  s.setOp k { o with locks := o.locks.write lane (g (o.locks.read lane)) }

/-- Two words of a list are one physical word. -/
def twiceNamed (l : List LockSite) : Bool := nubNat (l.map (·.pa)) != l.map (·.pa)

/-- The asker of a lane's locks; its accesses are in flight from phase 1 to the unlock or the drop (R326, R342). -/
def lockAsker (k q lane : Nat) : Asker := ⟨k, q, 256 + lane⟩

/-- The accesses of a lane are performed or dropped: its locks and its requests go (R309, R315). -/
def State.lockQuit (s : State) (k q lane : Nat) : State :=
  let s := s.dropLocks fun x => x + 1 == lockKey k lane
  { s with flights := s.flights.filter fun f => f.who != lockAsker k q lane }

/-- Phase 1 of a lane (R308): then its lines are known, in ascending order, and nothing is locked yet. -/
def State.lockStart (s : State) (k : Nat) (o : MemOp) (lane : Nat) : State :=
  let fail := fun (s : State) (f : FaultInfo) =>
    let o := { o with stuck := o.stuck ++ [lane] }
    if o.park.isSome then s.setOp k o.settle else s.parkOp k o f
  match s.lockPlan k o lane with
  | (.wait, s) => s
  | (.fault f, s) => fail s f
  | (.ok (ws, blk), s) =>
    match s.lockWords k ws with
    | (.wait, s) => s
    | (.fault f, s) => fail s f
    | (.ok sites, s) =>
      let busy := (ws.zip sites).any fun x =>
        (s.earlier k o).any fun e => s.conflict k o e (x.1.1.toNat / 128) (x.2.pa / 128) != .none
      if !blk.isEmpty && twiceNamed sites then fail s { cls := 7, addr := o.addr.read lane }
      else if busy then s
      else
        let ls := sortBy id (nubNat (sites.map fun x => x.pa / 128))
        let gen := fun (l : Nat) => match sites.find? fun x => x.pa / 128 == l with | some x => (x.entry.frame, x.entry.fgen) | none => (0, 0)
        let s := sites.foldl (fun (s : State) x => s.putFlight (lockAsker k o.seq lane) x.line x.entry) s
        s.modLane k o lane fun y =>
          { y with phase := .locking, lines := ls, granted := 0, gens := ls.map gen, cgen := (sites.map (·.entry.cgen)).headD 0,
                   words := sites.map (·.pa), blk := blk }

/-! ### Phases 2 to 5 (R308 to R314) -/

/-- The line a lane asks for next. -/
def LockLane.next (y : LockLane) : Option Nat := y.lines[y.granted]?

/-- A lane's request reaches the home of its next line: the token is recalled, and the lane waits in arrival order (R309). -/
def State.lockAsk (s : State) (k : Nat) (o : MemOp) (lane : Nat) : State :=
  let y := o.locks.read lane
  match y.next with
  | none => s
  | some l =>
    if (s.sline l).lockq.contains (lockKey k lane) then s
    else
      let s := (s.takeBack l).modSline l fun x => { x with lockq := x.lockq ++ [lockKey k lane] }
      s.modLane k o lane fun y => { y with since := s.clock }

/-- The lanes of an operation that locks, which may move: `none` when the event has nothing to do. -/
def State.lockLane (s : State) (k q lane : Nat) : Option MemOp :=
  match s.op k q with
  | some o =>
    if isLocked o.ins && inMask o.act lane && !o.keyDone lane && !o.stuck.contains lane && s.mayPerform k o then some o else none
  | none => none

/-- LOCK_REQUEST (R308, R309): phase 1, or the next request of phase 2. -/
def execLockRequest (t q lane : Nat) (s : State) : Out :=
  match s.lockLane t q lane with
  | none => .next s
  | some o =>
    match (o.locks.read lane).phase with
    | .start =>
      -- a lane of a company that is being saved begins no attempt (R316)
      if (s.co (s.tr t).company).st = .saving then .next s else
      let s := s.lockStart t o lane
      match s.op t q with
      | some o => .next (if (o.locks.read lane).phase = .locking then s.lockAsk t o lane else s)
      | none => .next s
    | .locking => .next (s.lockAsk t o lane)
    | _ => .next s

/-- A lane ends: its result is held until the instruction completes (R315). -/
def State.lockEnd (s : State) (k : Nat) (o : MemOp) (lane result : Nat) (ps pb : Bool) : State :=
  let s := s.lockQuit k o.seq lane
  let y := { (o.locks.read lane) with phase := .ended, result := result, ps := ps, pb := pb, lines := [], gens := [], blk := [], words := [] }
  s.finishOrKeep k ({ o with locks := o.locks.write lane y }.mark lane o.full)

/-- A lane drops its locks and its attempt ends: it backs off, or after 16 retries it ends with BUSY (R309). -/
def State.lockDrop (s : State) (k : Nat) (o : MemOp) (lane : Nat) : State :=
  let s := s.lockQuit k o.seq lane
  let y := o.locks.read lane
  let r := y.retries + 1
  if 17 ≤ r then
    s.lockEnd k o lane (match o.ins with | .mcas _ => 0x100 | _ => 0) false (match o.ins with | .mcas _ => false | _ => true)
  else
    s.modLane k o lane fun y =>
      { y with phase := .backoff, retries := r, lines := [], gens := [], words := [], blk := [], granted := 0,
               wake := s.clock + 32 * 2 ^ min r 6 + 8 * (lane % 16) }

/-- The words of a lane that are written, with their values, and the lane's result: one moment (R311 to R314). -/
def lockEffect (i : Instr) (dat cmp : Nat) (blk : List Nat) (v : List Nat) : List (Nat × Nat) × Nat × Bool :=
  let o0 := v.getD 0 0
  let o1 := v.getD 1 0
  match i with
  | .dcas _ =>
    let hit := o0 == dat % 2 ^ 64 && o1 == dat / 2 ^ 64
    (if hit then [(0, cmp % 2 ^ 64), (1, cmp / 2 ^ 64)] else [], o0 + 2 ^ 64 * o1, hit)
  | .amov _ => ([(1, o0), (0, dat)], o1, false)
  | _ =>
    let n := blkCount blk
    let mm := (List.range n).foldl (fun (m : Nat) i => if v.getD i 0 = blkExpect blk i then m else m + 2 ^ i) 0
    (if mm = 0 then ((List.range n).filter fun i => !blkKeeps blk i).map fun i => (i, blkNew blk i) else [], mm, false)

/-- The virtual address of word `i` of a lane. -/
def MemOp.wordVa (o : MemOp) (lane i : Nat) : W64 :=
  match o.ins with
  | .mcas _ => BitVec.ofNat 64 (blkAddr (o.locks.read lane).blk i)
  | _ => o.addr.read (lane + 64 * i)

/-- Phases 3 to 5 (R308): every line is locked; the words are read, compared and written at one moment, and unlocked.
A lost word drops the locks and faults (R315). -/
def State.lockAct (s : State) (k : Nat) (o : MemOp) (lane : Nat) : State :=
  let y := o.locks.read lane
  let idx := List.range y.words.length
  match idx.find? fun i => s.lost (y.words.getD i 0 / 128) with
  | some i =>
    let s := s.lockQuit k o.seq lane
    let va := o.wordVa lane i
    let o := { o with locks := o.locks.write lane { y with phase := .start, lines := [], gens := [], words := [], blk := [], granted := 0 }
                      stuck := o.stuck ++ [lane] }
    let gen := ((y.lines.zip y.gens).find? fun x => x.1 == y.words.getD i 0 / 128).map (·.2.2)
    let g : FaultInfo := { cls := 6, addr := va, pa := y.words.getD i 0, fgen := gen.getD 0, cgen := y.cgen, write := true }
    if o.park.isSome then s.setOp k o.settle else s.parkOp k o g
  | none =>
    let v := y.words.map fun pa => s.peekNat pa 8
    let r := lockEffect o.ins (o.dat.read lane) (o.cmp.read lane) y.blk v
    let s := r.1.foldl (fun (s : State) w => s.writeBytes (y.words.getD w.1 0) (leBytes 8 w.2)) s
    let s := idx.foldl (fun (s : State) i =>
      (s.l1Forget (coreOf k) (y.words.getD i 0 / 128)).watchDie (dieOf (coreOf k)) (s.accessor k o) true
        (r.1.any fun w => w.1 == i) (o.wordVa lane i) 8) s
    s.lockEnd k o lane r.2.1 r.2.2 false

/-- The line of a request is no longer resident, or its generations are stale (R309). -/
def State.lockBroken (s : State) (k : Nat) (y : LockLane) (l : Nat) : Bool :=
  let g := y.gens.getD y.granted (0, 0)
  (!s.held l && !s.granulePresent (128 * l)) || (g.1 != 0 && (s.frame (g.1 - 1)).fgen != g.2)
    || (s.ctx (s.ctxOf k)).cgen != y.cgen

/-- The lane is a waiter whose request has reached the home of its next line. -/
def MemOp.asked (o : MemOp) (s : State) (k lane : Nat) : Option Nat :=
  let y := o.locks.read lane
  match y.next with
  | some l => if y.phase = .locking ∧ (s.sline l).lockq.contains (lockKey k lane) then some l else none
  | none => none

/-- Some word of a lane on a line may be written. -/
def LockLane.mayWrite (y : LockLane) (l : Nat) : Bool :=
  (List.range y.words.length).any fun i => y.words.getD i 0 / 128 == l && (y.blk.isEmpty || !blkKeeps y.blk i)

/-- LOCK_GRANT (R308, R309): the first waiter of an unlocked line, once its fills are over and this package may write it;
the last grant acts. -/
def execLockGrant (t q lane : Nat) (s : State) : Out :=
  match s.lockLane t q lane with
  | none => .next s
  | some o =>
    match o.asked s t lane with
    | none => .next s
    | some l =>
      let y := o.locks.read lane
      if s.lockBroken t y l then .next (s.lockDrop t o lane)
      else if (s.sline l).lock ≠ 0 || (s.sline l).lockq.head? != some (lockKey t lane) || (s.missOf l).isSome
          || s.dirBusy (128 * l) || !(s.held l || s.hasRoom l) then .next s
      else
        let e : TlbEntry := { (default : TlbEntry) with mt := 0 }
        if y.mayWrite l && s.needsOwn e (128 * l) && s.cache.pool.read l != 2 then
          let s := s.refill l
          .next (if s.cache.pool.read l = 3 then s else { s with cache := { s.cache with pool := s.cache.pool.write l 3 } })
        else
          let s := (if y.mayWrite l then s.unshare (128 * l) else s).takeBack l
          let d := s.current l
          let s := if (s.sline l).present then s else s.touchFrame l
          let s := s.modSline l fun x => { x with present := true, data := d, lock := lockKey t lane, lockq := x.lockq.drop 1 }
          let s := (s.useLine l).fit l
          let s := s.modLane t o lane fun y => { y with granted := y.granted + 1 }
          match s.op t q with
          | some o => .next (if (o.locks.read lane).granted = y.lines.length then s.lockAct t o lane else s.lockAsk t o lane)
          | none => .next s

/-- LOCK_TIMEOUT (R309): a request has waited more than 4,096 cycles at its home. -/
def execLockTimeout (t q lane : Nat) (s : State) : Out :=
  match s.lockLane t q lane with
  | none => .next s
  | some o =>
    match o.asked s t lane with
    | none => .next s
    | some _ => .next (if (o.locks.read lane).since + 4096 < s.clock then s.lockDrop t o lane else s)

/-- LOCK_BACKOFF_EXPIRY (R309): a new attempt begins at phase 1. -/
def execLockBackoffExpiry (t q lane : Nat) (s : State) : Out :=
  match s.lockLane t q lane with
  | none => .next s
  | some o =>
    let y := o.locks.read lane
    .next (if y.phase = .backoff ∧ y.wake ≤ s.clock then s.modLane t o lane fun y => { y with phase := .start } else s)

end Sys2Proof.Machine
end

