-- ==== Sys2Proof/Machine/Queue.lean ====
section
/-!
DEFINITION. Scratchpad queues: QPUSH and QPOP (R192 to R194).
-/
namespace Sys2Proof.Machine

/-- A queue header (R192). -/
structure QHead where
  pushed : Nat
  popped : Nat
  data : Nat
  depth : Nat
  eregs : Nat
  deriving DecidableEq, Repr, Inhabited

/-- The header's fields; `none` where a value lies outside R192's table. -/
def qHeadOf (b : Nat) (k : Nat) : Option QHead :=
  let h : QHead := {
    pushed := b % 2 ^ 32, popped := b / 2 ^ 32 % 2 ^ 32, data := b / 2 ^ 64 % 2 ^ 32, depth := b / 2 ^ 96 % 65536,
    eregs := b / 2 ^ 112 % 256 }
  if h.data % 256 = 0 && 1 ≤ h.depth && h.depth ≤ 4096 && h.eregs == k && b / 2 ^ 120 == 0 then some h else none

/-- The header address of a queue operation. -/
def MemOp.qAddr (o : MemOp) : Nat := (o.uni.headD 0).toNat % 2 ^ 32

/-- Reads a header by its local address: a window address is refused, a malformed header is a FORMAT fault (R192). -/
def State.qHead (s : State) (k : Nat) (o : MemOp) (regs : Nat) : Acc QHead :=
  let a := o.qAddr
  let va := BitVec.ofNat 64 a
  if bitOf a 23 then .fault { cls := 4, detail := 5, addr := va, scratch := true }
  else match s.scratchNat (s.tr k).company (coreOf k) a 64 with
    | .wait => .wait
    | .fault f => .fault f
    | .ok b => match qHeadOf b regs with
      | some h => .ok h
      | none => .fault { cls := 7, addr := va, scratch := true }

/-- The accesses of a push or a pop to its header: the read of its 64 bytes, and the write of its count (R256). -/
def State.watchHead (s : State) (k : Nat) (o : MemOp) (count : Option Nat) : State :=
  let c := coreOf k
  let at' := (s.co (s.tr k).company).base c + o.qAddr
  let s := s.watchRing c (s.accessor k o) true false at' 64
  match count with
  | some i => s.watchRing c (s.accessor k o) false true (at' + i) 4
  | none => s

/-- The address of word `j` of lane `l` in the slot of entry `e` (R192). -/
def QHead.word (h : QHead) (e j l : Nat) : Nat := h.data + 256 * h.eregs * (e % h.depth) + 256 * j + 4 * l

/-- The queue unit takes the pushes, and the pops, of one header in the order it accepts them (R194). -/
def State.qTurn (s : State) (k : Nat) (o : MemOp) : Bool :=
  let push := fun (i : Instr) => match i with | .qpush _ => some true | .qpop _ => some false | _ => none
  o.park.isNone && s.mayPerform k o && s.scratchTurn k o &&
    s.troupes.all fun e => coreOf e.1 != coreOf k || e.2.company != (s.tr k).company ||
      e.2.ops.all fun x => push x.ins != push o.ins || x.qAddr != o.qAddr || x.park.isSome || o.stamp ≤ x.stamp

/-- QPUSH at issue (R193): the sources of the run's lanes are captured. -/
def execQpush (f : Fields) (s : State) : Out :=
  let t := s.curT
  if !t.enabled f.g then .next (s.retire id)
  else
    let a := tsAddr true (t.rs64 f.a.toNat)
    let k := f.mdn % 4 + 1
    if a.toNat % 64 ≠ 0 then .next (s.trapWord 0x0A 2 a)
    else
      let o := { s.newOp (.qpush f) s.cur.run with
        uni := [t.rs64 f.a.toNat], single := true, size := 1, rel := true
        dat := elemTable s.cur.run k fun l j => (t.rv (f.b.toNat + j) l).toNat }
      .next (s.launchWith t.rs o f false (Instr.layout (.qpush f)).recs none)

/-- QPOP at issue (R194). -/
def execQpop (f : Fields) (s : State) : Out :=
  let t := s.curT
  let act := t.active f.g s.cur.run
  if act = 0 then .next (s.retire id)
  else
    let a := tsAddr true (t.rs64 f.a.toNat)
    if a.toNat % 64 ≠ 0 then .next (s.trapWord 0x0A 2 a)
    else
      let o := { s.newOp (.qpop f) act with
        uni := [t.rs64 f.a.toNat], size := 4, elems := f.mdn % 4 + 1, acq := true }
      .next (s.launchWith t.rs o f true 1 none)

/-- The first fault among a list of scratchpad words that are read or written. -/
def State.wordsFault (s : State) (k : Nat) (write : Bool) (l : List Nat) : Option FaultInfo :=
  let co := (s.tr k).company
  let c := coreOf k
  l.findSome? fun a =>
    if write then (match s.scratchOk co c a 4 with | .fault f => some { f with write := true } | _ => none)
    else (match s.scratchNat co c a 4 with | .fault f => some f | _ => none)

/-- QPUSH_ENTRY_WRITE (R193): once the release is over and a slot is free, the entry is written and then PUSHED. -/
def execQpushEntryWrite (k q : Nat) (s : State) : Out :=
  match s.op k q with
  | none => .next s
  | some o =>
    match o.ins with
    | .qpush f =>
      let n := f.mdn % 4 + 1
      let co := (s.tr k).company
      let c := coreOf k
      if !s.qTurn k o then .next s
      else match s.qHead k o n with
        | .wait => .next s
        | .fault g => .next (s.parkOp k o g)
        | .ok h =>
          if (h.pushed + 2 ^ 32 - h.popped) % 2 ^ 32 = h.depth then .next s
          else
            let words := (List.range n).flatMap fun j => lanes.map fun l => (l, j)
            match s.wordsFault k true (words.map fun x => h.word h.pushed x.2 x.1) with
            | some g => .next (s.parkOp k o g)
            | none =>
              let s := words.foldl (fun (s : State) x =>
                s.scratchPoke co c (h.word h.pushed x.2 x.1) (leBytes 4 (o.dat.read (x.1 + 64 * x.2)))) s
              let s := (s.scratchPoke co c o.qAddr (leBytes 4 (h.pushed + 1))).watchHead k o (some 0)
              let s := s.watchRing c (s.accessor k o) false true ((s.co co).base c + h.word h.pushed 0 0) (256 * n)
              .next (s.finish k { o with prog := Tbl.write [] 0 o.full } 0)
    | _ => .next s

/-- QPOP_ENTRY_READ (R194): an entry is taken whole; an empty queue fails under .NB and else waits. -/
def execQpopEntryRead (k q : Nat) (s : State) : Out :=
  match s.op k q with
  | none => .next s
  | some o =>
    match o.ins with
    | .qpop f =>
      let n := f.mdn % 4 + 1
      let co := (s.tr k).company
      let c := coreOf k
      if !s.qTurn k o then .next s
      else match s.qHead k o n with
        | .wait => .next s
        | .fault g => .next (s.parkOp k o g)
        | .ok h =>
          if h.pushed = h.popped then
            .next (if bitOf f.mdn 2 then (s.watchHead k o none).finish k { o with acq := false, readYet := false } 0 else s)
          else
            let words := (lanes.filter (inMask o.act)).flatMap fun l => (List.range n).map fun j => (l, j)
            match s.wordsFault k false (words.map fun x => h.word h.popped x.2 x.1) with
            | some g => .next (s.parkOp k o g)
            | none =>
              let val := fun (x : Nat × Nat) => match s.scratchNat co c (h.word h.popped x.2 x.1) 4 with | .ok v => v | _ => 0
              let got := words.foldl (fun (m : Tbl Nat) x => m.write (x.1 + 64 * x.2) (val x)) []
              let s := (s.scratchPoke co c ((o.qAddr + 4) % 2 ^ 32) (leBytes 4 (h.popped + 1))).watchHead k o (some 4)
              let s := s.watchRing c (s.accessor k o) true false ((s.co co).base c + h.word h.popped 0 0) (256 * n)
              .next (s.finish k { o with got := got, readYet := true } 0)
    | _ => .next s

end Sys2Proof.Machine
end

