-- ==== Sys2Proof/Machine/Geometry.lean ====
section
/-!
DEFINITION. What the engines of a ring and a core share: FP32 arithmetic, the records of a cluster graph and their checks
(R222 to R228, R233, R234), and the boxes and triangles of ray tests (R239).
-/
namespace Sys2Proof.Machine

/-! ### FP32 arithmetic under RN -/

def fVal (c : Nat) : FVal := fp32.decode c
def fAdd (a b : Nat) : Nat := fp32.addR 0 0 (fVal a) (fVal b)
def fSub (a b : Nat) : Nat := fp32.addR 0 0 (fVal a) (fVal b).neg
def fMul (a b : Nat) : Nat := fp32.mulR 0 0 (fVal a) (fVal b)
/-- a * b + c, rounded once. -/
def fFma (a b c : Nat) : Nat := fp32.fmaR 0 0 (fVal a) (fVal b) (fVal c)
def fDiv (a b : Nat) : Nat := fp32.divR 0 (fVal a) (fVal b)
def fSqrt (a : Nat) : Nat := fp32.sqrtR 0 (fVal a)
def fNeg (a : Nat) : Nat := fp32.round 0 0 false (fVal a).neg
def fMin (a b : Nat) : Nat := fp32.minmax false false a b
def fMax (a b : Nat) : Nat := fp32.minmax true false a b
/-- An integer as FP32, rounded by RN. -/
def fInt (i : Int) : Nat := fp32.round 0 0 false (.fin (decide (i < 0)) i.natAbs 0)
def fLt (a b : Nat) : Bool := fp32.compare 2 false a b
def fLe (a b : Nat) : Bool := fp32.compare 3 false a b
def fIsNan (a : Nat) : Bool := (fVal a).isNan
/-- The value is finite. -/
def fFinite (a : Nat) : Bool := !(fVal a).special
def fInf : Nat := 0x7F800000
def fNan : Nat := fp32.nan

/-- A point or direction of three FP32 codes. -/
structure Vec3 where
  x : Nat
  y : Nat
  z : Nat
  deriving DecidableEq, Repr, Inhabited

def Vec3.sub (a b : Vec3) : Vec3 := ⟨fSub a.x b.x, fSub a.y b.y, fSub a.z b.z⟩
/-- R239's cross product. -/
def Vec3.cross (a b : Vec3) : Vec3 :=
  ⟨fFma a.y b.z (fNeg (fMul a.z b.y)), fFma a.z b.x (fNeg (fMul a.x b.z)), fFma a.x b.y (fNeg (fMul a.y b.x))⟩
/-- R239's dot product. -/
def Vec3.dot (a b : Vec3) : Nat := fFma a.z b.z (fFma a.y b.y (fMul a.x b.x))
/-- The three codes at offset `o` of a structure. -/
def vecAt (b : List Nat) (o : Nat) : Vec3 := ⟨fieldOf b o 4, fieldOf b (o + 4) 4, fieldOf b (o + 8) 4⟩
def Vec3.finite (a : Vec3) : Bool := fFinite a.x && fFinite a.y && fFinite a.z

/-! ### Reads that may fault or wait -/

/-- Goes on with what a read gave. -/
def andThen {α β : Type} (r : Acc α × State) (f : α → State → Acc β × State) : Acc β × State :=
  match r.1 with
  | .ok x => f x r.2
  | .fault g => (.fault g, r.2)
  | .wait => (.wait, r.2)

/-- A structure that breaks its table (R228, R331). -/
def malformed {α : Type} (va : W64) : Acc α := .fault { cls := 7, addr := va }

/-- An address `n` bytes above another. -/
def offAddr (a : W64) (n : Nat) : W64 := a + BitVec.ofNat 64 n

/-- An ordinary read of an engine for an operation (R237, R240). -/
def State.geoRead (s : State) (k : Nat) (o : MemOp) (va : W64) (n : Nat) : Acc (List Nat) × State :=
  State.spanRead (.core (coreOf k)) (s.accessor k o) ⟨k, o.seq, 0⟩ va n s

/-- The physical lines of a span, each translated and its rights checked. -/
def State.pageLines (a : Agent) (ctx : Nat) : Nat → W64 → Nat → State → Acc (List Nat) × State
  | 0, _, _, s => (.ok [], s)
  | _, _, 0, s => (.ok [], s)
  | fuel + 1, va, n, s =>
    let m := min n (128 - va.toNat % 128)
    andThen (s.access a ctx va .read) fun x s =>
      andThen (State.pageLines a ctx fuel (offAddr va m) (n - m) s) fun l s => (.ok (x.2 / 128 :: l), s)

/-- Reads bytes of the cut buffer at `buf`: from the ring's cut slot where one holds them, else from memory (R235). -/
def State.cutRead (s : State) (k : Nat) (o : MemOp) (buf : W64) (ofs n : Nat) : Acc (List Nat) × State :=
  let va := offAddr buf ofs
  let c := coreOf k
  match (s.ring (ringOf c)).cuts.find? fun x => x.ctx == s.ctxOf k && x.addr == buf && decide (ofs + n ≤ x.cut.length) with
  | none => s.geoRead k o va n
  | some x =>
    andThen (State.pageLines (.core c) (s.ctxOf k) (n / 128 + 2) va n s) fun ls s =>
      if ls.all x.lines.contains then
        (.ok ((x.cut.drop ofs).take n), if n = 0 then s else s.watchDie (dieOf c) (s.accessor k o) true false va n)
      else s.geoRead k o va n

/-- Writes of an engine that count as stores of the troupe: none is made unless each can be (R237). -/
def State.geoWrites (s : State) (k : Nat) (o : MemOp) (ws : List (W64 × List Nat)) : Acc Unit × State :=
  let a := Agent.core (coreOf k)
  let by' := s.accessor k o
  let w : Asker := ⟨k, o.seq, 0⟩
  let can := ws.foldl (fun (r : Acc Unit × State) x =>
    andThen r fun _ s => andThen (State.spanReach a by'.ctx w .write 0 (x.2.length / 128 + 2) x.1 x.2.length s) fun _ s => (.ok (), s)) (.ok (), s)
  ws.foldl (fun (r : Acc Unit × State) x => andThen r fun _ s => State.spanWrite a by' w x.1 x.2 s) can

/-- The order of the troupe lets an engine begin: earlier stores are performed (R148, R290 to R293). -/
def State.geoTurn (s : State) (k : Nat) (o : MemOp) : Bool :=
  o.park.isNone && s.mayPerform k o &&
    (s.earlier k o).all fun e => e.performed || !writesMem e.ins || (e.park.isSome && e.level < o.level)

/-! ### The graph (R222 to R224) -/

/-- A graph header. -/
structure Graph where
  nodeBase : W64
  kidBase : W64
  ctBase : W64
  clBase : W64
  nodes : Nat
  clusters : Nat
  kids : Nat
  levels : Nat
  /-- The address of the header it was read from. -/
  hdr : W64 := 0
  deriving DecidableEq, Repr, Inhabited

/-- The header's fields; `none` where R222 is broken. -/
def graphOf (b : List Nat) : Option Graph :=
  let w := fun (o n : Nat) => fieldOf b o n
  let g : Graph := {
    nodeBase := BitVec.ofNat 64 (w 0 8), kidBase := BitVec.ofNat 64 (w 8 8), ctBase := BitVec.ofNat 64 (w 16 8),
    clBase := BitVec.ofNat 64 (w 24 8), nodes := w 32 4, clusters := w 36 4, kids := w 40 4, levels := w 44 1 }
  if w 0 8 % 64 = 0 && w 8 8 % 4 = 0 && w 16 8 % 8 = 0 && w 24 8 % 16 = 0 && 1 ≤ g.nodes && g.nodes ≤ 2 ^ 24
      && 1 ≤ g.clusters && g.clusters ≤ 2 ^ 24 && 1 ≤ g.levels && g.levels ≤ 24 && w 45 19 == 0 then some g
  else none

/-- A node record. -/
structure GNode where
  centre : Vec3
  radius : Nat
  pcentre : Vec3
  pradius : Nat
  err : Nat
  perr : Nat
  cfirst : Nat
  ccount : Nat
  kfirst : Nat
  kcount : Nat
  level : Nat
  deriving DecidableEq, Repr, Inhabited

/-- Finite and at least 0. -/
def fSize (c : Nat) : Bool := fFinite c && fLe 0 c

/-- The fields of node record `n`; `none` where R223 is broken by what the record itself holds. -/
def nodeOf (g : Graph) (n : Nat) (b : List Nat) : Option GNode :=
  let w := fun (o m : Nat) => fieldOf b o m
  let x : GNode := {
    centre := vecAt b 0, radius := w 12 4, pcentre := vecAt b 16, pradius := w 28 4, err := w 32 4, perr := w 36 4,
    cfirst := w 40 3, ccount := w 43 1, kfirst := w 44 4, kcount := w 48 1, level := w 49 1 }
  if fSize x.radius && fSize x.pradius && fSize x.err && fLe x.err x.perr && 1 ≤ x.ccount
      && x.cfirst + x.ccount ≤ g.clusters && x.kfirst + x.kcount ≤ g.kids && x.level < g.levels
      && (n != 0 || (x.level + 1 == g.levels && x.cfirst == 0)) && w 50 14 == 0 then some x
  else none

/-- What an engine notes of a node record that it has read. -/
def GNode.note (x : GNode) : Nat := x.level + 32 * (x.ccount + 256 * x.cfirst)

/-- Records of nodes `m` and `n`, `m` the lesser, keep R223 together: LEVEL does not increase, and as many clusters lie between
their ranges as the nodes between them can hold. -/
def notesAgree (m a n b : Nat) : Bool :=
  let gap := b / 8192 - (a / 8192 + a / 32 % 256)
  decide (b % 32 ≤ a % 32) && decide (a / 8192 + a / 32 % 256 ≤ b / 8192) && decide (n - m - 1 ≤ gap) && decide (gap ≤ 255 * (n - m - 1))

/-- A record of node `n` keeps R223 beside the records read before it. -/
def nodeAgrees (notes : Tbl Nat) (n : Nat) (x : GNode) : Bool :=
  notes.all fun e => e.1 == n || (if e.1 < n then notesAgree e.1 e.2 n x.note else notesAgree n x.note e.1 e.2)

/-- The address of node record `n`. -/
def Graph.nodeAddr (g : Graph) (n : Nat) : W64 := offAddr g.nodeBase (64 * n)

/-- Reads the graph header at an address. -/
def State.readGraph (s : State) (k : Nat) (o : MemOp) (va : W64) : Acc Graph × State :=
  andThen (s.geoRead k o va 64) fun b s => match graphOf b with
    | some g => (.ok { g with hdr := va }, s)
    | none => (malformed va, s)

/-- Reads node record `n`. -/
def State.readNode (s : State) (k : Nat) (o : MemOp) (g : Graph) (n : Nat) : Acc GNode × State :=
  andThen (s.geoRead k o (g.nodeAddr n) 64) fun b s => match nodeOf g n b with
    | some x => (.ok x, s)
    | none => (malformed (g.nodeAddr n), s)

/-- The node that holds a cluster: cluster order follows node order, so a bisection finds it; the records it reads are checked
beside each other and beside `notes` (R223, R228). -/
def findNode (g : Graph) (read : Nat → State → Acc GNode × State) (bad : W64) (c : Nat) : Nat → Nat → Nat → Tbl Nat → State → Acc GNode × State
  | 0, _, _, _, s => (malformed bad, s)
  | fuel + 1, lo, hi, notes, s =>
    if hi ≤ lo then (malformed bad, s)
    else
      let m := (lo + hi) / 2
      andThen (read m s) fun x s =>
        let notes' := notes.write m x.note
        if !nodeAgrees notes m x then (malformed (g.nodeAddr m), s)
        else if c < x.cfirst then findNode g read bad c fuel lo m notes' s
        else if x.cfirst + x.ccount ≤ c then findNode g read bad c fuel (m + 1) hi notes' s
        else (.ok x, s)

/-! ### Cluster records (R224 to R227) -/

/-- A decoded cluster record: vertices, triangles and hierarchy nodes. -/
structure Cluster where
  verts : List Vec3
  tris : List (Nat × Nat × Nat)
  /-- The 16 bytes of each hierarchy node. -/
  hier : List (List Nat)
  bits : List Nat
  offset : Vec3
  scale : Vec3
  deriving DecidableEq, Repr, Inhabited

/-- An unsigned code placed by SCALE and OFFSET with one rounding (R225, R227). -/
def placeCoord (q scale offset : Nat) : Nat := fp32.fmaR 0 0 (.fin false q 0) (fVal scale) (fVal offset)

/-- `n` bits from position `p` of a bit stream given as a number (R224). -/
def streamBits (v p n : Nat) : Nat := v / 2 ^ p % 2 ^ n

/-- The triangles of a strip code: what is left to read, the position, the counter, and the previous triangle (R226). -/
def stripTris (v : Nat) (verts : Nat) : Nat → Nat → Nat → Option (Nat × Nat × Nat) → Option (List (Nat × Nat × Nat) × Nat)
  | 0, p, _, _ => some ([], p)
  | m + 1, p, n, prev =>
    let op := streamBits v p 2
    let idx := fun (j : Nat) => streamBits v (p + 2 + 7 * j) 7
    let next : Option ((Nat × Nat × Nat) × Nat × Nat) := match op, prev with
      | 3, _ => some ((idx 0, idx 1, idx 2), p + 23, n)
      | 0, some (_, b, c) => some ((c, b, n), p + 2, n + 1)
      | 1, some (a, _, c) => some ((a, c, n), p + 2, n + 1)
      | 2, some (_, b, c) => some ((c, b, idx 0), p + 9, n)
      | _, _ => none
    match next with
    | none => none
    | some (t, p', n') =>
      if t.1 < verts && t.2.1 < verts && t.2.2 < verts then
        (stripTris v verts m p' n' (some t)).map fun r => (t :: r.1, r.2)
      else none

/-- COUNT and REF of child `j` of a hierarchy node (R227). -/
def hierCount (h : List Nat) (j : Nat) : Nat := if j = 0 then h.getD 14 0 % 16 else h.getD 14 0 / 16
def hierRef (h : List Nat) (j : Nat) : Nat := h.getD (12 + j) 0

/-- The references of node `i` keep R227. -/
def hierOk (tris n i : Nat) (h : List Nat) : Bool :=
  h.getD 15 0 == 0 && (List.range 2).all fun j =>
    if hierCount h j = 0 then decide (i < hierRef h j) && decide (hierRef h j < n)
    else decide (hierRef h j + hierCount h j ≤ tris)

/-- A hierarchy node heads a tree of at most `fuel` nodes on a path (R227). -/
def hierDepth (hier : List (List Nat)) : Nat → Nat → Bool
  | 0, _ => false
  | fuel + 1, i =>
    let h := hier.getD i []
    (List.range 2).all fun j => hierCount h j != 0 || hierDepth hier fuel (hierRef h j)

/-- The bytes of a section padded to a multiple of 16. -/
def padded (n : Nat) : Nat := (n + 15) / 16 * 16

/-- The lengths of a record's three sections before padding, from its header (R224). -/
def sectionLens (h : List Nat) : Nat × Nat × Nat :=
  ((h.getD 1 0 * (h.getD 2 0 + h.getD 3 0 + h.getD 4 0) + 7) / 8, fieldOf h 6 2, 16 * h.getD 5 0)

/-- The header's own fields keep R224. -/
def clusterHeadOk (h : List Nat) : Bool :=
  let inside := fun (v lo hi : Nat) => decide (lo ≤ v) && decide (v ≤ hi)
  inside (h.getD 0 0) 1 128 && inside (h.getD 1 0) 3 128 && inside (h.getD 2 0) 1 16 && inside (h.getD 3 0) 1 16
    && inside (h.getD 4 0) 1 16 && inside (h.getD 5 0) 0 127 && (vecAt h 8).finite && (vecAt h 20).finite
    && fLt 0 (vecAt h 20).x && fLt 0 (vecAt h 20).y && fLt 0 (vecAt h 20).z

/-- Decodes a record from its header and what follows it (R224 to R227); `none` where it is malformed. -/
def clusterOf (h body : List Nat) : Option Cluster :=
  let (np, ns, nh) := sectionLens h
  let nv := h.getD 1 0
  let bx := h.getD 2 0
  let by' := h.getD 3 0
  let bz := h.getD 4 0
  let bits := bx + by' + bz
  let pos := leNat (body.take (padded np))
  let strip := leNat ((body.drop (padded np)).take (padded ns))
  let hs := (body.drop (padded np + padded ns)).take nh
  let hier := (List.range (h.getD 5 0)).map fun i => (hs.drop (16 * i)).take 16
  let off := vecAt h 8
  let sc := vecAt h 20
  let vert := fun (i : Nat) =>
    let p := i * bits
    Vec3.mk (placeCoord (streamBits pos p bx) sc.x off.x) (placeCoord (streamBits pos (p + bx) by') sc.y off.y)
      (placeCoord (streamBits pos (p + bx + by') bz) sc.z off.z)
  match stripTris strip nv (h.getD 0 0) 0 0 none with
  | none => none
  | some (tris, used) =>
    if (used + 7) / 8 = ns && strip / 2 ^ used == 0 && pos / 2 ^ (nv * bits) == 0
        && ((List.range hier.length).all fun i => hierOk tris.length hier.length i (hier.getD i []))
        && (hier.isEmpty || hierDepth hier 8 0) then
      some { verts := (List.range nv).map vert, tris := tris, hier := hier, bits := [bx, by', bz], offset := off, scale := sc }
    else none

/-- A cluster table entry: the offset and the length in bytes; `none` where [63:56] are not zero (R224). -/
def tableEntry (v : Nat) : Option (Nat × Nat) := if v / 2 ^ 56 = 0 then some (16 * (v % 2 ^ 40), 16 * bitsOf v 55 40) else none

/-- The address of cluster table entry `c`. -/
def Graph.entryAddr (g : Graph) (c : Nat) : W64 := offAddr g.ctBase (8 * c)

/-- The graph item of a residency request: a miss entry of the graph (R230, R347). -/
def Graph.item (g : Graph) (entry : Nat) : Nat := 1 + entry + 2 ^ 32 * g.hdr.toNat

/-- Notes in a fault the graph item that was being read. -/
def withItem {α : Type} (item : Nat) (r : Acc α × State) : Acc α × State :=
  match r with
  | (.fault f, s) => (.fault { f with item := item }, s)
  | r => r

/-- Reads and decodes a cluster. -/
def State.readCluster (s : State) (k : Nat) (o : MemOp) (g : Graph) (c : Nat) : Acc Cluster × State :=
  if g.clusters ≤ c then (malformed (g.entryAddr c), s)
  else withItem (g.item c) <| andThen (s.geoRead k o (g.entryAddr c) 8) fun e s => match tableEntry (leNat e) with
    | none => (malformed (g.entryAddr c), s)
    | some (ofs, len) =>
      let a := offAddr g.clBase ofs
      andThen (s.geoRead k o a 32) fun h s =>
        let (np, ns, nh) := sectionLens h
        if !clusterHeadOk h || len ≠ 32 + padded np + padded ns + nh then (malformed a, s)
        else andThen (s.geoRead k o (offAddr a 32) (len - 32)) fun b s => match clusterOf h b with
          | some x => (.ok x, s)
          | none => (malformed a, s)

/-! ### Boxes (R227, R234, R239) -/

/-- A box of FP32 codes. -/
structure Box where
  lo : Vec3
  hi : Vec3
  deriving DecidableEq, Repr, Inhabited

/-- The union, exact by min and max (R234). -/
def Box.union (a b : Box) : Box :=
  ⟨⟨fMin a.lo.x b.lo.x, fMin a.lo.y b.lo.y, fMin a.lo.z b.lo.z⟩, ⟨fMax a.hi.x b.hi.x, fMax a.hi.y b.hi.y, fMax a.hi.z b.hi.z⟩⟩

/-- The box of an empty leaf (R234). -/
def Box.empty : Box := let n := fp32.inf true; ⟨⟨fInf, fInf, fInf⟩, ⟨n, n, n⟩⟩

/-- A sphere widened to a box: centre - radius rounded RD, centre + radius rounded RU (R234). -/
def GNode.box (x : GNode) : Box :=
  let r := fVal x.radius
  let lo := fun (c : Nat) => fp32.addR 3 0 (fVal c) r.neg
  let hi := fun (c : Nat) => fp32.addR 2 0 (fVal c) r
  ⟨⟨lo x.centre.x, lo x.centre.y, lo x.centre.z⟩, ⟨hi x.centre.x, hi x.centre.y, hi x.centre.z⟩⟩

/-- The box of child `j` of a hierarchy node (R227). -/
def Cluster.childBox (c : Cluster) (h : List Nat) (j : Nat) : Box :=
  let bound := fun (axis : Nat) (scale offset : Nat) (up : Bool) =>
    let sh := c.bits.getD axis 0 - 8
    if up then placeCoord ((h.getD (6 * j + 3 + axis) 0 + 1) * 2 ^ sh - 1) scale offset
    else placeCoord (h.getD (6 * j + axis) 0 * 2 ^ sh) scale offset
  ⟨⟨bound 0 c.scale.x c.offset.x false, bound 1 c.scale.y c.offset.y false, bound 2 c.scale.z c.offset.z false⟩,
   ⟨bound 0 c.scale.x c.offset.x true, bound 1 c.scale.y c.offset.y true, bound 2 c.scale.z c.offset.z true⟩⟩

/-- A ray record (R239). -/
structure Ray where
  origin : Vec3
  tmin : Nat
  dir : Vec3
  tmax : Nat
  deriving DecidableEq, Repr, Inhabited

def rayOf (b : List Nat) : Ray := ⟨vecAt b 0, fieldOf b 12 4, vecAt b 16, fieldOf b 28 4⟩

/-- One axis of the box test: `none` when the box fails, else the bounds it sets (R239). -/
def axisBound (o d lo hi : Nat) : Option (Option (Nat × Nat)) :=
  if [o, d, lo, hi].any fIsNan then none
  else if fLt hi lo then none
  else if d % 2 ^ 31 = 0 then (if fLt o lo || fLt hi o then none else some none)
  else
    let inv := fDiv 0x3F800000 d
    let t0 := fMul (fSub lo o) inv
    let t1 := fMul (fSub hi o) inv
    if fIsNan t0 || fIsNan t1 then none else some (some (fMin t0 t1, fMax t0 t1))

/-- The box test (R239). -/
def Ray.meets (r : Ray) (b : Box) : Bool :=
  let axes := [axisBound r.origin.x r.dir.x b.lo.x b.hi.x, axisBound r.origin.y r.dir.y b.lo.y b.hi.y,
    axisBound r.origin.z r.dir.z b.lo.z b.hi.z]
  if fIsNan r.tmin || fIsNan r.tmax || axes.any Option.isNone then false
  else
    let bs := axes.filterMap fun x => x.getD none
    fLe (bs.foldl (fun m x => fMax m x.1) r.tmin) (bs.foldl (fun m x => fMin m x.2) r.tmax)

/-- What a triangle test finds: t, u, v and whether the face is a back face. -/
structure Hit where
  t : Nat
  u : Nat
  v : Nat
  back : Bool
  deriving DecidableEq, Repr, Inhabited

/-- The triangle test without its interval: `none` on a miss (R239). -/
def Ray.triangle (r : Ray) (cull : Bool) (v0 v1 v2 : Vec3) : Option Hit :=
  let e1 := v1.sub v0
  let e2 := v2.sub v0
  let p := r.dir.cross e2
  let det := e1.dot p
  let neg := fLt det 0
  if det % 2 ^ 31 = 0 || fIsNan det || (cull && neg) then none
  else
    let q0 := r.origin.sub v0
    let u' := q0.dot p
    let q := q0.cross e1
    let v' := r.dir.dot q
    let inside := if neg then fLe u' 0 && fLe v' 0 && fLe det (fAdd u' v')
      else fLe 0 u' && fLe 0 v' && fLe (fAdd u' v') det
    let t := fDiv (e2.dot q) det
    if inside && fLe r.tmin t && fLe t r.tmax then some ⟨t, fDiv u' det, fDiv v' det, neg⟩ else none

/-- The test of triangle `i` of a cluster; a degenerate one is hit by no ray (R226). -/
def Ray.hitTri (r : Ray) (cull : Bool) (c : Cluster) (i : Nat) : Option Hit :=
  match c.tris[i]? with
  | none => none
  | some (a, b, d) =>
    if a = b || b = d || a = d then none
    else r.triangle cull (c.verts.getD a default) (c.verts.getD b default) (c.verts.getD d default)

/-- The triangles under hierarchy node `i` whose boxes all pass (R240). -/
def Ray.reachTris (r : Ray) (c : Cluster) : Nat → Nat → List Nat
  | 0, _ => []
  | fuel + 1, i =>
    let h := c.hier.getD i []
    (List.range 2).flatMap fun j =>
      if !r.meets (c.childBox h j) then []
      else if hierCount h j = 0 then Ray.reachTris r c fuel (hierRef h j)
      else (List.range (hierCount h j)).map fun m => hierRef h j + m

/-- The candidate triangles of a cluster (R227, R240). -/
def Ray.clusterTris (r : Ray) (c : Cluster) : List Nat :=
  if c.hier.isEmpty then List.range c.tris.length else nubNat (r.reachTris c 8 0)

end Sys2Proof.Machine
end

