-- ==== Sys2Proof/Machine/Cut.lean ====
section
/-!
DEFINITION. CUTSEL and the tightrope (R229 to R238): the cut in three passes over memory, the miss list and the cut tree.
-/
namespace Sys2Proof.Machine

/-! ### The view (R229) -/

/-- The view block keeps R229. -/
def viewOk (b : List Nat) : Bool :=
  let w := fun (o : Nat) => fieldOf b o 4
  (vecAt b 0).finite && fFinite (w 12) && fLt 0 (w 12) && fSize (w 16) && fFinite (w 20) && fLt 0 (w 20)
    && w 24 / 2 == 0 && w 28 == 0

/-- The projected error of `e` over a sphere (R229). -/
def projected (view : List Nat) (e : Nat) (c : Vec3) (r : Nat) : Nat :=
  if e = fInf then fInf
  else
    let d := c.sub (vecAt view 0)
    let d2 := fFma d.z d.z (fFma d.y d.y (fMul d.x d.x))
    fDiv (fMul e (fieldOf view 12 4)) (fMax (fSub (fSqrt d2) r) (fieldOf view 20 4))

/-- A node is culled by some plane (R229). -/
def culled (view : List Nat) (x : GNode) : Bool :=
  (fieldOf view 24 4).testBit 0 && (List.range 6).any fun p =>
    let n := vecAt view (32 + 16 * p)
    let w := fieldOf view (44 + 16 * p) 4
    fLt (fAdd (fFma n.z x.centre.z (fFma n.y x.centre.y (fMul n.x x.centre.x))) w) (fNeg x.radius)

/-! ### Graph data under the snapshot (R231, R232) -/

/-- What a span of graph data is. -/
inductive GData where
  | bytes (b : List Nat)
  | absent (r : List FillReq)
  deriving DecidableEq, Repr, Inhabited

/-- .STRICT (R236). -/
def cutStrict : Instr → Bool
  | .cutsel f => bitOf f.mdn 0
  | _ => false

/-- How a read of graph data judges a granule: as the snapshot has it, as present at issue or now (strict mode, R232), or by no
presence at all, where R231 names no item of the graph for it. -/
inductive GMode where
  | snap
  | strict
  | any
  deriving DecidableEq, Repr, Inhabited

/-- The mode of reads that decide whether an item is absent, and of the others. -/
def cutMode (i : Instr) : GMode := if cutStrict i then .strict else .snap
def cutFree (i : Instr) : GMode := if cutStrict i then .strict else .any

/-- A line of graph data: its physical address and the fill data that was taken, or the request for its absent granule. -/
def State.graphLine (s : State) (k : Nat) (o : MemOp) (mode : GMode) (va : W64) : Acc (FillReq ⊕ (Nat × Option LineData)) × State :=
  let a := Agent.core (coreOf k)
  let ctx := s.ctxOf k
  let absent := fun (pa : Nat) (graph : Bool) => Sum.inl { granule := pa / 4096, ctx := ctx, graph := graph, va := va.toNat / 4096, item := 0 : FillReq }
  let have' := fun (s : State) (pa : Nat) => mode == .any || o.snap.contains (pa / 4096) || (mode == .strict && s.granulePresent pa)
  let serve := fun (e : TlbEntry) (pa : Nat) (s : State) =>
    if s.lost (pa / 128) then (.fault (({ cls := 6, pa := pa, cgen := e.cgen, fgen := e.fgen } : FaultInfo).at va .read), s)
    else if (s.sline (pa / 128)).lock ≠ 0 || s.dirBusy pa then (.wait, s)
    else (.ok (Sum.inr (pa, none)), if s.held (pa / 128) then s else s.touchFrame (pa / 128))
  match s.access a ctx va .read with
  | (.wait, s) => (.wait, s)
  | (.fault f, s) =>
    if f.cls ≠ 2 || 8 ≤ f.detail % 16 then (.fault f, s)
    else if !have' s f.pa then (.ok (absent f.pa f.graph), s)
    else match s.lastLevel a ctx va with
      | (.ok e, s) =>
        let pa := e.physical (va.toNat % 2 ^ 57)
        match s.rights e pa .read with
        | some g => (.fault (g.at va .read), s)
        | none => serve e pa s
      | (.fault g, s) => (.fault (g.at va .read), s)
      | (.wait, s) => (.wait, s)
  | (.ok (e, pa), s) =>
    if e.mt ≠ 0 then andThen (s.reach a ctx ⟨k, o.seq, 0⟩ va .read 0) fun x s => (.ok (Sum.inr x), s)
    else if !have' s pa then (.ok (absent pa e.graph), s)
    else if s.staleOf e ≠ 0 then
      (.fault (({ cls := 3, detail := s.staleOf e, pa := pa, cgen := e.cgen, fgen := e.fgen } : FaultInfo).at va .read), s)
    else serve e pa s

/-- The lines of a span of graph data: physical pieces and requests. -/
def State.graphPieces (k : Nat) (o : MemOp) (mode : GMode) : Nat → W64 → Nat → State → Acc (List FillReq × List Piece) × State
  | 0, _, _, s => (.ok ([], []), s)
  | _, _, 0, s => (.ok ([], []), s)
  | fuel + 1, va, n, s =>
    let m := min n (128 - va.toNat % 128)
    andThen (s.graphLine k o mode va) fun x s =>
      andThen (State.graphPieces k o mode fuel (offAddr va m) (n - m) s) fun r s => match x with
        | .inl q => (.ok (q :: r.1, r.2), s)
        | .inr (pa, d) => (.ok (r.1, (pa, m, d) :: r.2), s)

/-- Whether a span of graph data is present under a mode: the requests for what is absent, which in strict mode are a RESIDENCY
fault (R231, R232). -/
def State.graphSpan (s : State) (k : Nat) (o : MemOp) (mode : GMode) (va : W64) (n : Nat) : Acc (List FillReq × List Piece) × State :=
  andThen (State.graphPieces k o mode (n / 128 + 2) va n s) fun r s => match r.1 with
    | q :: _ =>
      if mode = .strict then
        (.fault { cls := 2, addr := va, pa := 4096 * q.granule, granule := q.granule + 1, graph := q.graph, cgen := (s.ctx q.ctx).cgen }, s)
      else (.ok r, s)
    | [] => (.ok r, s)

/-- Reads graph data under a mode (R231, R232). -/
def State.graphData (s : State) (k : Nat) (o : MemOp) (mode : GMode) (va : W64) (n : Nat) : Acc GData × State :=
  andThen (s.graphSpan k o mode va n) fun r s =>
    if r.1.isEmpty then
      let b := State.spanPeek (.core (coreOf k)) r.2 s
      (.ok (.bytes b.1), if n = 0 then b.2 else b.2.watchDie (dieOf (coreOf k)) (s.accessor k o) true false va n)
    else (.ok (.absent r.1), s)

/-- Reads a node record, checked by itself (R228); `inl` where it is absent. -/
def State.nodeData (s : State) (k : Nat) (o : MemOp) (mode : GMode) (g : Graph) (n : Nat) : Acc (List FillReq ⊕ GNode) × State :=
  withItem (g.item (n + 2 ^ 31)) <| andThen (s.graphData k o mode (g.nodeAddr n) 64) fun d s => match d with
    | .absent r => (.ok (.inl (r.map fun q => { q with item := g.item (n + 2 ^ 31) })), s)
    | .bytes b => match nodeOf g n b with
      | some x => (.ok (.inr x), s)
      | none => (malformed (g.nodeAddr n), s)

/-- Reads a node record that an earlier pass has decided on, or that only places a cluster: no presence is asked (R231). -/
def State.nodeAnyway (s : State) (k : Nat) (o : MemOp) (g : Graph) (n : Nat) : Acc GNode × State :=
  andThen (s.nodeData k o (cutFree o.ins) g n) fun d s => match d with
    | .inl _ => (malformed (g.nodeAddr n), s)
    | .inr x => (.ok x, s)

/-- What the tightrope has noted of the node records it has read, and the least LEVEL among the parents it has read of a node
(R223). -/
def MemOp.notes (o : MemOp) : Tbl Nat := o.dat
def MemOp.parentLevel (o : MemOp) (n : Nat) : Option Nat := if o.cmp.read n = 0 then none else some (o.cmp.read n - 1)

/-- Notes a node record. -/
def MemOp.noteNode (o : MemOp) (n : Nat) (x : GNode) : MemOp := { o with dat := o.dat.write n x.note }

/-- Notes that a node is a child of one of this LEVEL. -/
def MemOp.noteChild (o : MemOp) (level c : Nat) : MemOp :=
  { o with cmp := o.cmp.write c (1 + ((o.parentLevel c).map (min level)).getD level) }

/-- Reads node record `n` under the snapshot, checked also beside the records read before it (R223, R228). -/
def State.cutNode (s : State) (k : Nat) (o : MemOp) (g : Graph) (n : Nat) : Acc (List FillReq ⊕ GNode) × State :=
  andThen (s.nodeData k o (cutMode o.ins) g n) fun d s => match d with
    | .inl r => (.ok (.inl r), s)
    | .inr x =>
      if nodeAgrees o.notes n x && ((o.parentLevel n).map fun p => decide (x.level < p)).getD true then (.ok (.inr x), s)
      else (malformed (g.nodeAddr n), s)

/-- The requests for what is absent of cluster `c`: its table entry, or its record (R230). -/
def State.clusterAbsent (s : State) (k : Nat) (o : MemOp) (g : Graph) (c : Nat) : Acc (List FillReq) × State :=
  let mark := fun (r : List FillReq) => r.map fun q => { q with item := g.item c }
  withItem (g.item c) <| andThen (s.graphData k o (cutMode o.ins) (g.entryAddr c) 8) fun d s => match d with
    | .absent r => (.ok (mark r), s)
    | .bytes b => match tableEntry (leNat b) with
      | none => (malformed (g.entryAddr c), s)
      | some (ofs, len) => andThen (s.graphSpan k o (cutMode o.ins) (offAddr g.clBase ofs) len) fun r s => (.ok (mark r.1), s)

/-- The absent clusters of a node, with their requests. -/
def State.nodeAbsent (k : Nat) (o : MemOp) (g : Graph) : List Nat → State → Acc (List (Nat × List FillReq)) × State
  | [], s => (.ok [], s)
  | c :: cs, s =>
    andThen (s.clusterAbsent k o g c) fun q s => andThen (State.nodeAbsent k o g cs s) fun r s =>
      (.ok (if q.isEmpty then r else (c, q) :: r), s)

/-- The clusters of a node. -/
def GNode.clusters (x : GNode) : List Nat := (List.range x.ccount).map fun i => x.cfirst + i

/-! ### The command's own memory (R230, R233) -/

/-- CAPACITY, MISSCAP and WORK as read at issue. -/
def MemOp.cutCap (o : MemOp) : Nat := o.thr.read 0
def MemOp.cutMissCap (o : MemOp) : Nat := o.thr.read 1
def MemOp.cutWork (o : MemOp) (n : Nat) : W64 := offAddr (BitVec.ofNat 64 (o.thr.read 2)) (4 * n)
/-- The cut buffer. -/
def MemOp.cutBuf (o : MemOp) (n : Nat) : W64 := offAddr (o.uni.getD 2 0) n
/-- The address of tree node `i`: after both lists, at a multiple of 32 (R233). -/
def treeAddr (buf : W64) (cap misscap i : Nat) : W64 := offAddr buf ((0x40 + 4 * cap + 4 * misscap + 31) / 32 * 32 + 32 * i)

/-- Reads the work word of node `n`. -/
def State.workWord (s : State) (k : Nat) (o : MemOp) (n : Nat) : Acc Nat × State :=
  andThen (s.geoRead k o (o.cutWork n) 4) fun b s => (.ok (leNat b), s)

/-- R230's fallback from node `n`: the nearest ancestor all of whose clusters are present. -/
def State.fallback (k : Nat) (o : MemOp) (g : Graph) : Nat → Nat → State → Acc (Option Nat) × State
  | 0, _, s => (.ok none, s)
  | fuel + 1, n, s =>
    if n = 0 then (.ok none, s)
    else andThen (s.workWord k o n) fun w s =>
      let a := w % 2 ^ 24
      andThen (s.cutNode k o g a) fun x s => match x with
        | .inl _ => State.fallback k o g fuel a s
        | .inr x => andThen (State.nodeAbsent k o g x.clusters s) fun m s =>
            if m.isEmpty then (.ok (some a), s) else State.fallback k o g fuel a s

/-- An item of CUTSEL done: the operation after it and the words it writes. -/
structure CutItem where
  op : MemOp
  writes : List (W64 × List Nat)
  posts : List FillReq
  deriving DecidableEq, Repr, Inhabited

/-- The word of node `a` with its fallback bit. -/
def State.fallbackWrite (s : State) (k : Nat) (o : MemOp) (g : Graph) (n : Nat) : Acc (List (W64 × List Nat)) × State :=
  andThen (State.fallback k o g 32 n s) fun a s => match a with
    | none => (.ok [], s)
    | some a => andThen (s.workWord k o a) fun w s => (.ok [(o.cutWork a, leBytes 4 (w ||| 2 ^ 26))], s)

/-- The next node of the pass, or the next pass. -/
def MemOp.cutNext (o : MemOp) (g : Graph) : MemOp :=
  if o.cursor + 1 < g.nodes then { o with cursor := o.cursor + 1 }
  else if o.pass = 3 then { o with cursor := g.nodes }
  else { o with pass := o.pass + 1, cursor := 0 }

/-- Misses noted, with their requests. -/
def CutItem.miss (x : CutItem) (entries : List Nat) (posts : List FillReq) : CutItem :=
  { x with op := { x.op with misses := x.op.misses + entries.length, missList := x.op.missList ++ entries }, posts := x.posts ++ posts }

/-- Pass 1: the work word is cleared; node 0 is visited, and the buffer is no longer valid. -/
def cutPass1 (o : MemOp) (g : Graph) : CutItem :=
  let n := o.cursor
  { op := o.cutNext g, posts := []
    writes := (o.cutWork n, leBytes 4 (if n = 0 then 2 ^ 24 else 0)) :: (if n = 0 then [(o.cutBuf 0x18, leBytes 4 0)] else []) }

/-- The children of a node with whether each is visited, in list order; each lies above its parent and in range (R223). -/
def State.kidsOf (k : Nat) (o : MemOp) (g : Graph) (n : Nat) : List Nat → State → Acc (List (Nat × Bool)) × State
  | [], s => (.ok [], s)
  | i :: is, s =>
    let a := offAddr g.kidBase (4 * i)
    andThen (s.graphData k o (cutFree o.ins) a 4) fun d s => match d with
      | .absent _ => (malformed a, s)
      | .bytes b =>
        let c := leNat b
        if c ≤ n || g.nodes ≤ c then (malformed a, s)
        else andThen (s.workWord k o c) fun w s => andThen (State.kidsOf k o g n is s) fun r s => (.ok ((c, w.testBit 24) :: r), s)

/-- Pass 2 at node `n` (R230). -/
def State.cutPass2 (s : State) (k : Nat) (o : MemOp) (g : Graph) : Acc CutItem × State :=
  let n := o.cursor
  let done : CutItem := { op := o.cutNext g, writes := [], posts := [] }
  let degrade := fun (x : CutItem) (s : State) => andThen (s.fallbackWrite k o g n) fun w s =>
    (.ok { x with writes := w, op := { x.op with degraded := true } }, s)
  andThen (s.workWord k o n) fun w s =>
    if !w.testBit 24 then (.ok done, s)
    else andThen (s.cutNode k o g n) fun r s => match r with
      | .inl q => degrade (done.miss [n + 2 ^ 31] q) s
      | .inr x =>
        let done := { done with op := done.op.noteNode n x }
        if culled o.blk2 x then (.ok done, s)
        else
          let ps := projected o.blk2 x.err x.centre x.radius
          let th := fieldOf o.blk2 16 4
          if (fLe ps th || x.kcount == 0) && fLt th (projected o.blk2 x.perr x.pcentre x.pradius) then
            andThen (State.nodeAbsent k o g x.clusters s) fun m s =>
              if m.isEmpty then (.ok { done with writes := [(o.cutWork n, leBytes 4 (w ||| 2 ^ 25))] }, s)
              else degrade (done.miss (m.map (·.1)) (m.flatMap (·.2))) s
          else if fLt th ps then
            andThen (State.kidsOf k o g n ((List.range x.kcount).map fun i => x.kfirst + i) s) fun cs s =>
              (.ok { done with
                op := cs.foldl (fun (o : MemOp) c => o.noteChild x.level c.1) done.op
                writes := (nubNat ((cs.filter fun c => !c.2).map (·.1))).map fun c => (o.cutWork c, leBytes 4 (n + 2 ^ 24)) }, s)
          else (.ok done, s)

/-- Pass 3 at node `n`: its clusters are appended as far as CAPACITY goes; after the last node the miss list is written. -/
def State.cutPass3 (s : State) (k : Nat) (o : MemOp) (g : Graph) : Acc CutItem × State :=
  let n := o.cursor
  if g.nodes ≤ n then
    let m := (sortBy (fun x => x) o.missList).take o.cutMissCap
    (.ok { op := { o with pass := 4, cursor := 0 }, posts := [],
           writes := if m.isEmpty then [] else [(o.cutBuf (0x40 + 4 * o.cutCap), m.flatMap (leBytes 4))] }, s)
  else andThen (s.workWord k o n) fun w s =>
    if !w.testBit 25 && !w.testBit 26 then (.ok { op := o.cutNext g, writes := [], posts := [] }, s)
    else andThen (s.nodeAnyway k o g n) fun x s =>
      let list := x.clusters.take (o.cutCap - o.count)
      (.ok { op := { o.cutNext g with count := o.count + x.ccount }, posts := [],
             writes := if list.isEmpty then [] else [(o.cutBuf (0x40 + 4 * o.count), list.flatMap (leBytes 4))] }, s)

/-- The leaves of the cut tree: the least power of two at or above COUNT (R234). -/
def treeLeaves (count : Nat) : Nat := if count ≤ 1 then count else 2 ^ (Nat.log2 (count - 1) + 1)
/-- TREENODES (R234). -/
def treeNodes (count : Nat) : Nat := treeLeaves count - 1

/-- The first and last leaf that internal node `i` covers (R234). -/
def treeSpan (p i : Nat) : Nat × Nat :=
  let d := Nat.log2 (i + 1)
  let w := p / 2 ^ d
  ((i + 1 - 2 ^ d) * w, (i + 1 - 2 ^ d) * w + w - 1)

/-- The union of the boxes of cut leaves. -/
def State.leafBoxes (k : Nat) (o : MemOp) (g : Graph) : List Nat → State → Acc Box × State
  | [], s => (.ok Box.empty, s)
  | j :: js, s =>
    let a := o.cutBuf (0x40 + 4 * j)
    andThen (s.geoRead k o a 4) fun b s =>
      andThen (findNode g (fun n s => s.nodeAnyway k o g n) a (leNat b) 32 0 g.nodes o.notes s) fun x s =>
        andThen (State.leafBoxes k o g js s) fun r s => (.ok (x.box.union r), s)

/-- The 32 bytes of a stored tree node (R234). -/
def treeBytes (b : Box) (first last : Nat) : List Nat :=
  [b.lo.x, b.lo.y, b.lo.z, b.hi.x, b.hi.y, b.hi.z, first, last].flatMap (leBytes 4)

/-- The list overflows CAPACITY; a supplied cut, which has no snapshot, is never tested for it (R233, R337). -/
def MemOp.overflows (o : MemOp) : Bool := o.epoch != 0 && decide (o.cutCap < o.count)

/-- CFLAGS at the end of a command (R233). -/
def MemOp.cutFlags (o : MemOp) : Nat :=
  (if o.degraded then 1 else 0) + (if o.overflows then 2 else 8) + (if o.cutMissCap < o.misses then 4 else 0)

/-- TREENODES of a command. -/
def MemOp.cutTree (o : MemOp) : Nat := if o.overflows then 0 else treeNodes o.count

/-- Pass 4: tree node `cursor`, or the header that ends the command (R233, R234). -/
def State.cutPass4 (s : State) (k : Nat) (o : MemOp) (g : Graph) : Acc CutItem × State :=
  if o.cutTree ≤ o.cursor then
    (.ok { op := { o with prog := Tbl.write [] 0 o.full }, posts := []
           writes := [(o.cutBuf 0x10, leBytes 4 o.count ++ leBytes 4 o.misses ++ leBytes 4 o.cutFlags ++ leBytes 4 o.cutTree
             ++ leBytes 8 (o.uni.headD 0).toNat ++ leBytes 24 0)] }, s)
  else
    let sp := treeSpan (treeLeaves o.count) o.cursor
    let leaves := (List.range (sp.2 + 1 - sp.1)).map (sp.1 + ·)
    andThen (State.leafBoxes k o g (leaves.filter (· < o.count)) s) fun b s =>
      (.ok { op := { o with cursor := o.cursor + 1 }, posts := []
             writes := [(treeAddr (o.uni.getD 2 0) o.cutCap o.cutMissCap o.cursor, treeBytes b sp.1 sp.2)] }, s)

/-- S(D) of a completed CUTSEL (R237). -/
def MemOp.cutResult (o : MemOp) : Nat :=
  o.count + (if o.degraded then 2 ^ 32 else 0) + (if o.overflows then 2 ^ 33 else 0) + (if o.cutMissCap < o.misses then 2 ^ 34 else 0)

/-- A completed cut goes into a slot of its ring, whose lines carry the mark; at most four buffers have one (R235). -/
def State.keepCut (s : State) (k : Nat) (o : MemOp) : State :=
  let a := Agent.core (coreOf k)
  let ctx := s.ctxOf k
  let buf := o.cutBuf 0
  let n := (treeAddr buf o.cutCap o.cutMissCap o.cutTree - buf).toNat
  match State.spanReach a ctx ⟨k, o.seq, 0⟩ .read 0 (n / 128 + 2) buf n s with
  | (.ok ps, s) =>
    let ls := ps.map fun x => x.1 / 128
    let others := fun (x : Ring) => x.cuts.filter fun y => !(y.ctx == ctx && y.addr == buf)
    if ls.all fun l => (s.sline l).present then
      let b := (ps.map fun x => s.peek x.1 x.2.1).flatten
      s.modRing (ringOf (coreOf k)) fun x => { x with cuts := ({ ctx := ctx, addr := buf, lines := ls, cut := b } :: others x).take 4 }
    else s.modRing (ringOf (coreOf k)) fun x => { x with cuts := others x }
  | (_, s) => s

/-- The next item of a command: the pass it is in (R230, R234). -/
def State.cutItem (s : State) (k : Nat) (o : MemOp) (g : Graph) : Acc CutItem × State :=
  match o.pass with
  | 1 => (.ok (cutPass1 o g), s)
  | 2 => s.cutPass2 k o g
  | 3 => s.cutPass3 k o g
  | _ => s.cutPass4 k o g

/-- A command ends with a result. -/
def State.cutEnd (s : State) (k : Nat) (o : MemOp) (result : Nat) : State :=
  (s.endFlights k o.seq).finish k { o with prog := Tbl.write [] 0 o.full, got := [(0, result)].filter fun e => e.2 != 0 } 0

/-- An item whose words have been written: its requests are posted, and the command goes on or ends. -/
def State.cutDone (s : State) (k : Nat) (x : CutItem) : State :=
  let s := if s.faultsvc then s else x.posts.foldl State.askFill s
  if x.op.allDone then (s.keepCut k x.op).cutEnd k x.op x.op.cutResult
  else s.setOp k x.op

/-- A discarded command leaves the buffer invalid, as far as it can be written, and S(D) receives 0 (R238). -/
def State.cutDiscard (s : State) (k : Nat) (o : MemOp) : State :=
  match s.geoWrites k o [(o.cutBuf 0x18, leBytes 4 0)] with
  | (.wait, s) => s
  | (_, s) => s.cutEnd k o 0

/-- One item of a command that the tightrope performs. -/
def State.cutStep (s : State) (k : Nat) (o : MemOp) : State :=
  if o.pass = 5 then s.cutDiscard k o
  else match (graphOf o.blk1).map fun g => { g with hdr := o.uni.headD 0 } with
  | none => s.parkOp k o { cls := 7, addr := o.uni.headD 0 }
  | some g => match andThen (s.cutItem k o g) fun x s => andThen (s.geoWrites k o x.writes) fun _ s => (.ok x, s) with
    | (.wait, s) => s
    | (.fault f, s) => s.parkOp k o f
    | (.ok x, s) => s.cutDone k x

/-- A list is strictly ascending and below a bound (R337). -/
def listOk (bound : Nat) : List Nat → Bool
  | [] => true
  | [x] => decide (x < bound)
  | x :: y :: l => decide (x < y) && listOk bound (y :: l)

/-- The numbers of 4 bytes in a byte list. -/
def words4 (b : List Nat) : List Nat := (List.range (b.length / 4)).map fun i => fieldOf b (4 * i) 4

/-- A supplied cut (R337): COUNT and LIST stand in the buffer; the command starts at the tree. -/
def State.cutSupplied (s : State) (k : Nat) (o : MemOp) (clusters : Nat) : Acc MemOp × State :=
  let buf := o.uni.getD 2 0
  andThen (s.geoRead k o (offAddr buf 0x10) 4) fun c s =>
    let n := leNat c
    andThen (s.geoRead k o (offAddr buf 0x40) (4 * n)) fun b s =>
      if !listOk clusters (words4 b) then (malformed (offAddr buf 0x40), s)
      else andThen (s.geoWrites k o [(offAddr buf 0x18, leBytes 4 0)]) fun _ s => (.ok { o with count := n }, s)

/-- Reads a structure of the command unless its bytes are there already; what is read is kept, so that a later wait or fault
finds it. -/
def State.cutHas (s : State) (k : Nat) (o : MemOp) (have' : Bool) (va : W64) (n : Nat) (keep : List Nat → MemOp) : Acc MemOp × State :=
  if have' then (.ok o, s) else andThen (s.geoRead k o va n) fun b s => (.ok (keep b), s.setOp k (keep b))

/-- What CUTSEL reads at issue, and its checks (R237); a replay has the header and the view in its record. -/
def State.cutOpen (s : State) (k : Nat) (o : MemOp) : Acc MemOp × State :=
  let hdr := o.uni.headD 0
  let view := o.uni.getD 1 0
  let buf := o.uni.getD 2 0
  andThen (s.cutHas k o (graphOf o.blk1).isSome hdr 64 fun b => { o with blk1 := b }) fun o s =>
    andThen (s.cutHas k o (viewOk o.blk2) view 128 fun b => { o with blk2 := b }) fun o s =>
      andThen (s.geoRead k o buf 16) fun b s =>
        let cap := fieldOf b 0 4
        let miss := fieldOf b 4 4
        let work := fieldOf b 8 8
        if (graphOf o.blk1).isNone then (malformed hdr, s)
        else if !viewOk o.blk2 then (malformed view, s)
        else if 2 ^ 24 < cap || 2 ^ 24 < miss || work % 4 ≠ 0 then (malformed buf, s)
        else
          let o := { o with readYet := true, thr := ((Tbl.write [] 0 cap).write 1 miss).write 2 work }
          if o.epoch = 0 && o.count = 0 then s.cutSupplied k o (fieldOf o.blk1 36 4) else (.ok o, s)

/-- The commands of a ring that its queue does not hold yet, in issue order. -/
def State.ringWaiting (s : State) (ring : Nat) (mine : Instr → Bool) (queue : List (Nat × Nat)) : List (Nat × MemOp) :=
  sortBy (fun x => x.2.stamp) (s.troupes.flatMap fun e =>
    if ringOf (coreOf e.1) == ring then
      (e.2.ops.filter fun o => mine o.ins && o.park.isNone && !queue.contains (e.1, o.seq)).map fun o => (e.1, o)
    else [])

/-- The commands of a queue that are still to be performed. -/
def State.ringLive (s : State) (queue : List (Nat × Nat)) : List (Nat × Nat) :=
  queue.filter fun x => match s.op x.1 x.2 with | some o => o.park.isNone | none => false

/-- A CUTSEL. -/
def isCut : Instr → Bool
  | .cutsel _ => true
  | _ => false

/-- Commands whose structures have been read enter the tightrope's queue of eight (R237). -/
def State.cutAdmit (s : State) (ring : Nat) : State :=
  let s := s.modRing ring fun x => { x with tight := s.ringLive x.tight }
  (s.ringWaiting ring isCut (s.ring ring).tight).foldl (fun (s : State) x =>
    if 8 ≤ (s.ring ring).tight.length || !s.geoTurn x.1 x.2 then s
    else match (if x.2.pass = 5 then (.ok x.2, s) else s.cutOpen x.1 x.2) with
      | (.wait, s) => s
      | (.fault f, s) => s.parkOp x.1 ((s.op x.1 x.2.seq).getD x.2) f
      | (.ok o, s) => (s.setOp x.1 o).modRing ring fun y => { y with tight := y.tight ++ [(x.1, o.seq)] }) s

/-- The granules of the page cache that are present (R231). -/
def State.presentGranules (s : State) : List Nat :=
  s.cache.frames.flatMap fun e => if e.2.fstate = 0 then [] else
    ((List.range 16).filter fun i => e.2.resmask.getLsbD i).map fun i => 16 * e.2.span + i

/-- An alignment that an instruction of lane group 12 checks: the address, its multiple and its detail (R236). -/
def firstOff (l : List (W64 × Nat × Nat)) : Option (W64 × Nat) :=
  (l.find? fun x => x.1.toNat % x.2.1 != 0).map fun x => (x.1, x.2.2)

/-- CUTSEL (R237): it records the snapshot, reads and checks its structures, and queues at the tightrope. -/
def execCutsel (f : Fields) (s : State) : Out :=
  let t := s.curT
  let act := t.active f.g s.cur.run
  let a := t.rs64 f.a.toNat
  let b := t.rs64 f.b.toNat
  let e := t.rs64 f.e.toNat
  if act = 0 then .next (s.retire id)
  else match firstOff [(a, 64, 0x30), (b, 128, 0x31), (e, 256, 0x32)] with
    | some x => .next (s.trapWord 0x0A x.2 x.1)
    | none =>
      let o := { s.newOp (.cutsel f) act with
        uni := [a, b, e], single := true, size := 1, snap := if s.cutHost then [] else s.presentGranules
        epoch := if s.cutHost then 0 else s.clock + 1, pass := if s.cutHost then 4 else 1 }
      .next ((s.launchWith t.rs o f true 1 none).cutAdmit (ringOf (coreOf s.cur.t)))

/-- TIGHTROPE_COMMAND (R230, R237): the tightrope performs the next item of the command at its head. -/
def execTightropeCommand (ring : Nat) (s : State) : Out :=
  let s := s.cutAdmit ring
  match (s.ring ring).tight.head? with
  | none => .next s
  | some (k, q) => match s.op k q with
    | some o => .next (s.cutStep k o)
    | none => .next s

end Sys2Proof.Machine
end

