-- ==== Sys2Proof/Machine/Rays.lean ====
section
/-!
DEFINITION. RAYT and RAYR (R239 to R242): each lane's nearest hit over a cut, or over one cluster.
-/
namespace Sys2Proof.Machine

/-- .CULL of a ray instruction (R236). -/
def rayCull : Instr → Bool
  | .rayt f | .rayr f => bitOf f.mdn 1
  | _ => false

/-- A candidate: its hit, cluster and triangle (R240). -/
structure Cand where
  hit : Hit
  cluster : Nat
  tri : Nat
  deriving DecidableEq, Repr, Inhabited

/-- The id word (R240). -/
def Cand.id (c : Cand) : Nat := c.cluster + 2 ^ 24 * c.tri + (if c.hit.back then 2 ^ 31 else 0)

/-- The order of R240: ascending t, then cluster, then triangle. -/
def Cand.before (a b : Cand) : Bool :=
  fLt a.hit.t b.hit.t || (fLe a.hit.t b.hit.t && decide (128 * a.cluster + a.tri < 128 * b.cluster + b.tri))

/-- The first of two candidates. -/
def bestOf (a : Option Cand) (b : Cand) : Option Cand :=
  match a with
  | some x => some (if b.before x then b else x)
  | none => some b

/-- A lane's result registers (R240). -/
def rayResult (any : Bool) (r : Option Cand) : Nat :=
  match r with
  | none => rayMiss any
  | some c => if any then 1 else c.hit.t + 2 ^ 32 * c.id + 2 ^ 64 * c.hit.u + 2 ^ 96 * c.hit.v

/-- The candidates of a cluster. -/
def Ray.clusterHits (r : Ray) (cull : Bool) (n : Nat) (c : Cluster) : List Cand :=
  (r.clusterTris c).filterMap fun i => (r.hitTri cull c i).map fun h => { hit := h, cluster := n, tri := i }

/-- Notes a lane's best candidate so far, which a record of the operation holds (R242). -/
def MemOp.noteBest (o : MemOp) (l : Nat) (c : Option Cand) : MemOp :=
  { o with best := o.best.write l ((c.map fun c => 2 ^ 32 * c.hit.t + c.id + 1).getD 0) }

/-- Reads the clusters of a list for a lane and keeps the first candidate. -/
def State.rayClusters (k : Nat) (g : Graph) (r : Ray) (l : Nat) : MemOp → List Nat → Option Cand → State → Acc (Option Cand) × State
  | _, [], best, s => (.ok best, s)
  | o, n :: ns, best, s =>
    andThen (s.readCluster k o g n) fun c s =>
      let best := (r.clusterHits (rayCull o.ins) n c).foldl bestOf best
      let o := o.noteBest l best
      State.rayClusters k g r l o ns best (s.setOp k o)

/-- The header of a cut buffer as the ray engine and the rasteriser read it (R233). -/
structure CutHead where
  cap : Nat
  misscap : Nat
  count : Nat
  tree : Nat
  graph : W64
  deriving DecidableEq, Repr, Inhabited

/-- Reads a cut buffer's header; CFLAGS[3] = 0 is a FORMAT fault (R233). -/
def State.readCut (s : State) (k : Nat) (o : MemOp) (buf : W64) : Acc CutHead × State :=
  andThen (s.cutRead k o buf 0 64) fun b s =>
    if !(fieldOf b 24 4).testBit 3 then (malformed buf, s)
    else (.ok { cap := fieldOf b 0 4, misscap := fieldOf b 4 4, count := fieldOf b 16 4, tree := fieldOf b 28 4,
                graph := BitVec.ofNat 64 (fieldOf b 32 8) }, s)

/-- The internal nodes of one level of the cut tree whose boxes pass. -/
def State.treePass (k : Nat) (o : MemOp) (buf : W64) (h : CutHead) (r : Ray) : List Nat → State → Acc (List Nat) × State
  | [], s => (.ok [], s)
  | i :: is, s =>
    andThen (s.cutRead k o buf (treeAddr 0 h.cap h.misscap i).toNat 32) fun b s =>
      andThen (State.treePass k o buf h r is s) fun l s =>
        (.ok (if r.meets ⟨vecAt b 0, vecAt b 12⟩ then i :: l else l), s)

/-- The leaves that a ray reaches from a level of the tree down. -/
def State.treeReach (k : Nat) (o : MemOp) (buf : W64) (h : CutHead) (r : Ray) : Nat → List Nat → State → Acc (List Nat) × State
  | 0, _, s => (.ok [], s)
  | fuel + 1, front, s =>
    let leaves := (front.filter fun i => h.tree ≤ i).map fun i => i - h.tree
    let inner := front.filter fun i => i < h.tree
    if inner.isEmpty then (.ok leaves, s)
    else andThen (State.treePass k o buf h r inner s) fun l s =>
      andThen (State.treeReach k o buf h r fuel (l.flatMap fun i => [2 * i + 1, 2 * i + 2]) s) fun x s => (.ok (leaves ++ x), s)

/-- The clusters of the leaves whose own boxes pass (R234, R240). -/
def State.leafPass (k : Nat) (o : MemOp) (buf : W64) (g : Graph) (r : Ray) : List Nat → State → Acc (List Nat) × State
  | [], s => (.ok [], s)
  | j :: js, s =>
    andThen (s.cutRead k o buf (0x40 + 4 * j) 4) fun b s =>
      andThen (findNode g (fun n s => s.readNode k o g n) (offAddr buf (0x40 + 4 * j)) (leNat b) 32 0 g.nodes [] s) fun x s =>
        andThen (State.leafPass k o buf g r js s) fun l s => (.ok (if r.meets x.box then leNat b :: l else l), s)

/-- The best candidate that a lane has kept, as a candidate of the rule (R242). -/
def State.keptCand (s : State) (k : Nat) (o : MemOp) (g : Graph) (r : Ray) (l : Nat) : Acc (Option Cand) × State :=
  let x := o.best.read l
  let id := (x - 1) % 2 ^ 32
  if x = 0 || id == 0xFFFFFFFF then (.ok none, s)
  else
    let n := id % 2 ^ 24
    let i := bitsOf id 30 24
    andThen (s.readCluster k o g n) fun c s =>
      let h := (r.hitTri (rayCull o.ins) c i).getD { t := (x - 1) / 2 ^ 32, u := 0, v := 0, back := bitOf id 31 }
      (.ok (some { hit := { h with t := (x - 1) / 2 ^ 32, back := bitOf id 31 }, cluster := n, tri := i }), s)

/-- The address of a lane's ray record (R239). -/
def MemOp.rayAddr (o : MemOp) (l : Nat) : W64 := offAddr (o.uni.getD 1 0) (32 * o.cmp.read l)

/-- A lane of RAYT (R240). -/
def State.raytLane (s : State) (k : Nat) (o : MemOp) (l : Nat) : Acc (Option Cand) × State :=
  let buf := o.uni.headD 0
  andThen (s.readCut k o buf) fun h s => andThen (s.geoRead k o (o.rayAddr l) 32) fun b s =>
    let r := rayOf b
    if h.count = 0 then (.ok none, s)
    else andThen (s.readGraph k o h.graph) fun g s =>
      andThen (State.treeReach k o buf h r 32 [0] s) fun js s =>
        andThen (State.leafPass k o buf g r (js.filter (· < h.count)) s) fun cs s =>
          andThen (s.keptCand k o g r l) fun kept s => State.rayClusters k g r l o cs kept s

/-- A lane of RAYR (R241). -/
def State.rayrLane (s : State) (k : Nat) (o : MemOp) (l : Nat) : Acc (Option Cand) × State :=
  andThen (s.readGraph k o (o.uni.headD 0)) fun g s => andThen (s.geoRead k o (o.rayAddr l) 32) fun b s =>
    let n := o.cmp.read (l + 64)
    if g.clusters ≤ n then (.ok none, s) else State.rayClusters k g (rayOf b) l o [n] none s

/-- A lane is done. -/
def State.laneDone (s : State) (k : Nat) (o : MemOp) (l v : Nat) : State :=
  s.finishOrKeep k ({ o with got := o.got.write l v }.mark l o.full)

/-- The next lane that an engine takes: one that it has not tried since issue or replay, else the lowest unfinished one, whose
fault then parks the operation (R152, R242, R251). -/
def MemOp.nextLane (o : MemOp) : Option Nat :=
  match o.keys.find? fun l => !o.keyDone l && o.thr.read l == 0 with
  | some l => some l
  | none => o.keys.find? fun l => !o.keyDone l

/-- A lane faults: it is noted as tried, with what it says of itself, and the engine goes on to the next; once every lane has been
tried the lowest unfinished one parks the operation. -/
def State.laneFault (s : State) (k : Nat) (o : MemOp) (l note : Nat) (f : FaultInfo) : State :=
  let o' := { o with thr := o.thr.write l (note + 1) }
  if o.thr.read l = 0 then s.setOp k o' else s.parkOp k o' f

/-- The next lane of a ray instruction. -/
def State.rayStep (s : State) (k : Nat) (o : MemOp) (f : Nat → Acc (Option Cand) × State) : State :=
  match o.nextLane with
  | none => s
  | some l => match f l with
    | (.wait, s) => s
    | (.fault g, s) => s.laneFault k ((s.op k o.seq).getD o) l 0 g
    | (.ok c, s) => s.laneDone k ((s.op k o.seq).getD o) l (rayResult (rayAny o.ins) c)

/-- RAY_TRAVERSAL (R240, R241): the ray engine takes the next lane. -/
def execRayTraversal (k q : Nat) (s : State) : Out :=
  match s.op k q with
  | none => .next s
  | some o =>
    if !s.geoTurn k o then .next s
    else match o.ins with
      | .rayt _ => .next (s.rayStep k o fun l => s.raytLane k o l)
      | .rayr _ => .next (s.rayStep k o fun l => s.rayrLane k o l)
      | _ => .next s

/-- RAYT (R236, R240). -/
def execRayt (f : Fields) (s : State) : Out :=
  let t := s.curT
  let act := t.active f.g s.cur.run
  let a := t.rs64 f.a.toNat
  let b := t.rs64 f.b.toNat
  if act = 0 then .next (s.retire id)
  else match firstOff [(a, 256, 0x32), (b, 32, 0x33)] with
    | some x => .next (s.trapWord 0x0A x.2 x.1)
    | none =>
      let o := { s.newOp (.rayt f) act with
        uni := [a, b], size := 1, cmp := laneTable act fun l => (t.rv f.e.toNat l).toNat }
      .next (s.launchWith t.rs o f true 3 none)

/-- RAYR (R236, R241). -/
def execRayr (f : Fields) (s : State) : Out :=
  let t := s.curT
  let act := t.active f.g s.cur.run
  let a := t.rs64 f.a.toNat
  let b := t.rs64 f.b.toNat
  if act = 0 then .next (s.retire id)
  else match firstOff [(a, 64, 0x30), (b, 32, 0x33)] with
    | some x => .next (s.trapWord 0x0A x.2 x.1)
    | none =>
      let o := { s.newOp (.rayr f) act with
        uni := [a, b], size := 1, cmp := elemTable act 2 fun l j => (t.rv (f.e.toNat + j) l).toNat }
      .next (s.launchWith t.rs o f true 2 none)

end Sys2Proof.Machine
end

