-- ==== Sys2Proof/Machine/Raster.lean ====
section
/-!
DEFINITION. RAST and the rasteriser (R243 to R246): the coverage of a cut's triangles, and the atomic minimum of each fragment.
-/
namespace Sys2Proof.Machine

/-- The raster descriptor keeps R243. -/
def rasterOk (b : List Nat) : Bool :=
  let inside := fun (v : Nat) => decide (1 ≤ v) && decide (v ≤ 16384)
  inside (fieldOf b 64 2) && inside (fieldOf b 66 2) && fieldOf b 68 4 % 8 == 0 && fieldOf b 72 8 % 8 == 0 && fieldOf b 80 48 == 0

/-- A vertex on the screen, in 1/256 pixel, and its depth (R244). -/
structure Screen where
  x : Int
  y : Int
  z : Nat
  deriving DecidableEq, Repr, Inhabited

/-- A value rounded to an integer by RN; `none` when it is not finite. -/
def rnInt (c : Nat) : Option Int :=
  match fVal c with
  | .fin neg m e => some (roundInt 0 0 neg m e)
  | _ => none

/-- Row `r` of the matrix applied to a vertex (R244). -/
def clipCoord (b : List Nat) (r : Nat) (p : Vec3) : Nat :=
  let m := fun (c : Nat) => fieldOf b (16 * r + 4 * c) 4
  fFma (m 2) p.z (fFma (m 1) p.y (fFma (m 0) p.x (m 3)))

/-- A vertex transformed; `none` drops its triangle (R244). -/
def screenOf (b : List Nat) (p : Vec3) : Option Screen :=
  let c := fun (r : Nat) => clipCoord b r p
  if !fLt 0 (c 3) then none
  else
    let half := 0x3F000000
    let size := fun (o : Nat) => fInt ((fieldOf b o 2 * 256 : Nat) : Int)
    let px := rnInt (fMul (fFma (fDiv (c 0) (c 3)) half half) (size 64))
    let py := rnInt (fMul (fFma (fDiv (c 1) (c 3)) (fNeg half) half) (size 66))
    match px, py with
    | some x, some y => if 2 ^ 24 ≤ x.natAbs ∨ 2 ^ 24 ≤ y.natAbs then none else some ⟨x, y, fDiv (c 2) (c 3)⟩
    | _, _ => none

/-- The edge function (R244). -/
def edgeFn (a b : Screen) (px py : Int) : Int := (b.x - a.x) * (py - a.y) - (b.y - a.y) * (px - a.x)

/-- The edge covers the sample: inside, or on an edge that owns its points (R244). -/
def edgeCovers (a b : Screen) (px py : Int) : Bool :=
  let e := edgeFn a b px py
  let dx := b.x - a.x
  let dy := b.y - a.y
  decide (0 < e) || (decide (e = 0) && (decide (0 < dy) || (decide (dy = 0) && decide (dx < 0))))

/-- A fragment: its pixel and its depth code. -/
structure Frag where
  i : Nat
  j : Nat
  z : Nat
  deriving DecidableEq, Repr, Inhabited

/-- The fragment of an oriented triangle at a pixel; `none` where it is not covered or not kept (R244). -/
def fragAt (v0 v1 v2 : Screen) (i j : Nat) : Option Frag :=
  let px : Int := 256 * (i : Int) + 128
  let py : Int := 256 * (j : Int) + 128
  if edgeCovers v0 v1 px py && edgeCovers v1 v2 px py && edgeCovers v2 v0 px py then
    let e0 := fInt (edgeFn v1 v2 px py)
    let e1 := fInt (edgeFn v2 v0 px py)
    let e2 := fInt (edgeFn v0 v1 px py)
    let z := fDiv (fFma e2 v2.z (fFma e1 v1.z (fMul e0 v0.z))) (fInt (edgeFn v0 v1 v2.x v2.y))
    if fLe 0 z && fLe z 0x3F800000 then some ⟨i, j, if z = 0x80000000 then 0 else z⟩ else none
  else none

/-- The pixels whose samples lie between two screen coordinates, inside the picture. -/
def pixelRange (lo hi : Int) (n : Nat) : List Nat :=
  let first := (max 0 ((lo - 128) / 256)).toNat
  let last := (min ((n : Int) - 1) ((hi - 128) / 256 + 1)).toNat
  (List.range (last + 1 - first)).map (first + ·)

/-- The fragments of a triangle on the screen (R244). -/
def triFrags (width height : Nat) (cull : Bool) (v0 v1 v2 : Screen) : List Frag :=
  let area := edgeFn v0 v1 v2.x v2.y
  if area = 0 ∨ (area < 0 ∧ cull) then []
  else
    let a := if area < 0 then v2 else v1
    let b := if area < 0 then v1 else v2
    let xs := pixelRange (min v0.x (min a.x b.x)) (max v0.x (max a.x b.x)) width
    let ys := pixelRange (min v0.y (min a.y b.y)) (max v0.y (max a.y b.y)) height
    ys.flatMap fun j => xs.filterMap fun i => fragAt v0 a b i j

/-- The words that a cluster's fragments write, with their addresses (R245). -/
def clusterFrags (b : List Nat) (cull : Bool) (n : Nat) (c : Cluster) : List (W64 × Nat) :=
  let w := fieldOf b 64 2
  let h := fieldOf b 66 2
  let vs := c.verts.map (screenOf b)
  (List.range c.tris.length).flatMap fun m =>
    let t := c.tris.getD m (0, 0, 0)
    match vs.getD t.1 none, vs.getD t.2.1 none, vs.getD t.2.2 none with
    | some v0, some v1, some v2 =>
      if t.1 = t.2.1 || t.2.1 = t.2.2 || t.1 = t.2.2 then []
      else (triFrags w h cull v0 v1 v2).map fun x =>
        (BitVec.ofNat 64 (fieldOf b 72 8 + x.j * fieldOf b 68 4 + 8 * x.i), x.z * 2 ^ 32 + n * 2 ^ 7 + m)
    | _, _, _ => []

/-- The atomic minimum on one word at its home (R245). -/
def State.fragMin (s : State) (k : Nat) (o : MemOp) (x : W64 × Nat) : Acc Unit × State :=
  andThen (s.reach (.core (coreOf k)) (s.ctxOf k) ⟨k, o.seq, 0⟩ x.1 .both 0) fun r s =>
    let s := s.takeBack (r.1 / 128)
    let s := if x.2 < s.peekNat r.1 8 then s.writeBytes r.1 (leBytes 8 x.2) else s
    (.ok (), (s.l1Forget (coreOf k) (r.1 / 128)).watchDie (dieOf (coreOf k)) (s.accessor k o) true true x.1 8)

/-- The minima of a list of fragments, up to the first that faults or waits: minima made stay, and are made again (R246). -/
def State.fragMins (k : Nat) (o : MemOp) : List (W64 × Nat) → State → Acc Unit × State
  | [], s => (.ok (), s)
  | x :: xs, s => andThen (s.fragMin k o x) fun _ s => State.fragMins k o xs s

/-- .CULL of RAST (R236). -/
def rastCull : Instr → Bool
  | .rast f => bitOf f.mdn 0
  | _ => false

/-- The cluster at CURSOR of a RAST: the number of its fragments; `none` past the end of the cut. -/
def State.rastCluster (s : State) (k : Nat) (o : MemOp) : Acc (Option Nat) × State :=
  let buf := o.uni.headD 0
  andThen (s.readCut k o buf) fun h s =>
    if h.count ≤ o.cursor then (.ok none, s)
    else andThen (s.readGraph k o h.graph) fun g s =>
      andThen (s.cutRead k o buf (0x40 + 4 * o.cursor) 4) fun b s =>
        andThen (s.readCluster k o g (leNat b)) fun c s =>
          let fr := clusterFrags o.blk1 (rastCull o.ins) (leNat b) c
          andThen (State.fragMins k o fr s) fun _ s => (.ok (some fr.length), s)

/-- One cluster of the command that the rasteriser performs. -/
def State.rastStep (s : State) (k : Nat) (o : MemOp) : State :=
  match s.rastCluster k o with
  | (.wait, s) => s
  | (.fault f, s) => s.parkOp k o f
  | (.ok none, s) => s.finish k { o with got := [(0, o.count)].filter (fun e => e.2 != 0), prog := Tbl.write [] 0 o.full } 0
  | (.ok (some n), s) => s.setOp k { o with cursor := o.cursor + 1, count := o.count + n }

/-- A RAST. -/
def isRast : Instr → Bool
  | .rast _ => true
  | _ => false

/-- Commands whose descriptor has been read enter the rasteriser's queue of eight (R245, R246). -/
def State.rastAdmit (s : State) (ring : Nat) : State :=
  let s := s.modRing ring fun x => { x with rast := s.ringLive x.rast }
  (s.ringWaiting ring isRast (s.ring ring).rast).foldl (fun (s : State) x =>
    let o := x.2
    if 8 ≤ (s.ring ring).rast.length || !s.geoTurn x.1 o then s
    else
      let va := o.uni.getD 1 0
      match (if o.pass = 0 then s.geoRead x.1 o va 128 else (.ok o.blk1, s)) with
      | (.wait, s) => s
      | (.fault f, s) => s.parkOp x.1 o f
      | (.ok b, s) =>
        let o := { o with blk1 := b }
        if rasterOk b then
          (s.setOp x.1 { o with pass := 1 }).modRing ring fun y => { y with rast := y.rast ++ [(x.1, o.seq)] }
        else s.parkOp x.1 o { cls := 7, addr := va }) s

/-- RAST (R236, R245). -/
def execRast (f : Fields) (s : State) : Out :=
  let t := s.curT
  let act := t.active f.g s.cur.run
  let a := t.rs64 f.a.toNat
  let b := t.rs64 f.b.toNat
  if act = 0 then .next (s.retire id)
  else match firstOff [(a, 256, 0x32), (b, 128, 0x34)] with
    | some x => .next (s.trapWord 0x0A x.2 x.1)
    | none =>
      let o := { s.newOp (.rast f) act with uni := [a, b], single := true, size := 1 }
      .next ((s.launchWith t.rs o f true 1 none).rastAdmit (ringOf (coreOf s.cur.t)))

/-- RASTER_COMMAND (R244, R245): the rasteriser performs the next cluster of the command at its head. -/
def execRasterCommand (ring : Nat) (s : State) : Out :=
  let s := s.rastAdmit ring
  match (s.ring ring).rast.head? with
  | none => .next s
  | some (k, q) => match s.op k q with
    | some o => .next (s.rastStep k o)
    | none => .next s

end Sys2Proof.Machine
end

