-- ==== Sys2Proof/Machine/Texture.lean ====
section
/-!
DEFINITION. TEX, TEXG and TEXQ (R247 to R251, R404): the texture descriptor, a lane's footprint and its filtering.
-/
namespace Sys2Proof.Machine

/-! ### The descriptor and its levels (R247) -/

/-- A texture descriptor. -/
structure Tex where
  base : Nat
  width : Nat
  height : Nat
  levels : Nat
  fmt : Nat
  channels : Nat
  norm : Bool
  wrapU : Nat
  wrapV : Nat
  filter : Nat
  deriving DecidableEq, Repr, Inhabited

/-- The descriptor's fields; `none` where R247 is broken. -/
def texOf (b : List Nat) : Option Tex :=
  let tch := b.getD 14 0
  let tm := b.getD 15 0
  let t : Tex := {
    base := fieldOf b 0 8, width := fieldOf b 8 2 + 1, height := fieldOf b 10 2 + 1, levels := b.getD 12 0, fmt := b.getD 13 0,
    channels := tch % 4 + 1, norm := bitOf tch 2, wrapU := tm % 4, wrapV := bitsOf tm 3 2, filter := bitsOf tm 5 4 }
  if t.base % 16 = 0 && 1 ≤ t.levels && t.levels ≤ 16 && t.levels ≤ bitLen (max t.width t.height)
      && [0, 2, 3, 4, 5, 10, 11, 14, 15].contains t.fmt && tch / 8 == 0 && (!t.norm || (intFmt t.fmt).isSome)
      && tm / 64 == 0 && t.wrapU != 3 && t.wrapV != 3 && t.filter != 3 && fieldOf b 16 48 == 0 then some t
  else none

def Tex.w (t : Tex) (l : Nat) : Nat := max 1 (t.width / 2 ^ l)
def Tex.h (t : Tex) (l : Nat) : Nat := max 1 (t.height / 2 ^ l)
/-- Bytes of an element, and of a texel. -/
def Tex.elem (t : Tex) : Nat := fmtBits t.fmt / 8
def Tex.texel (t : Tex) : Nat := t.elem * t.channels
def Tex.pitch (t : Tex) (l : Nat) : Nat := padded (t.w l * t.texel)
/-- Where level `l` starts. -/
def Tex.start (t : Tex) (l : Nat) : Nat := (List.range l).foldl (fun a k => a + t.pitch k * t.h k) t.base

/-- Wraps a texel coordinate; `none` is a border texel (R248). -/
def wrapCoord (mode n : Nat) (i : Int) : Option Nat :=
  if 0 ≤ i ∧ i < n then some i.toNat
  else match mode with
    | 0 => some (i % (n : Int)).toNat
    | 1 => some (clampInt 0 ((n : Int) - 1) i).toNat
    | _ => none

/-- A channel's code as FP32 (R248). -/
def Tex.channel (t : Tex) (c : Nat) : Nat :=
  match decodeFmt t.fmt c with
  | .flt v => fp32.round 0 0 false v
  | .int i =>
    if !t.norm then fInt i
    else match intFmt t.fmt with
      | some (n, true) =>
        let d := (2 ^ (n - 1) : Nat) - 1
        fp32.divR 0 (.fin (decide (i < 0)) (min i.natAbs d) 0) (.fin false d 0)
      | some (n, false) => fp32.divR 0 (.fin false i.natAbs 0) (.fin false (2 ^ n - 1) 0)
      | none => 0

/-- A texel's four channels from its bytes; a missing channel reads 0, channel 3 1.0 (R248). -/
def Tex.decode (t : Tex) (b : List Nat) : List Nat :=
  (List.range 4).map fun k =>
    if k < t.channels then t.channel (fieldOf b (k * t.elem) t.elem) else if k = 3 then 0x3F800000 else 0

/-! ### The footprint (R249, R250) -/

/-- The floor of a finite value, and the floor of its fraction times 256, exactly. -/
def floorFrac (v : FVal) : Int × Nat :=
  match v with
  | .fin neg m e =>
    if 0 ≤ e then (signedMant neg (m * 2 ^ e.toNat), 0)
    else
      let d : Int := ((2 ^ (-e).toNat : Nat) : Int)
      let x := signedMant neg m
      (x / d, ((x % d) * 256 / d).toNat)
  | _ => (0, 0)

/-- The lane coordinate of R249, `fma(c, n, -0.5)`: its floor i0, and floor((ut - i0) * 256) with each step in FP32, which is 256
where the difference rounds up to 1; `none` when the coordinate test fails. -/
def laneCoord (c n : Nat) : Option (Int × Nat) :=
  let ut := fFma c (fInt n) 0xBF000000
  match fVal ut with
  | .fin neg m e =>
    let big : Bool := m != 0 && decide (24 ≤ e + (bitLen m : Int) - 1)
    if big then none
    else
      let i0 := (floorFrac (.fin neg m e)).1
      some (i0, (floorFrac (fVal (fMul (fSub ut (fInt i0)) (fInt 256)))).1.toNat)
  | _ => none

/-- The rounded level, the trilinear level and f8 (R249). -/
def Tex.level (t : Tex) (lod : Nat) : Nat × Nat × Nat :=
  let top : Int := (t.levels : Int) - 1
  match fVal lod with
  | .nan => (0, 0, 0)
  | .inf neg => if neg then (0, 0, 0) else (top.toNat, top.toNat, 0)
  | .fin neg m e =>
    let r := clampInt 0 top (roundInt 0 0 neg m e)
    let ff := floorFrac (.fin neg m e)
    let l0 := clampInt 0 top ff.1
    (r.toNat, l0.toNat, if (neg && m != 0) || l0 == top then 0 else ff.2)

/-- A texel that a lane reads: its level and its coordinates. -/
structure Tap where
  level : Nat
  x : Int
  y : Int
  deriving DecidableEq, Repr, Inhabited

/-- What a lane reads, with the offsets a8 and b8 of each level; `none` when the coordinate test fails (R249, R250). -/
structure Plan where
  taps : List Tap
  weights : List (Nat × Nat)
  f8 : Nat
  deriving DecidableEq, Repr, Inhabited

/-- The 2x2 footprint at a level, in the order of R250. -/
def Tex.quad (t : Tex) (u v l : Nat) : Option (List Tap × (Nat × Nat)) :=
  match laneCoord u (t.w l), laneCoord v (t.h l) with
  | some a, some b =>
    some ([⟨l, a.1, b.1⟩, ⟨l, a.1 + 1, b.1⟩, ⟨l, a.1, b.1 + 1⟩, ⟨l, a.1 + 1, b.1 + 1⟩], (a.2, b.2))
  | _, _ => none

/-- The floor of a coordinate times an extent, for nearest filtering (R249). -/
def nearestCoord (c n : Nat) : Int := (floorFrac (fVal (fMul c (fInt n)))).1

/-- A lane's plan; `gather` is TEXG's (R249, R250). -/
def Tex.plan (t : Tex) (gather : Bool) (u v lod : Nat) : Option Plan :=
  let (l, l0, f8) := t.level lod
  if gather || t.filter = 1 then (t.quad u v l).map fun q => { taps := q.1, weights := [q.2], f8 := 0 }
  else if t.filter = 0 then
    (t.quad u v l).map fun _ => { taps := [⟨l, nearestCoord u (t.w l), nearestCoord v (t.h l)⟩], weights := [], f8 := 0 }
  else if f8 = 0 then (t.quad u v l0).map fun q => { taps := q.1, weights := [q.2], f8 := 0 }
  else match t.quad u v l0, t.quad u v (l0 + 1) with
    | some a, some b => some { taps := a.1 ++ b.1, weights := [a.2, b.2], f8 := f8 }
    | _, _ => none

/-- The address of a tap; `none` for a border texel (R247, R248). -/
def Tex.tapAddr (t : Tex) (p : Tap) : Option W64 :=
  match wrapCoord t.wrapU (t.w p.level) p.x, wrapCoord t.wrapV (t.h p.level) p.y with
  | some x, some y => some (BitVec.ofNat 64 (t.start p.level + y * t.pitch p.level + x * t.texel))
  | _, _ => none

/-- Channel `c` of a texel of a footprint. -/
def tapChannel (ts : List (List Nat)) (i c : Nat) : Nat := (ts.getD i []).getD c 0

/-- R249's bilinear result in channel `c` from the four texels at `i`. -/
def bilinear (ts : List (List Nat)) (w : Nat × Nat) (i c : Nat) : Nat :=
  let t := fun (j : Nat) => tapChannel ts (i + j) c
  let n := fun (x : Nat) => fInt (x : Int)
  let h0 := fFma (t 1) (n w.1) (fMul (t 0) (n (256 - w.1)))
  let h1 := fFma (t 3) (n w.1) (fMul (t 2) (n (256 - w.1)))
  fMul (fFma h1 (n w.2) (fMul h0 (n (256 - w.2)))) 0x37800000

/-- A filtered channel (R249). -/
def filtered (p : Plan) (ts : List (List Nat)) (c : Nat) : Nat :=
  match p.weights with
  | [] => tapChannel ts 0 c
  | [w] => bilinear ts w 0 c
  | w0 :: w1 :: _ =>
    let n := fun (x : Nat) => fInt (x : Int)
    fMul (fFma (bilinear ts w1 4 c) (n p.f8) (fMul (bilinear ts w0 0 c) (n (256 - p.f8)))) 0x3B800000

/-- Four registers as one number. -/
def quadOf (f : Nat → Nat) : Nat := f 0 + 2 ^ 32 * f 1 + 2 ^ 64 * f 2 + 2 ^ 96 * f 3

/-! ### The operation (R251) -/

/-- Texels fetched: what was read, the mask of those that were not, and the first fault. -/
structure Fetched where
  texels : List (List Nat)
  miss : Nat
  bad : Option FaultInfo
  deriving DecidableEq, Repr, Inhabited

/-- Fetches a lane's texels in order; one that faults holds back no other. -/
def State.fetchTaps (k : Nat) (o : MemOp) (t : Tex) : Nat → List Tap → State → Acc Fetched × State
  | _, [], s => (.ok { texels := [], miss := 0, bad := none }, s)
  | bit, p :: ps, s =>
    let rest := fun (x : List Nat) (f : Option FaultInfo) (s : State) =>
      andThen (State.fetchTaps k o t (bit + 1) ps s) fun r s =>
        (.ok { texels := x :: r.texels, miss := r.miss + (if f.isSome then 2 ^ bit else 0), bad := f.orElse fun _ => r.bad }, s)
    match t.tapAddr p with
    | none => rest [0, 0, 0, 0] none s
    | some va => match s.geoRead k o va t.texel with
      | (.ok b, s) => rest (t.decode b) none s
      | (.fault f, s) => rest [] (some f) s
      | (.wait, s) => (.wait, s)

/-- The instruction gathers: TEXG, and its channel. -/
def texGather : Instr → Option Nat
  | .texg f => some (f.mdn % 4)
  | _ => none

/-- A lane's result from its texels (R249, R250). -/
def texResult (i : Instr) (p : Plan) (ts : List (List Nat)) : Nat :=
  match texGather i with
  | some c => quadOf fun j => tapChannel ts j c
  | none => quadOf fun c => filtered p ts c

/-- The plan of a lane of TEX or TEXG. -/
def MemOp.texPlan (o : MemOp) (t : Tex) (l : Nat) : Option Plan :=
  t.plan (texGather o.ins).isSome (o.dat.read l) (o.dat.read (l + 64)) (o.cmp.read l)

/-- MISS of a lane that has fetched nothing: a bit for each texel it reads (R251, R404). -/
def MemOp.missAll (o : MemOp) (t : Tex) (l : Nat) : Nat :=
  match o.texPlan t l with
  | none => 0
  | some p => (List.range p.taps.length).foldl (fun m i =>
      if (t.tapAddr (p.taps.getD i default)).isSome then m + 2 ^ i else m) 0

/-- A lane of TEX or TEXG. -/
def State.texLane (s : State) (k : Nat) (o : MemOp) (t : Tex) (l : Nat) : State :=
  match o.texPlan t l with
  | none => s.laneDone k o l (quadOf fun _ => fNan)
  | some p => match State.fetchTaps k o t 0 p.taps s with
    | (.wait, s) => s
    | (.fault f, s) => s.laneFault k o l 0 f
    | (.ok r, s) => match r.bad with
      | none => s.laneDone k o l (texResult o.ins p r.texels)
      | some f => s.laneFault k o l r.miss f

/-- A lane of TEXQ (R250). -/
def Tex.query (t : Tex) (k : Nat) : Nat :=
  if t.levels ≤ k then 0 else quadOf fun j => [t.w k, t.h k, t.levels, 0].getD j 0

/-- TEXTURE_SAMPLE (R249, R250): the sampler reads the descriptor, then takes lane after lane. -/
def execTextureSample (k q : Nat) (s : State) : Out :=
  match s.op k q with
  | none => .next s
  | some o =>
    let tex := match o.ins with | .tex _ | .texg _ | .texq _ => true | _ => false
    if !tex || !s.geoTurn k o then .next s
    else if o.pass = 0 then
      let va := o.uni.headD 0
      match s.geoRead k o va 64 with
      | (.wait, s) => .next s
      | (.fault f, s) => .next (s.parkOp k o f)
      | (.ok b, s) =>
        let o := { o with blk1 := b }
        .next (if (texOf b).isSome then s.setOp k { o with pass := 1 } else s.parkOp k o { cls := 7, addr := va })
    else match texOf o.blk1, o.nextLane with
      | some t, some l => match o.ins with
        | .texq _ => .next (s.finishOrKeep k ({ o with got := o.got.write l (t.query (o.dat.read l)) }.mark l o.full))
        | _ => .next (s.texLane k o t l)
      | _, _ => .next s

/-- The meaning TEX, TEXG and TEXQ share at issue (R236, R251): the sources are captured. -/
def texExec (i : Instr) (f : Fields) (recs : Nat) (s : State) : Out :=
  let t := s.curT
  let act := t.active f.g s.cur.run
  let b := t.rs64 f.b.toNat
  if act = 0 then .next (s.retire id)
  else match firstOff [(b, 64, 0x35)] with
    | some x => .next (s.trapWord 0x0A x.2 x.1)
    | none =>
      let o := { s.newOp i act with
        uni := [b], size := 1, cmp := laneTable act fun l => (t.rv f.e.toNat l).toNat
        dat := elemTable act 2 fun l j => (t.rv (f.a.toNat + j) l).toNat }
      .next (s.launchWith t.rs o f true recs none)

/-- TEX (R249). -/
def execTex (f : Fields) (s : State) : Out := texExec (.tex f) f 3 s
/-- TEXG (R250). -/
def execTexg (f : Fields) (s : State) : Out := texExec (.texg f) f 3 s
/-- TEXQ (R250). -/
def execTexq (f : Fields) (s : State) : Out := texExec (.texq f) f 1 s

end Sys2Proof.Machine
end

