-- ==== Sys2Proof/Machine/Records.lean ====
section
/-!
DEFINITION. Encore records and engine records as bytes: header, operand log and payload (R73, R74, R76, R152, R164, R193, R216,
R238, R242, R246, R251, R306, R315, R359), written from an operation and read back into one (R172 to R174).
-/
namespace Sys2Proof.Machine

/-! ### The operand log (R76) -/

/-- A source of the operand log: scalar `i`, or a per-lane table with element `j` and a width in bytes. -/
inductive LogSrc where
  | uni (i : Nat)
  | addr (j w : Nat)
  /-- An atomic's address before its offset is added (R305). -/
  | base (w : Nat)
  | dat (j w : Nat)
  | cmp (j w : Nat)
  | draw (j : Nat)
  deriving DecidableEq, Repr, Inhabited

/-- The bytes of a register's data (R76, R141). -/
def dataWidth (f : Fields) : Nat := match accessBits f with | 64 => 8 | 128 => 16 | _ => 4

/-- A loaded or stored lane's address sources (R143, R149). -/
def addrSrcs (f : Fields) (scratch : Bool) : List LogSrc :=
  if scratch && f.kind == 3 then [.uni 0, .uni 1, .uni 2, .cmp 0 4]
  else match f.kind with
    | 0 => [.cmp 0 (if scratch then 4 else 8)]
    | 1 => [.uni 0]
    | _ => [.uni 0, .cmp 0 4]

/-- The sources of an instruction, in log order. The draws of a packed operation are logged element by element: every lane's first
element, then every lane's second (R29, log entry 69). -/
def logPlan (i : Instr) (draws : Nat) : List LogSrc :=
  let f := i.fields
  let n := List.range (f.mdn % 4 + 1)
  let k := List.range (f.kind + 1)
  let am := bitsOf f.xn 19 18 == 1
  match i with
  | .ld f => addrSrcs f false
  | .lds f => addrSrcs f true
  | .st f => addrSrcs f false ++ [.dat 0 (dataWidth f)]
  | .sts f => addrSrcs f true ++ [.dat 0 (dataWidth f)]
  | .gath _ => .uni 0 :: k.map fun j => .cmp j 4
  | .scat f => .uni 0 :: ((k.map fun j => .cmp j 4) ++ k.map fun j => .dat j (dataWidth f))
  | .sld _ | .sldc _ | .tsread _ | .bar _ | .bara _ | .qpop _ => [.uni 0]
  | .tsadd _ | .tswait _ | .rast _ => [.uni 0, .uni 1]
  | .qpush _ => .uni 0 :: n.map fun j => .dat j 4
  | .cpl _ => [.addr 0 8, .cmp 0 4, .uni 0]
  | .atom f | .red f =>
    (if am then .uni 0 else .base 8) :: .dat 0 (atomSize f) :: (if bitsOf f.mdn 3 0 == 7 then [.cmp 0 (atomSize f)] else [])
  | .atoms f =>
    (if am then .uni 0 else .base 4) :: .dat 0 (atomSize f) :: (if bitsOf f.mdn 3 0 == 7 then [.cmp 0 (atomSize f)] else [])
  | .dcas _ => [.addr 0 8, .addr 1 8, .dat 0 16, .cmp 0 16]
  | .amov _ => [.addr 0 8, .addr 1 8, .dat 0 8]
  | .mcas _ => [.addr 0 8]
  | .accrd _ => [.uni 0, .cmp 0 4]
  | .accwr _ => .uni 0 :: .cmp 0 4 :: n.map fun j => .dat j 4
  | .cutsel _ => [.uni 0, .uni 1, .uni 2]
  | .rayt _ => [.uni 0, .uni 1, .cmp 0 4]
  | .rayr _ => [.uni 0, .uni 1, .cmp 0 4, .cmp 1 4]
  | .tex _ | .texg _ => [.dat 0 4, .dat 1 4, .uni 0, .cmp 0 4]
  | .texq _ => [.dat 0 4, .uni 0]
  | .cpt _ => (List.range 7).map .uni
  | .cps _ => (List.range 4).map .uni
  | .layex _ => [.uni 0, .uni 1]
  | .accst _ => [.uni 0, .uni 1, .uni 2]
  | i => if (bankBody i).isSome then .uni 0 :: (List.range draws).map .draw else []

/-- The draws that each lane of an operation took at issue. -/
def MemOp.drawCount (o : MemOp) : Nat := match o.draws with | [] => 0 | _ => o.draws.foldl (fun m e => max m (e.1 / 64 + 1)) 0

/-- The lanes whose sources the log holds: the active lanes not in DONE. -/
def MemOp.openLanes (o : MemOp) : List Nat := lanes.filter fun l => inMask o.act l && !inMask o.doneLanes l

/-- The offset of an atomic's address. -/
def atomOfs (f : Fields) : W64 := BitVec.ofInt 64 (f.ofs 16)

/-- The bytes of one source. -/
def MemOp.srcBytes (o : MemOp) (ls : List Nat) (x : LogSrc) : List Nat :=
  match x with
  | .uni i => leBytes 8 (o.uni.getD i 0).toNat
  | .addr j w => ls.flatMap fun l => leBytes w (o.addr.read (l + 64 * j)).toNat
  | .base w => ls.flatMap fun l => leBytes w (o.addr.read l - atomOfs o.ins.fields).toNat
  | .dat j w => ls.flatMap fun l => leBytes w (o.dat.read (l + 64 * j))
  | .cmp j w => ls.flatMap fun l => leBytes w (o.cmp.read (l + 64 * j))
  | .draw j => ls.flatMap fun l => leBytes 2 (o.draws.read (l + 64 * j))

/-- The operand log of an operation. -/
def MemOp.log (o : MemOp) : List Nat := (logPlan o.ins o.drawCount).flatMap (o.srcBytes o.openLanes)

/-- A table of `w` bytes for each lane of a list. -/
def laneWords (ls : List Nat) (j w : Nat) (b : List Nat) (m : Tbl Nat) : Tbl Nat :=
  (ls.zip (List.range ls.length)).foldl (fun (m : Tbl Nat) p => m.write (p.1 + 64 * j) (fieldOf b (w * p.2) w)) m

/-- Takes one source from the log. -/
def MemOp.takeSrc (o : MemOp) (ls : List Nat) (b : List Nat) (x : LogSrc) : MemOp × List Nat :=
  let n := ls.length
  let addrs := fun (m : Tbl Nat) (g : Nat → W64) => m.foldl (fun (a : Tbl W64) e => a.write e.1 (g e.2)) o.addr
  match x with
  | .uni _ => ({ o with uni := o.uni ++ [BitVec.ofNat 64 (fieldOf b 0 8)] }, b.drop 8)
  | .addr j w => ({ o with addr := addrs (laneWords ls j w b []) (BitVec.ofNat 64) }, b.drop (w * n))
  | .base w =>
    let sum := fun (v : Nat) => let a := BitVec.ofNat 64 v + atomOfs o.ins.fields; if w = 4 then (a.setWidth 32).setWidth 64 else a
    -- a base of 0 is listed too
    ({ o with addr := (ls.zip (List.range n)).foldl (fun (a : Tbl W64) p => a.write p.1 (sum (fieldOf b (w * p.2) w))) o.addr }, b.drop (w * n))
  | .dat j w => ({ o with dat := laneWords ls j w b o.dat }, b.drop (w * n))
  | .cmp j w => ({ o with cmp := laneWords ls j w b o.cmp }, b.drop (w * n))
  | .draw j => ({ o with draws := laneWords ls j 2 b o.draws }, b.drop (2 * n))

/-! ### The payload -/

/-- EDONE of GATH and SCAT (R152). -/
def MemOp.edone (o : MemOp) : Nat :=
  o.keys.foldl (fun m key => if o.keyDone key then m + 2 ^ (2 * (key % 64) + key / 64) else m) 0

/-- The payload of an operation. -/
def MemOp.payload (o : MemOp) : List Nat :=
  match o.ins with
  | .gath _ | .scat _ => leBytes 16 o.edone
  | .mcas _ => o.openLanes.map fun l => (o.locks.read l).retries
  | .cutsel _ =>
    leBytes 8 o.epoch ++ [o.pass, 0, 0, 0] ++ leBytes 4 o.cursor ++ leBytes 4 o.count ++ leBytes 4 o.misses
      ++ leBytes 4 (if o.degraded then 1 else 0) ++ leBytes 4 0 ++ (o.blk2 ++ List.replicate 128 0).take 128
      ++ (o.blk1 ++ List.replicate 64 0).take 64
  | .rayt _ => o.openLanes.flatMap fun l =>
      let x := o.best.read l
      if x = 0 then leBytes 4 fInf ++ leBytes 4 0xFFFFFFFF else leBytes 4 ((x - 1) / 2 ^ 32) ++ leBytes 4 ((x - 1) % 2 ^ 32)
  | .rast _ => leBytes 4 o.cursor ++ leBytes 4 0 ++ leBytes 8 o.count ++ (o.blk1 ++ List.replicate 128 0).take 128
  | .tex _ | .texg _ =>
    let miss := fun (l : Nat) =>
      if !inMask o.act l || inMask o.doneLanes l then 0
      else if o.thr.read l ≠ 0 then o.thr.read l - 1
      else match texOf o.blk1 with | some t => o.missAll t l | none => 0
    (o.blk1 ++ List.replicate 64 0).take 64 ++ lanes.map miss
  | _ => []

/-- What a record of class REMOTE carries after its payload: the tag word of each unfinished lane (R391). -/
def MemOp.tagWords (o : MemOp) : List Nat :=
  match o.park with
  | some p => if p.cls = 5 then (if o.single then leBytes 4 (o.tags.read 0) else o.openLanes.flatMap fun l => leBytes 4 (o.tags.read l)) else []
  | none => []

/-- Reads a payload back. -/
def MemOp.takePayload (o : MemOp) (ls : List Nat) (b : List Nat) : MemOp :=
  match o.ins with
  | .gath _ | .scat _ =>
    let e := fieldOf b 0 16
    { o with prog := o.keys.foldl (fun (m : Tbl Nat) key => if e.testBit (2 * (key % 64) + key / 64) then m.write key o.full else m) o.prog }
  | .mcas _ =>
    { o with locks := (ls.zip (List.range ls.length)).foldl (fun (m : Tbl LockLane) p =>
        m.write p.1 { m.read p.1 with retries := b.getD p.2 0 }) o.locks }
  | .cutsel _ =>
    { o with epoch := fieldOf b 0 8, pass := b.getD 8 0, cursor := fieldOf b 0xC 4, count := fieldOf b 0x10 4,
             misses := fieldOf b 0x14 4, degraded := bitOf (fieldOf b 0x18 4) 0, blk2 := (b.drop 0x20).take 128,
             blk1 := (b.drop 0xA0).take 64 }
  | .rayt _ =>
    { o with best := (ls.zip (List.range ls.length)).foldl (fun (m : Tbl Nat) p =>
        let t := fieldOf b (8 * p.2) 4
        let id := fieldOf b (8 * p.2 + 4) 4
        if id = 0xFFFFFFFF then m else m.write p.1 (2 ^ 32 * t + id + 1)) o.best }
  | .rast _ =>
    let d := (b.drop 16).take 128
    { o with cursor := fieldOf b 0 4, count := fieldOf b 8 8, blk1 := d, pass := if rasterOk d then 1 else 0 }
  | .tex _ | .texg _ => let d := b.take 64; { o with blk1 := d, pass := if (texOf d).isSome then 1 else 0 }
  | _ => o

/-! ### Records (R73, R74) -/

/-- The code of a park's state (R74). -/
def ParkState.code : ParkState → Nat
  | .pending => 1
  | .ready => 2
  | .fatal => 3

/-- The header of R74. -/
def recordHead (pc : W64) (seq : Nat) (p : Park) (unit cont : Nat) (word : IWord) (done act : Mask) (loglen paylen : Nat) : List Nat :=
  leBytes 8 pc.toNat ++ leBytes 4 seq ++ [p.cls, unit, cont, p.state.code] ++ leBytes 8 pc.toNat ++ leBytes 16 word.toNat
    ++ leBytes 8 done.toNat ++ leBytes 8 act.toNat ++ leBytes 8 p.addr.toNat ++ leBytes 2 p.fgen ++ [p.cgen, 0] ++ leBytes 4 p.detail
    ++ leBytes 2 loglen ++ leBytes 2 paylen ++ List.replicate 52 0

/-- Record `n` of a parked operation: its header and its share of the log and the payload (R74). -/
def recordBytes (pc : W64) (seq : Nat) (p : Park) (unit n : Nat) (word : IWord) (done act : Mask) (log pay : List Nat) : List Nat :=
  let all := log ++ pay
  let part := (all.drop (384 * n)).take 384
  let inLog := min part.length (log.length - 384 * n)
  recordHead pc seq p unit n word done act inLog (part.length - inLog) ++ part ++ List.replicate (384 - part.length) 0

/-- How many records a parked operation occupies (R73). -/
def recordCount (log pay : List Nat) : Nat := max 1 ((log.length + pay.length + 383) / 384)

/-- The bytes of encore record `r` of a troupe (R73, R74): zero where it holds no parked work. -/
def Troupe.record (t : Troupe) (r : Nat) : List Nat :=
  match t.ops.find? fun o => o.recs.contains r with
  | none => List.replicate 512 0
  | some o => match o.park with
    | none => List.replicate 512 0
    | some p =>
      let n := (o.recs.takeWhile (· != r)).length
      let log := o.log
      let pay := o.payload ++ o.tagWords
      if n < recordCount log pay then
        recordBytes o.pc o.seq p o.unit n o.word o.doneLanes o.act log pay
      else List.replicate 512 0

/-- A record is the first of a parked instruction (R91). -/
def Troupe.firstRec (t : Troupe) (r : Nat) : Option MemOp := t.ops.find? fun o => o.park.isSome && o.recs.head? == some r

/-- The stem of a record chain read back: header fields, log and payload. -/
structure RecordIn where
  pc : W64
  seq : Nat
  unit : Nat
  park : Park
  word : IWord
  done : Mask
  act : Mask
  log : List Nat
  pay : List Nat
  deriving DecidableEq, Repr, Inhabited

/-- The share of log and payload in one record. -/
def recordBody (b : List Nat) : List Nat × List Nat :=
  let n := fieldOf b 0x48 2
  ((b.drop 0x80).take n, (b.drop (0x80 + n)).take (fieldOf b 0x4A 2))

/-- Reads a chain of records of 512 bytes; `none` where the first is free or a continuation (R74). -/
def recordIn (clock : Nat) (rs : List (List Nat)) : Option RecordIn :=
  match rs with
  | [] => none
  | b :: _ =>
    let st := b.getD 0xF 0
    if st = 0 || 3 < st || b.getD 0xE 0 != 0 then none
    else
      let p : Park := {
        cls := b.getD 0xC 0, state := if st = 1 then .pending else if st = 2 then .ready else .fatal,
        addr := BitVec.ofNat 64 (fieldOf b 0x38 8), pa := 0, fgen := fieldOf b 0x40 2, cgen := b.getD 0x42 0,
        detail := fieldOf b 0x44 4, granule := 0, since := clock, write := bitOf (fieldOf b 0x44 4) 4, graph := false, item := 0, scratch := false, host := false }
      some {
        pc := BitVec.ofNat 64 (fieldOf b 0 8), seq := fieldOf b 8 4, unit := b.getD 0xD 0, park := p,
        word := BitVec.ofNat 128 (fieldOf b 0x18 16), done := BitVec.ofNat 64 (fieldOf b 0x28 8),
        act := BitVec.ofNat 64 (fieldOf b 0x30 8), log := rs.flatMap fun b => (recordBody b).1, pay := rs.flatMap fun b => (recordBody b).2 }

/-! ### An operation from its record (R77, R174) -/

/-- The size, elements and number of accesses that an instruction makes: bytes, elements of a lane, once for the troupe. -/
def opShape (i : Instr) : Nat × Nat × Bool :=
  let f := i.fields
  match i with
  | .ld f | .st f | .lds f | .sts f => (accessBytes f, 1, false)
  | .gath f | .scat f => (accessBytes f, f.kind + 1, false)
  | .sld _ | .sldc _ => ((match f.var with | 0 => 8 | 1 | 2 => 1 | 3 | 4 => 2 | _ => 4), 1, true)
  | .tsadd _ | .tswait _ | .tsread _ | .bar _ | .bara _ => (8, 1, true)
  | .qpush _ | .cutsel _ | .rast _ => (1, 1, true)
  | .qpop f => (4, f.mdn % 4 + 1, false)
  | .cpl f => (4 * 2 ^ (f.mdn % 4), 1, false)
  | .atom f | .atoms f | .red f => (atomSize f, 1, false)
  | .accrd f | .accwr f => (4, f.mdn % 4 + 1, false)
  | .iadd64 _ | .isub64 _ | .imadw _ | .imad64 _ | .isetp64 _ | .dadd _ | .dmul _ | .dfma _ | .dmin _ | .dmax _ | .dsetp _ | .drcp _
  | .smov _ | .sadd _ | .ssub _ | .smul _ | .smad _ | .smin _ | .smax _ | .ssetp _ | .ssel _ => (8, 1, true)
  | i => if (bankBody i).isSome then (4, 1, true) else (1, 1, false)

/-- The release and the acquire of an instruction (R291, R292). -/
def opOrder (i : Instr) : Bool × Bool :=
  let f := i.fields
  match i with
  | .ld _ | .lds _ | .gath _ => (false, bitsOf f.xn 25 24 == 1)
  | .st _ | .sts _ | .scat _ => (bitsOf f.xn 25 24 == 1, false)
  | .tsadd _ => (!bitOf f.mdn 1, false)
  | .tswait _ | .qpop _ => (false, true)
  | .tsread _ => (false, bitOf f.mdn 1)
  | .bar _ => (true, true)
  | .bara _ | .qpush _ => (true, false)
  | .atom _ | .atoms _ | .red _ | .dcas _ | .amov _ | .mcas _ => (ordRel f, ordAcq f)
  | _ => (false, false)

/-- The instruction takes its flags until it completes: it has a register result (R51). -/
def opHasResult (i : Instr) : Bool :=
  let f := i.fields
  match i with
  | .st _ | .sts _ | .scat _ | .qpush _ | .cpl _ | .red _ | .bar _ | .bara _ | .accwr _ => false
  | .tsadd _ | .tsread _ => f.d.toNat != 63
  | .tswait _ => f.d.toNat != 7
  | _ => true

/-- The addresses that follow from the logged sources (R46, R143, R149, R150, R305), and the bytes that later lanes replace (R146);
`param` is the parameter pointer of the company. -/
def MemOp.readdress (o : MemOp) (param : W64) : MemOp :=
  let f := o.ins.fields
  let act := o.act &&& ~~~o.done
  let u := fun (i : Nat) => o.uni.getD i 0
  let fromLanes := fun (scratch : Bool) =>
    let nib := isNibble f
    let w : LayWord := { w0 := (u 0).toNat % 2 ^ 32, w1 := (u 1).toNat % 2 ^ 32, w2 := (u 2).toNat % 2 ^ 32 }
    let at' := fun (l : Nat) => if scratch && f.kind == 3 then layoutAddr nib w (o.cmp.read l)
      else nibbleAddr nib (laneSum f scratch (u 0) (o.cmp.read l))
    { o with addr := laneTable act fun l => (at' l).1, nib := laneTable act fun l => (at' l).2 }
  let fromElems :=
    let at' := fun (l j : Nat) => nibbleAddr (isNibble f) (u 0 + (BitVec.ofInt 64 (signedOf 32 (o.cmp.read (l + 64 * j))) <<< bitsOf f.xn 18 16)
      + BitVec.ofInt 64 (signedOf 16 (f.xn % 65536)))
    { o with addr := elemTable act o.elems fun l j => (at' l j).1, nib := elemTable act o.elems fun l j => (at' l j).2 }
  let kept := fun (o : MemOp) => { o with drop := { o with act := act }.overwritten (isNibble f) }
  match o.ins with
  | .ld _ => fromLanes false
  | .lds _ => fromLanes true
  | .st _ => kept (fromLanes false)
  | .sts _ => kept (fromLanes true)
  | .gath _ => fromElems
  | .scat _ => kept fromElems
  | .sld _ | .sldc _ => { o with addr := Tbl.write [] 0 (u 0) }
  | .tsadd _ | .tswait _ | .tsread _ =>
    { o with addr := Tbl.write [] 0 (tsAddr (bitOf f.mdn 0) (u 0)), dat := Tbl.write [] 0 (u 1).toNat, target := u 1 }
  | .bar _ | .bara _ => { o with addr := Tbl.write [] 0 (tsAddr true (u 0)) }
  | .cpl _ =>
    let dest := if bitOf f.mdn 2 then o.addr else laneTable act fun l => BitVec.ofNat 64 (o.cmp.read l)
    { o with target := u 0, drop := { o with addr := dest, act := act }.overwritten false }
  | .atom _ | .red _ => if bitsOf f.xn 19 18 = 1 then { o with addr := laneTable act fun _ => u 0 + atomOfs f } else o
  | .atoms _ =>
    if bitsOf f.xn 19 18 = 1 then { o with addr := laneTable act fun _ => ((u 0 + atomOfs f).setWidth 32).setWidth 64 } else o
  | .accrd _ | .accwr _ => { o with addr := laneTable act fun l => u 0 + BitVec.ofNat 64 (o.cmp.read l) }
  | i => if (bankBody i).isSome then { o with addr := Tbl.write [] 0 (param + u 0) } else o

/-- The operation that a record chain describes, for a troupe of `n` registers and a parameter pointer; `none` where its word is no
instruction. -/
def RecordIn.op (r : RecordIn) (calliope : Bool) (n : Nat) (param : W64) (clock : Nat) (recs : List Nat) : Option MemOp :=
  match decodeFor calliope n r.word with
  | .error _ => none
  | .ok i =>
    let sh := opShape i
    let od := opOrder i
    let o : MemOp := { (default : MemOp) with
      seq := r.seq, stamp := clock, pc := r.pc, ins := i, word := r.word, run := r.act, act := r.act, done := r.done
      size := sh.1, elems := sh.2.1, single := sh.2.2, rel := od.1, acq := od.2
      flags := if opHasResult i then Fields.flags i.fields else [], recs := recs, park := some { r.park with scratch := isScratchOp i }, replayed := true }
    let ls := lanes.filter fun l => inMask r.act l && (sh.2.2 || !inMask r.done l)
    let draws := if (bankBody i).isSome then (r.log.length - 8) / (2 * ls.length) else 0
    let x := (logPlan i draws).foldl (fun (a : MemOp × List Nat) y => a.1.takeSrc ls a.2 y) (o, r.log)
    let o := x.1.readdress param
    let o := if sh.2.2 then o
      else { o with prog := (lanes.filter (inMask r.done)).foldl (fun (m : Tbl Nat) l =>
        (List.range o.elems).foldl (fun (m : Tbl Nat) j => m.write (l + 64 * j) o.full) m) o.prog }
    let o := o.takePayload ls r.pay
    let o := if r.park.cls = 5 then
        let n := if sh.2.2 then 1 else ls.length
        let b := r.pay.drop (r.pay.length - 4 * n)
        { o with tags := if sh.2.2 then Tbl.write [] 0 (fieldOf b 0 4) else laneWords ls 0 4 b [] }
      else o
    some { o with given := (List.range o.elems).foldl (fun (m : Tbl Mask) j =>
      m.write j (maskOf fun l => inMask o.act l && !o.single && o.keyDone (l + 64 * j))) [] }

/-- What a save delivers of a parked operation: the results of finished lanes and elements, which no record holds (R77). -/
def MemOp.deliverDone (o : MemOp) (t : Troupe) : Troupe :=
  if o.single || isLaneless o.ins then t
  else match o.ins with
    | .gath f | .accrd f =>
      (List.range o.elems).foldl (fun (t : Troupe) j =>
        let m := maskOf fun l => inMask o.act l && o.keyDone (l + 64 * j) && !inMask (o.given.read j) l
        deliverTo (match o.ins.layout.d with | .range _ => .vec | .strict _ => .vec | x => x) (f.d.toNat + j) o.level m
          (fun l => o.val (l + 64 * j)) t) t
    | _ => { o with act := o.doneLanes }.deliver 0 t
where
  /-- Instructions that deliver nothing lane by lane. -/
  isLaneless : Instr → Bool
    | .qpop _ | .cpl _ => true
    | i => !opHasResult i

/-! ### Engine records (R164, R216, R359) -/

/-- The log and the payload of an engine command. -/
def EngCmd.body (x : EngCmd) : List Nat × List Nat :=
  let u := fun (n : Nat) => (List.range n).flatMap fun i => leBytes 8 (x.u i).toNat
  match x.ins with
  | .cpt _ =>
    let (t0, t1, _) := x.tile
    (u 7, (x.blk ++ List.replicate 64 0).take 64 ++ leBytes 8 x.delivered ++ leBytes 4 (x.done % t0) ++ leBytes 4 (x.done / t0 % t1)
      ++ leBytes 4 (x.done / t0 / t1) ++ leBytes 4 0 ++ leBytes 8 x.added)
  | .cps _ => (u 4, leBytes 8 x.done ++ leBytes 8 x.added ++ List.replicate 144 0)
  | _ => (u 2, leBytes 8 x.done ++ leBytes 8 x.added ++ leBytes 8 x.pos ++ leBytes 2 x.rs.toNat ++ List.replicate 6 0
      ++ (x.blk ++ List.replicate 128 0).take 128)

/-- The record of a parked engine command. -/
def EngCmd.record (x : EngCmd) (p : Park) : List Nat :=
  recordBytes x.pc x.seq p 1 0 x.word 0 x.run x.body.1 x.body.2

/-- The record of a parked ACCST add (R216). -/
def AccAdd.record (a : AccAdd) (p : Park) : List Nat :=
  let x := a.cmd
  let f := x.ins.fields
  recordBytes x.pc x.seq p 2 0 x.word 0 x.run ((List.range 3).flatMap fun i => leBytes 8 (x.uni.getD i 0).toNat)
    (leBytes 8 (128 * (f.xn % 2048 + 1)) ++ [if bitOf f.mdn 0 then 1 else 0] ++ List.replicate 7 0)

/-- An engine command from its record. -/
def RecordIn.cmd (r : RecordIn) (i : Instr) (t company ctx : Nat) : EngCmd :=
  let uni := (List.range (r.log.length / 8)).map fun j => BitVec.ofNat 64 (fieldOf r.log (8 * j) 8)
  let x : EngCmd := {
    t := t, seq := r.seq, pc := r.pc, ins := i, word := r.word, run := r.act, company := company, ctx := ctx, uni := uni, blk := [],
    started := false, done := 0, delivered := 0, added := 0, pos := 0, rs := 0, adding := 0, closing := 0, park := some r.park }
  match i with
  | .cpt _ =>
    let (t0, t1, _) := x.tile
    let d := r.pay.take 64
    let y := { x with
      blk := d, started := d.any (· != 0), delivered := fieldOf r.pay 0x40 8, added := fieldOf r.pay 0x58 8
      done := fieldOf r.pay 0x48 4 + t0 * (fieldOf r.pay 0x4C 4 + t1 * fieldOf r.pay 0x50 4) }
    y
  | .cps _ => { x with started := true, done := fieldOf r.pay 0 8, delivered := fieldOf r.pay 0 8, added := fieldOf r.pay 8 8 }
  | _ =>
    let b := (r.pay.drop 0x20).take 128
    let y := { x with blk := b, started := b.any (· != 0), done := fieldOf r.pay 0 8, added := fieldOf r.pay 8 8,
                      pos := fieldOf r.pay 0x10 8, rs := BitVec.ofNat 16 (fieldOf r.pay 0x18 2) }
    { y with delivered := y.done * y.unitBytes }

end Sys2Proof.Machine
end

