-- ==== Sys2Proof/Machine/Walk.lean ====
section
/-!
DEFINITION. What the part reads by physical address, context descriptors and the walks of page tables, as its agents make them
(R318 to R323, R420).
-/
namespace Sys2Proof.Machine

/-! ### Reads by physical address (R420) -/

/-- A read by physical address carries no translation and no context (R420). -/
def State.physEntry (s : State) (w : Nat × Nat) : TlbEntry :=
  { ctx := 4096, cgen := 0, va := 0, size := 52, pa := 0, r := true, w := true, x := true, mt := s.mtOf w, graph := false, frame := 0,
    fgen := 0, group := 0 }

/-- Reaches a physical line at its home, by the path that the window of its address gives (R376, R420). -/
def State.physReach (s : State) (w : Asker) (pa : Nat) (k : AccKind) : Acc (Option LineData) × State :=
  match s.window pa with
  | none => (.fault { cls := 4, detail := 8, pa := pa }, s)
  | some x => s.arrive w (BitVec.ofNat 64 pa) (s.physEntry x) pa k 0

/-- Reads bytes of one line at its current copy. -/
def State.physRead (s : State) (w : Asker) (pa n : Nat) : Acc (List Nat) × State :=
  match s.physReach w pa .read with
  | (.ok (some d), s) => (.ok ((List.range n).map fun i => (lineByte d (pa % 128 + i)).toNat), s)
  | (.ok none, s) => (.ok (s.peek pa n), s.readHome (pa / 128))
  | (.fault f, s) => (.fault f, s)
  | (.wait, s) => (.wait, s)

/-- The part writes a line by physical address (R376): false where the address lies in no window, or its line is lost. A write waits
for no granule. -/
def State.physWrite (s : State) (w : Asker) (pa : Nat) : Acc Bool × State :=
  match s.physReach w pa .both with
  | (.ok _, s) => (.ok true, s)
  | (.fault f, s) => (.ok (f.cls == 2), s)
  | (.wait, s) => (.wait, s)

/-- The part writes several lines by physical address, in order: all of them, or none. -/
def State.physWrites (w : Asker) : List Nat → State → Acc Bool × State
  | [], s => (.ok true, s)
  | pa :: ps, s =>
    match s.physWrite w pa with
    | (.ok true, s) => State.physWrites w ps s
    | r => r

/-- A granule that the part needs for itself is asked for once (R346, R420). -/
def State.fillOnce (s : State) (ctx granule : Nat) : State :=
  if s.cache.fce.batch.any fun r => r.granule == granule then s
  else s.askFill { granule := granule, ctx := ctx, graph := false, va := 0, item := 0 }

/-- The descriptor that a launch, restore or walk needs: kept, or read now. A granule of it that is absent is filled under either
setting of FAULTSVC, and what needs it waits (R318, R420). -/
def State.readDesc (s : State) (c : Nat) : Acc CtxDesc × State :=
  match if (s.ctx c).stale then none else (s.ctx c).desc with
  | some d => (.ok d, s)
  | none => match s.physRead ⟨2 ^ 42, c, 0⟩ (s.descAddr c) 64 with
    | (.ok b, s) => (.ok (descOfBytes b), s.modCtx c fun x => { x with desc := some (descOfBytes b), stale := false })
    | (.fault f, s) => if f.cls = 2 && f.granule != 0 then (.wait, s.fillOnce c (f.granule - 1)) else (.fault f, s)
    | (.wait, s) => (.wait, s)

/-! ### Walks (R319, R322, R323) -/

/-- The level-4, level-3 or level-2 entry that a die's walker keeps for an address (R322). -/
def State.keptEntry (s : State) (d ctx level va : Nat) : Option W64 :=
  ((s.die d).upper.find? fun e => e.ctx == ctx && e.level == level && e.index == va / 2 ^ levelShift level).map (·.entry)

/-- A die's walker keeps an upper entry: 256 of them, the latest first (R322). -/
def State.keepEntry (s : State) (d ctx level va : Nat) (e : W64) : State :=
  if level < 2 then s
  else
    let x : WalkEntry := { ctx := ctx, level := level, index := va / 2 ^ levelShift level, entry := e }
    s.modDie d fun y => { y with upper := (x :: y.upper.filter fun z => !(z.ctx == ctx && z.level == level && z.index == x.index)).take 256 }

/-- A walk reads the entry of a level (R322, R323): the kept one, or the table's at its current copy. -/
def State.walkRead (s : State) (d ctx level va table : Nat) : Acc W64 × State :=
  match s.keptEntry d ctx level va with
  | some e => (.ok e, s)
  | none =>
    let pa := entryAddr table level va
    match s.physRead ⟨2 ^ 41 + d, va / 4096 + 2 ^ 45 * ctx, 0⟩ pa 8 with
    | (.ok b, s) => (.ok (BitVec.ofNat 64 (leNat b)), s)
    | (.fault f, s) => (.fault { f with pa := pa, detail := if f.cls = 2 then 8 + level else f.detail }, s)
    | (.wait, s) => (.wait, s)

/-- One level of a walk (R319). -/
def State.walkLevel (d ctx cgen va level table : Nat) (next : Nat → State → Acc TlbEntry × State) (s : State) : Acc TlbEntry × State :=
  match s.walkRead d ctx level va table with
  | (.fault f, s) => (.fault f, s)
  | (.wait, s) => (.wait, s)
  | (.ok e, s) => match s.walkEntry ctx cgen va level (entryAddr table level va) e.toNat with
    | .leaf x => (.ok x, s.keepEntry d ctx level va e)
    | .table pa => next pa (s.keepEntry d ctx level va e)
    | .fault f => (.fault f, s)

/-- The walk from a level down (R319). -/
def State.walkDown (d ctx cgen va : Nat) : Nat → Nat → State → Acc TlbEntry × State
  | 0, table, s => State.walkLevel d ctx cgen va 0 table (fun _ s => (.fault { cls := 7 }, s)) s
  | level + 1, table, s =>
    State.walkLevel d ctx cgen va (level + 1) table (fun next s => State.walkDown d ctx cgen va level next s) s

/-- The walk of a context's tables for a page; a context whose descriptor lies in no window has no tables to walk (R319, R420). -/
def State.walkNow (s : State) (d ctx va : Nat) : Acc TlbEntry × State :=
  match s.readDesc ctx with
  | (.ok x, s) => State.walkDown d ctx (s.ctx ctx).cgen va 4 x.root.toNat s
  | (.fault f, s) => (.fault f, s)
  | (.wait, s) => (.wait, s)

end Sys2Proof.Machine
end

