-- ==== Sys2Proof/Machine/System.lean ====
section
/-!
DEFINITION. The system registers, PERF, SNAP and TLBI (R7 to R9, R89 to R92, R105, R106, R269, R341, R342).
-/
namespace Sys2Proof.Machine

/-! ### The capability list (R7 to R9) -/

/-- The payload words of the records of R9, in the order in which the list holds them. -/
def CapList.records (c : CapList) : List (Nat × List Nat) :=
  [(1, [1]),
   (2, [c.spareCores % 256 + 2 ^ 8 * (c.spareRows % 2048) + 2 ^ 19 * (c.spareSlices % 16) + 2 ^ 24 * (c.remapped.length % 256),
        c.spareChange % 2 ^ 32]),
   (3, [(if c.compress.any (·.1) then 1 else 0) + (if c.compress.any (!·.1) then 2 else 0)]),
   (4, [31]),
   (5, [c.pkg % 128 + 2 ^ 8 * (c.domain % 128)])]

/-- The words of the records from an offset on: each NEXT lies above its record's end, by a gap of the part's (R7, R8). -/
def capWords : List (Nat × List Nat) → Nat → List (Nat × Nat)
  | [], _ => []
  | (id, pay) :: rs, off =>
    let len := pay.length + 1
    let after := off + 8 * len + 8 + 8 * (Config.capGap id % 1024)
    let next := if rs.isEmpty then 0 else after
    (off, id + 2 ^ 16 + 2 ^ 24 * len + 2 ^ 32 * next) ::
      ((pay.zip (List.range pay.length)).map fun p => (off + 8 + 8 * p.2, p.1)) ++ capWords rs after

/-- The offset of the list's first record. -/
def capFirst : Nat := 0x1008 + 8 * (Config.capGap 0 % 1024)

/-- The word of the management window at an offset (R7). -/
def State.windowWord (s : State) (off : Nat) : W64 :=
  match ((0x1000, s.caps.change % 2 ^ 32 + 2 ^ 32 * capFirst) :: capWords s.caps.records capFirst).find? fun e => e.1 == off with
  | some e => BitVec.ofNat 64 e.2
  | none => Config.windowWord off

/-! ### System registers (R89 to R92) -/

/-- The numbers that R89 lists. -/
def sysListed (n : Nat) : Bool :=
  n ≤ 0xA || (0x10 ≤ n && n ≤ 0x17) || n == 0x20 || n == 0x21 || (0x400 ≤ n && n ≤ 0x4FF) || (0x1000 ≤ n && n ≤ 0xFFF8)

/-- IDENT (R90): the troupe's index and its place. -/
def State.ident (s : State) (k : Nat) : Nat := (s.tr k).index % 32 + 32 * (k % 2 ^ 15) + 2 ^ 20 * (s.caps.pkg % 128)

/-- COMPANY (R90). -/
def State.companyWord (s : State) (k : Nat) : Nat :=
  let c := s.co (s.tr k).company
  c.index % 2 ^ 40 + 2 ^ 40 * ((c.troupes - 1) % 32) + (if c.paired then 2 ^ 45 else 0)
    + (if c.paired && coreOf k != c.core then 2 ^ 46 else 0)

/-- Coordinates in the layout of GRIDPOS (R90). -/
def gridWord (x y z : Nat) : Nat := x % 2 ^ 22 + 2 ^ 22 * (y % 2 ^ 21) + 2 ^ 43 * (z % 2 ^ 21)

/-- The position of a company in its grid (R90, R362). -/
def Co.gridPos (c : Co) : Nat := gridWord (c.index % c.dimx) (c.index / c.dimx % c.dimy) (c.index / (c.dimx * c.dimy))

/-- ENCORESTAT (R91). -/
def Troupe.encoreStat (t : Troupe) : Nat :=
  (List.range 4).foldl (fun m r =>
    let st := (t.record r).getD 0xF 0
    m + (if t.ops.any fun o => o.recs.contains r then 2 ^ r else 0) + (if st = 2 then 2 ^ (4 + r) else 0)
      + (if st = 3 then 2 ^ (8 + r) else 0) + (if (t.firstRec r).isSome then 2 ^ (12 + r) else 0)) 0

/-- The value of a system register that can be read (R89). ISSUESEQ reads as it was before the SYSR's own issue (log entry 70). -/
def State.sysRead (s : State) (k n : Nat) : W64 :=
  let t := s.tr k
  let c := s.co t.company
  let num := BitVec.ofNat 64
  match n with
  | 0x00 => num (s.ident k)
  | 0x01 => num (s.companyWord k)
  | 0x02 => num c.gridPos
  | 0x03 => num (gridWord (c.dimx - 1) (c.dimy - 1) (c.dimz - 1))
  | 0x04 => c.param
  | 0x05 => c.stkbase
  | 0x06 => num c.stksize
  | 0x07 => num (c.depth % 16)
  | 0x08 => s.cur.seq.setWidth 64
  | 0x09 => t.seed.setWidth 64
  | 0x0A => num s.clock
  | 0x10 => num t.level
  | 0x11 => t.trcause
  | 0x12 => t.trpc
  | 0x13 => t.trmask
  | 0x14 => t.trval
  | 0x15 => t.trword.setWidth 64
  | 0x16 => t.trword.extractLsb' 64 64
  | 0x17 => ((s.descriptor c.ctx).map (·.trvec)).getD 0
  | 0x20 => num t.encoreStat
  | n =>
    if 0x1000 ≤ n then s.windowWord n
    else num (fieldOf (t.record ((n - 0x400) / 64)) (8 * (n % 64)) 8)

/-- SYSR (R92, R105). -/
def execSysr (f : Fields) (s : State) : Out :=
  let n := f.xn
  if !s.curT.enabled f.g then .next (s.retire id)
  else if !sysListed n then .next (s.trapWord 8 1 (BitVec.ofNat 64 n))
  else if n = 0x21 then .next (s.trapWord 8 2 (BitVec.ofNat 64 n))
  else .next (s.retire fun t => t.ws f.d.toNat (s.sysRead s.cur.t n))

/-- ENCORECTL (R78, R91): a fatal record is retried or discarded. -/
def State.encoreCtl (s : State) (k : Nat) (v : Nat) : State :=
  match (s.tr k).firstRec (v % 4) with
  | none => s
  | some o =>
    match o.park with
    | none => s
    | some p =>
      if p.state ≠ .fatal then s
      else if v / 4 % 4 = 1 then s.discardOp k o
      else if v / 4 % 4 = 0 then
        -- back to pending service: the service of its class starts again
        let r := s.service (s.opSite k o) { p.info with unmappable := p.cls == 1 && !canonical p.addr }
        let s := r.2.setOp k { o with park := some r.1 }
        if r.1.state = .fatal then s.fatalOp k { o with park := some r.1 } else s
      else s

/-- SYSW (R92, R105). -/
def execSysw (f : Fields) (s : State) : Out :=
  let n := f.xn
  let bad := fun (d : Nat) => Host.Outcome.next (s.trapWord 8 d (BitVec.ofNat 64 n))
  let v := s.curT.rs64 f.a.toNat
  if !s.curT.enabled f.g then .next (s.retire id)
  else if !sysListed n then bad 1
  else if n ≠ 9 && n ≠ 0x12 && n ≠ 0x21 then bad 2
  else if n ≠ 9 && s.curT.level = 0 then bad 3
  else if n = 9 then .next (s.retire fun t => t.seedLanes (v.setWidth 16))
  else if n = 0x12 then .next (s.retire fun t => { t with trpc := v })
  else .next ((s.retire id).encoreCtl s.cur.t v.toNat)

/-- PERF (R106): the issue of the PERF itself is counted already. -/
def execPerf (f : Fields) (s : State) : Out :=
  let n := f.xn
  if !s.curT.enabled f.g then .next (s.retire id)
  else if 0x16 < n then .next (s.trapWord 8 1 (BitVec.ofNat 64 n))
  else
    .next (s.retire fun t => t.ws f.d.toNat (BitVec.ofNat 64 (match n with
      | 0x10 => t.issues
      | 0x11 => t.replays
      | 0x12 => t.cycles
      | 0x13 => t.forced
      | 0x14 => t.windows
      | 0x15 => t.faults
      | 0x16 => t.traps
      | n => t.stalls.read n)))

/-- SEQ of the next snapshot: 1 to 65,535, then 1 again (R255). -/
def Snapshot.nextSeq (x : Snapshot) : Nat := x.seq % 65535 + 1

/-- SNAP (R269): with the debug right and no held snapshot it triggers or joins one. -/
def execSnap (f : Fields) (s : State) : Out :=
  if !s.curT.enabled f.g then .next (s.retire id)
  else if (s.ctx (s.ctxOf s.cur.t)).debug && !s.snap.lock then
    .next ((s.trigger 0).retire fun t => t.ws f.d.toNat (BitVec.ofNat 64 s.snap.nextSeq))
  else .next (s.retire fun t => t.ws f.d.toNat 0)

/-- TLBI (R341, R342): .VA and .ALL leave the troupe to wait for the accesses in flight that used what they drop. -/
def execTlbi (f : Fields) (s : State) : Out :=
  let c := s.ctxOf s.cur.t
  if !s.curT.enabled f.g then .next (s.retire id)
  else if !(((s.descriptor c).map (·.tlbiok)).getD false) then .next (s.trapOpen 0x0A 0x50)
  else
    let s' := s.retire id
    let va := s.curT.rs64 f.a.toNat
    let drop := fun (blk : Option (Nat × Nat)) =>
      Host.Outcome.next ((s'.modTr s.cur.t fun t => { t with waits := s'.usersOf c blk }).dropBlock c blk)
    match f.mdn % 4 with
    | 0 =>
      let n := f.xn % 64
      if canonical va then drop (some (va.toNat % 2 ^ 57 / 2 ^ n * 2 ^ n, n)) else .next s'
    | 1 => drop none
    | _ => .next (s'.bumpCgen c)

end Sys2Proof.Machine
end

