-- ==== Sys2Proof/Machine/Services.lean ====
section
/-!
DEFINITION. Walks, ATS, page requests, the fault queue and the control block, and the end of a context (R322 to R343, R383 to R385).
-/
namespace Sys2Proof.Machine

/-! ### Parks by their site -/

/-- The site of an access of the launch scheduler that is held. -/
def SchedHold.site (h : SchedHold) : Nat × Nat := (2 ^ 40 + h.ctx, h.park.addr.toNat)

/-- The park of a site: an operation, an engine command, a turnstile add, at `2^32` plus its PC a held fetch, or an access of the
launch scheduler; with its context. -/
def State.sitePark (s : State) (t q : Nat) : Option (Nat × Park) :=
  if 2 ^ 40 ≤ t then (s.sched.find? fun h => h.site == (t, q)).map fun h => (h.ctx, h.park)
  else if 2 ^ 32 ≤ q then
    ((s.tr t).holds.find? fun h => h.pc.toNat == q - 2 ^ 32).map fun h => (s.ctxOf t, h.park)
  else match s.op t q with
    | some o => o.park.map fun p => (s.ctxOf t, p)
    | none =>
      match s.engines.findSome? fun e => e.2.find? fun x => x.t == t && x.seq == q with
      | some x => x.park.map fun p => (x.ctx, p)
      | none =>
        match s.cores.findSome? fun e => e.2.adds.find? fun a => a.cmd.t == t && a.cmd.seq == q with
        | some a => a.park.map fun p => ((s.co a.cmd.company).ctx, p)
        | none => none

/-- Changes the park of a site. -/
def State.setSite (s : State) (t q : Nat) (f : Park → Park) : State :=
  if 2 ^ 40 ≤ t then { s with sched := s.sched.map fun h => if h.site == (t, q) then { h with park := f h.park } else h }
  else if 2 ^ 32 ≤ q then
    s.modTr t fun t => { t with holds := t.holds.map fun h => if h.pc.toNat == q - 2 ^ 32 then { h with park := f h.park } else h }
  else match s.op t q with
    | some o => s.setOp t { o with park := o.park.map f }
    | none =>
      { s with
        engines := s.engines.mapAll fun _ l => l.map fun x => if x.t == t && x.seq == q then { x with park := x.park.map f } else x
        cores := s.cores.mapAll fun _ c => { c with adds := c.adds.map fun a =>
          if a.cmd.t == t && a.cmd.seq == q then { a with park := a.park.map f } else a } }

/-- A pending park of a site becomes ready (R77). -/
def State.readySite (s : State) (t q : Nat) : State :=
  match s.sitePark t q with
  | some (_, p) => if p.state = .pending then s.setSite t q fun p => { p with state := .ready } else s
  | none => s

/-- A pending park of a site becomes fatal (R78, R84, R332, R336). -/
def State.condemnSite (s : State) (t q : Nat) : State :=
  match s.sitePark t q with
  | none => s
  | some (_, p) =>
    if p.state ≠ .pending then s
    else if t < 2 ^ 40 && q < 2 ^ 32 then
      match s.op t q with
      | some o => s.condemnOp t o
      | none => s.setSite t q fun p => { p with state := .fatal }
    else s.setSite t q fun p => { p with state := .fatal }

/-- The sites with a pending park that satisfies `f`, which sees the context. -/
def State.pendingSites (s : State) (f : Nat → Park → Bool) : List (Nat × Nat) :=
  let keep := fun (c : Nat) (p : Option Park) => match p with | some p => p.state == .pending && f c p | none => false
  (s.troupes.flatMap fun e =>
    let c := (s.co e.2.company).ctx
    (e.2.ops.filter fun o => keep c o.park).map (fun o => (e.1, o.seq)) ++
      (e.2.holds.filter fun h => keep c (some h.park)).map fun h => (e.1, 2 ^ 32 + h.pc.toNat)) ++
  (s.engines.flatMap fun e => (e.2.filter fun x => keep x.ctx x.park).map fun x => (x.t, x.seq)) ++
  (s.cores.flatMap fun e => (e.2.adds.filter fun a => keep (s.co a.cmd.company).ctx a.park).map fun a => (a.cmd.t, a.cmd.seq)) ++
  (s.sched.filter fun h => keep h.ctx (some h.park)).map SchedHold.site

/-! ### Walks and ATS (R322 to R324, R383, R384) -/

/-- A walk or an ATS request has found a fault (R323, R330). -/
def State.foundFault (s : State) (d ctx page : Nat) (f : FaultInfo) : State :=
  s.modWalk d ctx page fun w => some { w with found := some f.keep }

/-- A walk or an ATS request ends with a translation, which the last level takes (R321, R322, R324). -/
def State.foundEntry (s : State) (d ctx page : Nat) (e : TlbEntry) : State :=
  (s.modWalk d ctx page fun _ => none).putLast d e

/-- TRANSLATION_WALK (R322): a walk in flight reads what it can of the tables, and ends with the translation or with the fault of
the accesses that missed. -/
def execTranslationWalk (q : WalkSite) (va : BitVec 64) (s : State) : Out :=
  let v := va.toNat % 2 ^ 57
  match (s.die q.die).walkOf q.ctx v with
  | none => .next s
  | some w =>
    if w.ats || w.found.isSome then .next s
    else match s.walkNow q.die q.ctx v with
      | (.ok e, s) => .next (s.foundEntry q.die q.ctx (v / 4096) e)
      | (.fault f, s) => .next (s.foundFault q.die q.ctx (v / 4096) f)
      | (.wait, s) => .next s

/-- The last level's entry for an ATS completion, at most 1 GiB wide; its memory type is the address map's (R324). -/
def atsEntry (ctx cgen v : Nat) (g : AtsGrant) : TlbEntry :=
  let n := max 12 (min g.size 30)
  let base := (if 30 < g.size then g.pa / 2 ^ g.size * 2 ^ g.size + v % 2 ^ g.size else g.pa) / 2 ^ n * 2 ^ n
  { ctx := ctx, cgen := cgen, va := v / 2 ^ n * 2 ^ n, size := n, pa := base % 2 ^ 52, r := g.read, w := g.write, x := g.exec, mt := 3,
    graph := false, frame := 0, fgen := 0, group := 0 }

/-- A completion that gives no translation (R324, R383). -/
def atsRefused (g : AtsGrant) : Bool := g.untranslatedOnly || g.error || (!g.read && !g.write)

/-- ATS_COMPLETION (R324, R342, R383): the answer to a request in flight: passed over when the request has been sent again, else
installed, or a TRANSLATION fault. -/
def execAtsCompletion (q : WalkSite) (va : BitVec 64) (g : AtsGrant) (s : State) : Out :=
  let v := va.toNat % 2 ^ 57
  match (s.die q.die).walkOf q.ctx v with
  | none => .next s
  | some w =>
    if !w.ats || w.found.isSome then .next s
    else if w.old ≠ 0 then .next (s.modWalk q.die q.ctx (v / 4096) fun w => some { w with old := w.old - 1 })
    else if atsRefused g then .next (s.foundFault q.die q.ctx (v / 4096) { cls := 1 })
    else .next (s.foundEntry q.die q.ctx (v / 4096) (atsEntry q.ctx (s.ctx q.ctx).cgen v g))

/-- The live contexts whose descriptor names a PASID. -/
def State.pasidContexts (s : State) (pasid : Nat) : List Nat :=
  (s.contexts.filter fun e => match e.2.desc with | some d => d.pasid == pasid | none => false).map (·.1)

/-- ATS_INVALIDATION (R343, R384): TLBI.VA on every context with the PASID; `span` is log2 of the range's bytes. It is in flight
until the accesses that used what it drops have ended; an ITag that is in flight names no second request. -/
def execAtsInvalidation (pasid : Nat) (va : BitVec 64) (span itag : Nat) (s : State) : Out :=
  let blk := some (va.toNat % 2 ^ 57 / 2 ^ span * 2 ^ span, span)
  let cs := s.pasidContexts pasid
  if 32 ≤ itag || s.invals.any (fun i => i.itag == itag) || !canonical va || cs.isEmpty then .next s
  else
    let i : Inval := { itag := itag, waits := cs.flatMap fun c => s.usersOf c blk }
    let s := cs.foldl (fun (s : State) c => s.dropBlock c blk) s
    .next (if i.waits.isEmpty then s else { s with invals := s.invals ++ [i] })

/-! ### Page requests (R336, R385) -/

/-- The batch window is open: 2,000 cycles from its first fault, and up to its 64th (R336, R346). -/
def State.prgOpen (s : State) : Bool := s.clock < s.fq.prgWindow && s.fq.prgCount < 64

/-- The number of the window that the next fault falls in. -/
def State.prgNo (s : State) : Nat := if s.prgOpen then s.fq.prgNo else s.fq.prgNo + 1

/-- A fault falls in the open window, or opens one. -/
def State.prgEnter (s : State) : State :=
  { s with fq := { s.fq with
    prgNo := s.prgNo, prgWindow := if s.prgOpen then s.fq.prgWindow else s.clock + 2000, prgCount := if s.prgOpen then s.fq.prgCount + 1 else 1 } }

/-- The page requests outstanding. -/
def State.prgLoad (s : State) : Nat := (s.fq.prgs.map fun g => g.pages.length).foldl (· + ·) 0

/-- The lowest PRG index that is free for a PASID. -/
def State.prgIndex (s : State) (pasid : Nat) : Nat :=
  ((List.range 512).find? fun i => !s.fq.prgs.any fun g => g.pasid == pasid && g.idx == i).getD 0

/-- PAGE_REQUEST (R336): a pending fault joins or opens the group of its span; it waits while no group or request is free. -/
def execPageRequest (t q : Nat) (s : State) : Out :=
  match s.sitePark t q with
  | none => .next s
  | some (c, p) =>
    if !p.host || p.state ≠ .pending || !(p.cls == 1 || p.cls == 2) || s.fq.prgs.any (fun g => !g.dead && g.members.contains (t, q)) then .next s
    else
      let page := p.addr.toNat % 2 ^ 57 / 4096
      let span := page / 16
      let joins := fun (g : Prg) => !g.dead && g.ctx == c && g.span == span && g.cgen == (s.ctx c).cgen && g.window == s.prgNo
      match s.fq.prgs.find? joins with
      | some g =>
        let more := !g.pages.contains page
        if more && (s.reg 0x10000).toNat ≤ s.prgLoad then .next s
        else
          let g' := { g with members := g.members ++ [(t, q)], pages := if more then g.pages ++ [page] else g.pages }
          .next ({ s with fq := { s.fq with prgs := s.fq.prgs.map fun x => if x == g then g' else x } } : State).prgEnter
      | none =>
        if 512 ≤ s.fq.prgs.length || (s.reg 0x10000).toNat ≤ s.prgLoad then .next s
        else
          let pasid := ((s.descriptor c).map (·.pasid)).getD 0
          let g : Prg := {
            idx := s.prgIndex pasid, pasid := pasid, ctx := c, cgen := (s.ctx c).cgen, span := span, dead := false, members := [(t, q)],
            pages := [page], window := s.prgNo }
          .next ({ s with fq := { s.fq with prgs := s.fq.prgs ++ [g] } } : State).prgEnter

/-- Requests are served as a batch of their own: one for each granule, spans in ascending address (R346). -/
def State.closeBatch (s : State) (reqs : List FillReq) : State :=
  let turn := s.cache.fce.turn + 1
  let one := reqs.foldl (fun (l : List FillReq) r =>
    if l.any fun x => x.granule == r.granule then l.map fun x => if x.granule == r.granule then { x with more := x.more ++ [r.item] } else x
    else l ++ [r]) []
  s.modFce fun f => { f with turn := turn, waiting := one.foldl (fun l r => placeReq { r with turn := turn } l) f.waiting }

/-- The request of a member of a group whose granule the engine is to serve (R336, R346). -/
def State.prgRequest (s : State) (m : Nat × Nat) : Option FillReq :=
  match s.sitePark m.1 m.2 with
  | none => none
  | some (c, p) =>
    if p.state = .pending && p.cls = 2 && p.granule ≠ 0 && !s.granulePresent (4096 * (p.granule - 1)) then
      some { granule := p.granule - 1, ctx := c, graph := p.graph, va := p.addr.toNat / 4096, item := p.item }
    else none

/-- The members of a group that succeeded: the granules of RESIDENCY records are served as a batch of their own, and a granule that
is already being served is waited for; every other record is ready (R336, R346). -/
def State.prgServe (s : State) (ms : List (Nat × Nat)) : State :=
  let known := fun (r : FillReq) => (s.cache.fce.fills ++ s.cache.fce.waiting).any fun x => x.granule == r.granule
  let reqs := (ms.filterMap s.prgRequest).filter fun r => !known r
  (ms.filter fun m => (s.prgRequest m).isNone).foldl (fun (s : State) m => s.readySite m.1 m.2)
    (if reqs.isEmpty then s else s.closeBatch reqs)

/-- PRG_RESPONSE (R336): applied to a live group of the current generation, else discarded with a TYPE 0x08 record. -/
def execPrgResponse (pasid idx : Nat) (r : PrgCode) (s : State) : Out :=
  let drop := fun (s : State) (c : Nat) =>
    s.frqRaise { type := 8, ctx := c, cgen := (s.ctx c).cgen, detail := idx % 512, value := BitVec.ofNat 64 (pasid % 2 ^ 20) }
  match s.fq.prgs.find? fun g => g.pasid == pasid && g.idx == idx with
  | none => .next (drop s 0)
  | some g =>
    let s := { s with fq := { s.fq with prgs := s.fq.prgs.filter fun x => x != g } }
    if g.dead || g.cgen ≠ (s.ctx g.ctx).cgen || (s.ctx g.ctx).dead then .next (drop s g.ctx)
    else match r with
      | .success => .next (s.prgServe g.members)
      | code =>
        let s := if code = .failure then s.modCtx g.ctx fun x => { x with prifail := true } else s
        .next (g.members.foldl (fun (s : State) m => (s.setSite m.1 m.2 fun p => if p.state = .pending then { p with cls := 1 } else p).condemnSite m.1 m.2) s)

/-- CTXSTATE_PRIFLUSH (R336): the host frees the context's dead groups. -/
def execCtxstatePriflush (ctx : Nat) (s : State) : Out := s.onBar <|
  .next { s with fq := { s.fq with prgs := s.fq.prgs.filter fun g => !(g.dead && g.ctx == ctx) } }

/-- PRIFAIL_CLEAR (R333). -/
def execPrifailClear (ctx : Nat) (s : State) : Out := s.onBar <| .next (s.modCtx ctx fun x => { x with prifail := false })

/-! ### The fault queue (R332 to R335) -/

/-- The fault queue's writes are accesses of the part by physical address (R376). -/
def State.frqReach (s : State) (pa : Nat) : Acc Bool × State := s.physWrite ⟨2 ^ 43, 0, 0⟩ pa

/-- The add to the queue's turnstile after a record (R175, R334, R335). -/
def State.frqAdd (s : State) (pa : Nat) : State :=
  let r := s.addHome pa 1
  if r.1 then r.2.frqRaise { type := 4, pa := pa, value := 1 } else r.2

/-- FAULT_RECORD_FLUSH (R334, R335, R376): the oldest record on its way to the queue is written once there is room, as record TAIL;
TAIL advances, and the turnstile at FRQTS is added to with release. A record that cannot be written is dropped. -/
def execFaultRecordFlush (s : State) : Out :=
  match s.fq.buffer with
  | [] => .next s
  | b :: bs =>
    if s.frqFull then .next s
    else
      let n := (s.reg 0x28).toNat % 2 ^ 32
      let pa := (s.reg 0x10).toNat % 2 ^ 52 + 64 * (n % s.frqSlots)
      let ts := (s.reg 0x30).toNat % 2 ^ 52
      match s.frqReach pa with
      | (.ok false, s) => .next ({ s with fq := { s.fq with buffer := bs } } : State).frqLose
      | (.ok true, s) => match if ts = 0 then (.ok false, s) else s.frqReach ts with
        | (.ok add, s) =>
          let s : State := { s with fq := { s.fq with buffer := bs } }
          let s := (s.writeBytes pa (b.take 0x2C ++ leBytes 4 n ++ b.drop 0x30)).setReg 0x28 (BitVec.ofNat 64 ((n + 1) % 2 ^ 32))
          .next (if add then s.frqAdd ts else s)
        | (_, s) => .next s
      | (_, s) => .next s

/-- The site of a TYPE 0x02 record's park: the launch scheduler's, a held fetch's, or that of a launch site (R334, R335). -/
def recordSite (b : List Nat) : Nat × Nat :=
  if fieldOf b 2 1 = 0x0A then (2 ^ 40 + fieldOf b 4 2, fieldOf b 0x18 8)
  else (fieldOf b 0x2A 2, if fieldOf b 0x38 8 = 0xFE then 2 ^ 32 + fieldOf b 8 8 else fieldOf b 0x10 4)

/-- FRQSIZE_WRITE (R333, R335): rounded down; at 0 every fault that still waits for its TYPE 0x02 record is unmappable. -/
def execFrqsizeWrite (v : BitVec 64) (s : State) : Out := s.onBar <|
  let n := v.toNat % 2 ^ 32 / 4096 * 4096
  let s := s.setReg 0x18 (BitVec.ofNat 64 (n + (if bitOf v.toNat 32 then 2 ^ 32 else 0)))
  if n ≠ 0 then .next s
  else
    let late := s.fq.buffer.filter fun b => b.headD 0 == 2
    let s := { s with fq := { s.fq with buffer := s.fq.buffer.filter fun b => b.headD 0 != 2 } }
    .next (late.foldl (fun (s : State) b =>
      let x := recordSite b
      (s.frqLose).condemnSite x.1 x.2) s)

/-- A pending TRANSLATION park of a context in the block of `2^span` bytes that holds FRESUMEVA (R332). -/
def State.resumes (s : State) (ctx span c : Nat) (p : Park) : Bool :=
  c == ctx && p.cls == 1 && (12 ≤ span && span ≤ 57) && p.addr.toNat % 2 ^ 57 / 2 ^ span == (s.reg 0x40).toNat % 2 ^ 57 / 2 ^ span

/-- FRESUME_RETRY (R332). -/
def execFresumeRetry (ctx span : Nat) (s : State) : Out := s.onBar <| .next (s.readyIf (s.resumes ctx span))

/-- FRESUME_UNMAPPABLE (R332). -/
def execFresumeUnmappable (ctx span : Nat) (s : State) : Out := s.onBar <|
  .next ((s.pendingSites (s.resumes ctx span)).foldl (fun (s : State) x => s.condemnSite x.1 x.2) s)

/-! ### The control block (R333) -/

/-- DUTYSPLIT_WRITE (R333). -/
def execDutysplitWrite (v : BitVec 64) (s : State) : Out := s.onBar <| .next (s.setReg 0 (v &&& 0x3F))

/-- CTXSTATE_RELOAD (R333, R420): the descriptor is read again, now or when its granule has been filled, and every translation
of the context is dropped. -/
def execCtxstateReload (ctx : Nat) (s : State) : Out := s.onBar <|
  .next (((s.modCtx ctx fun x => { x with stale := true }).readDesc ctx).2.dropBlock ctx none)

/-- CTXSTATE_END (R339). -/
def execCtxstateEnd (ctx : Nat) (s : State) : Out := s.onBar <| .next (s.startEnd ctx 3 0)

/-- CTXSTATE_REVIVE (R329, R333): ignored while an end is in progress; the advance may have to wait. -/
def execCtxstateRevive (ctx : Nat) (s : State) : Out := s.onBar <|
  if (s.ctx ctx).endReason ≠ 0 then .next (s.modCtx ctx fun x => { x with revive := false })
  else if s.genHold ctx then .next (s.modCtx ctx fun x => { x with revive := true })
  else .next ((s.modCtx ctx fun x => { x with dead := false, revive := false }).bumpCgen ctx)

/-! ### The end of a context (R339) -/

/-- What a company holds of a core beyond its slots leaves it: matrix commands, adds, waiters, banks and arrays. -/
def Core.without (x : Core) (mine : Nat → Bool) : Core :=
  { x with
    queue := x.queue.filter fun y => !mine y.company
    adds := x.adds.filter fun a => !mine a.cmd.company
    waiters := x.waiters.filter fun w => !mine w.company
    bankOwner := x.bankOwner.filter fun e => !(e.2 != 0 && mine (e.2 - 1))
    array := if x.array.holder ≠ 0 ∧ mine (x.array.holder - 1) then { x.array with holder := 0 } else x.array
    window := if x.window ≠ 0 ∧ mine (x.window - 1) then 0 else x.window }

/-- The slot holds a troupe of one of the companies. -/
def State.slotOf (s : State) (mine : Nat → Bool) (k : Nat) : Bool := (s.tr k).resident && mine (s.tr k).company

/-- The package gives up everything that companies hold: locks, accesses in flight, slots, engine commands, matrix state. -/
def State.evict (s : State) (mine : Nat → Bool) : State :=
  let s := s.dropLocks fun x => s.slotOf mine (x / 64)
  let cs := ((s.companies.filter fun e => mine e.1).map (·.1))
  let s := { s with
    flights := s.flights.filter fun f => !s.slotOf mine f.who.t
    troupes := s.troupes.filter fun e => !mine e.2.company
    engines := s.engines.mapAll fun _ l => l.filter fun x => !mine x.company
    cores := s.cores.mapAll fun _ x => x.without mine }
  -- banks that came free may let a waiter of another company go on (R207)
  (nubNat (cs.map fun k => (s.co k).core)).foldl (fun (s : State) c => (s.accTest c).accTest (c + 1)) s

/-- The tags, as origin and number, that lanes of saved companies keep bound (R391). -/
def State.keptTags (s : State) (mine : Nat → Bool) : List (Nat × Nat) :=
  (s.companies.filter fun e => mine e.1 && e.2.st == .saved).flatMap fun e => e.2.kept.flatMap fun t => t.ops.flatMap fun o =>
    o.tags.map fun x => (x.2 / 2 ^ 24 % 2 ^ 7, x.2 % 2 ^ 24)

/-- CONTEXT_END (R329, R339): the advance of the generation may have to wait. -/
def execContextEnd (ctx : Nat) (s : State) : Out :=
  let x := s.ctx ctx
  if x.endReason = 0 || s.genHold ctx then .next s
  else
    let mine := fun (k : Nat) => (s.co k).ctx == ctx && (s.co k).st != .none
    -- an abandon for each tag that is bound to a lane of the context, a saved company's too (R391)
    let bound := s.keptTags mine
    let tags := s.fabric.tags.filter fun g => !(2 ≤ g.what && (s.slotOf mine g.t || bound.contains (g.origin, g.num)))
    -- its troupes end here (R266)
    let s := (s.troupes.filter fun e => s.slotOf mine e.1 && !e.2.ended).foldl (fun (s : State) e =>
      s.traceRec e.1 0x10 0 e.2.issueseq.toNat 0 e.2.summary s.clock) s
    let s := s.evict mine
    let s := { s with
      companies := s.companies.mapAll fun _ (c : Co) => if c.ctx == ctx && c.st != CoState.none then { c with st := .retired, slots := [] } else c
      shows := s.shows.mapAll fun _ (h : Show) => if h.ctx == ctx then { h with live := false } else h
      posts := s.posts.filter fun p => (s.co p.parent).ctx != ctx
      stops := s.stops.filter fun p => p.ctx != ctx
      sched := s.sched.filter fun h => h.ctx != ctx
      fabric := { s.fabric with tags := tags }
      fq := { s.fq with prgs := s.fq.prgs.map fun (g : Prg) => if g.ctx == ctx then { g with dead := true } else g } }
    let s := s.bumpCgen ctx
    let s := s.modCtx ctx fun c => { c with dead := true, endReason := 0, endCause := 0 }
    .next (s.frqRaise { type := 5, ctx := ctx, cgen := (s.ctx ctx).cgen, detail := x.endReason, value := x.endCause })

end Sys2Proof.Machine
end

