-- ==== Sys2Proof/Machine/PageCache.lean ====
section
/-!
DEFINITION. The GDDR-7 page cache: the fault coalescing engine, victims, reclaim, errors and frame control (R344 to R353, R371,
R378, R381).
-/
namespace Sys2Proof.Machine

/-! ### Frames and granules -/

/-- The frames of the page cache (R344). -/
def frameCount : Nat := 2097152

/-- The keys of a table that lie in `a .. a + n - 1`, taken out. -/
def dropRange {α : Type} (m : Tbl α) (a n : Nat) : Tbl α := m.filter fun e => e.1 < a || a + n ≤ e.1

/-- Copies `n` bytes from key `a` of one table to key `b` of another. -/
def copyRange (src dst : Tbl Byte) (a b n : Nat) : Tbl Byte :=
  (src.filter fun e => a ≤ e.1 && e.1 < a + n).foldl (fun (m : Tbl Byte) e => m.write (b + (e.1 - a)) e.2) (dropRange dst b n)

/-- The span of a physical address in a pool that the host may also cache: KIND 2 (R345, R377). -/
def State.sharedSpan (s : State) (span : Nat) : Bool :=
  match s.window (65536 * span) with | some (2, _) => true | _ => false

/-- Granule `g` lands in its span's frame: its lines are read from the backing memory, as shared in a shared span (R346, R378). -/
def State.fillGranule (s : State) (g : Nat) : State :=
  match s.frameOf (4096 * g) with
  | none => s
  | some f =>
    let x := s.frame f
    if x.fstate ≠ 1 || x.resmask.getLsbD (g % 16) then s
    else
      let pool := if x.shared then (List.range 32).foldl (fun (m : Tbl Nat) i => m.write (32 * g + i) 1) s.cache.pool else s.cache.pool
      let s := { s with cache := { s.cache with
        gddr := copyRange s.mem s.cache.gddr (4096 * g) (65536 * f + 4096 * (g % 16)) 4096, pool := pool } }
      s.modFrame f fun x => { x with resmask := x.resmask ||| BitVec.ofNat 16 (2 ^ (g % 16)), accessed := true }

/-- Records and held fetches that wait for a granule become ready (R77, R346). -/
def State.wakeGranule (s : State) (g : Nat) : State := s.readyIf fun _ p => p.granule == g + 1

/-! ### Victims (R349, R350) -/

/-- Takes the head of a die's cold queue, judged again; `none` where the queue is empty. -/
def coldVictim (d : Nat) : List Nat → State → Option Nat × State
  | [], s => (none, s)
  | f :: fs, s =>
    let s := s.modDie d fun x => { x with cold := fs }
    let x := s.frame f
    if x.fstate = 2 || x.newspan ≠ 0 then coldVictim d fs s
    else if x.pinned || x.error || x.accessed then coldVictim d fs (s.modFrame f fun x => { x with accessed := false })
    else (some f, s)

/-- VLBASE, VLSIZE, VLHEAD and VLTAIL of a die (R353). -/
def State.vl (s : State) (d i : Nat) : Nat := (s.reg (0x9020 + 32 * d + 8 * i)).toNat

/-- Raises VLTAIL past an entry. -/
def State.vlNext (s : State) (d : Nat) : State := s.setReg (0x9038 + 32 * d) (BitVec.ofNat 64 ((s.vl d 3 + 1) % 2 ^ 32))

/-- A 57-bit virtual address that a register holds, sign-extended (R5). -/
def signVa (v : Nat) : W64 := (BitVec.ofNat 57 v).signExtend 64

/-- The asker of a die's victim list. -/
def victimAsker (d : Nat) : Asker := { t := 2 ^ 44, q := d, lane := 0 }

/-- Takes the next usable entry of a die's victim list, in host context 0. -/
def listVictim (d : Nat) : Nat → State → Option Nat × State
  | 0, s => (none, s)
  | n + 1, s =>
    let size := s.vl d 1 % 2 ^ 32
    if s.vl d 2 % 2 ^ 32 = s.vl d 3 || size = 0 then (none, s)
    else
      let va := signVa (s.vl d 0) + BitVec.ofNat 64 (4 * (s.vl d 3 % size))
      match s.homeAccess (.die d) 0 (victimAsker d) va .read 0 with
      | (.wait, s) => (none, s)
      | (.fault f, s) =>
        let r : FRec := {
          type := 3, cls := f.cls, unit := 0x0D, ctx := 0, cgen := f.cgen, detail := f.detail, va := va, pa := f.pa, fgen := f.fgen }
        listVictim d n ((s.vlNext d).frqRaise r)
      | (.ok (_, pa, took), s) =>
        let s := (s.readHome (pa / 128)).vlNext d
        let e := match took with | some l => leNat ((List.range 4).map fun i => (lineByte l (pa % 128 + i)).toNat) | none => s.peekNat pa 4
        let f := e % 2 ^ 21
        let x := s.frame f
        if 2 ^ 21 ≤ e || f / 2 ^ 19 ≠ d || x.pinned || x.error || x.fstate = 2 || x.newspan ≠ 0 then listVictim d n s else (some f, s)

/-- A victim on a die (R349, R350). -/
def State.victim (s : State) (d : Nat) : Option Nat × State :=
  if s.victimHost then listVictim d ((s.vl d 2 + 2 ^ 32 - s.vl d 3) % 2 ^ 32) s else coldVictim d (s.die d).cold s

/-- A frame takes a span (R351, step 5). -/
def State.giveFrame (s : State) (f span : Nat) (graph : Bool) : State :=
  let shared := s.sharedSpan span
  ({ s with cache := { s.cache with gddr := dropRange s.cache.gddr (65536 * f) 65536 } }).modFrame f fun x =>
    { x with span := span, fstate := 1, resmask := 0, dirtymask := 0, accessed := false, shared := shared, graph := graph, errs := [],
             error := false, stage := 0, newspan := 0 }

/-- The frame that has the span, or is being taken for it. -/
def State.spanFrame (s : State) (span : Nat) : Option (Nat × Frame) :=
  (s.cache.frames.find? fun e => (e.2.fstate == 1 && e.2.newspan == 0 && e.2.span == span) || e.2.newspan == span + 1)

/-- The first waiting request leaves the list: its granule is filled next, is present, or is no longer wanted. -/
def State.leaveReq (s : State) : State := s.modFce fun f => { f with waiting := f.waiting.drop 1 }

/-- The first waiting request is served (R346): its granule's fill begins, or it has nothing to fetch. It waits for its span's frame,
a victim, or a miss entry (`none`); a prediction that would wait for a victim or an entry is dropped (R347). -/
def State.pumpHead (s : State) (r : FillReq) : Bool × State :=
  let span := r.granule / 16
  let fill := fun (s : State) =>
    if 20480 < s.pathLoad 4 + 32 then (if r.pred then (true, s.leaveReq) else (false, s))
    else (true, s.leaveReq.modFce fun f => { f with fills := f.fills ++ [r] })
  match s.spanFrame span with
  | some (_, x) =>
    if x.newspan ≠ 0 then (false, s)
    else if x.resmask.getLsbD (r.granule % 16) then (true, s.leaveReq.wakeGranule r.granule)
    else if s.cache.fce.fills.any fun y => y.granule == r.granule then (true, s.leaveReq)
    else fill s
  | none =>
    -- the span's old frame is still being reclaimed, or a victim is taken
    if (s.frameOf (65536 * span)).isSome then (false, s)
    else match s.victim (span % 4) with
      | (none, s) => if r.pred then (true, s.leaveReq) else (false, s)
      | (some f, s) =>
        if (s.frame f).fstate = 0 then fill (s.giveFrame f span r.graph)
        else (false, s.modFrame f fun x => { x with newspan := span + 1 })

/-- The waiting requests are served in order, as far as they go without a wait; at most one turn for each. -/
def State.pumpN : Nat → State → State
  | 0, s => s
  | n + 1, s => match s.cache.fce.waiting with
    | [] => s
    | r :: _ => match s.pumpHead r with
      | (true, s) => State.pumpN n s
      | (false, s) => s

/-- The engine goes on (R346). -/
def State.pump (s : State) : State := State.pumpN s.cache.fce.waiting.length s

/-! ### Prediction (R347) -/

/-- Reads bytes of a context where nothing stands in the way: no fault, no wait. -/
def State.quietRead (s : State) (ctx : Nat) (va : W64) (n : Nat) : Option (List Nat) :=
  (List.range n).foldr (fun i acc =>
    match acc, s.resolve (.die 0) ctx (va + BitVec.ofNat 64 i) with
    | some l, some e =>
      let pa := e.physical ((va + BitVec.ofNat 64 i).toNat % 2 ^ 57)
      (match s.rights e pa .read, s.homeCheck e pa .read with
       | none, .ok _ => if e.mt = 2 then none else some ((s.byteAt pa).toNat :: l)
       | _, _ => none)
    | _, _ => none) (some [])

/-- The granule of an address of a context, where it is one of this package's that has none present, and whether its page lies
in a graph region. -/
def State.wantGranule (s : State) (ctx : Nat) (va : W64) : List (Nat × Bool) :=
  match s.resolveLast (.die 0) ctx va with
  | some e =>
    let pa := e.physical (va.toNat % 2 ^ 57)
    match s.window pa with
    | some w => if s.mtOf w ≠ 0 || (s.rights e pa .read).isSome || s.granulePresent pa then [] else [(pa / 4096, e.graph)]
    | none => []
  | none => []

/-- The granules of a span of addresses. -/
def State.wantSpan (s : State) (ctx : Nat) (va : W64) (n : Nat) : List (Nat × Bool) :=
  let first := va.toNat / 4096
  let last := (va.toNat + n - 1) / 4096
  (List.range (last + 1 - first)).flatMap fun i => s.wantGranule ctx (BitVec.ofNat 64 (4096 * (first + i)))

/-- The granules that the engine predicts from an item that a request was raised for. -/
def State.predict (s : State) (r : FillReq) (item : Nat) : List (Nat × Bool) :=
  if item = 0 then (if r.graph then s.wantGranule r.ctx (BitVec.ofNat 64 (4096 * (r.va + 1))) else [])
  else
    let entry := (item - 1) % 2 ^ 32
    let hdr := BitVec.ofNat 64 (item / 2 ^ 32)
    match (s.quietRead r.ctx hdr 64).bind graphOf with
    | none => []
    | some g =>
      if entry < 2 ^ 31 then
        match (s.quietRead r.ctx (g.entryAddr entry) 8).bind fun b => tableEntry (leNat b) with
        | some (ofs, len) => s.wantSpan r.ctx (offAddr g.clBase ofs) len
        | none => []
      else
        let n := entry - 2 ^ 31
        match (s.quietRead r.ctx (g.nodeAddr n) 64).bind (nodeOf g n) with
        | none => []
        | some x =>
          let kids := (List.range x.kcount).flatMap fun i => match s.quietRead r.ctx (offAddr g.kidBase (4 * (x.kfirst + i))) 4 with
            | some b => [leNat b]
            | none => []
          ((kids.filter (· < g.nodes)).flatMap fun c =>
            s.wantSpan r.ctx (g.nodeAddr c) 64 ++
              (match (s.quietRead r.ctx (g.nodeAddr c) 64).bind (nodeOf g c) with
               | some y => s.wantSpan r.ctx (g.entryAddr y.cfirst) (8 * y.ccount)
               | none => [])).take 16

/-- Predicted granules join the waiting requests of a batch, each after what is demanded of its span (R346, R347). -/
def State.addPredicted (s : State) (r : FillReq) (items : List Nat) : State :=
  let known := fun (f : Fce) (g : Nat) => (f.fills ++ f.waiting).any fun x => x.granule == g
  (items.flatMap fun i => s.predict r i).foldl (fun (s : State) g => s.modFce fun f =>
    if known f g.1 then f
    else { f with waiting := placeReq { granule := g.1, ctx := r.ctx, graph := g.2, va := 0, item := 0, pred := true, turn := r.turn } f.waiting }) s

/-- The item is a node of the graph, whose record is read once it is present (R347). -/
def isNodeItem (i : Nat) : Bool := 2 ^ 31 < i % 2 ^ 32

/-! ### The fault coalescing engine (R346) -/

/-- A translation of the context through which a physical address is reached lies in a graph region (R345). -/
def State.graphAt (s : State) (ctx pa : Nat) : Bool :=
  s.dies.any fun d => d.2.tlb.any fun e => e.ctx == ctx && e.graph && decide (e.pa ≤ pa) && decide (pa < e.pa + 2 ^ e.size)

/-- RESIDENCY_REQUEST (R346): a request for the granule of a physical address joins the open batch; under FAULTSVC = 1 it is dropped. -/
def execResidencyRequest (ctx pa : Nat) (s : State) : Out :=
  let r : FillReq := { granule := pa / 4096, ctx := ctx, graph := s.graphAt ctx pa, va := 0, item := 0 }
  .next (if s.faultsvc || s.cache.fce.batch.any (fun x => x.granule == r.granule) then s else s.askFill r)

/-- BATCH_CLOSE (R346, R347): after 2,000 cycles or at the 64th request the batch closes, with the predictions that need no node
record; the engine goes on. -/
def execBatchClose (s : State) : Out :=
  let f := s.cache.fce
  if f.batch.isEmpty || (s.clock < f.opened + 2000 && f.batch.length < 64) then .next s.pump
  else
    let now := f.batch.take 64
    let s := (s.modFce fun f => { f with batch := f.batch.drop 64, opened := s.clock }).closeBatch now
    let turn := s.cache.fce.turn
    let s := (now.filter fun r => !isNodeItem r.item).foldl (fun (s : State) r => s.addPredicted { r with turn := turn } [r.item]) s
    .next s.pump

/-- GRANULE_FILL_COMPLETE (R346): fills land in the order in which they were begun. -/
def execGranuleFillComplete (granule : Nat) (s : State) : Out :=
  match s.cache.fce.fills with
  | [] => .next s
  | r :: rs =>
    if r.granule ≠ granule then .next s
    else
      let s := s.modFce fun f => { f with fills := rs }
      let s := (s.fillGranule granule).wakeGranule granule
      -- a node record is read once it is present
      let s := s.addPredicted r ((r.item :: r.more).filter isNodeItem)
      .next s.pump

/-! ### The carousel (R348) -/

/-- CQLOW and CQHIGH (R353). -/
def State.cqLow (s : State) : Nat := (s.reg 0x9000).toNat % 2 ^ 20
def State.cqHigh (s : State) : Nat := min (bitsOf (s.reg 0x9000).toNat 39 20) 4096

/-- A line of the frame is locked (R310). -/
def State.frameLocked (s : State) (f : Nat) : Bool :=
  let b := 512 * (s.frame f).span
  s.slices.any fun e => b ≤ e.1 && e.1 < b + 512 && e.2.lock != 0

/-- The hand of a die visits a frame. -/
def State.handVisit (s : State) (d f : Nat) : State :=
  let x := s.frame f
  let die := s.die d
  let queue := fun (s : State) => if die.cold.contains f then s else s.modDie d fun y => { y with cold := y.cold ++ [f] }
  if s.cqHigh ≤ die.cold.length then s
  else
    let s := s.modDie d fun y => { y with hand := (f % 2 ^ 19 + 1) % 2 ^ 19 }
    if x.fstate = 0 then queue s
    else if x.fstate ≠ 1 || x.newspan ≠ 0 || x.pinned || x.error then s
    else if x.accessed then s.modFrame f fun y => { y with accessed := false }
    else if s.frameLocked f then s
    else queue s

/-- CAROUSEL_HAND_STEP (R348): while the queue is low, 64 frames each cycle; with VICTIM = 1 the hand stops (R350). -/
def execCarouselHandStep (die : Nat) (s : State) : Out :=
  let x := s.die die
  let go := x.cold.length < s.cqLow || (x.sweeping && x.cold.length < s.cqHigh)
  if s.victimHost || 4 ≤ die || s.clock < x.handAt || !go then .next s
  else
    let s := (List.range 64).foldl (fun (s : State) _ => s.handVisit die (die * 2 ^ 19 + (s.die die).hand)) s
    let s := s.modDie die fun y => { y with handAt := s.clock + 1, sweeping := y.cold.length < s.cqHigh }
    .next s.pump

/-! ### Reclaim (R328, R351, R352, R381) -/

/-- An access in flight carries the FGEN that a frame's advance would reach: the advance waits (R329). -/
def State.frameHold (s : State) (f : Nat) : Bool :=
  s.flights.any fun x => x.entry.frame == f + 1 && x.entry.fgen == ((s.frame f).fgen + 1) % 65536

/-- Step 1: FSTATE 2 and the next FGEN. -/
def State.reclaimStart (s : State) (f : Nat) : State :=
  s.modFrame f fun x => { x with fstate := 2, fgen := (x.fgen + 1) % 65536, stage := 1 }

/-- A reclaim that was asked for begins when its advance need not wait; a frame that has meanwhile been pinned, or has an error, is
no victim, and the engine takes another (R329, R353). -/
def State.reclaimBegin (s : State) (f : Nat) : State :=
  let x := s.frame f
  if x.fstate ≠ 1 || (x.newspan = 0 && x.stage ≠ 4) then s
  else if x.pinned || x.error then (s.modFrame f fun x => { x with newspan := 0, stage := 0 }).pump
  else if s.frameHold f then s
  else s.reclaimStart f

/-- The lines of a frame's span that the slices, L1 caches or open fills know of. -/
def State.spanLines (s : State) (f : Nat) : List Nat :=
  let b := 512 * (s.frame f).span
  let mine := fun (l : Nat) => b ≤ l && l < b + 512
  nubNat (((s.slices.map (·.1)) ++ (s.lineErr.map (·.1)) ++ s.misses.map (·.line)).filter mine)

/-- Step 2 for one line: its token comes home, a dirty line is written into the frame, and the line is dropped. -/
def State.reclaimLine (s : State) (f l : Nat) : State :=
  let s := ((s.killMiss l).takeBack l).dropCuts l
  let y := s.sline l
  let s := if s.lineErr.read l then
      -- a lost dirty line stays lost in the frame
      ({ s with lineErr := s.lineErr.write l false } : State).modFrame f fun x => { x with errs := x.errs ++ [l] }
    else if y.present && y.dirty then (s.setLow l y.data (List.range 128)).markDirty l
    else s
  { s with slices := s.slices.write l default, recent := s.recent.filter (· != l) }

/-- Step 2: the L1 copies of the span go with the lines of the slices. -/
def State.reclaimDrain (s : State) (f : Nat) : State :=
  let b := 512 * (s.frame f).span
  let s := (s.spanLines f).foldl (fun (s : State) l => s.reclaimLine f l) s
  { s with cores := s.cores.mapAll fun _ c => { c with l1 := dropRange c.l1 b 512 } }

/-- FRAME_RECLAIM (R351): FGEN advances, then, once no line of the frame is locked, its lines come home and are dropped. An
uncorrectable error in dirty data stops the reclaim (R352). -/
def execFrameReclaim (f : Nat) (s : State) : Out :=
  let s := s.reclaimBegin f
  if (s.frame f).stage ≠ 1 || (s.frame f).fstate ≠ 2 || s.frameLocked f then .next s
  else
    let s := s.reclaimDrain f
    if (s.frame f).errs.isEmpty then .next (s.modFrame f fun x => { x with stage := 2 })
    else .next ((s.modFrame f fun x => { x with fstate := 1, error := true, stage := 0, newspan := 0 }).pump)

/-- Writes granule `i` of a frame to the backing memory; of a shared span, the lines that are not invalid (R378). -/
def State.writeBack (s : State) (f i : Nat) : State :=
  let x := s.frame f
  let base := 65536 * x.span + 4096 * i
  if !x.shared then { s with mem := copyRange s.cache.gddr s.mem (65536 * f + 4096 * i) base 4096 }
  else (List.range 32).foldl (fun (s : State) j =>
    if s.cache.pool.read (base / 128 + j) = 0 then s
    else { s with mem := copyRange s.cache.gddr s.mem (65536 * f + 4096 * i + 128 * j) (base + 128 * j) 128 }) s

/-- RECLAIM_WRITEBACK_DONE (R351, R381): every dirty granule is in the backing memory, and a shared span's lines are released. -/
def execReclaimWritebackDone (f : Nat) (s : State) : Out :=
  let x := s.frame f
  if x.fstate ≠ 2 || x.stage ≠ 2 then .next s
  else
    let s := (List.range 16).foldl (fun (s : State) i => if x.dirtymask.getLsbD i then s.writeBack f i else s) s
    let s := if x.shared then { s with cache := { s.cache with pool := dropRange s.cache.pool (512 * x.span) 512 } } else s
    .next (s.modFrame f fun x => { x with stage := 3 })

/-- RECLAIM_RELEASE_DONE (R351): the frame takes its new span, or is free. -/
def execReclaimReleaseDone (f : Nat) (s : State) : Out :=
  let x := s.frame f
  if x.fstate ≠ 2 || x.stage ≠ 3 then .next s
  else if x.newspan ≠ 0 then
    let graph := (s.cache.fce.waiting.find? fun r => r.granule / 16 == x.newspan - 1).map (·.graph)
    .next (s.giveFrame f (x.newspan - 1) (graph.getD false)).pump
  else
    let s := { s with cache := { s.cache with gddr := dropRange s.cache.gddr (65536 * f) 65536 } }
    .next ((s.modFrame f fun x => { (default : Frame) with fgen := x.fgen }).pump)

/-- VLHEAD_WRITE (R350): requests that wait on an empty list go on. -/
def execVlheadWrite (die : Nat) (v : BitVec 64) (s : State) : Out := s.onBar <|
  .next (if 4 ≤ die then s else (s.setReg (0x9030 + 32 * die) (v &&& 0xFFFFFFFF)).pump)

/-! ### Errors and frame control (R352, R353, R371) -/

/-- The copy of a line that is reached first is dirty: where a slice or an L1 holds it by its own state, else by its granule's
DIRTYMASK bit (R352). -/
def State.dirtyHere (s : State) (l : Nat) : Bool :=
  if s.held l then (s.sline l).dirty || (match s.owner l with | some c => ((s.core c).l1.read l).dirty | none => false)
  else match s.frameOf (128 * l) with
    | some f => (s.frame f).dirtymask.getLsbD (l / 32 % 16)
    | none => false

/-- An uncorrectable error in a line: clean data is fetched again from below; dirty data is lost, the frame is marked, the
host is told once, and a snapshot is triggered (R268, R330, R352). -/
def State.lineError (s : State) (l : Nat) : State :=
  if !s.dirtyHere l || s.lost l then s
  else
    let s := match s.frameOf (128 * l) with
      | some f =>
        let s := s.modFrame f fun x => { x with error := true }
        if s.held l then { s with lineErr := s.lineErr.write l true } else s.modFrame f fun x => { x with errs := x.errs ++ [l] }
      | none => { s with lineErr := s.lineErr.write l true }
    (s.frqRaise { type := 3, cls := 6, pa := 128 * l }).trigger 3

/-- SCRUB (R371): what it finds is handled as an access would find it, and no troupe faults. -/
def execScrub (line : Nat) (r : ScrubFinding) (s : State) : Out :=
  .next (match r with
    | .uncorrectable => s.lineError line
    | .clean | .singleBit => s)

/-- FRAMECTL_PIN (R353). -/
def execFramectlPin (f : Nat) (s : State) : Out := s.onBar <|
  .next (if f < frameCount then s.modFrame f fun x => { x with pinned := true } else s)

/-- FRAMECTL_UNPIN (R353). -/
def execFramectlUnpin (f : Nat) (s : State) : Out := s.onBar <|
  .next (if f < frameCount then s.modFrame f fun x => { x with pinned := false } else s)

/-- FRAMECTL_DISCARD (R352): the lines in error take the backing memory's value; DIRTYMASK stays. -/
def execFramectlDiscard (f : Nat) (s : State) : Out := s.onBar <|
  let x := s.frame f
  if x.fstate = 0 then .next s
  else
    let b := 512 * x.span
    let mine := fun (l : Nat) => b ≤ l && l < b + 512
    let held := (s.lineErr.map (·.1)).filter mine
    let s := held.foldl (fun (s : State) l =>
      let s := { s with
        lineErr := s.lineErr.write l false
        cores := s.cores.mapAll fun _ c => { c with l1 := c.l1.write l default } }
      s.modSline l fun y => { y with present := false, data := 0, dirty := false, owner := 0 }) s
    let s := (x.errs ++ held).foldl (fun (s : State) l =>
      { s with cache := { s.cache with gddr := copyRange s.mem s.cache.gddr (128 * l) (65536 * f + 128 * l % 65536) 128 } }) s
    .next (s.modFrame f fun x => { x with errs := [], error := false, accessed := x.accessed || !(x.errs ++ held).isEmpty })

/-- FRAMECTL_RECLAIM_NOW (R329, R353): a resident, unpinned, error-free frame is reclaimed with no new span. -/
def execFramectlReclaimNow (f : Nat) (s : State) : Out := s.onBar <|
  let x := s.frame f
  .next (if f < frameCount && x.fstate == 1 && x.newspan == 0 && !x.pinned && !x.error then
      (s.modFrame f fun x => { x with stage := 4 }).reclaimBegin f
    else s)

end Sys2Proof.Machine
end

