-- ==== Sys2Proof/Machine/Debug.lean ====
section
/-!
DEFINITION. The debugger's commands and registers: rights, halts, steps, breakpoints, watchpoints, spotlights, snapshots, edits
(R253 to R270).
-/
namespace Sys2Proof.Machine

/-! ### Rights (R254, R270) -/

/-- DEBUG_GRANT (R254, R270): the owner grants the right and chooses KILLREV. -/
def execDebugGrant (ctx : Nat) (killrev : Bool) (s : State) : Out :=
  .next (s.modCtx ctx fun x => { x with debug := true, killrev := killrev })

/-- Some debugger holds a right: a register that names no context can be reached (R254). -/
def State.debugHeld (s : State) : Bool := s.contexts.any fun e => e.2.debug

/-- The context that a watchpoint or a spotlight names (R255). -/
def ctlCtx (v : W64) : Nat := bitsOf v.toNat 31 16

/-- A watchpoint's register group at reset, when it is the context's (R270). -/
def Watch.clearFor (ctx : Nat) (w : Watch) : Watch := if ctlCtx w.ctl = ctx then default else w

/-- The troupes of a context. -/
def State.ctxTroupes (s : State) (ctx : Nat) : List Nat :=
  (s.troupes.filter fun e => e.2.resident && (s.co e.2.company).ctx == ctx).map (·.1)

/-- A halted troupe runs on: HALTED threads are READY again (R261). -/
def Troupe.release (t : Troupe) : Troupe :=
  if t.halted then { t with halted := false, pt := t.pt.put (t.pt.inState .halted) .ready } else t

/-- DEBUG_REVOKE (R270). -/
def execDebugRevoke (ctx : Nat) (s : State) : Out :=
  if !(s.ctx ctx).debug then .next s
  else
    let kill := (s.ctx ctx).killrev
    let s := (s.ctxTroupes ctx).foldl (fun (s : State) k =>
      s.modTr k fun t => { t.release with stepping := false, spotlit := false, hitAt := 0 }) s
    let s := { s with
      rings := s.rings.mapAll fun _ (r : Ring) => { r with wps := r.wps.mapAll fun _ (w : Watch) => w.clearFor ctx }
      dies := s.dies.mapAll fun _ (d : Die) => { d with wps := d.wps.mapAll fun _ (w : Watch) => w.clearFor ctx }
      cores := s.cores.mapAll fun _ (c : Core) => if ctlCtx c.spotctl = ctx then { c with spotctl := 0, spotco := 0 } else c
      stops := s.stops.filter fun x => x.ctx != ctx }
    let s := s.modCtx ctx fun x => { x with debug := false, killrev := false, arm := false, stopring := false }
    .next (if kill then s.startEnd ctx 2 0 else s)

/-! ### Halts, steps and releases (R258 to R263) -/

/-- The debug right of a troupe's context is held. -/
def State.debugs (s : State) (k : Nat) : Bool := (s.tr k).resident && (s.ctx (s.ctxOf k)).debug

/-- The troupes that a command names (R258). -/
def State.named (s : State) (h : HaltScope) : List Nat :=
  match h with
  | .troupe t => if s.debugs t then [t] else []
  | .company k => (s.co k).slots.filter fun t => (s.tr t).company == k && s.debugs t
  | .ring ctx ring => (s.ringTroupes ctx ring).filter s.debugs

/-- HJELM_HALT (R258). -/
def execHjelmHalt (h : HaltScope) (s : State) : Out :=
  .next ((s.named h).foldl (fun (s : State) k => s.haltTroupe k 0) s)

/-- STOP_BROADCAST_ARRIVAL (R259): a stop reaches a core and halts the context's troupes there. -/
def execStopBroadcastArrival (ctx c : Nat) (s : State) : Out :=
  let due := fun (x : Stop) => x.ctx == ctx && x.core == c && x.arrives ≤ s.clock
  if !s.stops.any due then .next s
  else
    let s := { s with stops := s.stops.filter fun x => !due x }
    let ks := ((s.ctxTroupes ctx).filter fun k => coreOf k == c).filter s.debugs
    -- a stop that finds a troupe halted leaves it as it is
    .next (ks.foldl (fun (s : State) k => (s.haltTroupe k 1).modTr k fun t => { t with hitAt := 0 }) s)

/-- HJELM_STEP (R262): NOTHALTED and NOTREADY change nothing. -/
def execHjelmStep (t : Nat) (s : State) : Out :=
  let x := s.tr t
  if !s.debugs t || !x.halted || x.pt.inState .halted = 0 then .next s
  else .next (s.modTr t fun x => { x.release with stepping := true })

/-- HJELM_RELEASE (R261). -/
def execHjelmRelease (h : HaltScope) (s : State) : Out :=
  .next ((s.named h).foldl (fun (s : State) k => s.modTr k Troupe.release) s)

/-- BREAKPOINT_ARM (R264). -/
def execBreakpointArm (ctx : Nat) (on stopring : Bool) (s : State) : Out :=
  .next (if (s.ctx ctx).debug then s.modCtx ctx fun x => { x with arm := on, stopring := stopring } else s)

/-! ### Debug registers (R255) -/

/-- A watchpoint after a write of WPCTL: LEN is clamped, HITCOUNT is write-1-to-clear, and enabling clears WPHIT and the count. -/
def Watch.write (w : Watch) (top : Nat) (v : W64) : Watch :=
  let n := v.toNat
  let low := n % 32 + 32 * min (bitsOf n 9 5) top + 1024 * bitsOf n 12 10 + 65536 * bitsOf n 31 16
  let on := bitOf n 0 && !bitOf w.ctl.toNat 0
  let count := if on then 0 else (BitVec.ofNat 32 (w.ctl.toNat / 2 ^ 32) &&& ~~~ BitVec.ofNat 32 (n / 2 ^ 32)).toNat
  let w := { w with ctl := BitVec.ofNat 64 (low + 2 ^ 32 * count) }
  if on then { w with hit := false, hitpc := 0, hitseq := 0, hitaddr := 0, hitclock := 0 } else w

/-- Changes a watchpoint: below 256 four to a ring, from 256 eight to a die (R255). -/
def State.modWatch (s : State) (wp : Nat) (f : Nat → Watch → Watch) : State :=
  if wp < 256 then s.modRing (wp / 4) fun r => { r with wps := r.wps.modify (wp % 4) (f 18) }
  else s.modDie ((wp - 256) / 8) fun d => { d with wps := d.wps.modify ((wp - 256) % 8) (f 21) }

/-- WPCTL_WRITE (R254, R255): without the right of the context it names, the write is ignored. -/
def execWpctlWrite (wp : Nat) (v : BitVec 64) (s : State) : Out :=
  .next (if (s.ctx (ctlCtx v)).debug then s.modWatch wp fun top w => w.write top v else s)

/-- A write of another debug register, at the model's own offsets: WPADDR from 0, SPOTCTL from 0x1000, SPOTCO from 0x2000,
TRCBASE, TRCSIZE and TRCLOST of a die from 0x3000 by 16 (R255). -/
def State.debugWrite (s : State) (off : Nat) (v : W64) : State :=
  let d := off % 16
  if !s.debugHeld then s
  else if off < 0x1000 then s.modWatch off fun _ w => { w with addr := v &&& 0x01FFFFFFFFFFFFFF }
  else if off < 0x2000 then
    if (s.ctx (ctlCtx v)).debug then s.modCore (off - 0x1000) fun c => { c with spotctl := v &&& 0xFFFF7FFF } else s
  else if off < 0x3000 then s.modCore (off - 0x2000) fun c => { c with spotco := v &&& 0xFFFFFFFFFF }
  else if off < 0x3010 then s.modDie d fun x => { x with trace := { x.trace with base := v &&& ~~~0xFFF#64, ptr := 0 } }
  else if off < 0x3020 then s.modDie d fun x => { x with trace := { x.trace with size := v &&& 0x1FFFFF000, ptr := 0 } }
  else if off < 0x3030 then s.modDie d fun x => { x with trace := { x.trace with lost := x.trace.lost &&& ~~~v } }
  else s

/-! ### Snapshots (R268) -/

/-- HJELM_SNAPSHOT (R254, R268). -/
def execHjelmSnapshot (ctx : Nat) (s : State) : Out := .next (if (s.ctx ctx).debug then s.trigger 1 else s)

/-- SNAPSHOT_LATCH (R268): at the edge that ends cycle `s + 32`, every block's registers and every troupe's. -/
def execSnapshotLatch (s : State) : Out :=
  if s.snap.latchAt = 0 || s.clock ≤ s.snap.latchAt then .next s
  else
    .next { s with snap := {
      lock := true, seq := s.snap.nextSeq, source := s.snap.pendingSource, latchAt := 0, pendingSource := 0,
      troupes := (s.troupes.filter fun e => e.2.resident).map fun e => (e.1, e.2.pt, e.2.stalls), clock := s.clock,
      cores := s.cores, rings := s.rings, dies := s.dies, engines := s.engines, bar2 := s.bar2 } }

/-- SNAPSHOT_FREE (R255): writing 1 to LOCK frees the held snapshot. -/
def execSnapshotFree (s : State) : Out := .next { s with snap := { s.snap with lock := false } }

/-! ### Edits (R261) -/

/-- A halted troupe whose context's right is held. -/
def State.editable (s : State) (k : Nat) : Bool := s.debugs k && (s.tr k).halted

/-- Drops every cached word of a line: an edit of memory is seen by the first fetch after release (R261). -/
def State.dropWords (s : State) (l : Nat) : State :=
  { s with
    cores := s.cores.mapAll fun _ (c : Core) =>
      { c with l1i := c.l1i.write l default, l1 := if (c.l1.read l).owned then c.l1 else c.l1.write l default }
    troupes := s.troupes.mapAll fun _ (t : Troupe) => { t with ibuf := [] } }

/-- The debugger as it accesses a context's memory: no troupe, no core, so that a hit is recorded and stops nothing (R256, R259). -/
def editBy (ctx : Nat) : Accessor := { ctx := ctx, pc := 0, seq := 0, troupe := none, core := none }

/-- Bytes of one line that the debugger writes: a page that may be read may be edited; it waits for locks and for a granule that is
absent, and an address that reaches no line is passed over (log entry 76). -/
def State.editLine (s : State) (ctx : Nat) (va : W64) (b : List Byte) : Acc Unit × State :=
  let die := ((s.ctxTroupes ctx).find? s.editable).elim 0 fun k => dieOf (coreOf k)
  let w : Asker := ⟨2 ^ 45, ctx, 0⟩
  let fault := fun (s : State) (f : FaultInfo) =>
    if f.cls = 2 && f.granule != 0 then (Acc.wait, s.fillOnce ctx (f.granule - 1)) else if f.cls = 3 then (.wait, s) else (.fault f, s)
  match s.carried (.die die) ctx w va .read with
  | (.wait, s) => (.wait, s)
  | (.fault f, s) => fault s f
  | (.ok (e, pa), s) => match s.arrive w va e pa .write 0 with
    | (.wait, s) => (.wait, s)
    | (.fault f, s) => fault (s.dropFor (.die die) ctx (va.toNat % 2 ^ 57)) f
    | (.ok _, s) =>
      (.ok (), ((s.writeBytes pa (b.map (·.toNat))).dropWords (pa / 128)).watchDie (homeSlice pa / 64) (editBy ctx) false true va b.length)

/-- Bytes that the debugger writes, line by line; what has to wait is left over. -/
def State.editMemory (ctx : Nat) : Nat → W64 → List Byte → State → List Byte × W64 × State
  | 0, va, _, s => ([], va, s)
  | fuel + 1, va, b, s =>
    if b.isEmpty then ([], va, s)
    else
      let n := min b.length (128 - va.toNat % 128)
      match s.editLine ctx va (b.take n) with
      | (.wait, s) => (b, va, s)
      | (_, s) => State.editMemory ctx fuel (va + BitVec.ofNat 64 n) (b.drop n) s

/-- What is left of an edit of memory waits in its place. -/
def State.keepEdit (s : State) (ed : DebugEdit) (rest : List DebugEdit) : State :=
  if s.edits.contains ed then { s with edits := s.edits.flatMap fun x => if x == ed then rest else [x] }
  else { s with edits := s.edits ++ rest }

/-- HJELM_EDIT (R261, R310): an edit of a troupe that is not halted changes nothing; one of memory may have to wait. -/
def execHjelmEdit (ed : DebugEdit) (s : State) : Out :=
  match ed with
  | .vreg t r lane v =>
    .next (if s.editable t && r < (s.tr t).nregs && lane < 64 then s.modTr t fun x => { x with v := x.v.write (64 * r + lane) v } else s)
  | .sreg t r v => .next (if s.editable t then s.modTr t fun x => x.wsAt x.level r v else s)
  | .pred t r v => .next (if s.editable t then s.modTr t fun x => x.wp r (-1) v else s)
  | .qpred t r v => .next (if s.editable t then s.modTr t fun x => x.wq r v else s)
  | .pc t lane v =>
    .next (if s.editable t && lane < 64 && v.toNat % 16 == 0 && canonical v then
      s.modTr t fun x => { x with pt := { x.pt with pcs := x.pt.pcs.write lane v } } else s)
  | .memory ctx va bytes =>
    if s.edits.contains ed || (s.ctxTroupes ctx).any s.editable then
      let r := State.editMemory ctx (bytes.length / 128 + 2) va bytes s
      .next (r.2.2.keepEdit ed (if r.1.isEmpty then [] else [.memory ctx r.2.1 r.1]))
    else .next s
  | .scratch t ofs bytes =>
    if s.editable t then
      let c := coreOf t
      let co := s.co (s.tr t).company
      .next ((bytes.zip (List.range bytes.length)).foldl (fun (s : State) x =>
        if ofs + x.2 < co.scratch then
          (s.scratchPut c (co.base c + ofs + x.2) x.1).watchRing c (editBy co.ctx) false true (co.base c + ofs + x.2) 1
        else s) s)
    else .next s

end Sys2Proof.Machine
end

