-- ==== Sys2Proof/Machine/Registers.lean ====
section
/-!
DEFINITION. Host writes to registers that have no behaviour of their own (R6, R255, R333, R353, R360, R376, R385, R397).
-/
namespace Sys2Proof.Machine

/-- The mask of bits `[hi:lo]`. -/
def maskBits (hi lo : Nat) : W64 := BitVec.ofNat 64 (2 ^ (hi + 1) - 2 ^ lo)

/-- The bits of a launch queue's register that a write stores (R360). -/
def queueMask (off : Nat) : W64 :=
  match off with
  | 0x00 => maskBits 56 0
  | 0x08 => maskBits 31 0
  | 0x10 => maskBits 56 0
  | 0x18 => maskBits 56 0
  | _ => 0

/-- The bits of a register of BAR 2 that a write stores; 0 for a register that no write of this kind changes. -/
def regMask (off : Nat) : W64 :=
  if 0xA000 ≤ off ∧ off < 0xB000 then queueMask (off % 64)
  else if 0xB000 ≤ off ∧ off < 0xB800 then
    (match off % 32 with
     | 0x00 => maskBits 51 16
     | 0x08 => maskBits 51 16
     | 0x10 => maskBits 12 0
     | _ => 0)
  else if 0x9020 ≤ off ∧ off < 0x90A0 then
    (match (off - 0x9020) % 32 with
     | 0x00 => maskBits 63 0
     | 0x08 => maskBits 31 0
     | _ => 0)
  else
    match off with
    | 0x0008 => maskBits 51 0
    | 0x0010 => maskBits 51 0
    | 0x0020 => maskBits 31 0
    | 0x0030 => maskBits 51 0
    | 0x0040 => maskBits 56 0
    | 0x9000 => maskBits 39 0
    | 0x90A8 => maskBits 11 0
    | 0x90B8 => maskBits 10 0
    | 0xC000 => maskBits 63 0
    | 0xC008 => maskBits 63 0
    | 0xC010 => maskBits 63 0
    | 0xC018 => maskBits 63 0
    | 0xC020 => maskBits 51 0
    | _ => 0

/-- A write of a BAR 2 register: read-only bits ignore it, and FRQLOST clears the bits written as 1 (R6, R333). -/
def State.barWrite (s : State) (off : Nat) (v : W64) : State :=
  if off = 0x38 then s.setReg 0x38 (s.reg 0x38 &&& ~~~v)
  else if regMask off = 0 then s
  else s.setReg off (v &&& regMask off)

/-- REGISTER_WRITE (R6, R333, R373): `bar` 2 is BAR 2; the model numbers the configuration space's Outstanding Page Request
Allocation 1 (R385) and the debugger's registers 16 (R255). -/
def execRegisterWrite (bar off : Nat) (v : BitVec 64) (s : State) : Out := s.onBar <|
  if bar = 2 then .next (s.barWrite off v)
  else if bar = 1 ∧ off = 0 then .next (s.setReg 0x10000 (v &&& maskBits 31 0))
  else if bar = 16 then .next (s.debugWrite off v)
  else .next s

end Sys2Proof.Machine
end

