-- ==== Sys2Proof/Machine/Fabric.lean ====
section
/-!
DEFINITION. The fabric: requests of peers, the directory, replies, tags and recalls (R386 to R393), and the attestation report
(R397, R398).
-/
namespace Sys2Proof.Machine

/-! ### The directory (R386, R387, R389) -/

/-- The region's lines (R386). -/
def regionLines (region : Nat) : List Nat := (List.range 16).map fun i => 16 * region + i

/-- This package is the home device of an address (R377, R386). -/
def State.homedHere (s : State) (pa : Nat) : Bool :=
  match s.window pa with
  | some (kind, home) => (kind == 1 || kind == 2) && home == s.caps.pkg
  | none => false

/-- Another package is the home device of an address. -/
def State.homedAway (s : State) (pa : Nat) : Bool :=
  match s.window pa with
  | some (kind, home) => (kind == 1 || kind == 2) && home != s.caps.pkg
  | none => false

/-- No line of the region is locked. -/
def State.regionFree (s : State) (region : Nat) : Bool := (regionLines region).all fun l => (s.sline l).lock == 0

/-- Room for an entry: when the entries run out, the region allocated least recently is recalled to U first; while another
package owns that one, the request waits (R389). -/
def State.dirRoom (s : State) (region : Nat) : Option State :=
  if (s.fabric.dir.read region).state ≠ .u || s.fabric.dir.length < 1048576 then some s
  else match (sortBy (fun (e : Nat × DirEntry) => e.2.born) s.fabric.dir).head? with
    | none => some s
    | some e => if e.2.state = .o then none else some { s with fabric := { s.fabric with dir := s.fabric.dir.write e.1 default } }

/-- Puts a directory entry, keeping the order of allocation. -/
def State.dirPut (s : State) (region : Nat) (st : DirState) (sharers : BitVec 128) (owner : Nat) : State :=
  let d := s.fabric.dir
  let old := d.read region
  let born := if old.state = .u then d.foldl (fun m e => max m e.2.born) 0 + 1 else old.born
  { s with fabric := { s.fabric with dir := d.write region { state := st, sharers := sharers, owner := owner, born := born } } }

/-- A package as a sharer mask. -/
def pkgBit (p : Nat) : BitVec 128 := BitVec.ofNat 128 (2 ^ (p % 128))

/-- Every token of the region is recalled, so that the home's slices hold its current copies. -/
def State.recallRegion (s : State) (region : Nat) : State := (regionLines region).foldl (fun (s : State) l => s.takeBack l) s

/-- The region's state after the request of a package has been served, every sharer and owner having acknowledged (R387). -/
def State.dirServe (s : State) (pkg region : Nat) (op : RemoteOp) : Option State :=
  let d := s.fabric.dir.read region
  let own := pkg == s.caps.pkg
  match op with
  | .malformed => some s
  | .read =>
    if own then some (if d.state = .o then s.dirPut region .s (pkgBit d.owner) 0 else s)
    else match d.state with
      | .o => some (if d.owner = pkg then s else s.dirPut region .s (pkgBit d.owner ||| pkgBit pkg) 0)
      | _ => (s.dirRoom region).map fun s => (s.recallRegion region).dirPut region .s (d.sharers ||| pkgBit pkg) 0
  | .ownership =>
    if own then some { s with fabric := { s.fabric with dir := s.fabric.dir.write region default } }
    else (s.dirRoom region).map fun s => (s.recallRegion region).dirPut region .o 0 pkg
  | .write _ | .atomic .. | .tsadd _ =>
    some { s with fabric := { s.fabric with dir := s.fabric.dir.write region default } }

/-- DIRECTORY_REQUEST (R387): the home serves a request, its own package's by that number, once the region's other holders
have acknowledged; it waits on locks. -/
def execDirectoryRequest (pkg region : Nat) (op : RemoteOp) (s : State) : Out :=
  if s.homedHere (2048 * region) && s.regionFree region then .next ((s.dirServe pkg region op).getD s) else .next s

/-- DIRECTORY_RECALL (R387): this package gives up a region of another's: tokens are recalled, dirty lines written back, and
an invalidation leaves no line in the slices; it waits on locks. -/
def execDirectoryRecall (region : Nat) (keepClean : Bool) (s : State) : Out :=
  if !s.homedAway (2048 * region) || !s.regionFree region then .next s
  else
    let s := (regionLines region).foldl (fun (s : State) l =>
      let s := (s.takeBack l).fit l
      let y := s.sline l
      let s := if y.present && y.dirty then s.setLow l y.data (List.range 128) else s
      if keepClean then s.modSline l fun y => { y with dirty := false } else s.evictLine l) s
    let kill := fun (g : Tag) => if !keepClean && g.what ≤ 1 && g.pa / 2048 == region then { g with killed := true } else g
    .next { s with fabric := { s.fabric with owned := s.fabric.owned.write region false, tags := s.fabric.tags.map kill } }

/-! ### Requests of peers (R390, R392) -/

/-- The key of a tag in the reply cache. -/
def tagKey (origin num : Nat) : Nat := origin * 2 ^ 24 + num % 2 ^ 24

/-- The reply to a tag is kept until it is acknowledged (R390). -/
def State.putReply (s : State) (origin num : Nat) (r : Reply) : State :=
  { s with fabric := { s.fabric with replies := s.fabric.replies.write (tagKey origin num) r } }

/-- A read changes no memory and carries no tag (R390). -/
def isTagged : RemoteOp → Bool
  | .read => false
  | _ => true

/-- The class with which an inbound access faults at its target (R392). -/
def State.inboundFault (s : State) (pa : Nat) (op : RemoteOp) : Option Nat :=
  let l := pa / 128
  if !s.homedHere pa then some 4
  else if !s.held l && !s.granulePresent pa then some 2
  else if s.lost l then some 6
  else if op = .malformed then some 7
  else none

/-- An inbound access faults: nothing of it is performed, its reply is kept, and a record of TYPE 0x07 is written; a granule
that is absent is asked for (R392). -/
def State.faultInbound (s : State) (origin num pa cls : Nat) (op : RemoteOp) : State :=
  let s := if isTagged op then s.putReply origin num (.fault cls) else s
  let s := if cls = 2 then s.askFill { granule := pa / 4096, ctx := 0, graph := false, va := 0, item := 0 } else s
  s.frqRaise { type := 7, cls := cls, detail := cls, pa := pa, value := BitVec.ofNat 64 origin,
               rflags := match op with | .read => 0 | _ => 1 }

/-- A line as it leaves toward a package: as a block where the neighbour of the port on that way has advertised compression, else
raw (R277). -/
def State.sentLine (s : State) (pkg : Nat) (d : LineData) : List Nat :=
  if s.caps.compress.contains (false, Config.portToward pkg) then lineBlock d else lineBytes d

/-- The request at its home, once the region's state allows it: the reply, and the state it leaves (R277, R300, R387). -/
def State.serveInbound (s : State) (origin pa : Nat) (op : RemoteOp) : Reply × State :=
  let l := pa / 128
  match op with
  | .read | .ownership =>
    let s := (if s.held l then s else s.touchFrame l).readHome l
    (.line (s.sentLine origin (s.current l)), s)
  | .write w =>
    let s := (s.takeBack l).dropCuts l
    (.value 0, ((s.writeHome l fun d => w.foldl (fun d x => if x.1 < 128 then lineSet d x.1 x.2 else d) d).useLine l).fit l)
  | .atomic opn ty b e =>
    let n := if ty = 2 ∨ ty = 3 ∨ ty = 5 then 8 else 4
    let s := (s.takeBack l).fit l
    let old := s.peekNat pa n
    (.value (BitVec.ofNat 64 old), match atomNew opn ty old b.toNat e.toNat with | some v => s.writeBytes pa (leBytes n v) | none => s.useLine l)
  | .tsadd v =>
    let s := (s.takeBack l).fit l
    let old := s.peekNat pa 8
    let r := s.addHome pa v.toNat
    (.value (BitVec.ofNat 64 old),
      if r.1 then r.2.frqRaise { type := 4, pa := pa, value := v } else r.2)
  | .malformed => (.none, s)

/-- REMOTE_REQUEST (R390, R392): answered from the reply cache, faulted, left waiting on a lock or on another owner, or
performed once. -/
def execRemoteRequest (origin num pa : Nat) (op : RemoteOp) (s : State) : Out :=
  let l := pa / 128
  let d := s.fabric.dir.read (pa / 2048)
  let shared := match s.window pa with | some (kind, _) => kind == 2 | none => false
  if isTagged op && s.fabric.replies.read (tagKey origin num) ≠ .none then .next s
  else match s.inboundFault pa op with
    | some cls => .next (s.faultInbound origin num pa cls op)
    | none =>
      if (s.sline l).lock ≠ 0 || (d.state = .o && d.owner ≠ origin) then .next s
      else
        let s := s.refill l
        let back : Bool := match op with | .write _ => d.state == .o | _ => false
        if isTagged op && shared && s.cache.pool.read l ≠ 2 then
          .next { s with cache := { s.cache with pool := s.cache.pool.write l 3 } }
        else match if back then some s else s.dirServe origin (pa / 2048) op with
          | none => .next s
          | some s =>
            let r := s.serveInbound origin pa op
            .next (if isTagged op then r.2.putReply origin num r.1 else r.2)

/-- REPLY_ACK (R390): the entry is freed. -/
def execReplyAck (origin num : Nat) (s : State) : Out := .next (s.putReply origin num .none)

/-- TAG_ABANDON (R391): the origin's context has ended, and the entry is freed. -/
def execTagAbandon (origin num : Nat) (s : State) : Out := .next (s.putReply origin num .none)

/-! ### Requests of this package (R390, R391, R393) -/

/-- The tag with a number that waits for its reply. -/
def State.openTag (s : State) (num : Nat) : Option Tag := s.fabric.tags.find? fun g => g.num == num && !g.timedOut

/-- A tag is free again. -/
def State.freeTag (s : State) (g : Tag) : State :=
  { s with fabric := { s.fabric with tags := s.fabric.tags.filter fun x => !(x.num == g.num && x.origin == g.origin) } }

/-- The lanes of an operation that a tag serves. -/
def State.tagLanes (s : State) (g : Tag) (o : MemOp) : List Nat :=
  if g.lane ≠ 0 then [g.lane - 1]
  else if o.single then [0]
  else nubNat ((s.linesAt g.t o (g.pa / 128)).flatMap fun v => (o.pieces v).map fun x => x.1 % 64)

/-- The access that waits on a tag, in flight with its translation. -/
def State.tagFlight (s : State) (g : Tag) : Option Flight :=
  s.flights.find? fun f => f.who == ⟨g.t, g.q, g.lane⟩ && f.phys == g.pa / 128

/-- The scheduler as its faults' records name it: no troupe, no launch site (log entry 75). -/
def schedSite (ctx : Nat) : Site := { unit := 0x0A, ctx := ctx, pc := 0, seq := 0, key := 0, value := 0 }

/-- The fault of an access of the scheduler: it waits for the service of its class, or the access ends with it (R330, R336). -/
def State.schedFault (s : State) (ctx : Nat) (f : FaultInfo) : Acc (List Piece) × State :=
  let r := s.service (schedSite ctx) f
  match r.1.state with
  | .fatal => (.fault f, r.2)
  | .ready => (.wait, r.2.dropFor (.die 0) ctx (f.addr.toNat % 2 ^ 57))
  | .pending => (.wait, { r.2 with sched := r.2.sched ++ [{ ctx := ctx, park := r.1 }] })

/-- The access that waits on a tag takes a fault (R277, R391, R393): a lane's, an engine's, a turnstile add's, a fetch, a walk, or
the launch scheduler's. It is in flight no longer. -/
def State.tagFault (s : State) (g : Tag) (f : FaultInfo) : State :=
  let fl := s.tagFlight g
  let va := fl.map fun x => BitVec.ofNat 64 (128 * x.line)
  let s := match fl with | some x => s.landFlight x.who x.line | none => s
  if 2 ^ 40 = g.t then
    match fl with
    | some x => (s.schedFault x.entry.ctx { f with addr := va.getD 0 }).2
    | none => s
  else if 2 ^ 41 ≤ g.t then
    (if g.t < 2 ^ 42 then s.foundFault (g.t - 2 ^ 41) (g.q / 2 ^ 45) (g.q % 2 ^ 45) f else s)
  else if g.q = 0 ∧ g.lane = 65 then
    match (s.tr g.t).pt.pick (s.tr g.t).heldThreads with
    | some p => s.holdFetch g.t p.pc { f with addr := p.pc, fetch := true }
    | none => s
  else match s.op g.t g.q with
    | some o =>
      let lanesOf := s.tagLanes g o
      let key := lanesOf.headD 0
      let v := (s.linesAt g.t o (g.pa / 128)).headD ((o.addr.read key).toNat / 128)
      let kind : AccKind := if g.what = 0 then .read else if g.what = 1 then .write else .both
      let f := { f with addr := o.addr.read key }
      if isLaneMem o.ins || (atomFields o.ins).isSome then
        let o := { o with stuck := o.stuck ++ [v] }
        if o.park.isSome then s.setOp g.t o.settle else s.parkOp g.t o (f.at f.addr kind)
      else if o.park.isSome then s
      else s.parkOp g.t o { f with addr := if o.target ≠ 0 then o.target else va.getD f.addr }
    | none =>
      match s.engines.find? fun e => e.2.any fun x => x.t == g.t && x.seq == g.q with
      | some (e, xs) =>
        match xs.find? fun x => x.t == g.t && x.seq == g.q with
        | some x => if x.park.isSome then s else s.engPark e x { f with addr := va.getD x.ts }
        | none => s
      | none =>
        match s.cores.find? fun c => c.2.adds.any fun a => a.cmd.t == g.t && a.cmd.seq == g.q with
        | some (c, x) =>
          match x.adds.find? fun a => a.cmd.t == g.t && a.cmd.seq == g.q with
          | some a => if a.park.isSome then s else s.addFault c a.cmd { f with addr := a.cmd.target.1 }
          | none => s
        | none => s

/-- Every access that waits on a tag faults (R280, R393). -/
def State.tagFaults (s : State) (g : Tag) (f : FaultInfo) : State :=
  if g.joined.isEmpty then s.tagFault g f
  else g.joined.foldl (fun (s : State) w => s.tagFault { g with t := w.t, q := w.q, lane := w.lane } f) s

/-- The REMOTE fault of a tag: the target's class (R74, R393). -/
def Tag.remote (g : Tag) (cls : Nat) : FaultInfo := { cls := 5, detail := cls, pa := g.pa, write := g.what != 0 }

/-- A line arrives from its home package: it is installed under the hint of the read that asked, unless an invalidation met it; then
each read that waits takes it once (R278, R280, R286, R387). -/
def State.lineArrives (s : State) (g : Tag) (d : LineData) : State :=
  let l := g.pa / 128
  if s.held l then s.serveJoined l g.joined
  else if g.killed || !s.hasRoom l then (s.giveOnce l g.joined d).serveJoined l g.joined
  else (s.install l d g.hint).serveJoined l g.joined

/-- An atomic's reply: its lane takes the old value (R305, R390). -/
def State.atomReply (s : State) (g : Tag) (v : W64) : State :=
  match s.op g.t g.q with
  | none => s
  | some o =>
    match atomFields o.ins with
    | none => s
    | some f =>
      let lane := g.lane - 1
      let old := v.toNat % 256 ^ o.size
      let new := atomNew (bitsOf f.mdn 3 0) (bitsOf f.mdn 6 4) old (o.dat.read lane) (o.cmp.read lane)
      let s := s.watchDie (dieOf (coreOf g.t)) (s.accessor g.t o) true new.isSome (o.addr.read lane) o.size
      (s.finishOrKeep g.t (o.laneResult lane old)).l1Forget (coreOf g.t) (g.pa / 128)

/-- A turnstile add's reply: what made the add goes on (R158, R162, R180, R216, R419). -/
def State.addReply (s : State) (g : Tag) (v : W64) : State :=
  match s.op g.t g.q with
  | some o =>
    -- the core keeps no older copy of the turnstile (R148)
    let s := s.l1Forget (coreOf g.t) (g.pa / 128)
    match o.ins with
    | .tsadd _ =>
      let s := s.watchDie (dieOf (coreOf g.t)) (s.accessor g.t o) true true (o.addr.read 0) 8
      s.finish g.t { o with got := [(0, v.toNat)].filter (fun e => e.2 != 0), prog := Tbl.write [] 0 o.full } 0
    | .cpl _ => s.finish g.t o 0
    | _ => s
  | none =>
    match s.engines.find? fun e => e.2.any fun x => x.t == g.t && x.seq == g.q with
    | some (e, xs) =>
      match xs.find? fun x => x.t == g.t && x.seq == g.q with
      | some x => if x.closing ≠ 0 then s.engRemove e x else s.setCmd e { x with added := x.added + (x.adding - 1), adding := 0 }
      | none => s
    | none =>
      match s.cores.find? fun c => c.2.adds.any fun a => a.cmd.t == g.t && a.cmd.seq == g.q with
      | some (c, x) =>
        match x.adds.find? fun a => a.cmd.t == g.t && a.cmd.seq == g.q with
        | some a => s.addDone c a.cmd
        | none => s
      | none => s

/-- What a tag asked for arrives: a line, ownership of its region with the line, the value of an atomic or of an add (R390). -/
def State.tagDone (s : State) (g : Tag) (v : W64) (d : LineData) : State :=
  match g.what with
  | 0 => s.lineArrives g d
  | 1 =>
    -- an invalidation that met the grant has taken it back
    if g.killed then s
    else ({ s with fabric := { s.fabric with owned := s.fabric.owned.write (g.pa / 2048) true } } : State).lineArrives g d
  | 2 => s.atomReply g v
  | _ => s.addReply g v

/-- REMOTE_REPLY (R277, R390, R392, R393): the accesses that the tag was bound to complete or fault, and the tag is free; a malformed
block is a FORMAT fault and is not installed. -/
def execRemoteReply (num : Nat) (r : RemoteReply) (s : State) : Out :=
  match s.openTag num with
  | none => .next s
  | some g =>
    let s' := s.freeTag g
    .next (match r with
      | .fault cls => s'.tagFaults g (g.remote cls)
      | .done v d => s'.tagDone g v d
      | .block b =>
        let b := b.map (·.toNat)
        if blockMalformed b then s'.tagFaults g { cls := 7, pa := g.pa, write := g.what != 0 } else s'.tagDone g 0 (blockLine b))

/-- Changes an open tag. -/
def State.modTag (s : State) (num : Nat) (f : Tag → Tag) : State :=
  { s with fabric := { s.fabric with tags := s.fabric.tags.map fun g => if g.num == num && !g.timedOut then f g else g } }

/-- REMOTE_RESEND (R391): 500 µs after the last send the request goes out again under the same tag. -/
def execRemoteResend (num : Nat) (s : State) : Out :=
  match s.openTag num with
  | some g => .next (if g.sent + 500 * s.power.mhz ≤ s.clock then s.modTag num fun g => { g with sent := s.clock } else s)
  | none => .next s

/-- A time-out: a tag stays bound to its lanes, and a read, which carries none, is forgotten (R391). -/
def State.timeOut (s : State) (g : Tag) (bound : Bool) : State :=
  let keep := bound && g.what != 0
  let s := if keep then s.modTag g.num fun g => { g with timedOut := true } else s.freeTag g
  let word := g.num + 2 ^ 24 * g.origin + 2 ^ 31
  let s := match s.op g.t g.q with
    | some o => if keep then s.setOp g.t { o with tags := (s.tagLanes g o).foldl (fun m l => m.write l word) o.tags } else s
    | none => s
  s.tagFaults g (g.remote 0)

/-- REMOTE_TIMEOUT (R391): 2 ms after the first send the access takes a REMOTE fault, time-out. -/
def execRemoteTimeout (num : Nat) (s : State) : Out :=
  match s.openTag num with
  | some g => .next (if g.first + 2000 * s.power.mhz ≤ s.clock then s.timeOut g true else s)
  | none => .next s

/-- REMOTE_FILL_NOTICE (R393): records with target class RESIDENCY for the granule are ready. -/
def execRemoteFillNotice (pkg granule : Nat) (s : State) : Out :=
  let from' := match s.window (4096 * granule) with | some (_, home) => home == pkg | none => false
  .next (if from' then s.readyIf fun _ p => p.cls == 5 && p.detail == 2 && p.pa / 4096 == granule else s)

/-- REMOTE_RETRY_TIMER (R393): 65,536 cycles after its fault a REMOTE record is ready. -/
def execRemoteRetryTimer (t q : Nat) (s : State) : Out :=
  match s.sitePark t q with
  | some (_, p) => .next (if p.cls = 5 ∧ p.since + 65536 ≤ s.clock then s.readySite t q else s)
  | none => .next s

/-- PEER_LINK_DOWN (R393): every tag toward the peer ends with a time-out; a later access to it is fatal. -/
def execPeerLinkDown (pkg : Nat) (s : State) : Out :=
  let s := { s with fabric := { s.fabric with down := if s.fabric.down.contains pkg then s.fabric.down else s.fabric.down ++ [pkg] } }
  let mine := s.fabric.tags.filter fun g => g.target == pkg
  .next (mine.foldl (fun (s : State) g => if g.timedOut then s.freeTag g else s.timeOut g false) s)

/-- LINK_LEVEL_RETRY (R391): the link recovers its flits; nothing that is modelled changes. -/
def execLinkLevelRetry (_port : Nat) (s : State) : Out := .next s

/-! ### Attestation (R397, R398) -/

/-- A byte string made exactly `n` bytes long. -/
def fitBytes (n : Nat) (l : List Nat) : List Nat := (List.range n).map fun i => l.getD i 0 % 256

/-- The applied maps: cores whose place a spare has taken, rows and slices that spares stand for (R195, R272, R369). -/
def State.maps (s : State) : List (List Nat) :=
  [(s.cores.filter fun e => e.2.spare).map (·.1), s.cores.flatMap fun e => e.2.rowMap.flatMap fun r => [e.1, r.1, r.2],
   s.dies.flatMap fun e => e.2.slices.flatMap fun r => [e.1, r.1, r.2]]

/-- Bytes 0x000 to 0x0FF of the report (R398). -/
def State.reportHead (s : State) : List Nat :=
  leBytes 4 1 ++ leBytes 4 0 ++ leBytes 8 Config.serial ++ fitBytes 32 s.attest.nonce ++ fitBytes 64 Config.devpk
    ++ fitBytes 64 (Config.shake256 (Config.firmware.getD []) 64) ++ fitBytes 64 (Config.shake256 (Config.mapBytes s.maps) 64)
    ++ [1, 0, 0, 0] ++ leBytes 4 s.caps.spareChange ++ leBytes 4 Config.firmwareVersion ++ leBytes 4 Config.rollback

/-- The report: its head and the signature over it (R398). -/
def State.report (s : State) : List Nat := s.reportHead ++ fitBytes 29792 (Config.slhSign s.reportHead)

/-- The addresses of the 235 lines that the report's 30,048 bytes meet. -/
def State.reportLines (s : State) : List Nat := (List.range 235).map fun i => s.attest.dest + 128 * i

/-- ATTESTATION_REPORT (R397): GO captures the nonce and the destination; then the report is written, and DONE is set after
its last byte, or ERR where a line of it lies in no window or is lost. It waits as any write does: for locks and for the ownership
of its lines (R310, R376, R386). -/
def execAttestationReport (s : State) : Out := s.onBar <|
  if !s.attest.busy then
    let nonce := leBytes 8 (s.reg 0xC000).toNat ++ leBytes 8 (s.reg 0xC008).toNat ++ leBytes 8 (s.reg 0xC010).toNat ++ leBytes 8 (s.reg 0xC018).toNat
    .next { s with attest := { busy := true, done := false, err := false, nonce := nonce, dest := (s.reg 0xC020).toNat } }
  else
    match State.physWrites ⟨2 ^ 43, 1, 0⟩ s.reportLines s with
    | (.ok ok, s) =>
      let s' := if ok then s.writeBytes s.attest.dest s.report else s
      .next { s' with attest := { s.attest with busy := false, done := ok, err := !ok } }
    | (_, s) => .next s

end Sys2Proof.Machine
end

