-- ==== Sys2Proof/Machine/Image.lean ====
section
/-!
DEFINITION. The saved image of a company (R171 to R173, R218, R219, R252, R316): its bytes, and the scheduler's accesses to memory.
-/
namespace Sys2Proof.Machine

/-! ### The scheduler's accesses (R188, R256, R361, R362, R365) -/

/-- The launch scheduler as it accesses memory in a context: it belongs to no core. -/
def schedBy (ctx : Nat) : Accessor := { ctx := ctx, pc := 0, seq := 0, troupe := none, core := none }

/-- What the scheduler asks for carries the name of no troupe. -/
def schedAsker : Asker := { t := 2 ^ 40, q := 1, lane := 0 }

/-- The watchpoints of the die that holds each line's home slice compare the access (R256). -/
def State.watchHomes (s : State) (ctx : Nat) (rd wr : Bool) (va : W64) (ps : List Piece) : State :=
  (ps.foldl (fun (a : State × W64) p =>
    (a.1.watchDie (homeSlice p.1 / 64) (schedBy ctx) rd wr a.2 p.2.1, a.2 + BitVec.ofNat 64 p.2.1)) (s, va)).1

/-- Reaches `n` bytes for the scheduler; a fault on them that is being served is waited for first. -/
def State.schedSpan (s : State) (ctx : Nat) (va : W64) (n : Nat) (kind : AccKind) : Acc (List Piece) × State :=
  match s.sched.find? fun h => h.ctx == ctx && decide ((h.park.addr - va).toNat < n) with
  | some h =>
    let over' : State := { s with sched := s.sched.filter (· != h) }
    match h.park.state with
    | .pending => (.wait, s)
    | .fatal => (.fault h.park.info, over')
    | .ready => go over'
  | none => go s
where
  go (s : State) : Acc (List Piece) × State :=
    match State.spanReach (.die 0) ctx schedAsker kind 0 (n / 128 + 2) va n s with
    | (.fault f, s) => s.schedFault ctx f
    | r => r

/-- Reads `n` bytes for the scheduler: the bytes, a fault that ends the access, or a wait. -/
def State.schedRead (s : State) (ctx : Nat) (va : W64) (n : Nat) : Acc (List Nat) × State :=
  match s.schedSpan ctx va n .read with
  | (.ok ps, s) => let r := State.spanPeek (.die 0) ps s; (.ok r.1, r.2.watchHomes ctx true false va ps)
  | (.wait, s) => (.wait, s)
  | (.fault f, s) => (.fault f, s)

/-- Checks that `n` bytes can be written by the scheduler now. -/
def State.schedReach (s : State) (ctx : Nat) (va : W64) (n : Nat) : Acc (List Piece) × State := s.schedSpan ctx va n .write

/-- Writes bytes that `schedReach` has found reachable. -/
def State.schedPoke (s : State) (ctx : Nat) (va : W64) (ps : List Piece) (b : List Nat) : State :=
  (State.spanPoke ps b s).watchHomes ctx false true va ps

/-- The record of a fault that ends an access of the scheduler (R335). -/
def State.schedReport (s : State) (ctx : Nat) (f : FaultInfo) : State := s.frqRaise ((schedSite ctx).record s f 3)

/-- Adds `v` to a turnstile for the scheduler, with release; an add that can never be made is dropped, and the host hears of it.
False while it waits. -/
def State.schedAdd (s : State) (ctx : Nat) (va : W64) (v : Nat) : Bool × State :=
  if va = 0 then (true, s)
  else match s.schedReach ctx va 8 with
    | (.ok ((pa, n, d) :: _), s) =>
      let r := s.addHome pa v
      let s := r.2.watchHomes ctx true true va [(pa, n, d)]
      (true, if r.1 then s.frqRaise { type := 4, unit := 0x0A, ctx := ctx, cgen := (s.ctx ctx).cgen, va := va, pa := pa, value := BitVec.ofNat 64 v } else s)
    | (.ok [], s) => (true, s)
    | (.wait, s) => (false, s)
    | (.fault f, s) => (true, s.schedReport ctx f)

/-- The record of a launch record or an image that is refused (R362, R368). -/
def State.refuseRecord (s : State) (ctx : Nat) (va : W64) : State :=
  s.frqRaise { type := 3, unit := 0x0A, ctx := ctx, cgen := (s.ctx ctx).cgen, va := va }

/-! ### Troupe blocks (R173) -/

/-- The code of a thread state (R173). -/
def TState.code : TState → Nat
  | .ready => 0
  | .sleep => 1
  | .wait => 2
  | .halted => 3
  | .exited => 4

/-- A thread state from its code. -/
def tstateOf (n : Nat) : TState :=
  match n with
  | 0 => .ready
  | 1 => .sleep
  | 2 => .wait
  | 3 => .halted
  | _ => .exited

/-- The 0x3D8 bytes of a PC table with its counts and the lane stochastic states. -/
def PcTable.bytes (p : PcTable) (rs : Tbl (BitVec 16)) (count : Nat → Nat) : List Nat :=
  (lanes.flatMap fun l => leBytes 8 (p.pc l).toNat) ++ (lanes.map fun l => (p.state l).code)
    ++ (lanes.flatMap fun l => leBytes 4 (count l)) ++ (lanes.flatMap fun l => leBytes 2 (rs.read l).toNat)
    ++ leBytes 8 p.deferred.toNat ++ leBytes 2 p.w ++ leBytes 2 p.h ++ leBytes 4 0 ++ leBytes 8 p.fp.toNat

/-- The threads of the operation wait for it. -/
def isWaiting : Instr → Bool
  | .tswait _ | .bar _ => true
  | .showq f => bitOf f.mdn 0
  | _ => false

/-- The operation of a level for which a lane waits. -/
def Troupe.waitAt (t : Troupe) (level l : Nat) : Option MemOp :=
  t.ops.find? fun o => isWaiting o.ins && inMask o.run l && o.level == level

/-- The waiting operation that WAITS shows for a lane, the level's own first. -/
def Troupe.waitOf (t : Troupe) (l : Nat) : Option MemOp := (t.waitAt t.level l).orElse fun _ => t.waitAt 0 l

/-- The target word of a wait on child shows: it has no record, so the word holds what the instruction still needs. -/
def showWait (seq : Nat) (f : Fields) : Nat :=
  seq % 2 ^ 32 + 2 ^ 32 * (f.d.toNat ^^^ 63) + 2 ^ 40 * (f.sa.toNat ^^^ 15) + 2 ^ 44 * (f.sb.toNat ^^^ 15)

/-- The two words of WAITS for an operation (R173). -/
def MemOp.waitWords (o : MemOp) : Nat × Nat :=
  let a := (o.addr.read 0).toNat
  match o.ins with
  | .tswait f => (a + (if bitOf f.mdn 0 then 1 else 0) + (if bitOf f.mdn 1 then 4 else 0), o.target.toNat)
  | .bar _ => (a + 1, o.target.toNat)
  | .showq f => (2, showWait o.seq f)
  | _ => (0, 0)

/-- COUNT of a thread in the PC table of a level: the SLEEP count that remains, or the cycles of a timed wait. -/
def Troupe.countOf (t : Troupe) (p : PcTable) (level clock l : Nat) : Nat :=
  match p.state l with
  | .sleep => p.wake.read l - clock
  | .wait => match t.waitAt level l with
    | some o => (match o.deadline with | some d => d - clock | none => 0)
    | none => 0
  | _ => 0

/-- The block of a troupe (R173). -/
def Troupe.block (t : Troupe) (clock : Nat) : List Nat :=
  let s64 := fun (m : Tbl W64) (r : Nat) => leBytes 8 (m.read r).toNat
  t.pt.bytes t.rs (t.countOf t.pt t.level clock)
    ++ ((List.range 7).flatMap fun r => leBytes 8 (t.p.read r).toNat)
    ++ [(List.range 7).foldl (fun m r => if t.q.read r then m + 2 ^ r else m) 0]
    ++ ((List.range 12).map fun k => (t.endLates fun _ => true).f.read k) ++ [t.level] ++ leBytes 2 t.seed.toNat
    ++ leBytes 4 t.issueseq.toNat ++ leBytes 4 0
    ++ ((List.range 63).flatMap (s64 t.s)) ++ ((List.range 3).flatMap fun r => s64 t.s1 (60 + r))
    ++ leBytes 8 t.trcause.toNat ++ leBytes 8 t.trpc.toNat ++ leBytes 8 t.trmask.toNat ++ leBytes 8 t.trval.toNat ++ leBytes 16 t.trword.toNat
    ++ ((List.range 16).flatMap fun i => leBytes 8 (t.stalls.read i)) ++ ((List.range 4).map fun i => t.oc.read i)
    ++ leBytes 4 (if t.halted then t.haltseq.toNat else 0) ++ leBytes 8 (if t.halted then t.haltrec.toNat else 0)
    ++ leBytes 8 (if t.halted then t.haltpc.toNat else 0) ++ List.replicate 256 0
    ++ t.shadow.bytes t.shadowRs (t.countOf t.shadow 0 clock) ++ List.replicate 40 0
    ++ (lanes.flatMap fun l =>
      if t.pt.state l == .wait || (t.level == 1 && t.shadow.state l == .wait) then
        (match t.waitOf l with | some o => leBytes 8 o.waitWords.1 ++ leBytes 8 o.waitWords.2 | none => List.replicate 16 0)
      else List.replicate 16 0)
    ++ ((List.range 4).flatMap fun r => t.record r)
    ++ ((List.range t.nregs).flatMap fun r => lanes.flatMap fun l => leBytes 4 (t.v.read (64 * r + l)).toNat)

/-! ### The other sections (R172, R219) -/

/-- The cores a company stands on, the leader first. -/
def Co.cores (k : Co) : List Nat := if k.paired then [k.core, k.core + 1] else [k.core]

/-- The arrays that a company holds: 0 the leader's, 1 the follower's. -/
def State.heldArrays (s : State) (k : Nat) : List Nat :=
  let c := s.co k
  ((c.cores.zip [0, 1]).filter fun x => (s.core x.1).array.holder == k + 1).map (·.2)

/-- The bytes of a stream (R219). -/
def MxStream.bytes (x : MxStream) : List Nat := [x.fmt, x.bc, x.scf, x.rm] ++ leBytes 2 x.ts ++ [0, 0]

/-- The block of an array (R219). -/
def MxArray.bytes (a : MxArray) : List Nat :=
  [a.tile.fmt, a.tile.bc, a.tile.scf, if a.valid then 1 else 0] ++ leBytes 2 a.tile.ts ++ leBytes 2 a.rs.toNat
    ++ ((List.range 4).flatMap fun i => (a.streams.getD i default).bytes) ++ List.replicate 216 0
    ++ ((List.range 8192).map fun i => (a.weights.read i).toNat) ++ ((List.range 2048).map fun i => (a.scales.read i).toNat)

/-- A bank's 16,384 bytes; a word in error is written as zero (R370). -/
def Core.bankBytes (x : Core) (b : Nat) : List Nat :=
  (List.range 4096).flatMap fun e => leBytes 4 (if x.accErr.read (4096 * b + e) then 0 else (x.acc.read (4096 * b + e)).toNat)

/-- The accumulator image (R219). -/
def State.accImage (s : State) (k : Nat) : List Nat :=
  let c := s.co k
  let ar := s.heldArrays k
  if ar.isEmpty && c.banks.isEmpty && c.fbanks.isEmpty then []
  else
    [c.banks.length, c.fbanks.length, ar.length] ++ List.replicate 253 0
      ++ (ar.flatMap fun i => (s.core (c.core + i)).array.bytes)
      ++ (c.banks.flatMap fun b => (s.core c.core).bankBytes b) ++ (c.fbanks.flatMap fun b => (s.core (c.core + 1)).bankBytes b)

/-- The scratchpad image of one core; a word in error is written as zero (R172, R370). -/
def State.scratchImage (s : State) (c base n : Nat) : List Nat :=
  (List.range n).map fun i => if (s.core c).scrErr.read ((base + i) / 4) then 0 else ((s.core c).scratch.read (base + i)).toNat

/-- A command whose closing add is outstanding, as its record shows it: every unit delivered, the add still to be made (R419). -/
def EngCmd.closed (x : EngCmd) : EngCmd :=
  if x.closing = 0 then x else { x with done := x.units, delivered := x.added + (x.closing - 1), closing := 0 }

/-- The engine records of a company, by troupe index: index and 512 bytes (R164, R216, R359). -/
def State.engRecords (s : State) (k : Nat) : List (Nat × List Nat) :=
  let idx := fun (t : Nat) => (s.tr t).index
  let cmds := (s.engines.flatMap fun e => e.2.filter fun x => x.company == k).filterMap fun x =>
    x.park.map fun p => (idx x.t, x.closed.record p)
  let adds := (s.cores.flatMap fun e => e.2.adds.filter fun a => a.cmd.company == k).filterMap fun a =>
    a.park.map fun p => (idx a.cmd.t, a.record p)
  sortBy (·.1) (cmds ++ adds)

/-- The header (R172). -/
def State.imageHead (s : State) (k engrec total : Nat) : List Nat :=
  let c := s.co k
  let ar := (s.heldArrays k).length
  [1, 0, c.troupes, (if c.paired then 1 else 0) + (if c.calliope then 2 else 0) + (if ar != 0 then 4 else 0) + (if ar == 2 then 8 else 0)]
    ++ leBytes 2 c.nregs ++ [c.depth, c.banks.length] ++ leBytes 4 c.scratch ++ leBytes 4 c.children ++ leBytes 8 c.index
    ++ leBytes 8 c.gridPos ++ leBytes 8 c.recaddr.toNat ++ leBytes 4 engrec ++ leBytes 4 0 ++ leBytes 8 total ++ List.replicate 200 0

/-- The image of a company whose work has settled (R172). -/
def State.image (s : State) (k : Nat) : List Nat :=
  let c := s.co k
  let recs := s.engRecords k
  let body := (c.slots.flatMap fun t => (s.tr t).block s.clock) ++ s.scratchImage c.core c.scrbase c.scratch
    ++ (if c.paired then s.scratchImage (c.core + 1) c.fscrbase c.scratch else []) ++ s.accImage k ++ recs.flatMap (·.2)
  s.imageHead k recs.length (256 + body.length) ++ body

/-- The bytes that an image of the company would take now (R365). -/
def State.imageSize (s : State) (k : Nat) : Nat :=
  let c := s.co k
  let ar := (s.heldArrays k).length
  let b := c.banks.length + c.fbanks.length
  256 + c.troupes * (0x1800 + 256 * c.nregs) + (if c.calliope then 0x1800 + 256 * 64 else 0)
    + (if c.paired then 2 * c.scratch else c.scratch) + (if ar = 0 ∧ b = 0 then 0 else 256 + 10496 * ar + 16384 * b)
    + 512 * ((s.engines.flatMap fun e => e.2.filter fun x => x.company == k).length
      + (s.cores.flatMap fun e => e.2.adds.filter fun a => a.cmd.company == k).length)

/-! ### Stopping and settling (R171, R218, R252, R316) -/

/-- An operation that stops at its next boundary parks as if faulted, CLASS 0x00 and STATE 2 (R252, R316). -/
def MemOp.rest (clock : Nat) (o : MemOp) : MemOp :=
  { o.settle with park := some { (default : Park) with cls := 0, state := .ready, since := clock } }

/-- A tagged request of an operation is on its way (R390). -/
def State.tagOpen (s : State) (k q : Nat) : Bool := s.fabric.tags.any fun g => g.t == k && g.q == q && 2 ≤ g.what && !g.timedOut

/-- An operation of a company that is being saved stops here: one that waits, one of lane group 12, a locked one whose lanes
are in phase 1 or back off, or one that stands behind parked work (R171, R252, R316). -/
def State.stopsHere (s : State) (k : Nat) (o : MemOp) : Bool :=
  if o.park.isSome || s.tagOpen k o.seq then false
  else
    let behind := (s.earlier k o).any fun e => e.park.isSome
    match o.ins with
    | .cpl _ | .accrd _ | .accwr _ => false
    | .dcas _ | .amov _ | .mcas _ => lanes.all fun l => !inMask o.act l || (o.locks.read l).phase != .locking
    | .qpush _ | .qpop _ | .tswait _ => true
    | .bar _ => o.added || behind
    | i => isGeo i || isWaiting i || behind

/-- The operations that stop park. -/
def State.stopOps (s : State) (k : Nat) : State :=
  (s.co k).slots.foldl (fun (s : State) t =>
    (s.tr t).ops.foldl (fun (s : State) o => if s.stopsHere t o then s.setOp t (o.rest s.clock) else s) s) s

/-- A CPS or LAYEX of a company that is being saved stops at its next unit: what is delivered is added, and it parks with CLASS 0x00
and STATE 2 (R359). -/
def EngCmd.rest (clock : Nat) (x : EngCmd) : EngCmd :=
  if isCpt x.ins || x.park.isSome || x.closing ≠ 0 || x.adding ≠ 0 then x
  else if x.ts ≠ 0 ∧ x.added < x.delivered then { x with adding := x.delivered - x.added + 1 }
  else { x with park := some { (default : Park) with cls := 0, state := .ready, since := clock } }

/-- The copy and layout commands of a company that stop. -/
def State.stopCmds (s : State) (k : Nat) : State :=
  { s with engines := s.engines.mapAll fun _ l => l.map fun x => if x.company = k then x.rest s.clock else x }

/-- An operation stands still: it is parked, and no lane of it holds or waits for a lock (R171, R316). -/
def MemOp.still (o : MemOp) : Bool := o.park.isSome && lanes.all fun l => !inMask o.act l || (o.locks.read l).phase != .locking

/-- Every instruction, command and turnstile add of the company is done or parked (R171, R218). -/
def State.settled (s : State) (k : Nat) : Bool :=
  let c := s.co k
  let quiet := fun (p : Option Park) => match p with | some p => p.state != .fatal | none => false
  (c.slots.all fun t => (s.tr t).ops.all MemOp.still) &&
  (s.engines.all fun e => e.2.all fun x => x.company != k || quiet x.park) &&
  (c.cores.all fun x => (s.core x).queue.all fun y => y.company != k) &&
  (s.cores.all fun e => e.2.adds.all fun a => a.cmd.company != k || quiet a.park)

/-- The results of finished lanes go to the registers, which the image holds (R77, R173). -/
def State.deliverAll (s : State) (k : Nat) : State :=
  (s.co k).slots.foldl (fun (s : State) t => s.modTr t fun x => x.ops.foldl (fun (y : Troupe) o => o.deliverDone y) x) s

/-- What the package keeps of a saved company that its image does not hold: its troupes and engine commands as they stand, snapshots
of cut selections (R231), the arrays it held; its bound tags name no troupe until it returns (R391, log entry 74). -/
def State.keepAside (s : State) (k : Nat) : State :=
  let c := s.co k
  let cuts := c.slots.flatMap fun t => (s.tr t).ops.filter fun o => match o.ins with | .cutsel _ => true | _ => false
  let snaps := cuts.foldl (fun (m : Tbl (List Nat × List Nat)) o => m.write o.epoch (o.snap, o.missList)) s.cache.snaps
  let cmds := s.engines.flatMap fun e => (e.2.filter fun x => x.company == k).map fun x => { x with t := (s.tr x.t).index }
  let ar := s.heldArrays k
  let tags := s.fabric.tags.map fun (g : Tag) => if c.slots.contains g.t then { g with t := 2 ^ 40 } else g
  ({ s with cache := { s.cache with snaps := snaps }, fabric := { s.fabric with tags := tags } } : State).modCo k fun x =>
    { x with kept := c.slots.map s.tr, keptCmds := cmds, arrays := ar }

/-- The company's image is written, and the core resources are released; the number of banks it held is remembered (R171). -/
def State.saveDone (s : State) (k : Nat) : State :=
  let s := (s.keepAside k).evict (· == k)
  s.modCo k fun x => { x with
    st := .saved, image := x.save, slots := [], freeing := [], ffreeing := [], waitSince := s.clock }

/-- Tells the host that a company has been saved for it, or stands where it is (R340). -/
def State.hostTrapRecord (s : State) (k : Nat) (image : W64) : State :=
  let c := s.co k
  s.frqRaise { type := 6, ctx := c.ctx, cgen := (s.ctx c.ctx).cgen, detail := (c.hostTrap - 1) % 2 ^ 32, value := image }

/-- A save that can never be written leaves the company stopped; the host hears of a host trap all the same (R340). -/
def State.saveStuck (s : State) (k : Nat) : State :=
  let s := s.modCo k fun x => { x with stuck := true }
  if (s.co k).hostTrap = 0 then s else s.hostTrapRecord k 0

/-- A company that is being saved goes on settling; once it has settled its image is written (R171). -/
def State.saveStep (s : State) (k : Nat) : State :=
  let c := s.co k
  if c.st ≠ .saving || c.stuck || (s.ctx c.ctx).endReason ≠ 0 then s
  else
    let s := (s.stopOps k).stopCmds k
    if !s.settled k then s
    else if c.save = 0 then s.saveStuck k
    else
      let n := s.imageSize k
      match s.schedReach c.ctx c.save n with
      | (.wait, s) => s
      | (.fault _, s) => s.saveStuck k
      | (.ok ps, s) =>
        let s := s.deliverAll k
        let s := s.schedPoke c.ctx c.save ps (s.image k)
        let s := s.saveDone k
        if c.hostTrap = 0 then s else s.hostTrapRecord k c.save

end Sys2Proof.Machine
end

