-- ==== Sys2Proof/Machine/Restore.lean ====
section
/-!
DEFINITION. Room for companies on cores (R165, R166, R220) and the return of a saved company from its image (R174, R218, R391).
-/
namespace Sys2Proof.Machine

/-! ### Room (R165, R166, R220) -/

/-- What a company needs of the cores it is placed on. -/
structure Need where
  troupes : Nat
  nregs : Nat
  scratch : Nat
  paired : Bool
  windowed : Bool
  calliope : Bool
  banks : Nat := 0
  fbanks : Nat := 0
  arrays : List Nat := []
  deriving DecidableEq, Repr

/-- Where a company is put: its troupes' slots, the calliope's last, and its scratchpad runs. -/
structure Seat where
  slots : List Nat
  scr : Nat
  fscr : Nat
  deriving DecidableEq, Repr

/-- The troupe slots of a core that are free. -/
def State.freeSlots (s : State) (c : Nat) : List Nat :=
  ((List.range 63).map fun i => 64 * c + i).filter fun k => !(s.tr k).resident

/-- The vector registers that a core's troupes hold. -/
def State.usedRegs (s : State) (c : Nat) : Nat :=
  (s.troupes.filter fun e => coreOf e.1 == c && !isCalliope e.1 && e.2.resident).foldl (fun n e => n + e.2.nregs) 0

/-- The scratchpad runs of a core that companies hold. -/
def State.usedScratch (s : State) (c : Nat) : List (Nat × Nat) :=
  (s.companies.filter fun e => (e.2.st == .resident || e.2.st == .saving) && e.2.cores.contains c).map fun e => (e.2.base c, e.2.scratch)

/-- The lowest run of whole granules of a core that is free (R165). -/
def State.freeRun (s : State) (c n : Nat) : Option Nat :=
  ((List.range 257).map fun i => 2048 * i).find? fun b =>
    b + n ≤ 524288 && (s.usedScratch c).all fun r => b + n ≤ r.1 || r.1 + r.2 ≤ b || n == 0

/-- The slots and the scratchpad run of one core, when it has room. -/
def State.seatOn (s : State) (c count banks : Nat) (array lead : Bool) (n : Need) : Option (List Nat × Nat) :=
  let cal := lead && n.calliope
  let free := s.freeSlots c
  if (s.core c).rowsOut || free.length < count || 4032 < s.usedRegs c + count * n.nregs || (cal && (s.tr (64 * c + 63)).resident)
      || ((n.windowed || n.paired) && (s.core c).window != 0) || (s.freeBanks c).length < banks
      || (array && (s.core c).array.holder != 0) then none
  else (s.freeRun c n.scratch).map fun b => (free.take count, b)

/-- A place for a company whose leader stands on logical core `c`. -/
def State.seat (s : State) (c : Nat) (n : Need) : Option Seat :=
  let cal := if n.calliope then [64 * c + 63] else []
  if n.paired then
    if c % 2 ≠ 0 then none
    else
      let h := (n.troupes + 1) / 2
      match s.seatOn c h n.banks (n.arrays.contains 0) true n, s.seatOn (c + 1) (n.troupes - h) n.fbanks (n.arrays.contains 1) false n with
      | some a, some b => some { slots := a.1 ++ b.1 ++ cal, scr := a.2, fscr := b.2 }
      | _, _ => none
  else (s.seatOn c n.troupes n.banks (n.arrays.contains 0) true n).map fun a => { slots := a.1 ++ cal, scr := a.2, fscr := 0 }

/-- The logical cores of the package (R1). -/
def allCores : List Nat := List.range 512

/-- A troupe passes every comparison that its core's SPOTCTL enables, and the core has no spotlit troupe (R265). -/
def State.spotPasses (s : State) (k : Nat) : Bool :=
  let x := s.core (coreOf k)
  let v := x.spotctl.toNat
  let co := s.co (s.tr k).company
  bitOf v 0 && (s.ctx co.ctx).debug && bitsOf v 31 16 == co.ctx
    && (!bitOf v 1 || (s.tr k).index == bitsOf v 8 4)
    && (!bitOf v 2 || co.index == x.spotco.toNat % 2 ^ 40)
    && (!bitOf v 3 || (s.sh co.sh).root == bitsOf v 14 9 + 1)
    && !(s.troupes.any fun e => coreOf e.1 == coreOf k && e.2.resident && e.2.spotlit)

/-- Troupes that become resident may become spotlit, in slot order (R265). -/
def State.spotlight (s : State) (ks : List Nat) : State :=
  ks.foldl (fun (s : State) k => if s.spotPasses k then s.modTr k fun t => { t with spotlit := true } else s) s

/-- The scratchpad run of a company is zeroed (R165). -/
def State.zeroRun (s : State) (c b n : Nat) : State :=
  s.modCore c fun x => { x with scratch := dropRange x.scratch b n, scrErr := dropRange x.scrErr (b / 4) (n / 4) }

/-- A company takes its seat: what it needs of its cores is its own (R165, R166, R220). -/
def State.takeSeat (s : State) (k c : Nat) (n : Need) (p : Seat) : State :=
  let s := s.modCo k fun x => { x with st := .resident, core := c, scrbase := p.scr, fscrbase := p.fscr, slots := p.slots, placedAt := s.clock }
  let s := s.zeroRun c p.scr n.scratch
  let s := if n.paired then s.zeroRun (c + 1) p.fscr n.scratch else s
  let win := if n.paired then [c, c + 1] else if n.windowed then [c] else []
  let s := win.foldl (fun (s : State) x => s.modCore x fun y => { y with window := k + 1 }) s
  -- a troupe reads no copy that is older than what it has read elsewhere (R297)
  (if n.paired then [c, c + 1] else [c]).foldl (fun (s : State) x => s.acquire x) s

/-! ### Troupes from their blocks (R173, R174) -/

/-- A PC table from its bytes; the counts run from now. -/
def pcTableOf (b : List Nat) (clock : Nat) : PcTable :=
  let st := fun (l : Nat) => tstateOf (b.getD (0x200 + l) 0)
  { pcs := Tbl.writeLanes [] 0 (-1) (fun l => alignPc (BitVec.ofNat 64 (fieldOf b (8 * l) 8))) lanes
    tst := Tbl.writeLanes [] 0 (-1) st lanes
    wake := Tbl.writeLanes [] 0 (-1) (fun l => if st l = .sleep then clock + fieldOf b (0x240 + 4 * l) 4 else 0) lanes
    deferred := BitVec.ofNat 64 (fieldOf b 0x3C0 8), w := fieldOf b 0x3C8 2, h := fieldOf b 0x3CA 2, fp := BitVec.ofNat 64 (fieldOf b 0x3D0 8) }

/-- The lane stochastic states of a block. -/
def rsOf (b : List Nat) : Tbl (BitVec 16) := Tbl.writeLanes [] 0 (-1) (fun l => BitVec.ofNat 16 (fieldOf b (0x340 + 2 * l) 2)) lanes

/-- A table of `n` numbers of `w` bytes from an offset. -/
def numsOf (b : List Nat) (o w n : Nat) : Tbl Nat := (List.range n).foldl (fun (m : Tbl Nat) i => m.write i (fieldOf b (o + w * i) w)) []

/-- A chain of encore records from a block: the record numbers of each parked instruction (R73, R74). -/
def recordChains (b : List Nat) : List (List Nat) :=
  let rec' := fun (r : Nat) => (b.drop (0x1000 + 512 * r)).take 512
  let head := fun (r : Nat) => decide ((rec' r).getD 0xF 0 ≠ 0) && (rec' r).getD 0xE 0 == 0
  ((List.range 4).filter head).map fun r =>
    r :: (List.range 4).filter fun q =>
      decide (r < q) && (rec' q).getD 0xF 0 != 0 && (rec' q).getD 0xE 0 != 0 && fieldOf (rec' q) 8 4 == fieldOf (rec' r) 8 4

/-- A record that waited for a service asks again: its replay meets the fault on this part, if it still stands. -/
def Park.again (p : Park) : Park := if p.state = .pending then { p with state := .ready } else p

/-- The level of a wait in a block that does not say it: 1 where the troupe is at level 1 and the thread waits in the handler, as far
as the shadow and WAITS show (R80, R173, log entry 30). -/
def MemOp.waitLevel (o : MemOp) (b : List Nat) : Nat :=
  let l := lowestLane o.run
  let shadowed := tstateOf (b.getD (0xA00 + l) 0) = .wait
  if bitOf (b.getD 0x41D 0) 0 && tstateOf (b.getD (0x200 + l) 0) = .wait
      && (!shadowed || fieldOf b (0xC00 + 16 * l) 8 / 8 == o.waitWords.1 / 8) then 1 else 0

/-- WAITS shows the operation: the handler's own wait hides one that it has interrupted. -/
def MemOp.shownIn (o : MemOp) (b : List Nat) : Bool :=
  !bitOf (b.getD 0x41D 0) 0 || o.level == 1 || tstateOf (b.getD (0x200 + lowestLane o.run) 0) != .wait

/-- What a block adds to a waiting operation: its deadline, and for a BAR its target; a BAR with a target has made its add. A wait
that had only stopped goes on waiting (R173, R174). -/
def MemOp.rewait (o : MemOp) (b : List Nat) (clock : Nat) : MemOp :=
  let l := lowestLane o.run
  let count := fieldOf b ((if bitOf (b.getD 0x41D 0) 0 && o.level == 0 then 0x800 else 0) + 0x240 + 4 * l) 4
  let quiet := match o.park with | some p => p.cls == 0 | none => true
  match o.ins with
  | .tswait f =>
    { o with deadline := if bitOf f.mdn 1 then some (clock + count) else none, park := if quiet then none else o.park }
  | .bar _ =>
    let tgt := if o.shownIn b then fieldOf b (0xC08 + 16 * l) 8 else o.target.toNat
    { o with added := tgt != 0, readYet := tgt != 0, target := BitVec.ofNat 64 tgt, park := if quiet then none else o.park }
  | _ => o

/-- The waits on child shows that WAITS holds: they have no record (R173, R189). -/
def showWaits (b : List Nat) (clock : Nat) : List MemOp :=
  let word := fun (l : Nat) => if bitOf (fieldOf b (0xC00 + 16 * l) 8) 1 then fieldOf b (0xC08 + 16 * l) 8 else 0
  let isWait := fun (l : Nat) => bitOf (fieldOf b (0xC00 + 16 * l) 8) 1
  (nubNat ((lanes.filter isWait).map word)).map fun w =>
    let f : Fields := {
      md := 1, d := BitVec.ofNat 8 (bitsOf w 39 32 ^^^ 63), sa := BitVec.ofNat 4 (bitsOf w 43 40 ^^^ 15), sb := BitVec.ofNat 4 (bitsOf w 47 44 ^^^ 15) }
    let run := maskOf fun l => isWait l && word l == w
    let o := { (default : MemOp) with
      seq := w % 2 ^ 32, stamp := clock, ins := .showq f, run := run, act := run, size := 1, elems := 1, single := true, acq := true
      flags := Fields.flags f }
    { o with level := o.waitLevel b }

/-- An operation that the package has kept goes on from what its record says: the lanes and elements that are done, the results that
are delivered; every other lane is made again (R66, R77, R174). -/
def MemOp.rejoin (κ o : MemOp) : MemOp :=
  { κ with
    stamp := o.stamp, done := o.done, prog := o.prog, got := o.got, locks := o.locks, tags := o.tags, given := o.given
    poll := 0, leaveAt := 0, readYet := false, stuck := [], replayed := true, park := κ.park.map Park.again }

/-- A block of an image, and what it takes to read operations from it: the kind of troupe, its registers, the parameter pointer, the
CLOCK, and the troupe as this package kept it. -/
structure BlockIn where
  bytes : List Nat
  calliope : Bool
  nregs : Nat
  param : W64
  clock : Nat
  kept : Option Troupe
  deriving DecidableEq, Repr

/-- Encore record `r` of a block. -/
def BlockIn.recAt (x : BlockIn) (r : Nat) : List Nat := (x.bytes.drop (0x1000 + 512 * r)).take 512

/-- The operation of a chain of records: the one that the package kept, where its records say the same, else what the records alone
say; then a constant-bank instruction takes its other sources from the registers (log entry 61). -/
def BlockIn.chain (x : BlockIn) (t : Troupe) (rs : List Nat) : Option MemOp :=
  (recordIn x.clock (rs.map x.recAt)).bind fun r =>
    (({ r with park := r.park.again } : RecordIn).op x.calliope x.nregs x.param x.clock rs).map fun o =>
      let mine := x.kept.bind fun κ => (κ.ops.find? fun y => y.park.isSome && y.recs.head? == rs.head? && rs.all fun r => κ.record r == x.recAt r)
      let o := match mine with
        | some κ => κ.rejoin o
        | none =>
          let o := if isWaiting o.ins then { o with level := o.waitLevel x.bytes } else o
          if (bankBody o.ins).isSome then { o.capture { t with level := o.level } with uni := o.uni, draws := o.draws } else o
      o.rewait x.bytes x.clock

/-- Each operation has the records that its instruction reserves (R73). -/
def reserveRecs : List MemOp → List Nat → List MemOp
  | [], _ => []
  | o :: os, free =>
    let n := o.ins.layout.recs - o.recs.length
    { o with recs := o.recs ++ free.take n } :: reserveRecs os (free.drop n)

/-- The operations of a block in issue order (R77, R174). -/
def BlockIn.ops (x : BlockIn) (t : Troupe) : List MemOp :=
  let b := x.bytes
  let waits := (showWaits b x.clock).map fun o =>
    match x.kept.bind fun κ => κ.ops.find? fun y => (match y.ins with | .showq _ => true | _ => false) && y.seq == o.seq with
    | some κ => { κ.rejoin o with park := none }
    | none => o
  let seq := fieldOf b 0x420 4
  let os := sortBy (fun (o : MemOp) => (o.seq + 2 ^ 33 - seq) % 2 ^ 32) ((recordChains b).filterMap (x.chain t) ++ waits)
  let used := os.flatMap (·.recs)
  reserveRecs os ((List.range 4).filter fun r => !used.contains r)

/-- The counters of PERF that a block does not hold: as the package kept them, else as they follow from it, or free (R106). -/
def Troupe.recount (t : Troupe) (kept : Option Troupe) (free : Nat) : Troupe :=
  match kept with
  | some κ =>
    { t with
      issues := if κ.issueseq = t.issueseq then κ.issues else t.issueseq.toNat
      replays := κ.replays, cycles := κ.cycles, forced := κ.forced, windows := κ.windows, faults := κ.faults, traps := κ.traps
      summary := κ.summary, prevRun := κ.prevRun }
  | none =>
    let n := t.issueseq.toNat
    { t with
      issues := n, replays := t.stalls.read 7, cycles := n + t.stalls.foldl (fun m e => m + e.2) 0
      forced := (Config.freeWord free).toNat, windows := (Config.freeWord (free + 1)).toNat
      faults := (Config.freeWord (free + 2)).toNat, traps := (Config.freeWord (free + 3)).toNat }

/-- The fatal records whose deferred traps no troupe has kept raise them again (R79, R83). -/
def Troupe.fatalTraps (t : Troupe) (dts : List DTrap) : List DTrap :=
  t.ops.filterMap fun o => match o.park with
    | some y =>
      if y.state = .fatal && !dts.any (fun d => d.record == o.recs.headD 0) then
        some { cause := 6, detail := y.cls, record := o.recs.headD 0, value := y.addr, word := 0, level := o.level }
      else none
    | none => none

/-- A troupe from its block, in a context whose debug right is held or not (R66, R173, R174, R261). PCs have bits [3:0] zero (R39). -/
def BlockIn.troupe (x : BlockIn) (company index free : Nat) (debug : Bool) : Troupe :=
  let b := x.bytes
  let n := x.nregs
  let pt := pcTableOf b x.clock
  let s64 := fun (o : Nat) => BitVec.ofNat 64 (fieldOf b o 8)
  let halt := debug && (match x.kept with | some κ => κ.halted | none => decide (pt.inState .halted ≠ 0) || s64 0x6F0 != 0)
  let pt := if halt then pt else pt.put (pt.inState .halted) .ready
  let t := { (default : Troupe) with
    v := (List.range n).foldl (fun (m : Tbl W32) r => m.writeLanes (64 * r) (-1) (fun l => BitVec.ofNat 32 (fieldOf b (0x1800 + 256 * r + 4 * l) 4)) lanes) []
    s := (List.range 63).foldl (fun (m : Tbl W64) r => m.write r (s64 (0x428 + 8 * r))) []
    s1 := (List.range 3).foldl (fun (m : Tbl W64) r => m.write (60 + r) (s64 (0x620 + 8 * r))) []
    p := (List.range 7).foldl (fun (m : Tbl Mask) r => m.write r (s64 (0x3D8 + 8 * r))) []
    q := (List.range 7).foldl (fun (m : Tbl Bool) r => m.write r (bitOf (b.getD 0x410 0) r)) []
    f := numsOf b 0x411 1 12, rs := rsOf b, seed := BitVec.ofNat 16 (fieldOf b 0x41E 2)
    pt := pt, shadow := pcTableOf (b.drop 0x800) x.clock, shadowRs := rsOf (b.drop 0x800)
    level := b.getD 0x41D 0 % 2, trcause := s64 0x638, trpc := s64 0x640, trmask := s64 0x648, trval := s64 0x650
    trword := BitVec.ofNat 128 (fieldOf b 0x658 16), issueseq := BitVec.ofNat 32 (fieldOf b 0x420 4)
    stalls := numsOf b 0x668 8 16, oc := numsOf b 0x6E8 1 4, since := x.clock
    halted := halt, haltrec := if halt then s64 0x6F0 else 0, haltpc := if halt then s64 0x6F8 else 0
    haltseq := if halt then (match x.kept with | some κ => κ.haltseq | none => BitVec.ofNat 64 (fieldOf b 0x6EC 4)) else 0
    resident := true, company := company, index := index, nregs := n }
  let t := (t.recount x.kept free)
  let t := { t with ops := x.ops t }
  let dts := match x.kept with | some κ => κ.dtraps | none => []
  { t with ended := (lanes.all fun l => pt.state l == .exited) && t.ops.isEmpty, dtraps := dts ++ t.fatalTraps dts }

/-! ### Arrays, banks and engine records (R216, R218, R219) -/

/-- An array from its block. -/
def arrayOf (b : List Nat) (holder : Nat) : MxArray :=
  let tile : MxTile := { fmt := b.getD 0 0, bc := b.getD 1 0, scf := b.getD 2 0, ts := fieldOf b 4 2 }
  let st := fun (i : Nat) => ({ fmt := b.getD (8 + 8 * i) 0, bc := b.getD (9 + 8 * i) 0, scf := b.getD (10 + 8 * i) 0,
                                rm := b.getD (11 + 8 * i) 0, ts := fieldOf b (12 + 8 * i) 2 } : MxStream)
  { holder := holder, tile := tile, valid := b.getD 3 0 != 0
    weights := (((b.drop 0x100).take 8192).zip (List.range 8192)).foldl (fun (m : Tbl Byte) x => m.write x.2 (BitVec.ofNat 8 x.1)) []
    scales := (((b.drop 0x2100).take 2048).zip (List.range 2048)).foldl (fun (m : Tbl Byte) x => m.write x.2 (BitVec.ofNat 8 x.1)) []
    streams := (List.range 4).map st, rs := BitVec.ofNat 16 (fieldOf b 6 2), nextTile := tile, nextStreams := (List.range 4).map st }

/-- Puts the banks of an image into the physical banks granted on a core, in logical order (R174). -/
def State.putBanks (s : State) (c : Nat) (bs : List Nat) (b : List Nat) : State :=
  s.modCore c fun x => { x with acc := (bs.zip (List.range bs.length)).foldl (fun (m : Tbl W32) p =>
    (List.range 4096).foldl (fun (m : Tbl W32) e =>
      m.write (4096 * p.1 + e) (BitVec.ofNat 32 (fieldOf (b.drop (16384 * p.2 + 4 * e)) 0 4))) m) x.acc }

/-- The accumulator image returns: arrays are marked as held and banks granted (R218, R219). -/
def State.putAcc (s : State) (k : Nat) (arrays : List Nat) (b : List Nat) : State :=
  if b.isEmpty then s
  else
    let co := s.co k
    let l := b.getD 0 0
    let f := b.getD 1 0
    let s := (arrays.zip (List.range arrays.length)).foldl (fun (s : State) x =>
      s.modCore (co.core + x.1) fun y => { y with array := arrayOf ((b.drop (256 + 10496 * x.2)).take 10496) (k + 1) }) s
    let s := (s.giveBanks co.core k l)
    let s := if f = 0 then s else s.giveBanks (co.core + 1) k f
    let rest := b.drop (256 + 10496 * arrays.length)
    (s.putBanks co.core (s.co k).banks rest).putBanks (co.core + 1) (s.co k).fbanks (rest.drop (16384 * l))

/-- The troupe that an engine record belongs to: the counters of the troupes, less their own parked CPLs, say how many of each
class each has, and the records stand in troupe order. -/
def recordOwner (left : List (Nat × Nat)) : Option (Nat × List (Nat × Nat)) :=
  match left with
  | [] => none
  | (t, 0) :: xs => recordOwner xs |>.map fun r => (r.1, (t, 0) :: r.2)
  | (t, n + 1) :: xs => some (t, (t, n) :: xs)

/-- The counter class of a command with an engine record: 0, 1 or 3. -/
def recordClass : Instr → Nat
  | .cpt _ => 0
  | .accst _ => 1
  | _ => 3

/-- What each troupe's counter of a class holds for engine records. -/
def State.countsFor (s : State) (k cls : Nat) : List (Nat × Nat) :=
  ((s.co k).slots).map fun t =>
    let cpls := ((s.tr t).ops.filter fun o => match o.ins with | .cpl _ => cls == 0 | .accrd _ | .accwr _ => cls == 1 | _ => false).length
    (t, (s.tr t).oc.read cls - cpls)

/-- The command that the package kept for an engine record: its record says the same. -/
def Co.keptCmd (c : Co) (b : List Nat) : Option EngCmd :=
  c.keptCmds.find? fun x => match x.park with | some p => x.closed.record p == b | none => false

/-- An engine record returns to its engine, or as a turnstile add to its core's queue (R163, R216, R359). -/
def State.putRecord (s : State) (k t : Nat) (i : Instr) (b : List Nat) (r : RecordIn) : State :=
  let r := { r with park := r.park.again }
  match i with
  | .accst _ =>
    let uni := (List.range 3).map fun j => BitVec.ofNat 64 (fieldOf r.log (8 * j) 8)
    let x : MxCmd := {
      t := t, seq := r.seq, pc := r.pc, ins := i, word := r.word, run := r.act, act := r.act, company := k, uni := uni, idx := [], dat := [],
      banks := [], fbanks := [], row := 0, shadow := false, entered := s.clock }
    s.modCore (coreOf t) fun y => { y with adds := y.adds ++ [{ cmd := x, park := some r.park }] }
  | i =>
    let e := (engineOf i (coreOf t)).getD 0
    let x := match (s.co k).keptCmd b with
      | some κ => { κ with t := t, park := κ.park.map Park.again }
      | none => r.cmd i t k (s.co k).ctx
    { s with engines := s.engines.modify e fun l => l ++ [x] }

/-- The engine records of an image return in order. -/
def State.putRecords (s : State) (k : Nat) : List (List Nat) → (Nat → List (Nat × Nat)) → State
  | [], _ => s
  | b :: bs, left =>
    match recordIn s.clock [b] with
    | none => State.putRecords s k bs left
    | some r =>
      match decodeFor false 256 r.word with
      | .error _ => State.putRecords s k bs left
      | .ok i =>
        let c := recordClass i
        match recordOwner (left c) with
        | none => State.putRecords s k bs left
        | some (t, rest) => State.putRecords (s.putRecord k t i b r) k bs fun x => if x = c then rest else left x

/-! ### A restore (R174, R231, R391) -/

/-- The header of an image read back (R172). -/
structure ImageHead where
  major : Nat
  minor : Nat
  troupes : Nat
  flags : Nat
  nregs : Nat
  depth : Nat
  banks : Nat
  scratch : Nat
  children : Nat
  index : Nat
  recaddr : W64
  engrec : Nat
  total : Nat
  deriving DecidableEq, Repr

/-- Reads the header. -/
def headOf (b : List Nat) : ImageHead :=
  { major := b.getD 0 0, minor := b.getD 1 0, troupes := b.getD 2 0, flags := b.getD 3 0, nregs := fieldOf b 4 2, depth := b.getD 6 0,
    banks := b.getD 7 0, scratch := fieldOf b 8 4, children := fieldOf b 0xC 4, index := fieldOf b 0x10 8,
    recaddr := BitVec.ofNat 64 (fieldOf b 0x20 8), engrec := fieldOf b 0x28 4, total := fieldOf b 0x30 8 }

/-- The sections of an image: troupe blocks, scratchpads, accumulators, engine records. -/
structure Sections where
  blocks : List (List Nat)
  scr : List Nat
  fscr : List Nat
  acc : List Nat
  recs : List (List Nat)
  deriving DecidableEq, Repr

/-- Cuts an image into its sections (R172). -/
def sectionsOf (h : ImageHead) (b : List Nat) : Sections :=
  let tb := 0x1800 + 256 * h.nregs
  let cal := bitOf h.flags 1
  let blocks := (List.range h.troupes).map fun i => (b.drop (256 + tb * i)).take tb
  let o1 := 256 + tb * h.troupes
  let blocks := if cal then blocks ++ [(b.drop o1).take (0x1800 + 256 * 64)] else blocks
  let o2 := if cal then o1 + (0x1800 + 256 * 64) else o1
  let o3 := if bitOf h.flags 0 then o2 + 2 * h.scratch else o2 + h.scratch
  let o4 := b.length - 512 * h.engrec
  { blocks := blocks, scr := (b.drop o2).take h.scratch, fscr := if bitOf h.flags 0 then (b.drop (o2 + h.scratch)).take h.scratch else [],
    acc := (b.drop o3).take (o4 - o3), recs := (List.range h.engrec).map fun i => (b.drop (o4 + 512 * i)).take 512 }

/-- The arrays that an image's accumulator section holds; one array of a paired company is the one the package remembers, else
the leader's (R219). -/
def arraysIn (known : List Nat) (acc : List Nat) : List Nat :=
  let n := acc.getD 2 0
  if known.length = n then known else if n = 0 then [] else if n = 1 then [0] else [0, 1]

/-- What a saved company needs of the cores it returns to (R174, R218). -/
def State.needOf (s : State) (k : Nat) (h : ImageHead) (acc : List Nat) : Need :=
  { troupes := h.troupes, nregs := h.nregs, scratch := h.scratch, paired := bitOf h.flags 0, windowed := (s.co k).windowed,
    calliope := bitOf h.flags 1, banks := acc.getD 0 0, fbanks := acc.getD 1 0, arrays := arraysIn (s.co k).arrays acc }

/-- Scratchpad bytes return (R174). -/
def State.putScratch (s : State) (c base : Nat) (b : List Nat) : State :=
  s.modCore c fun x => { x with scratch := (b.zip (List.range b.length)).foldl (fun (m : Tbl Byte) p => m.write (base + p.2) (BitVec.ofNat 8 p.1)) x.scratch }

/-- Bound tags that a restored record names are bound to its lanes again (R391). -/
def State.bindTags (s : State) (k : Nat) (o : MemOp) : State :=
  o.tags.foldl (fun (s : State) e =>
    if !bitOf e.2 31 then s
    else
      let num := e.2 % 2 ^ 24
      let origin := bitsOf e.2 30 24
      let lane := if o.single then 0 else e.1 + 1
      let what := match o.ins with | .tsadd _ => 3 | .atom _ | .red _ => 2 | _ => 1
      let va := if o.single then o.addr.read 0 else o.addr.read e.1
      let pa := (s.physOf k va).getD 0
      let g : Tag := {
        num := num, origin := origin, target := ((s.window pa).map (·.2)).getD 0, t := k, q := o.seq, lane := if what = 1 then 0 else lane,
        what := what, pa := pa, hint := 0, first := s.clock, sent := s.clock, timedOut := true, killed := false, joined := [] }
      let rest := s.fabric.tags.filter fun x => !(x.num == num && x.origin == origin)
      { s with fabric := { s.fabric with tags := rest ++ [g] } }) s

/-- A restored cut selection takes its presence snapshot again (R231). -/
def State.bindCuts (s : State) (k : Nat) : State :=
  let s := s.modTr k fun t => { t with ops := t.ops.map fun o => match o.ins with
    | .cutsel _ => { o with snap := (s.cache.snaps.read o.epoch).1, missList := (s.cache.snaps.read o.epoch).2 }
    | _ => o }
  s

/-- Puts a company's state back from the sections of its image, on the seat that it has taken (R167, R174, R259, R265). -/
def State.putImage (s : State) (k : Nat) (h : ImageHead) (x : Sections) : State :=
  let co := s.co k
  let debug := (s.ctx co.ctx).debug
  let s := (co.slots.zip (x.blocks.zip (List.range x.blocks.length))).foldl (fun (s : State) p =>
    let cal := isCalliope p.1
    let y : BlockIn := {
      bytes := p.2.1, calliope := cal, nregs := if cal then 64 else h.nregs, param := co.param, clock := s.clock, kept := co.kept[p.2.2]? }
    ({ s with free := s.free + 4 } : State).setTr p.1 (y.troupe k p.2.2 s.free debug)) s
  let s := (s.putScratch co.core co.scrbase x.scr).putScratch (co.core + 1) co.fscrbase x.fscr
  let s := s.putAcc k (arraysIn co.arrays x.acc) x.acc
  let s := s.putRecords k x.recs (s.countsFor k)
  let s := co.slots.foldl (fun (s : State) t => ((s.tr t).ops.foldl (fun (s : State) o => s.bindTags t o) s).bindCuts t) s
  let done := co.slots.all fun t => !isCalliope t || (s.tr t).ended
  let s := s.modCo k fun y => { y with
    troupes := h.troupes, nregs := h.nregs, scratch := h.scratch, depth := h.depth, calliopeDone := done, kept := [], keptCmds := [],
    arrays := [], group := 0 }
  -- a company whose troupes have all ended is over as soon as it is back
  ((s.spotlight co.slots).joinStops co.slots).releaseIfOver k

/-- A saved company's image as read, or a wait, or a fault (R174). -/
def State.readImage (s : State) (k : Nat) : Acc (ImageHead × Sections) × State :=
  let co := s.co k
  match s.schedRead co.ctx co.image 256 with
  | (.ok b, s) =>
    let h := headOf b
    match s.schedRead co.ctx co.image h.total with
    | (.ok b, s) => (.ok (h, sectionsOf h b), s)
    | (.wait, s) => (.wait, s)
    | (.fault f, s) => (.fault f, s)
  | (.wait, s) => (.wait, s)
  | (.fault f, s) => (.fault f, s)

/-- The level of an image is this part's (R10). -/
def ImageHead.levelOk (h : ImageHead) : Bool := h.major == 1 && h.minor == 0

/-- Puts one saved company on a core; `none` where it cannot be read, is of another level, or does not fit (R10, R174). -/
def State.restoreOne (s : State) (k c : Nat) : Option State × State :=
  match s.readImage k with
  | (.ok (h, x), s) =>
    let n := s.needOf k h x.acc
    match if h.levelOk then s.seat c n else none with
    | some p =>
      let s' := s.modCo k fun y => { y with
        troupes := h.troupes, paired := n.paired, scratch := h.scratch, nregs := h.nregs, calliope := n.calliope, banks := [], fbanks := [] }
      (some ((s'.takeSeat k c n p).putImage k h x), s)
    | none => (none, s)
  | (_, s) => (none, s)

end Sys2Proof.Machine
end

