-- ==== Sys2Proof/Machine/Launch.lean ====
section
/-!
DEFINITION. Launch queues, shows, the placement, saving and retirement of companies, and child shows (R165 to R171, R188 to
R190, R340, R360 to R368).
-/
namespace Sys2Proof.Machine

/-! ### Launch records (R362) -/

/-- A launch record from its 256 bytes; `none` where it breaks the table. -/
def launchOf (b : List Nat) : Option Launch :=
  let f := fieldOf b
  let num := BitVec.ofNat 64
  let gx := f 0x10 4
  let gy := f 0x14 4
  let gz := f 0x18 4
  let flags := f 0x1D 1
  let paired := bitOf flags 0
  let troupes := f 0x1C 1
  let nregs := f 0x1E 2
  let scratch := f 0x20 4
  let ok :=
    f 0 8 % 16 == 0 && 1 ≤ gx && 1 ≤ gy && 1 ≤ gz && gx ≤ 2 ^ 22 && gy ≤ 2 ^ 21 && gz ≤ 2 ^ 21 && gx * gy * gz ≤ 2 ^ 40
    && (if paired then 2 ≤ troupes && troupes ≤ 32 else 1 ≤ troupes && troupes ≤ 16)
    && flags < 8 && 8 ≤ nregs && nregs ≤ 256 && nregs % 8 == 0 && scratch % 2048 == 0 && scratch ≤ 524288
    && f 0x24 4 % 16 == 0 && (bitOf flags 2 || f 0x28 8 == 0) && f 0x30 1 < 8 && f 0x31 1 == 0 && f 0x32 2 < 512
    && f 0x34 4 == 0 && f 0x40 8 % 256 == 0 && f 0xA0 96 == 0
  if !ok then none
  else some {
    entry := num (f 0 8), param := num (f 8 8), gx := gx, gy := gy, gz := gz, troupes := troupes, cflags := flags, nregs := nregs,
    scratch := scratch, stksize := f 0x24 4, calliope := num (f 0x28 8), prio := f 0x30 1, pcore := f 0x32 2
    savearea := num (f 0x38 8), savestride := f 0x40 8, exitrec := num (f 0x48 8), donets := num (f 0x50 8)
    deps := (List.range 4).map fun j => (num (f (0x58 + 16 * j) 8), num (f (0x60 + 16 * j) 8)), stackarea := num (f 0x98 8) }

/-- The companies of a show. -/
def Launch.total (l : Launch) : Nat := l.gx * l.gy * l.gz

/-- A context in which shows can run: it is neither ended nor ending (R339). -/
def State.ctxLive (s : State) (c : Nat) : Bool := (s.ctx c).endReason == 0 && !(s.ctx c).dead

/-! ### Queues (R360, R361, R366) -/

/-- A register of a launch queue. -/
def State.qreg (s : State) (q off : Nat) : W64 := s.reg (0xA000 + 64 * q + off)

/-- The fields of QCTL (R360). -/
def State.qEnabled (s : State) (q : Nat) : Bool := (s.qreg q 0x20).getLsbD 0
def State.qSuspended (s : State) (q : Nat) : Bool := (s.qreg q 0x20).getLsbD 1
def State.qHost (s : State) (q : Nat) : Bool := (s.qreg q 0x20).getLsbD 2
def State.qCtx (s : State) (q : Nat) : Nat := bitsOf (s.qreg q 0x20).toNat 15 4

/-- A 57-bit virtual address in a queue's register, sign-extended (R5, R360). -/
def State.qVa (s : State) (q off : Nat) : W64 := signVa (s.qreg q off).toNat

/-- A show that has been taken or posted (R361, R188). -/
def State.addShow (s : State) (l : Launch) (ctx : Nat) (addr : W64) (queue root parent depth : Nat) : State :=
  { s with
    shows := s.shows.write s.nextShow {
      live := true, launch := l, ctx := ctx, addr := addr, queue := queue, root := root, parent := parent, depth := depth,
      started := false, startedAt := 0, next := 0, retired := 0, waitSince := s.clock }
    nextShow := s.nextShow + 1 }

/-- NEXT advances, after the taken turnstile's add could be made (R361). -/
def State.takeRecord (s : State) (q : Nat) (g : State → State) : State :=
  match s.schedAdd (s.qCtx q) (s.qVa q 0x18) 1 with
  | (false, s) => s
  | (true, s) => g (s.setReg (0xA000 + 64 * q + 0x28) (s.qreg q 0x28 + 1))

/-- The context of a launch can run it: its descriptor, which is read if it must be, has VALID = 1. A descriptor in no window is as
VALID = 0 (R318, R362, R420). -/
def State.launchable (s : State) (ctx : Nat) : Acc Bool × State :=
  match s.readDesc ctx with
  | (.ok d, s) => (.ok d.valid, s)
  | (.fault _, s) => (.ok false, s)
  | (.wait, s) => (.wait, s)

/-- A record is refused, reported and passed (R362). -/
def State.refuseNext (s : State) (lq : Nat) (addr : W64) : State :=
  s.takeRecord lq fun s => s.refuseRecord (s.qCtx lq) addr

/-- LAUNCH_RECORD_TAKE (R361, R362, R420): the next record of an enabled queue whose arrival turnstile exceeds NEXT, once the show
before it has started; a record that is refused is reported and passed. In a context whose descriptor lies in no window no
turnstile can be read: the queue's first record is refused then, once (log entry 77). -/
def execLaunchRecordTake (lq : Nat) (s : State) : Out :=
  let ctx := s.qCtx lq
  let next := (s.qreg lq 0x28).toNat
  let size := (s.qreg lq 0x08).toNat
  let held := s.shows.any fun e => e.2.live && e.2.queue == lq + 1 && !e.2.started
  if 64 ≤ lq || !s.qEnabled lq || s.qSuspended lq || held || size = 0 || !s.ctxLive ctx then .next s
  else match s.schedRead ctx (s.qVa lq 0x10) 8 with
    | (.ok b, s) =>
      if leNat b ≤ next then .next s
      else
        let addr := s.qVa lq 0 + BitVec.ofNat 64 (256 * (next % size))
        match s.schedRead ctx addr 256 with
        | (.wait, s) => .next s
        | (.fault _, s) => .next (s.refuseNext lq addr)
        | (.ok b, s) =>
          match launchOf b with
          | some l =>
            match s.launchable ctx with
            | (.wait, s) => .next s
            | (ok, s) =>
              if ok ≠ .ok true || (!s.qHost lq && l.pcore ≠ 0) then .next (s.refuseNext lq addr)
              else .next (s.takeRecord lq fun s => s.addShow l ctx addr (lq + 1) (lq + 1) 0 1)
          | none => .next (s.refuseNext lq addr)
    | (_, s) =>
      if next = 0 && (s.window (s.descAddr ctx)).isNone then
        .next ((s.setReg (0xA000 + 64 * lq + 0x28) 1).refuseRecord ctx (s.qVa lq 0))
      else .next s

/-- Every used pair of DEPS has its turnstile at or above its target (R363). -/
def State.depsMet (s : State) (ctx : Nat) : List (W64 × W64) → Bool × State
  | [] => (true, s)
  | (a, v) :: ds =>
    if a = 0 then State.depsMet s ctx ds
    else match s.schedRead ctx a 8 with
      | (.ok b, s) => if v.toNat ≤ leNat b then State.depsMet s ctx ds else (false, s)
      | (_, s) => (false, s)

/-- SHOW_START (R363). -/
def execShowStart (sh : Nat) (s : State) : Out :=
  let h := s.sh sh
  if !h.live || h.started || !s.ctxLive h.ctx then .next s
  else match s.depsMet h.ctx h.launch.deps with
    | (false, s) => .next s
    | (true, s) => .next (s.modSh sh fun h => { h with started := true, startedAt := s.clock, waitSince := s.clock })

/-! ### The order of placement (R364 to R366) -/

/-- What waits for a place: a saved company or the next company of a show. -/
inductive Waiting where
  | saved (k : Nat)
  | show (sh : Nat)
  deriving DecidableEq, Repr

/-- The launch queue of a show's ancestors is suspended (R366). -/
def State.rootSuspended (s : State) (sh : Nat) : Bool := let r := (s.sh sh).root; r != 0 && s.qSuspended (r - 1)

/-- A saved company that returns as soon as it is placed: not one that the host is to restore (R340, R366). -/
def State.returns (s : State) (k : Nat) : Bool :=
  let c := s.co k
  c.st == .saved && c.hostTrap == 0 && !c.stuck && s.ctxLive c.ctx && !s.rootSuspended c.sh

/-- A show with a company to place. -/
def State.places (s : State) (sh : Nat) : Bool :=
  let h := s.sh sh
  h.live && h.started && decide (h.next < h.launch.total) && s.ctxLive h.ctx && !s.rootSuspended sh

/-- The priority of what waits, and since when it has waited. -/
def State.waitPrio (s : State) : Waiting → Nat
  | .saved k => (s.co k).prio
  | .show sh => (s.sh sh).launch.prio
def State.waitClock (s : State) : Waiting → Nat
  | .saved k => (s.co k).waitSince
  | .show sh => (s.sh sh).waitSince

/-- What waits, in the order of R364: priority, restored companies first, then the show that started earliest. -/
def State.waitList (s : State) : List Waiting :=
  let a := ((s.companies.map (·.1)).filter s.returns).map fun k => (Waiting.saved k, s.waitClock (.saved k))
  let b := ((s.shows.map (·.1)).filter s.places).map fun h => (Waiting.show h, 2 ^ 64 + (s.sh h).startedAt)
  (sortBy (fun x => (7 - s.waitPrio x.1) * 2 ^ 65 + x.2) (a ++ b)).map (·.1)

/-- What a company of a show needs. -/
def Launch.need (l : Launch) : Need :=
  { troupes := l.troupes, nregs := l.nregs, scratch := l.scratch, paired := bitOf l.cflags 0, windowed := bitOf l.cflags 1, calliope := bitOf l.cflags 2 }

/-- What a saved company needs, as the package remembers it. -/
def State.savedNeed (s : State) (k : Nat) : Need :=
  let c := s.co k
  { troupes := c.troupes, nregs := c.nregs, scratch := c.scratch, paired := c.paired, windowed := c.windowed, calliope := c.calliope,
    banks := c.banks.length, fbanks := c.fbanks.length, arrays := c.arrays }

/-- The companies that were saved together with one (R221). -/
def State.groupOf (s : State) (k : Nat) : List Nat :=
  let g := (s.co k).group
  if g = 0 then [k] else (s.companies.filter fun e => e.2.group == g && e.2.st != .retired).map (·.1)

/-- The core on which a member returns when its group's member `k` returns to core `c`: the same logical number, one ring (R221). -/
def State.groupCore (s : State) (k c m : Nat) : Nat := if m = k then c else 8 * (c / 8) + (s.co m).core % 8

/-- The core that a host queue's record names for the companies of its show, where the host places them (R364). -/
def State.hostCore (s : State) (sh : Nat) : Option Nat :=
  let h := s.sh sh
  if s.placeHost && h.queue != 0 && s.qHost (h.queue - 1) then some (h.launch.pcore % 512) else none

/-- A company of a show may stand on core `c` (R364). -/
def State.coreAllowed (s : State) (sh c : Nat) : Bool := match s.hostCore sh with | some p => p == c | none => true

/-- A saved company, with its group, fits with its leader on core `c`. -/
def State.savedFits (s : State) (k c : Nat) : Bool :=
  let ms := s.groupOf k
  ((s.co k).group == 0 || c % 8 == (s.co k).core % 8) &&
  (ms.all fun m => s.returns m && s.coreAllowed (s.co m).sh (s.groupCore k c m)) &&
  (ms.foldl (fun (a : Bool × State) m =>
    let d := s.groupCore k c m
    let n := a.2.savedNeed m
    match a.2.seat d n with
    | some p =>
      let s' := a.2.takeSeat m d n p
      (a.1, p.slots.foldl (fun (s : State) t => s.modTr t fun x => { x with resident := true, nregs := n.nregs }) s')
    | none => (false, a.2)) (true, s)).1

/-- The cores on which what waits may be placed: with DUTYSPLIT.PLACE the one that a host queue's record names (R364). -/
def State.waitCores (s : State) (w : Waiting) : List Nat :=
  match s.hostCore (match w with | .saved k => (s.co k).sh | .show sh => sh) with
  | some c => [c]
  | none => allCores

/-- What waits fits on core `c`. -/
def State.waitFits (s : State) (w : Waiting) (c : Nat) : Bool :=
  match w with
  | .saved k => s.savedFits k c
  | .show sh => (s.seat c (s.sh sh).launch.need).isSome

/-- The first core on which what waits fits. -/
def State.waitSeat (s : State) (w : Waiting) : Option Nat := (s.waitCores w).find? fun c => s.waitFits w c

/-- What is placed next, and a core for it: one that fits on no core blocks lower priorities after 65,536 cycles (R364). -/
def State.nextPlaced (s : State) : List Waiting → Option Nat → Option (Waiting × Nat)
  | [], _ => none
  | w :: ws, floor =>
    let blocked := match floor with | some p => decide (s.waitPrio w < p) | none => false
    if blocked then none
    else match s.waitSeat w with
      | some c => some (w, c)
      | none => State.nextPlaced s ws (if s.waitClock w + 65536 ≤ s.clock && floor.isNone then some (s.waitPrio w) else floor)

/-! ### Placement (R65, R71, R165, R166, R188, R191, R364) -/

/-- The record of company `i` of a show, before it has a seat. -/
def State.newCompany (s : State) (sh i : Nat) : Co :=
  let h := s.sh sh
  let l := h.launch
  let at' := fun (a : W64) (step : Nat) => if a = 0 then 0 else a + BitVec.ofNat 64 (i * step)
  { (default : Co) with
    sh := sh, ctx := h.ctx, index := i, troupes := l.troupes, paired := bitOf l.cflags 0, windowed := bitOf l.cflags 1
    calliope := bitOf l.cflags 2, nregs := l.nregs, scratch := l.scratch, depth := h.depth
    dimx := l.gx, dimy := l.gy, dimz := l.gz, param := l.param, stkbase := l.stackarea + BitVec.ofNat 64 (i * l.troupes * 64 * l.stksize)
    stksize := l.stksize, prio := l.prio, save := at' l.savearea l.savestride, savestride := l.savestride
    exitrec := at' l.exitrec 4160, donets := l.donets, recaddr := h.addr, entry := l.entry, callEntry := l.calliope
    calliopeDone := !bitOf l.cflags 2 }

/-- A company starts on its seat: every troupe as R65 leaves it, in the pending set, and the calliope beside them, with the number
of troupes as its index, from which its RNDSEED and lane states come (log entry 31). -/
def State.startCompany (s : State) (k : Nat) : State :=
  let c := s.co k
  let s := (c.slots.zip (List.range c.slots.length)).foldl (fun (s : State) p =>
    let cal := isCalliope p.1
    let t := Troupe.launched p.2 k (if cal then 64 else c.nregs) (if cal then c.callEntry else c.entry) c.param c.index
    s.setTr p.1 { t with since := s.clock }) s
  (s.spotlight c.slots).joinStops c.slots

/-- COMPANY_PLACE (R364): the next company of a show, when the order of R364 gives it its turn and it fits. -/
def execCompanyPlace (sh c : Nat) (s : State) : Out :=
  let n := (s.sh sh).launch.need
  match s.nextPlaced s.waitList none with
  | some (w, _) =>
    if w ≠ .show sh || !(s.waitCores w).contains c then .next s
    else match s.seat c n with
      | none => .next s
      | some p =>
        let k := s.nextCompany
        let s := { s with companies := s.companies.write k (s.newCompany sh (s.sh sh).next), nextCompany := k + 1 }
        let s := (s.takeSeat k c n p).startCompany k
        .next (s.modSh sh fun h => { h with next := h.next + 1, waitSince := s.clock })
  | none => .next s

/-- Puts the members of a group back one after the other; `none` where one cannot be read or does not fit (R221). -/
def State.restoreAll (s : State) (k c : Nat) : List Nat → State → Option State
  | [], x => some x
  | m :: ms, x =>
    match (x.restoreOne m (s.groupCore k c m)).1 with
    | some x => State.restoreAll s k c ms x
    | none => none

/-- A saved image that cannot be read, or is of another level, is refused: the company does not return (R10, R174, R368). -/
def State.refuseImage (s : State) (k : Nat) : State :=
  let c := s.co k
  (s.refuseRecord c.ctx c.image).modCo k fun x => { x with stuck := true }

/-- Reads the images of a group: each that cannot be read, or is of another level, is refused, and the group does not return (R10,
R221). -/
def State.checkImages (s : State) : List Nat → Acc Bool × State
  | [] => (.ok true, s)
  | m :: ms =>
    let rest := fun (s : State) (good : Bool) => match s.checkImages ms with
      | (.ok b, s) => (Acc.ok (b && good), s)
      | r => r
    match s.readImage m with
    | (.wait, s) => (.wait, s)
    | (.fault _, s) => rest (s.refuseImage m) false
    | (.ok (h, _), s) => if h.levelOk then rest s true else rest (s.refuseImage m) false

/-- COMPANY_RESTORE (R174, R364): a saved company, with its group, returns when its turn comes and it fits. -/
def execCompanyRestore (k c : Nat) (s : State) : Out :=
  match s.nextPlaced s.waitList none with
  | some (w, _) =>
    if w ≠ .saved k || !s.savedFits k c then .next s
    else match s.checkImages (s.groupOf k) with
      | (.ok true, s) => .next ((State.restoreAll s k c (s.groupOf k) s).getD s)
      | (_, s) => .next s
  | none => .next s

/-! ### Saving (R171, R190, R221, R340, R365, R366) -/

/-- The companies that are saved with one: with a window holder every company of its context on its ring (R221). -/
def State.saveSet (s : State) (k : Nat) : List Nat :=
  let c := s.co k
  let holds := c.cores.any fun x => (s.core x).window == k + 1
  if !holds then [k]
  else (s.companies.filter fun e => e.2.st == .resident && e.2.ctx == c.ctx && ringOf e.2.core == ringOf c.core).map (·.1)

/-- A company that the scheduler may save has a save area that its image fits, and so has every company saved with it (R365). -/
def State.saveable (s : State) (k : Nat) : Bool :=
  (s.co k).st == .resident && (s.saveSet k).all fun m =>
    (s.co m).save != 0 && decide (s.imageSize m ≤ (s.co m).savestride)

/-- A save begins: the company stops issuing at its next boundary (R171, R221). -/
def State.startSave (s : State) (k : Nat) : State :=
  let ms := s.saveSet k
  let g := if ms.length = 1 then 0 else s.clock + 1
  let cs := nubNat (ms.flatMap fun m => (s.co m).cores)
  let ts := ms.flatMap fun m => (s.co m).slots
  let s := ms.foldl (fun (s : State) m => s.modCo m fun x => { x with st := .saving, group := g }) s
  -- its waiters leave the lists of ACCALLOC, which are tested again (R207)
  cs.foldl (fun (s : State) c => s.accTest c) (ts.foldl (fun (s : State) t => s.accLeave t) s)

/-- PREEMPT_REQUEST (R171): the save of a resident company begins, and goes on until its image is written. -/
def execPreemptRequest (k : Nat) (s : State) : Out :=
  let c := s.co k
  if c.st = .resident then .next (if (s.saveSet k).all (fun m => (s.co m).save != 0) && s.ctxLive c.ctx then (s.startSave k).saveStep k else s)
  else .next (if c.hostTrap = 0 then s.saveStep k else s)

/-- HOST_TRAP (R340): the company of a troupe that has trapped under DUTYSPLIT.TRAP = 1 is saved for the host; companies
that share a window with it are saved with it where they can be (R221). -/
def execHostTrap (t : Nat) (s : State) : Out :=
  let k := (s.tr t).company
  let c := s.co k
  if !(s.tr t).resident || c.st ≠ .saving || c.hostTrap = 0 then .next s
  else
    let others := (s.saveSet k).filter fun m => m != k && (s.co m).save != 0
    let s := if others.isEmpty then s else
      (k :: others).foldl (fun (s : State) m => s.modCo m fun x => { x with st := .saving, group := s.clock + 1 }) s
    .next (s.saveStep k)

/-- A company's resident troupes have no READY thread (R190). -/
def State.idle (s : State) (k : Nat) : Bool :=
  (s.co k).slots.all fun t => (s.tr t).pt.inState .ready == 0

/-- The companies that may make room for one of priority `p`, in the order in which they do: lower priority first, the latest
placed first (R365); then those with no READY thread (R190). -/
def State.leavers (s : State) (p : Nat) : List Nat :=
  let all := s.companies.filter fun e => s.saveable e.1
  let key := fun (e : Nat × Co) => (e.2.prio * 2 ^ 64 + (2 ^ 64 - 1 - e.2.placedAt))
  let low := sortBy key (all.filter fun e => e.2.prio < p)
  let idle := sortBy key (all.filter fun e => p ≤ e.2.prio && s.idle e.1)
  (low ++ idle).map (·.1)

/-- The victims that are needed until what waits fits. -/
def State.enough (s : State) (w : Waiting) : List Nat → List Nat → Option (List Nat)
  | took, vs =>
    let rec go (x : State) (took : List Nat) : List Nat → Option (List Nat)
      | [] => if (x.waitSeat w).isSome then some took else none
      | v :: vs =>
        if (x.waitSeat w).isSome then some took
        else
          let ms := x.saveSet v
          go ((x.evict ms.contains).modCo v fun c => { c with st := .saved, stuck := true }) (took ++ [v]) vs
    go s took vs

/-- What a placement-wait number names: twice a show, or twice a saved company plus 1. -/
def waitingOf (n : Nat) : Waiting := if n % 2 = 0 then .show (n / 2) else .saved (n / 2)

/-- PLACEMENT_WAIT_EXPIRY (R190, R365): a company that fits on no core for 65,536 cycles makes the scheduler pre-empt until
it will fit; companies that are being saved already count as gone. -/
def execPlacementWaitExpiry (k : Nat) (s : State) : Out :=
  let w := waitingOf k
  let turn := match w with | .saved k => s.returns k | .show h => s.places h
  if !turn || s.clock < s.waitClock w + 65536 || (s.waitSeat w).isSome then .next s
  else
    let leaving := (s.companies.filter fun e => e.2.st == .saving && !e.2.stuck).map (·.1)
    let x := s.evict leaving.contains
    let x := leaving.foldl (fun (x : State) m => x.modCo m fun c => { c with st := .saved, stuck := true }) x
    match x.enough w [] (x.leavers (s.waitPrio w)) with
    | none => .next s
    | some vs => .next (vs.foldl (fun (s : State) v => if (s.co v).st = .resident then s.startSave v else s) s)

/-- The resident companies of a queue's shows and of their child shows (R366). -/
def State.queueCompanies (s : State) (q : Nat) : List Nat :=
  (s.companies.filter fun e => e.2.st == .resident && (s.sh e.2.sh).root == q + 1).map (·.1)

/-- SUSPEND is set: every resident company of the queue that has a save area is saved (R366). -/
def State.suspend (s : State) (q : Nat) : State :=
  let s := s.setReg (0xA000 + 64 * q + 0x20) (s.qreg q 0x20 ||| 2)
  (s.queueCompanies q).foldl (fun (s : State) k =>
    if (s.co k).st = .resident && (s.saveSet k).all (fun m => (s.co m).save != 0) then s.startSave k else s) s

/-- QCTL_WRITE (R360, R366): EN rising sets NEXT to 0, and SUSPEND rising stops the queue. -/
def execQctlWrite (lq : Nat) (v : BitVec 64) (s : State) : Out := s.onBar <|
  if 64 ≤ lq then .next s
  else
    let rise := v.getLsbD 0 && !s.qEnabled lq
    let stop := v.getLsbD 1 && !s.qSuspended lq
    let s := s.setReg (0xA000 + 64 * lq + 0x20) (v &&& 0xFFF7)
    let s := if rise then s.setReg (0xA000 + 64 * lq + 0x28) 0 else s
    .next (if stop then s.suspend lq else s)

/-- QUEUE_SUSPEND (R366). -/
def execQueueSuspend (lq : Nat) (s : State) : Out := s.onBar <| .next (if 64 ≤ lq || s.qSuspended lq then s else s.suspend lq)

/-- QUEUE_RESUME (R366): the stop is undone, and saved companies return in their turn. -/
def execQueueResume (lq : Nat) (s : State) : Out := s.onBar <|
  .next (if 64 ≤ lq then s else s.setReg (0xA000 + 64 * lq + 0x20) (s.qreg lq 0x20 &&& ~~~2))

/-- QSTAT.HALTED: a suspended queue has no company left resident (R360, R366). -/
def State.queueHalted (s : State) (q : Nat) : Bool :=
  s.qSuspended q && !s.companies.any fun e => (e.2.st == .resident || e.2.st == .saving) && (s.sh e.2.sh).root == q + 1

/-! ### HRESTORE (R368) -/

/-- A write of HRESTORE has been dealt with. -/
def State.restoreOver (s : State) (v : W64) (ctx : Nat) : State := { s with restores := s.restores.filter fun x => x != (v, ctx) }

/-- A company that this package does not know is built from the launch record that its image names. -/
def State.adopt (s : State) (v : W64) (ctx : Nat) (h : ImageHead) (l : Launch) : State :=
  let sh := s.nextShow
  let s := s.addShow l ctx h.recaddr 0 0 0 h.depth
  let s := s.modSh sh fun x => { x with started := true, startedAt := s.clock, next := l.total, retired := l.total - 1 }
  let k := s.nextCompany
  let c := { s.newCompany sh h.index with
    st := .saved, image := v, prio := 7, depth := h.depth, children := h.children, troupes := h.troupes, nregs := h.nregs
    scratch := h.scratch, paired := bitOf h.flags 0, calliope := bitOf h.flags 1, banks := List.replicate h.banks 0, waitSince := s.clock }
  { s with companies := s.companies.write k c, nextCompany := k + 1 }

/-- HRESTORE (R368): the image at an address of context HRESTCTX is to be restored at priority 7; an image of another level,
or one that cannot be read, is refused. -/
def execHrestore (v : BitVec 64) (s : State) : Out := s.onBar <|
  let v := v &&& 0x01FFFFFFFFFFFFFF
  let ctx := match s.restores.find? fun x => x.1 == v with | some x => x.2 | none => (s.reg 0x90A8).toNat % 4096
  let wait := fun (s : State) => if s.restores.contains (v, ctx) then s else { s with restores := s.restores ++ [(v, ctx)] }
  let refuse := fun (s : State) => (s.refuseRecord ctx (signVa v.toNat)).restoreOver v ctx
  match s.schedRead ctx (signVa v.toNat) 256 with
  | (.wait, s) => .next (wait s)
  | (.fault _, s) => .next (refuse s)
  | (.ok b, s) =>
    let h := headOf b
    if !h.levelOk then .next (refuse s)
    else
      match s.companies.find? fun e => e.2.st == .saved && e.2.ctx == ctx && e.2.recaddr == h.recaddr && e.2.index == h.index with
      | some (k, _) =>
        .next ((s.restoreOver v ctx).modCo k fun c => { c with
          image := signVa v.toNat, prio := 7, hostTrap := 0, stuck := false, waitSince := s.clock, banks := List.replicate h.banks 0 })
      | none => match s.schedRead ctx h.recaddr 256 with
        | (.wait, s) => .next (wait s)
        | (.fault _, s) => .next (refuse s)
        | (.ok r, s) => match launchOf r with
          | some l => .next ((s.restoreOver v ctx).adopt (signVa v.toNat) ctx h l)
          | none => .next (refuse s)

/-! ### Retirement (R88, R167, R367) -/

/-- Everything a company issued has completed, and its children have retired (R167). -/
def State.companyQuiet (s : State) (k : Nat) : Bool :=
  let c := s.co k
  c.st == .released && c.children == 0
    && (s.engines.all fun e => e.2.all fun x => x.company != k)
    && (s.cores.all fun e => (e.2.queue.all fun x => x.company != k) && e.2.adds.all fun a => a.cmd.company != k)
    && (s.posts.all fun p => p.parent != k)

/-- The exit record of a company (R367). -/
def State.exitRecord (s : State) (k : Nat) : List Nat :=
  let c := s.co k
  leBytes 8 c.index ++ leBytes 8 s.clock ++ [c.troupes] ++ List.replicate 47 0
    ++ (List.range c.troupes).flatMap fun t => (List.range 16).flatMap fun i => leBytes 8 (c.stallBank.read (16 * t + i))

/-- A child show has retired: its parent's CHILDREN falls (R188). -/
def State.childOver (s : State) (k : Nat) : State := s.modCo k fun c => { c with children := c.children - 1 }

/-- The company has retired: its banks are free, and its show may be over (R207, R367). -/
def State.retireDone (s : State) (k : Nat) : State :=
  let c := s.co k
  let s := s.evict (· == k)
  let s := s.modCo k fun x => { x with st := .retired, banks := [], fbanks := [] }
  let s := s.modSh c.sh fun h => { h with retired := h.retired + 1 }
  let h := s.sh c.sh
  if h.retired < h.launch.total then s
  else
    let s := s.modSh c.sh fun h => { h with live := false }
    if h.parent = 0 then s else s.childOver (h.parent - 1)

/-- Writes a company's exit record; false while it waits, and a fault that ends the access is told to the host. -/
def State.putExit (s : State) (k : Nat) : Bool × State :=
  let c := s.co k
  if c.exitrec = 0 then (true, s)
  else
    let b := s.exitRecord k
    match s.schedReach c.ctx c.exitrec b.length with
    | (.ok ps, s) => (true, s.schedPoke c.ctx c.exitrec ps b)
    | (.wait, s) => (false, s)
    | (.fault f, s) =>
      (true, s.schedReport c.ctx f)

/-- COMPANY_RETIRE (R167, R367): the exit record, then DONETS, then the parent's CHILDREN. -/
def execCompanyRetire (k : Nat) (s : State) : Out :=
  let c := s.co k
  if !s.companyQuiet k then .next s
  else match s.schedReach c.ctx (if c.donets = 0 then c.exitrec else c.donets) (if c.donets = 0 && c.exitrec = 0 then 0 else 8) with
    | (.wait, s) => .next s
    | (_, s) =>
      match s.putExit k with
      | (false, s) => .next s
      | (true, s) => .next ((s.schedAdd c.ctx c.donets 1).2.retireDone k)

/-! ### Child shows (R188, R189) -/

/-- SHOW (R188). -/
def execShow (f : Fields) (s : State) : Out :=
  let t := s.curT
  let a := t.rs64 f.a.toNat
  let k := t.company
  if !t.enabled f.g then .next (s.retire id)
  else if a.toNat % 256 ≠ 0 then .next (s.trapWord 0x0A 5 a)
  else if (s.co k).depth = 10 then .next (s.trapWord 9 0 0)
  else
    let s' := (s.retire id).modCo k fun c => { c with children := c.children + 1 }
    .next { s' with posts := s'.posts ++ [{ addr := a, parent := k, t := t.index }] }

/-- SHOWQ (R189): CHILDREN, or with .WAIT the threads wait until it is 0. -/
def execShowq (f : Fields) (s : State) : Out :=
  let t := s.curT
  if !t.enabled f.g then .next (s.retire id)
  else if !bitOf f.mdn 0 then .next (s.retire fun x => x.ws f.d.toNat (BitVec.ofNat 64 (s.co t.company).children))
  else
    let o := { s.newOp (.showq f) s.cur.run with size := 1, single := true, acq := true }
    .next ((s.launchWith t.rs o f (f.d.toNat != 63) 0 none).modTr s.cur.t fun t => { t with pt := t.pt.put s.cur.run .wait })

/-- SHOWQ_WAIT_DONE (R189): CHILDREN is 0; the run acquires, takes 0 and is READY. -/
def execShowqWaitDone (t q : Nat) (s : State) : Out :=
  match s.op t q with
  | none => .next s
  | some o =>
    match o.ins with
    | .showq _ =>
      .next (if o.park.isNone && (s.co (s.tr t).company).children == 0 then
        (s.modTr t fun x => x.wakeOp o).finish t { o with got := [], prog := Tbl.write [] 0 o.full } 0 else s)
    | _ => .next s

/-- A child whose record cannot be read, or is malformed, counts as retired; its poster takes cause 0x0A, or the host is told (R188). -/
def State.childRefused (s : State) (p : Post) : State :=
  let c := s.co p.parent
  let s := s.childOver p.parent
  let k := c.slot p.t
  let r : FRec := { type := 3, unit := 0x0A, rflags := 16, ctx := c.ctx, cgen := (s.ctx c.ctx).cgen, detail := 6, va := p.addr, place := whereOf k }
  let d : DTrap := { cause := 0x0A, detail := 6, record := 0, value := p.addr, word := 0, level := 0 }
  if decide (p.t < c.slots.length) && (s.tr k).company == p.parent then s.deferTrap k d r else s.frqRaise r

/-- CHILD_SHOW_POST (R188): the scheduler reads the record of the oldest posted child show; what a saved company posted waits until
it is back. -/
def execChildShowPost (s : State) : Out :=
  match s.posts.find? fun p => (s.co p.parent).st != .saved with
  | none => .next s
  | some p =>
    let ps := s.posts.erase p
    let c := s.co p.parent
    match s.schedRead c.ctx p.addr 256 with
    | (.wait, s) => .next s
    | (.fault _, s) => .next (({ s with posts := ps } : State).childRefused p)
    | (.ok b, s) =>
      let s := { s with posts := ps }
      match launchOf b with
      | none => .next (s.childRefused p)
      | some l => .next (s.addShow l c.ctx p.addr 0 (s.sh c.sh).root (p.parent + 1) (c.depth + 1))

end Sys2Proof.Machine
end

