-- ==== Sys2Proof/Machine/Boot.lean ====
section
/-!
DEFINITION. Spares, cooling, bring-up and link training (R196, R272, R369 to R375, R395, R396).
-/
namespace Sys2Proof.Machine

/-! ### Spares (R11, R369, R370) -/

/-- SPARE_STATE has changed: the spare change count, then the list change count (R11). -/
def CapList.changed (c : CapList) : CapList := { c with spareChange := (c.spareChange + 1) % 2 ^ 32, change := (c.change + 1) % 2 ^ 32 }

/-- The scratchpad words of a company on a core that an uncorrectable error has taken, as local offsets (R370). -/
def State.lostScratch (s : State) (k c : Nat) : List Nat :=
  let co := s.co k
  let b := co.base c
  ((s.core c).scrErr.filter fun e => e.2 && b ≤ 4 * e.1 && 4 * e.1 < b + co.scratch).map fun e => 4 * e.1 - b

/-- The accumulator elements of a company on a core that an uncorrectable error has taken (R370). -/
def State.lostAcc (s : State) (k c : Nat) : List Nat :=
  let co := s.co k
  let bs := if c = co.core then co.banks else co.fbanks
  (bs.zip (List.range bs.length)).flatMap fun p =>
    ((s.core c).accErr.filter fun e => e.2 && e.1 / 4096 == p.1).map fun e => 4096 * p.2 + e.1 % 4096

/-- The slot of a register word. -/
def regSlot : RegWord → Nat
  | .vreg t _ _ | .sreg t _ | .pred t _ | .qpred t _ => t

/-- How a record of TYPE 0x03 names a register word (log entry 38): its bank from bit 32 on, its number in the bank below. -/
def regName : RegWord → Nat
  | .vreg _ r lane => 2 * 2 ^ 32 + 64 * r + lane
  | .sreg _ r => 3 * 2 ^ 32 + r
  | .pred _ r => 4 * 2 ^ 32 + r
  | .qpred _ r => 5 * 2 ^ 32 + r

/-- A register word that a save has lost is zero (R370). -/
def Troupe.lose (x : Troupe) : RegWord → Troupe
  | .vreg _ r lane => { x with v := x.v.write (64 * r + lane) 0 }
  | .sreg _ r => x.wsAt x.level r 0
  | .pred _ r => x.wp r (-1) 0
  | .qpred _ r => x.wq r false

/-- A company leaves a core that is retired, where the save meets errors in the register words `regs`: it is saved, and one that has
lost words is delivered as a host trap with a record for each (R369, R370). -/
def State.leaveCore (s : State) (k : Nat) (regs : List RegWord) : State :=
  let co := s.co k
  let words := regs.filter fun r => co.slots.contains (regSlot r)
  let lost := (co.cores.flatMap fun c => (s.lostScratch k c ++ s.lostAcc k c).map fun v => (64 * c, v))
    ++ words.map fun r => ((regSlot r), regName r)
  let s := words.foldl (fun (s : State) r => s.modTr (regSlot r) fun x => x.lose r) s
  let s := lost.foldl (fun (s : State) v =>
    s.frqRaise { type := 3, cls := 6, ctx := co.ctx, cgen := (s.ctx co.ctx).cgen, place := whereOf v.1, value := BitVec.ofNat 64 v.2 }) s
  let s := if lost.isEmpty then s else s.modCo k fun x => { x with hostTrap := 6 + 256 * 6 + 1 }
  s.startSave k

/-- The capability list's words change as a spare comes into service (R11). -/
def State.spared (s : State) (f : CapList → CapList) : State := { s with caps := (f s.caps).changed }

/-- The spare rows of an array in use: physical rows 32 and 33, by logical rows (R195). -/
def Core.spareRowsUsed (x : Core) : Nat := ((List.range 32).filter fun r => 32 ≤ x.physRow r).length

/-- A spare row that has not failed and stands for no logical row (R196). -/
def Core.freeRow (x : Core) : Option Nat :=
  [32, 33].find? fun p => !x.rowsBad.contains p && !(List.range 32).any fun r => x.physRow r == p

/-- A core is retired (R369): its resident companies are saved, and the ring's spare core, while it is unused, takes its logical
number with rows of its own. The replacement happens at once (log entry 38). -/
def State.retireCore (s : State) (c : Nat) (regs : List RegWord) : State :=
  let mine := (s.companies.filter fun e => e.2.st == .resident && e.2.cores.contains c).map (·.1)
  let s := mine.foldl (fun (s : State) m => if (s.co m).st = .resident then s.leaveCore m regs else s) s
  if (List.range 8).any fun i => (s.core (8 * ringOf c + i)).spare then s
  else
    let rows := (s.core c).spareRowsUsed
    (s.modCore c fun x => { x with spare := true, rowMap := [], rowsBad := [] }).spared fun a =>
      { a with spareCores := a.spareCores + 1, spareRows := a.spareRows - rows }

/-- A physical row of a core's array has failed; more than two take the core out of service (R196, R369). -/
def State.failRow (s : State) (c p : Nat) : State :=
  if (s.core c).rowsBad.contains p then s
  else
    let s := s.modCore c fun x => { x with rowsBad := x.rowsBad ++ [p] }
    if (s.core c).rowsOut then s.retireCore c [] else s

/-- The physical slices of a die that stand for its logical ones: 64 of 66 (R272). -/
def Die.physSlice (d : Die) (i : Nat) : Nat := if d.slices.read i = 0 then i else d.slices.read i - 1

/-- A spare slice of a die that is unused: physical slice 64 or 65; one that has been retired is not used again (R272). -/
def Die.freeSlice (d : Die) : Option Nat := [64, 65].find? fun p => !d.retired.contains p && !(List.range 64).any fun i => d.physSlice i == p

/-- The lines that a slice holds. -/
def State.linesOfSlice (s : State) (n : Nat) : List Nat :=
  (s.slices.filter fun e => homeSlice (128 * e.1) == n && e.2.tagged).map (·.1)

/-- SPARE_REPLACE (R195, R196, R272, R369, R370). A core's place is taken by its ring's spare core, once. The physical row behind a
logical row has failed, and a spare row takes its place while no company holds the array. A slice's lines are written back and their
tokens recalled, once none is locked, and a spare slice of its die takes its place. A channel uses one more of its 64 reserved rows. -/
def execSpareReplace (k : SpareKind) (s : State) : Out :=
  match k with
  | .core c regs => .next (if (List.range 8).any fun i => (s.core (8 * ringOf c + i)).spare then s else s.retireCore c regs)
  | .row c r =>
    if (s.core c).array.holder ≠ 0 then .next s
    else
      let s := s.failRow c ((s.core c).physRow r)
      match (s.core c).freeRow with
      | some p =>
        if !(s.core c).rowsBad.contains ((s.core c).physRow r) then .next s
        else .next ((s.modCore c fun x => { x with rowMap := x.rowMap.write r (p + 1) }).spared fun a =>
          { a with spareRows := a.spareRows + 1 - (if 32 ≤ (s.core c).physRow r then 1 else 0) })
      | none => .next s
  | .slice n =>
    let d := n / 64
    let ls := s.linesOfSlice n
    match (s.die d).freeSlice with
    | none => .next s
    | some p =>
      if ls.any fun l => (s.sline l).lock != 0 then .next s
      else
        let old := (s.die d).physSlice (n % 64)
        let s := ls.foldl (fun (s : State) l => s.evictLine l) s
        .next ((s.modDie d fun x => { x with slices := x.slices.write (n % 64) (p + 1), retired := x.retired ++ [old] }).spared fun a =>
          { a with spareSlices := a.spareSlices + (if 64 ≤ old then 0 else 1) })
  | .channel n =>
    let rows := s.caps.remapped.read n
    let more := fun (a : CapList) => { a with remapped := a.remapped.write n (rows + 1) }
    .next (if 64 ≤ rows then s else if rows = 0 then s.spared more else { s with caps := more s.caps })

/-- DATA_LOST_ERROR (R152, R196, R209, R268, R352): an uncorrectable error in dirty data of a line, in a scratchpad word, in an
accumulator element or in an array row. What reads it meets the error, and it triggers a snapshot. -/
def execDataLostError (site : ErrSite) (s : State) : Out :=
  .next (match site with
    | .line l => s.lineError l
    | .scratch c w => (s.modCore c fun x => { x with scrErr := x.scrErr.write w true }).trigger 3
    | .acc c e => (s.modCore c fun x => { x with accErr := x.accErr.write e true }).trigger 3
    | .row c r => (s.failRow c r).trigger 3)

/-! ### Cooling (R353, R372) -/

/-- The power cap: a value outside 600 to 1,500 acts as the nearest (R353). -/
def State.powerCap (s : State) : Nat := min 1500 (max 600 ((s.reg 0x90B8).toNat % 2048))

/-- The module is too hot, or takes too much power (R372). -/
def State.tooHot (s : State) (tj watts : Nat) : Bool := 95 ≤ tj || s.powerCap < watts

/-- A reading of temperature and power (R372): from the first without the cause, 10 ms run, which are 10,000 cycles for each MHz. -/
def State.reading (s : State) (tj watts : Nat) : State :=
  { s with power := { s.power with
      tj := tj
      raiseAt := if s.tooHot tj watts then 0 else if s.power.raiseAt = 0 then s.clock + 10000 * s.power.mhz + 1 else s.power.raiseAt } }

/-- The cause of a throttle has been clear for 10 ms (R372). -/
def State.cooled (s : State) : Bool := s.power.raiseAt != 0 && s.power.raiseAt ≤ s.clock + 1

/-- THERMAL_THROTTLE (R372): a step of 50 MHz down, to no less than 500. -/
def execThermalThrottle (tj watts : Nat) (s : State) : Out :=
  let t := s.reading tj watts
  .next (if s.tooHot tj watts then { t with power := { t.power with mhz := max 500 (s.power.mhz - 50), throt := true } } else t)

/-- THERMAL_RECOVER (R372): once the cause has been clear for 10 ms the clock rises by a step. -/
def execThermalRecover (tj watts : Nat) (s : State) : Out :=
  let t := s.reading tj watts
  let f := min 1000 (s.power.mhz + 50)
  .next (if t.cooled then { t with power := { t.power with mhz := f, throt := f != 1000 } } else t)

/-- THERMAL_POWER_OFF (R372). -/
def execThermalPowerOff (tj : Nat) (s : State) : Out :=
  .next (if 110 ≤ tj then { s with power := { s.power with off := true, tj := tj } } else s.reading tj 0)

/-! ### Bring-up (R373, R395, R396) -/

/-- BOOTSTAT's failure code: 4 unreadable, 1 digest, 2 signature, 3 version; 0 where every check passes (R395, R396). -/
def bootCode : Nat :=
  match Config.firmware with
  | none => 4
  | some fw =>
    if Config.shake256 Config.firmwareKey 32 ≠ Config.fusedDigest then 1
    else if !Config.slhVerify Config.firmwareKey fw Config.firmwareSig then 2
    else if Config.firmwareVersion < Config.rollback then 3
    else 0

/-- The parts of a core that reset leaves: its place taken by a spare, its row map and its failed rows (R373). -/
def Core.maps (x : Core) : Core := { (default : Core) with spare := x.spare, rowMap := x.rowMap, rowsBad := x.rowsBad }

/-- The parts of a die that reset leaves: its slice map (R373). -/
def Die.maps (x : Die) : Die := { (default : Die) with slices := x.slices, retired := x.retired }

/-- RESET (R373): the part comes up as at reset; memory beyond it, spares and maps, and its place in the fabric stay. After a failed
check step 4 is never reached. That the list change count goes on, one higher for the rebuilt list, and that no compression stays
advertised are the model's choices (log entry 38). -/
def execReset (s : State) : Out :=
  let r := { State.reset with
    mem := s.mem, agenda := s.agenda, free := s.free
    caps := { s.caps with change := (s.caps.change + 1) % 2 ^ 32, compress := [] }
    cores := s.cores.mapAll fun _ x => x.maps
    dies := s.dies.mapAll fun _ x => x.maps }
  let b := bootCode
  .next (if b = 0 then r else { r with power := { r.power with up := false, bootStage := 1, bootFail := b } })

/-- LINK_TRAINING (R374, R375): whether the link is up, and the port's decision about block compression; no CXL neighbour is known to advertise it, and a fabric
port pairs with another Thokithar. That a changed record of LINK_COMPRESS counts as a change of the list is the model's choice
(log entry 38). -/
def execLinkTraining (port : Nat) (cxl up compress : Bool) (s : State) : Out :=
  let rest := s.caps.compress.filter fun x => x != (cxl, port)
  let now := if up && compress then rest ++ [(cxl, port)] else rest
  let down := s.fabric.untrained.filter fun x => x != (cxl, port)
  let s := { s with fabric := { s.fabric with untrained := if up then down else down ++ [(cxl, port)] } }
  .next (if now = s.caps.compress then s else { s with caps := { s.caps with compress := now, change := (s.caps.change + 1) % 2 ^ 32 } })

/-! ### What the host reads (R6, R7, R333, R345, R353, R360, R396, R397) -/

/-- The two words of a frame's table entry (R345). -/
def Frame.word0 (x : Frame) : W64 := BitVec.ofNat 64 (x.span * 2 ^ 16)
def Frame.word1 (x : Frame) : W64 :=
  let b := fun (v : Bool) (i : Nat) => if v then 2 ^ i else 0
  BitVec.ofNat 64 (x.resmask.toNat + 2 ^ 16 * x.dirtymask.toNat + 2 ^ 32 * (x.fgen % 2 ^ 16) + 2 ^ 48 * x.fstate
    + b x.accessed 56 + b x.shared 57 + b x.graph 58 + b x.pinned 59 + b x.error 60)

/-- CTXSTATE of a context: CGEN, DEAD and PRIFAIL (R333). -/
def Ctx.word (c : Ctx) : W64 := BitVec.ofNat 64 (c.cgen % 256 + (if c.dead then 256 else 0) + (if c.prifail then 512 else 0))

/-- THERMSTAT (R353). -/
def Power.therm (p : Power) : W64 := BitVec.ofNat 64 (p.mhz % 1024 + 2 ^ 10 * (p.tj % 256) + (if p.throt then 2 ^ 18 else 0))

/-- ATTCTL (R397). -/
def Attest.word (a : Attest) : W64 :=
  BitVec.ofNat 64 ((if a.busy then 2 else 0) + (if a.done then 4 else 0) + (if a.err then 8 else 0))

/-- QSTAT of a launch queue: NEXT mod 2^32, and HALTED (R360, R366; log entry 34). -/
def State.qstat (s : State) (q : Nat) : W64 :=
  BitVec.ofNat 64 ((s.qreg q 0x28).toNat % 2 ^ 32 + (if s.queueHalted q then 2 ^ 32 else 0))

/-- A doubleword that the host reads from a BAR: all ones until bring-up has enabled the BARs. BAR 0 is the management window, BAR 4
the frame table, and in BAR 2 write-only and reserved fields read as zero (R6, R7, R333, R345, R353, R360, R373, R396, R397). -/
def State.barRead (s : State) (bar off : Nat) : W64 :=
  if !s.power.up then BitVec.allOnes 64
  else match bar with
    | 0 => s.windowWord off
    | 4 => let x := s.cache.frames.read (off / 16); if off % 16 = 0 then x.word0 else if off % 16 = 8 then x.word1 else 0
    | 2 =>
      if 0x1000 ≤ off ∧ off < 0x9000 then (if off % 8 = 0 then (s.ctx ((off - 0x1000) / 8)).word else 0)
      else if 0xA000 ≤ off ∧ off < 0xB000 ∧ off % 64 = 0x28 then s.qstat ((off - 0xA000) / 64)
      else if off = 0x90C0 then s.power.therm
      else if off = 0xC028 then s.attest.word
      else if off = 0x48 ∨ off = 0x90A0 ∨ off = 0x90B0 then 0
      else s.reg off
    | _ => 0

end Sys2Proof.Machine
end

