-- ==== Sys2Proof/Machine/Agents.lean ====
section
/-!
DEFINITION. The steps that the package's own agents may take next, in the order the model tries them when nothing else
is asked of it: each is a row of the opcode table.
-/
namespace Sys2Proof.Machine

/-- The host returns the package to its reset state (R373). -/
def isReset : Instr → Bool
  | .reset => true
  | _ => false

/-- The events of a lane that locks, by its phase (R308, R309). -/
def lockEvents (k q : Nat) (o : MemOp) (l : Nat) : List Instr :=
  match (o.locks.read l).phase with
  | .start => [.lockRequest k q l]
  | .locking => [.lockGrant k q l, .lockRequest k q l, .lockTimeout k q l]
  | .backoff => [.lockBackoffExpiry k q l]
  | .ended => []

/-- The events by which an operation in flight goes on. -/
def opEvents (k : Nat) (o : MemOp) : List Instr :=
  let q := o.seq
  let open' := lanes.filter fun l => inMask o.act l && !o.keyDone l
  match o.ins with
  | .tsread _ => [.laneAccessPerformed k q ((o.addr.read 0).toNat / 128)]
  | .tsadd _ => [.turnstileAdd k q]
  | .cpl _ => if o.allDone then [.turnstileAdd k q] else o.lines.map fun l => .cplDelivery k q l
  | .tswait _ => [.tswaitSatisfied k q, .tswaitTimeout k q, .turnstilePoll k q]
  | .bar _ => [.barrierAdd k q, .barrierDeparture k q]
  | .bara _ => [.barrierAdd k q]
  | .qpush _ => [.qpushEntryWrite k q]
  | .qpop _ => [.qpopEntryRead k q]
  | .atom _ | .atoms _ | .red _ => open'.map fun l => .homeAtomic k q l
  | .dcas _ | .amov _ | .mcas _ => open'.flatMap fun l => lockEvents k q o l
  | .cutsel _ => [.tightropeCommand (ringOf (coreOf k))]
  | .rast _ => [.rasterCommand (ringOf (coreOf k))]
  | .rayt _ | .rayr _ => [.rayTraversal k q]
  | .tex _ | .texg _ | .texq _ => [.textureSample k q]
  | .showq _ => [.showqWaitDone k q]
  | .accrd _ => if o.replayed && o.park.isNone then [.accrdExecute (coreOf k)] else []
  | .accwr _ => if o.replayed && o.park.isNone then [.accwrExecute (coreOf k)] else []
  | i => if isLaneMem i then o.lines.map fun l => .laneAccessPerformed k q l else []

/-- The events of a troupe. -/
def troupeEvents (k : Nat) (t : Troupe) : List Instr :=
  (if t.holds.isEmpty then [] else [.fetchRetry k]) ++
  (if (t.pt.tst.any fun e => e.2 == .sleep) || (t.level == 1 && t.shadow.tst.any fun e => e.2 == .sleep) then [.sleepExpiry k] else []) ++
  (if t.dtraps.isEmpty then [] else [.deferredTrap k]) ++
  (match t.readyOp with | some o => [.encoreReplay k o.seq] | none => []) ++
  t.ops.flatMap (opEvents k)

/-- The event by which a matrix queue goes on with the command at its head. -/
def headEvent (c : Nat) : Instr → List Instr
  | .mxlw _ => [.mxlwExecute c]
  | .mxfmt _ => [.mxfmtExecute c]
  | .mxmul _ => [.mxmulRow c]
  | .mxchn _ => [.mxchnRow c]
  | .mxrel _ => [.mxrelExecute c]
  | .accz _ => [.acczRow c]
  | .accld _ => [.accldRow c]
  | .accst _ => [.accstRow c]
  | .accfree _ => [.accfreeExecute c]
  | .accrd _ => [.accrdExecute c]
  | .accwr _ => [.accwrExecute c]
  | _ => []

/-- The events of a core. -/
def coreEvents (s : State) (c : Nat) (x : Core) : List Instr :=
  x.want.map (fun l => .tokenGrant c l) ++
  (match s.mxHead c with | some y => headEvent c y.ins | none => []) ++
  (if x.adds.isEmpty then [] else [.accstTurnstile c]) ++
  ((x.l1.filter fun e => e.2.valid && !e.2.owned && e.2.filled + 65536 ≤ s.clock).map fun e => .cleanCopyExpiry c e.1)

/-- The event of the command that an engine performs, and the ends of commands with a fatal verdict. -/
def engineEvents (s : State) (e : Nat) (l : List EngCmd) : List Instr :=
  ((l.filter fun x => x.closing != 0 || (match x.park with | some p => p.state == .fatal | none => false)).map
    fun x => .engineFatalEnd e x.t x.seq) ++
  (match s.engActive e with
   | none => []
   | some x =>
     if !x.started then [.copyCommandStart e]
     else match x.ins with
       | .cpt _ => [.cptElementDelivered e]
       | .cps _ => [.cpsChunkCopied e]
       | _ => if x.lop = 0 then [.layexRefmtElement e] else if x.lop = 1 then [.layexExpandLine e] else [.layexPackLine e])

/-- The events of fills, of ownership that was asked for, and of walks in flight. -/
def memoryEvents (s : State) : List Instr :=
  (s.misses.filter fun m => !m.closed).map (fun m => .mergeWindowClose m.line) ++
  s.misses.map (fun m => .fillReturn m.line) ++
  ((s.cache.pool.filter fun e => e.2 == 3).map fun e => .poolOwnershipGrant e.1) ++
  (s.dies.flatMap fun d => (d.2.walks.filter fun w => !w.ats && w.found.isNone).map fun w =>
    .translationWalk { die := d.1, ctx := w.ctx } (BitVec.ofNat 64 (4096 * w.page)))

/-- The events of the page cache (R346, R348, R351). -/
def cacheEvents (s : State) : List Instr :=
  (if s.cache.fce.batch.isEmpty && s.cache.fce.waiting.isEmpty then [] else [.batchClose]) ++
  (match s.cache.fce.fills with | r :: _ => [.granuleFillComplete r.granule] | [] => []) ++
  (s.cache.frames.flatMap fun e =>
    if e.2.fstate = 1 then (if e.2.newspan = 0 && e.2.stage ≠ 4 then [] else [.frameReclaim e.1])
    else if e.2.fstate = 2 then
      (if e.2.stage = 1 then [.frameReclaim e.1] else if e.2.stage = 2 then [.reclaimWritebackDone e.1] else [.reclaimReleaseDone e.1])
    else []) ++
  (((List.range 4).filter fun d => (s.die d).handAt ≤ s.clock).map fun d => .carouselHandStep d)

/-- The cores on which a troupe stands in the pending set, or has held its place long (R169, R170). -/
def setEvents (s : State) : List Instr :=
  let pend := s.troupes.filter fun e => e.2.resident && !e.2.ended && !isCalliope e.1 && e.2.place == 0
  let cs := nubNat (pend.map fun e => coreOf e.1)
  cs.map (fun c => .activeSetSwap c) ++
  cs.flatMap fun c => (s.troupes.filter fun e => coreOf e.1 == c && e.2.place != 0 && e.2.since + 1024 ≤ s.clock).map fun e =>
    .tenureExpiry c (e.2.place - 1)

/-- The events of faults that wait, a REMOTE record's timer and page requests for those begun under FAULTSVC = 1, and of contexts
that end or are revived (R333, R336, R339, R393). -/
def faultEvents (s : State) : List Instr :=
  ((s.pendingSites fun _ p => p.cls == 5 && p.since + 65536 ≤ s.clock).map fun x => .remoteRetryTimer x.1 x.2) ++
  ((s.pendingSites fun _ p => p.host && (p.cls == 1 || p.cls == 2)).map fun x => .pageRequest x.1 x.2) ++
  ((s.contexts.filter fun e => e.2.revive).map fun e => .ctxstateRevive e.1) ++
  ((s.contexts.filter fun e => e.2.endReason != 0).map fun e => .contextEnd e.1)

/-- The events of the fabric, of debug and of attestation. -/
def fabricEvents (s : State) : List Instr :=
  let live := s.fabric.tags.filter fun g => !g.timedOut
  ((live.filter fun g => g.first + 2000 * s.power.mhz ≤ s.clock).map fun g => .remoteTimeout g.num) ++
  ((live.filter fun g => g.sent + 500 * s.power.mhz ≤ s.clock).map fun g => .remoteResend g.num) ++
  ((s.stops.filter fun p => p.arrives ≤ s.clock).map fun p => .stopBroadcastArrival p.ctx p.core) ++
  (if s.snap.latchAt ≠ 0 ∧ s.snap.latchAt ≤ s.clock then [.snapshotLatch] else []) ++
  (if s.attest.busy then [.attestationReport] else []) ++ s.edits.map .hjelmEdit

/-- The events of companies that are saved, restored or retired. -/
def companyEvents (s : State) : List Instr :=
  (s.companies.flatMap fun e => match e.2.st with
    | .saving => if e.2.stuck then [] else if e.2.hostTrap = 0 then [.preemptRequest e.1] else (e.2.slots.take 1).map fun t => .hostTrap t
    | .released => [.companyRetire e.1]
    | _ => []) ++
  s.restores.map fun x => .hrestore x.1

/-- The events of the scheduler (R361 to R365). -/
def launchEvents (s : State) : List Instr :=
  let w := s.waitList
  (if s.posts.isEmpty then [] else [.childShowPost]) ++
  ((s.bar2.filter fun e => 0xA000 ≤ e.1 && e.1 < 0xB000 && e.1 % 64 == 0x20 && e.2.getLsbD 0).map fun e =>
    .launchRecordTake ((e.1 - 0xA000) / 64)) ++
  ((s.shows.filter fun e => e.2.live && !e.2.started).map fun e => .showStart e.1) ++
  (match s.nextPlaced w none with
   | some (.show sh, c) => [.companyPlace sh c]
   | some (.saved k, c) => [.companyRestore k c]
   | none => []) ++
  ((w.filter fun x => s.waitClock x + 65536 ≤ s.clock).map fun x => .placementWaitExpiry (match x with | .show h => 2 * h | .saved k => 2 * k + 1))

/-- Every event that may come next, in the order in which the model tries them; the events of the two sets come at the end
of a cycle (R169). -/
def State.candidates (s : State) : List Instr :=
  (if s.fq.buffer.isEmpty then [] else [.faultRecordFlush]) ++ (s.troupes.flatMap fun e => troupeEvents e.1 e.2) ++ (s.cores.flatMap fun e => coreEvents s e.1 e.2) ++
  (s.engines.flatMap fun e => engineEvents s e.1 e.2) ++ memoryEvents s ++ cacheEvents s ++
  faultEvents s ++ fabricEvents s ++ companyEvents s ++ launchEvents s

end Sys2Proof.Machine
end

