-- ==== Sys2Proof/Machine/Dispatch.lean ====
section
/-!
DEFINITION. The meaning of every row of the opcode table, one arm for each.
-/
namespace Sys2Proof.Machine

/-- The meaning of an instruction word that issues, or of an event that happens. -/
def exec (i : Instr) (s : State) : Host.Outcome State Fault Refusal :=
  match i with
  | .nop f => Sys2Proof.Machine.execNop f s
  | .bra f => Sys2Proof.Machine.execBra f s
  | .bri f => Sys2Proof.Machine.execBri f s
  | .call f => Sys2Proof.Machine.execCall f s
  | .ret f => Sys2Proof.Machine.execRet f s
  | .exit f => Sys2Proof.Machine.execExit f s
  | .yield f => Sys2Proof.Machine.execYield f s
  | .sleep f => Sys2Proof.Machine.execSleep f s
  | .trap f => Sys2Proof.Machine.execTrap f s
  | .tret f => Sys2Proof.Machine.execTret f s
  | .bkpt f => Sys2Proof.Machine.execBkpt f s
  | .plop f => Sys2Proof.Machine.execPlop f s
  | .vote f => Sys2Proof.Machine.execVote f s
  | .elect f => Sys2Proof.Machine.execElect f s
  | .match f => Sys2Proof.Machine.execMatch f s
  | .shfl f => Sys2Proof.Machine.execShfl f s
  | .redux f => Sys2Proof.Machine.execRedux f s
  | .scan f => Sys2Proof.Machine.execScan f s
  | .mov f => Sys2Proof.Machine.execMov f s
  | .movi f => Sys2Proof.Machine.execMovi f s
  | .iadd f => Sys2Proof.Machine.execIadd f s
  | .isub f => Sys2Proof.Machine.execIsub f s
  | .imul f => Sys2Proof.Machine.execImul f s
  | .imulh f => Sys2Proof.Machine.execImulh f s
  | .imad f => Sys2Proof.Machine.execImad f s
  | .imin f => Sys2Proof.Machine.execImin f s
  | .imax f => Sys2Proof.Machine.execImax f s
  | .iabs f => Sys2Proof.Machine.execIabs f s
  | .ineg f => Sys2Proof.Machine.execIneg f s
  | .isetp f => Sys2Proof.Machine.execIsetp f s
  | .sel f => Sys2Proof.Machine.execSel f s
  | .shl f => Sys2Proof.Machine.execShl f s
  | .shr f => Sys2Proof.Machine.execShr f s
  | .sar f => Sys2Proof.Machine.execSar f s
  | .shf f => Sys2Proof.Machine.execShf f s
  | .bitf3 f => Sys2Proof.Machine.execBitf3 f s
  | .popc f => Sys2Proof.Machine.execPopc f s
  | .clz f => Sys2Proof.Machine.execClz f s
  | .ctz f => Sys2Proof.Machine.execCtz f s
  | .brev f => Sys2Proof.Machine.execBrev f s
  | .bfe f => Sys2Proof.Machine.execBfe f s
  | .bfi f => Sys2Proof.Machine.execBfi f s
  | .prmt f => Sys2Proof.Machine.execPrmt f s
  | .idp4 f => Sys2Proof.Machine.execIdp4 f s
  | .iadd64 f => Sys2Proof.Machine.execIadd64 f s
  | .isub64 f => Sys2Proof.Machine.execIsub64 f s
  | .imadw f => Sys2Proof.Machine.execImadw f s
  | .imad64 f => Sys2Proof.Machine.execImad64 f s
  | .isetp64 f => Sys2Proof.Machine.execIsetp64 f s
  | .shl64 f => Sys2Proof.Machine.execShl64 f s
  | .shr64 f => Sys2Proof.Machine.execShr64 f s
  | .sar64 f => Sys2Proof.Machine.execSar64 f s
  | .fadd f => Sys2Proof.Machine.execFadd f s
  | .fmul f => Sys2Proof.Machine.execFmul f s
  | .ffma f => Sys2Proof.Machine.execFfma f s
  | .fmin f => Sys2Proof.Machine.execFmin f s
  | .fmax f => Sys2Proof.Machine.execFmax f s
  | .fsetp f => Sys2Proof.Machine.execFsetp f s
  | .frnd f => Sys2Proof.Machine.execFrnd f s
  | .fclass f => Sys2Proof.Machine.execFclass f s
  | .dadd f => Sys2Proof.Machine.execDadd f s
  | .dmul f => Sys2Proof.Machine.execDmul f s
  | .dfma f => Sys2Proof.Machine.execDfma f s
  | .dmin f => Sys2Proof.Machine.execDmin f s
  | .dmax f => Sys2Proof.Machine.execDmax f s
  | .dsetp f => Sys2Proof.Machine.execDsetp f s
  | .hadd2 f => Sys2Proof.Machine.execHadd2 f s
  | .hmul2 f => Sys2Proof.Machine.execHmul2 f s
  | .hfma2 f => Sys2Proof.Machine.execHfma2 f s
  | .hmin2 f => Sys2Proof.Machine.execHmin2 f s
  | .hmax2 f => Sys2Proof.Machine.execHmax2 f s
  | .hsetp2 f => Sys2Proof.Machine.execHsetp2 f s
  | .frcp f => Sys2Proof.Machine.execFrcp f s
  | .frsq f => Sys2Proof.Machine.execFrsq f s
  | .fsqrt f => Sys2Proof.Machine.execFsqrt f s
  | .fex2 f => Sys2Proof.Machine.execFex2 f s
  | .flg2 f => Sys2Proof.Machine.execFlg2 f s
  | .fsin f => Sys2Proof.Machine.execFsin f s
  | .fcos f => Sys2Proof.Machine.execFcos f s
  | .drcp f => Sys2Proof.Machine.execDrcp f s
  | .cvt f => Sys2Proof.Machine.execCvt f s
  | .qblk f => Sys2Proof.Machine.execQblk f s
  | .dqblk f => Sys2Proof.Machine.execDqblk f s
  | .ld f => Sys2Proof.Machine.execLd f s
  | .st f => Sys2Proof.Machine.execSt f s
  | .lds f => Sys2Proof.Machine.execLds f s
  | .sts f => Sys2Proof.Machine.execSts f s
  | .gath f => Sys2Proof.Machine.execGath f s
  | .scat f => Sys2Proof.Machine.execScat f s
  | .pref f => Sys2Proof.Machine.execPref f s
  | .cctl f => Sys2Proof.Machine.execCctl f s
  | .fence f => Sys2Proof.Machine.execFence f s
  | .icinv f => Sys2Proof.Machine.execIcinv f s
  | .ifence f => Sys2Proof.Machine.execIfence f s
  | .atom f => Sys2Proof.Machine.execAtom f s
  | .atoms f => Sys2Proof.Machine.execAtoms f s
  | .red f => Sys2Proof.Machine.execRed f s
  | .dcas f => Sys2Proof.Machine.execDcas f s
  | .amov f => Sys2Proof.Machine.execAmov f s
  | .mcas f => Sys2Proof.Machine.execMcas f s
  | .cpl f => Sys2Proof.Machine.execCpl f s
  | .qpop f => Sys2Proof.Machine.execQpop f s
  | .accrd f => Sys2Proof.Machine.execAccrd f s
  | .accwr f => Sys2Proof.Machine.execAccwr f s
  | .cutsel f => Sys2Proof.Machine.execCutsel f s
  | .rayt f => Sys2Proof.Machine.execRayt f s
  | .rayr f => Sys2Proof.Machine.execRayr f s
  | .rast f => Sys2Proof.Machine.execRast f s
  | .tex f => Sys2Proof.Machine.execTex f s
  | .texg f => Sys2Proof.Machine.execTexg f s
  | .texq f => Sys2Proof.Machine.execTexq f s
  | .smov f => Sys2Proof.Machine.execSmov f s
  | .smovi f => Sys2Proof.Machine.execSmovi f s
  | .sadd f => Sys2Proof.Machine.execSadd f s
  | .ssub f => Sys2Proof.Machine.execSsub f s
  | .smul f => Sys2Proof.Machine.execSmul f s
  | .smad f => Sys2Proof.Machine.execSmad f s
  | .smin f => Sys2Proof.Machine.execSmin f s
  | .smax f => Sys2Proof.Machine.execSmax f s
  | .sbitf3 f => Sys2Proof.Machine.execSbitf3 f s
  | .sshl f => Sys2Proof.Machine.execSshl f s
  | .sshr f => Sys2Proof.Machine.execSshr f s
  | .ssar f => Sys2Proof.Machine.execSsar f s
  | .ssetp f => Sys2Proof.Machine.execSsetp f s
  | .ssel f => Sys2Proof.Machine.execSsel f s
  | .sqlop f => Sys2Proof.Machine.execSqlop f s
  | .sv2s f => Sys2Proof.Machine.execSv2s f s
  | .sld f => Sys2Proof.Machine.execSld f s
  | .sldc f => Sys2Proof.Machine.execSldc f s
  | .cpt f => Sys2Proof.Machine.execCpt f s
  | .cps f => Sys2Proof.Machine.execCps f s
  | .layex f => Sys2Proof.Machine.execLayex f s
  | .tsadd f => Sys2Proof.Machine.execTsadd f s
  | .tswait f => Sys2Proof.Machine.execTswait f s
  | .tsread f => Sys2Proof.Machine.execTsread f s
  | .bar f => Sys2Proof.Machine.execBar f s
  | .bara f => Sys2Proof.Machine.execBara f s
  | .waitoc f => Sys2Proof.Machine.execWaitoc f s
  | .qpush f => Sys2Proof.Machine.execQpush f s
  | .mxacq f => Sys2Proof.Machine.execMxacq f s
  | .mxrel f => Sys2Proof.Machine.execMxrel f s
  | .mxfmt f => Sys2Proof.Machine.execMxfmt f s
  | .mxlw f => Sys2Proof.Machine.execMxlw f s
  | .mxmul f => Sys2Proof.Machine.execMxmul f s
  | .mxchn f => Sys2Proof.Machine.execMxchn f s
  | .accalloc f => Sys2Proof.Machine.execAccalloc f s
  | .accfree f => Sys2Proof.Machine.execAccfree f s
  | .accz f => Sys2Proof.Machine.execAccz f s
  | .accld f => Sys2Proof.Machine.execAccld f s
  | .accst f => Sys2Proof.Machine.execAccst f s
  | .show f => Sys2Proof.Machine.execShow f s
  | .showq f => Sys2Proof.Machine.execShowq f s
  | .sysr f => Sys2Proof.Machine.execSysr f s
  | .sysw f => Sys2Proof.Machine.execSysw f s
  | .perf f => Sys2Proof.Machine.execPerf f s
  | .snap f => Sys2Proof.Machine.execSnap f s
  | .tlbi f => Sys2Proof.Machine.execTlbi f s
  | .deferredTrap t => Sys2Proof.Machine.execDeferredTrap t s
  | .hostTrap t => Sys2Proof.Machine.execHostTrap t s
  | .encoreReplay t q => Sys2Proof.Machine.execEncoreReplay t q s
  | .fetchRetry t => Sys2Proof.Machine.execFetchRetry t s
  | .sleepExpiry t => Sys2Proof.Machine.execSleepExpiry t s
  | .activeSetSwap c => Sys2Proof.Machine.execActiveSetSwap c s
  | .tenureExpiry c place => Sys2Proof.Machine.execTenureExpiry c place s
  | .laneAccessPerformed t q line => Sys2Proof.Machine.execLaneAccessPerformed t q line s
  | .tokenGrant c line => Sys2Proof.Machine.execTokenGrant c line s
  | .tokenRecall line => Sys2Proof.Machine.execTokenRecall line s
  | .readForward line => Sys2Proof.Machine.execReadForward line s
  | .mergeWindowClose line => Sys2Proof.Machine.execMergeWindowClose line s
  | .fillReturn line => Sys2Proof.Machine.execFillReturn line s
  | .cleanCopyExpiry c line => Sys2Proof.Machine.execCleanCopyExpiry c line s
  | .homeAtomic t q lane => Sys2Proof.Machine.execHomeAtomic t q lane s
  | .turnstileAdd t q => Sys2Proof.Machine.execTurnstileAdd t q s
  | .turnstilePoll t q => Sys2Proof.Machine.execTurnstilePoll t q s
  | .tswaitSatisfied t q => Sys2Proof.Machine.execTswaitSatisfied t q s
  | .tswaitTimeout t q => Sys2Proof.Machine.execTswaitTimeout t q s
  | .barrierAdd t q => Sys2Proof.Machine.execBarrierAdd t q s
  | .barrierDeparture t q => Sys2Proof.Machine.execBarrierDeparture t q s
  | .waitocDone t => Sys2Proof.Machine.execWaitocDone t s
  | .qpushEntryWrite t q => Sys2Proof.Machine.execQpushEntryWrite t q s
  | .qpopEntryRead t q => Sys2Proof.Machine.execQpopEntryRead t q s
  | .showqWaitDone t q => Sys2Proof.Machine.execShowqWaitDone t q s
  | .lockRequest t q lane => Sys2Proof.Machine.execLockRequest t q lane s
  | .lockGrant t q lane => Sys2Proof.Machine.execLockGrant t q lane s
  | .lockTimeout t q lane => Sys2Proof.Machine.execLockTimeout t q lane s
  | .lockBackoffExpiry t q lane => Sys2Proof.Machine.execLockBackoffExpiry t q lane s
  | .cplDelivery t q line => Sys2Proof.Machine.execCplDelivery t q line s
  | .copyCommandStart e => Sys2Proof.Machine.execCopyCommandStart e s
  | .cptElementDelivered e => Sys2Proof.Machine.execCptElementDelivered e s
  | .cpsChunkCopied e => Sys2Proof.Machine.execCpsChunkCopied e s
  | .layexRefmtElement e => Sys2Proof.Machine.execLayexRefmtElement e s
  | .layexExpandLine e => Sys2Proof.Machine.execLayexExpandLine e s
  | .layexPackLine e => Sys2Proof.Machine.execLayexPackLine e s
  | .engineFatalEnd e t q => Sys2Proof.Machine.execEngineFatalEnd e t q s
  | .mxlwExecute c => Sys2Proof.Machine.execMxlwExecute c s
  | .mxfmtExecute c => Sys2Proof.Machine.execMxfmtExecute c s
  | .mxmulRow c => Sys2Proof.Machine.execMxmulRow c s
  | .mxchnRow c => Sys2Proof.Machine.execMxchnRow c s
  | .mxrelExecute c => Sys2Proof.Machine.execMxrelExecute c s
  | .acczRow c => Sys2Proof.Machine.execAcczRow c s
  | .accldRow c => Sys2Proof.Machine.execAccldRow c s
  | .accstRow c => Sys2Proof.Machine.execAccstRow c s
  | .accstTurnstile c => Sys2Proof.Machine.execAccstTurnstile c s
  | .accfreeExecute c => Sys2Proof.Machine.execAccfreeExecute c s
  | .accrdExecute c => Sys2Proof.Machine.execAccrdExecute c s
  | .accwrExecute c => Sys2Proof.Machine.execAccwrExecute c s
  | .tightropeCommand ring => Sys2Proof.Machine.execTightropeCommand ring s
  | .rayTraversal t q => Sys2Proof.Machine.execRayTraversal t q s
  | .rasterCommand ring => Sys2Proof.Machine.execRasterCommand ring s
  | .textureSample t q => Sys2Proof.Machine.execTextureSample t q s
  | .companyRetire k => Sys2Proof.Machine.execCompanyRetire k s
  | .companyRestore k c => Sys2Proof.Machine.execCompanyRestore k c s
  | .launchRecordTake lq => Sys2Proof.Machine.execLaunchRecordTake lq s
  | .showStart sh => Sys2Proof.Machine.execShowStart sh s
  | .childShowPost => Sys2Proof.Machine.execChildShowPost s
  | .companyPlace sh c => Sys2Proof.Machine.execCompanyPlace sh c s
  | .placementWaitExpiry k => Sys2Proof.Machine.execPlacementWaitExpiry k s
  | .residencyRequest ctx pa => Sys2Proof.Machine.execResidencyRequest ctx pa s
  | .batchClose => Sys2Proof.Machine.execBatchClose s
  | .granuleFillComplete granule => Sys2Proof.Machine.execGranuleFillComplete granule s
  | .carouselHandStep die => Sys2Proof.Machine.execCarouselHandStep die s
  | .frameReclaim f => Sys2Proof.Machine.execFrameReclaim f s
  | .reclaimWritebackDone f => Sys2Proof.Machine.execReclaimWritebackDone f s
  | .reclaimReleaseDone f => Sys2Proof.Machine.execReclaimReleaseDone f s
  | .translationWalk w va => Sys2Proof.Machine.execTranslationWalk w va s
  | .pageRequest t q => Sys2Proof.Machine.execPageRequest t q s
  | .faultRecordFlush => Sys2Proof.Machine.execFaultRecordFlush s
  | .contextEnd ctx => Sys2Proof.Machine.execContextEnd ctx s
  | .remoteResend num => Sys2Proof.Machine.execRemoteResend num s
  | .remoteTimeout num => Sys2Proof.Machine.execRemoteTimeout num s
  | .remoteRetryTimer t q => Sys2Proof.Machine.execRemoteRetryTimer t q s
  | .poolOwnershipGrant line => Sys2Proof.Machine.execPoolOwnershipGrant line s
  | .attestationReport => Sys2Proof.Machine.execAttestationReport s
  | .stopBroadcastArrival ctx c => Sys2Proof.Machine.execStopBroadcastArrival ctx c s
  | .snapshotLatch => Sys2Proof.Machine.execSnapshotLatch s
  | .preemptRequest k => Sys2Proof.Machine.execPreemptRequest k s
  | .qctlWrite lq v => Sys2Proof.Machine.execQctlWrite lq v s
  | .queueSuspend lq => Sys2Proof.Machine.execQueueSuspend lq s
  | .queueResume lq => Sys2Proof.Machine.execQueueResume lq s
  | .hrestore v => Sys2Proof.Machine.execHrestore v s
  | .dataLostError site => Sys2Proof.Machine.execDataLostError site s
  | .framectlPin f => Sys2Proof.Machine.execFramectlPin f s
  | .framectlUnpin f => Sys2Proof.Machine.execFramectlUnpin f s
  | .framectlDiscard f => Sys2Proof.Machine.execFramectlDiscard f s
  | .framectlReclaimNow f => Sys2Proof.Machine.execFramectlReclaimNow f s
  | .scrub line r => Sys2Proof.Machine.execScrub line r s
  | .thermalThrottle tj watts => Sys2Proof.Machine.execThermalThrottle tj watts s
  | .thermalRecover tj watts => Sys2Proof.Machine.execThermalRecover tj watts s
  | .thermalPowerOff tj => Sys2Proof.Machine.execThermalPowerOff tj s
  | .reset => Sys2Proof.Machine.execReset s
  | .linkTraining port cxl up compress => Sys2Proof.Machine.execLinkTraining port cxl up compress s
  | .spareReplace k => Sys2Proof.Machine.execSpareReplace k s
  | .atsCompletion w va g => Sys2Proof.Machine.execAtsCompletion w va g s
  | .atsInvalidation pasid va span itag => Sys2Proof.Machine.execAtsInvalidation pasid va span itag s
  | .prgResponse pasid idx r => Sys2Proof.Machine.execPrgResponse pasid idx r s
  | .fresumeRetry ctx span => Sys2Proof.Machine.execFresumeRetry ctx span s
  | .fresumeUnmappable ctx span => Sys2Proof.Machine.execFresumeUnmappable ctx span s
  | .ctxstateReload ctx => Sys2Proof.Machine.execCtxstateReload ctx s
  | .ctxstateEnd ctx => Sys2Proof.Machine.execCtxstateEnd ctx s
  | .ctxstateRevive ctx => Sys2Proof.Machine.execCtxstateRevive ctx s
  | .ctxstatePriflush ctx => Sys2Proof.Machine.execCtxstatePriflush ctx s
  | .prifailClear ctx => Sys2Proof.Machine.execPrifailClear ctx s
  | .dutysplitWrite v => Sys2Proof.Machine.execDutysplitWrite v s
  | .frqsizeWrite v => Sys2Proof.Machine.execFrqsizeWrite v s
  | .registerWrite bar off v => Sys2Proof.Machine.execRegisterWrite bar off v s
  | .remoteRequest origin num pa op => Sys2Proof.Machine.execRemoteRequest origin num pa op s
  | .remoteReply num r => Sys2Proof.Machine.execRemoteReply num r s
  | .replyAck origin num => Sys2Proof.Machine.execReplyAck origin num s
  | .remoteFillNotice pkg granule => Sys2Proof.Machine.execRemoteFillNotice pkg granule s
  | .tagAbandon origin num => Sys2Proof.Machine.execTagAbandon origin num s
  | .peerLinkDown pkg => Sys2Proof.Machine.execPeerLinkDown pkg s
  | .directoryRequest pkg region op => Sys2Proof.Machine.execDirectoryRequest pkg region op s
  | .directoryRecall region keepClean => Sys2Proof.Machine.execDirectoryRecall region keepClean s
  | .backInvalidateSnoop line w => Sys2Proof.Machine.execBackInvalidateSnoop line w s
  | .hostSnoop line w => Sys2Proof.Machine.execHostSnoop line w s
  | .debugGrant ctx killrev => Sys2Proof.Machine.execDebugGrant ctx killrev s
  | .debugRevoke ctx => Sys2Proof.Machine.execDebugRevoke ctx s
  | .hjelmHalt h => Sys2Proof.Machine.execHjelmHalt h s
  | .hjelmStep t => Sys2Proof.Machine.execHjelmStep t s
  | .hjelmRelease h => Sys2Proof.Machine.execHjelmRelease h s
  | .breakpointArm ctx on stopring => Sys2Proof.Machine.execBreakpointArm ctx on stopring s
  | .wpctlWrite wp v => Sys2Proof.Machine.execWpctlWrite wp v s
  | .hjelmSnapshot ctx => Sys2Proof.Machine.execHjelmSnapshot ctx s
  | .snapshotFree => Sys2Proof.Machine.execSnapshotFree s
  | .hjelmEdit ed => Sys2Proof.Machine.execHjelmEdit ed s
  | .vlheadWrite die v => Sys2Proof.Machine.execVlheadWrite die v s
  | .linkLevelRetry port => Sys2Proof.Machine.execLinkLevelRetry port s

end Sys2Proof.Machine
end

