-- ==== Sys2Proof/Machine/Step.lean ====
section
/-!
DEFINITION. One step of the package: the next item of the agenda, else an event by which an agent goes on, else the issue of
a troupe, else the passing of a cycle.
-/
namespace Sys2Proof.Machine

/-- An event that would change something beyond the order in which the slices' lines were used: an agent that looks at memory and
finds nothing to do is passed over (log entry 1). -/
def State.changedBy (s : State) (i : Instr) : Bool :=
  match exec i s with
  | .next t => decide ({ t with recent := s.recent } ≠ s)
  | _ => true

/-- The event that the package's agents take next, if any has something to do. -/
def State.defaultEvent (s : State) : Option Instr := s.candidates.find? s.changedBy

/-- Runs a word that issues: R68's update comes first, then the word acts, then what follows an issue. -/
def State.issueWord (s : State) (k : Nat) (p : Pick) (w : IWord) (i : Instr) : Out :=
  let acts := (s.tr k).acts i p.run
  match exec i (s.beginIssue k p w (some i)) with
  | .next t => .next (t.endIssue k p.pc (yields i acts))
  | r => r

/-- A word that fails the checks of R56 traps; the cycle counts as an issue (R57). -/
def State.issueBad (s : State) (k : Nat) (p : Pick) (w : IWord) (e : EncTrap) : Out :=
  let c := EncTrap.cause e
  .next (((s.beginIssue k p w none).trapWord c.1 c.2 0).endIssue k p.pc false)

/-- One troupe issues on a port that is free in this cycle; when none can, troupes change places, and the cycle passes
(R168, R169). -/
def State.issueCycle (s : State) : Out :=
  match State.chooseIssue s.ports s with
  | (some (k, .word p w i), s) => s.issueWord k p w i
  | (some (k, .bad p w e), s) => s.issueBad k p w e
  | (some (k, .fetchTrap p h), s) => .next (s.takeFetchTrap k p h)
  | (_, s) => match (setEvents s).find? s.changedBy with
    | some i => exec i s
    | none => .next s.tick

/-- One step. A package that is powered off takes only the RESET that returns its power (R372). -/
def step (s : State) : Out :=
  match s.agenda with
  | i :: is =>
    if s.power.off && !isReset i then .fault .poweredOff
    else if i.word.isSome then .next { s with agenda := is }
    else exec i { s with agenda := is }
  | [] =>
    if s.power.off then .fault .poweredOff
    else match s.defaultEvent with
      | some i => exec i s
      | none => s.issueCycle

/-- A state in which the very next step issues the given instruction as the first of a troupe. -/
def State.withFetchWord (s : State) (nbits w : Nat) : State := s.placeWord (BitVec.ofNat 128 (w % 2 ^ nbits))

end Sys2Proof.Machine
end

