-- ==== Sys2Proof/Safety.lean ====
section
/-!
DEFINITION. What a safe run is, every step answering a next state, and the canonical form of memory.
-/
namespace Sys2Proof.Machine

/-- Memory is in its canonical form: in each of its tables keys rise strictly, and no entry equals what an unlisted key
reads as. -/
def Memory.wf (m : Memory) : Bool :=
  m.mem.wf && m.slices.wf && m.lineErr.wf && m.cache.frames.wf && m.cache.gddr.wf && m.cache.pool.wf

/-- A step goes on: it neither faults nor is refused. -/
def Goes (o : Out) : Prop := ∃ t, o = .next t

/-- `n` steps from `s` go on, and end in `t`. -/
def RunsTo : Nat → State → State → Prop
  | 0, s, t => s = t
  | n + 1, s, t => ∃ u, step s = .next u ∧ RunsTo n u t

end Sys2Proof.Machine
end

