-- ==== Sys2Proof/WellFormed.lean ====
section
/-!
DEFINITION. Which terms of the syntax are steps of this machine: words that pass the encoding checks, and events that
name units the package has (R1, R56, R65).
-/
namespace Sys2Proof

/-- A core of the package: four dies of sixteen rings of eight (R1). -/
def coreExists (c : Nat) : Bool := c < 512
/-- A troupe slot: 64 places on a core, the last the calliope's (R1, R165). -/
def slotExists (t : Nat) : Bool := t < 512 * 64
/-- A ring of the package. -/
def ringExists (r : Nat) : Bool := r < 64
/-- An engine: eight copy engines and a layout engine on each die (R354). -/
def engineExists (e : Nat) : Bool := e < 36
/-- A context number (R333). -/
def contextExists (c : Nat) : Bool := c < 4096
/-- A lane of a troupe (R65). -/
def laneExists (l : Nat) : Bool := l < 64
/-- A line of the 52-bit physical address space (R5). -/
def lineExists (l : Nat) : Bool := l < 2 ^ 45
/-- A die. -/
def dieExists (d : Nat) : Bool := d < 4

/-- A scope of a halt names units that exist. -/
def HaltScope.wf : HaltScope → Bool
  | .troupe t => slotExists t
  | .company _ => true
  | .ring ctx r => contextExists ctx && ringExists r

/-- A debugger's edit names registers and lanes that exist (R40, R261). -/
def DebugEdit.wf : DebugEdit → Bool
  | .vreg t r l _ => slotExists t && r < 255 && laneExists l
  | .sreg t r _ => slotExists t && r < 63
  | .pred t r _ => slotExists t && r < 7
  | .qpred t r _ => slotExists t && r < 7
  | .pc t l _ => slotExists t && laneExists l
  | .memory ctx _ _ => contextExists ctx
  | .scratch t _ _ => slotExists t

/-- A register word that exists: 255 vector registers of 64 lanes, 63 scalar registers, 7 predicates of either kind (R40). -/
def RegWord.wf : RegWord → Bool
  | .vreg t r l => slotExists t && r < 255 && laneExists l
  | .sreg t r => slotExists t && r < 63
  | .pred t r => slotExists t && r < 7
  | .qpred t r => slotExists t && r < 7

/-- A spare names a unit that exists. -/
def SpareKind.wf : SpareKind → Bool
  | .core c regs => coreExists c && regs.all RegWord.wf
  | .row c r => coreExists c && r < 32
  | .slice n => n < 256
  | .channel _ => true

/-- An error stands in a unit that exists: 131,072 scratchpad words, 16 banks of 4,096 elements and 34 rows of a core (R132, R195,
R206). -/
def ErrSite.wf : ErrSite → Bool
  | .line l => lineExists l
  | .scratch c w => coreExists c && w < 131072
  | .acc c e => coreExists c && e < 65536
  | .row c r => coreExists c && r < 34

/-- The parameters of an event name units that exist; a word passes checks 4 to 9 of R56. -/
def Instr.wf (i : Instr) : Bool :=
  match i with
  | .deferredTrap t | .hostTrap t | .fetchRetry t | .sleepExpiry t | .waitocDone t | .hjelmStep t => slotExists t
  | .encoreReplay t _ | .turnstileAdd t _ | .turnstilePoll t _ | .tswaitSatisfied t _ | .tswaitTimeout t _
  | .barrierAdd t _ | .barrierDeparture t _ | .qpushEntryWrite t _ | .qpopEntryRead t _ | .showqWaitDone t _
  | .rayTraversal t _ | .textureSample t _ | .pageRequest t _ | .remoteRetryTimer t _ => slotExists t
  | .laneAccessPerformed t _ _ | .cplDelivery t _ _ => slotExists t
  | .homeAtomic t _ l | .lockRequest t _ l | .lockGrant t _ l | .lockTimeout t _ l | .lockBackoffExpiry t _ l =>
      slotExists t && laneExists l
  | .activeSetSwap c | .mxlwExecute c | .mxfmtExecute c | .mxmulRow c | .mxchnRow c | .mxrelExecute c | .acczRow c
  | .accldRow c | .accstRow c | .accstTurnstile c | .accfreeExecute c | .accrdExecute c | .accwrExecute c => coreExists c
  | .tenureExpiry c p => coreExists c && p < 8
  | .tokenGrant c l | .cleanCopyExpiry c l => coreExists c && lineExists l
  | .tokenRecall l | .readForward l | .mergeWindowClose l | .fillReturn l | .scrub l _
  | .backInvalidateSnoop l _ | .hostSnoop l _ | .poolOwnershipGrant l => lineExists l
  | .copyCommandStart e | .cptElementDelivered e | .cpsChunkCopied e | .layexRefmtElement e | .layexExpandLine e
  | .layexPackLine e | .engineFatalEnd e _ _ => engineExists e
  | .tightropeCommand r | .rasterCommand r => ringExists r
  | .companyRestore _ c | .companyPlace _ c => coreExists c
  | .stopBroadcastArrival ctx c => contextExists ctx && coreExists c
  | .carouselHandStep d | .vlheadWrite d _ => dieExists d
  | .launchRecordTake q | .qctlWrite q _ | .queueSuspend q | .queueResume q => q < 64
  | .hjelmHalt h | .hjelmRelease h => h.wf
  | .hjelmEdit e => e.wf
  | .spareReplace k => k.wf
  | .dataLostError x => x.wf
  | .residencyRequest c _ | .fresumeRetry c _ | .fresumeUnmappable c _ | .ctxstateReload c | .ctxstateEnd c
  | .ctxstateRevive c | .ctxstatePriflush c | .prifailClear c | .contextEnd c | .debugGrant c _ | .debugRevoke c
  | .breakpointArm c _ _ | .hjelmSnapshot c => contextExists c
  | .translationWalk w _ | .atsCompletion w _ _ => dieExists w.die && contextExists w.ctx
  | .showStart _ | .childShowPost | .placementWaitExpiry _ | .companyRetire _ | .preemptRequest _ | .hrestore _
  | .batchClose | .granuleFillComplete _ | .frameReclaim _ | .reclaimWritebackDone _ | .reclaimReleaseDone _
  | .framectlPin _ | .framectlUnpin _ | .framectlDiscard _ | .framectlReclaimNow _ | .thermalThrottle _ _
  | .thermalRecover _ _ | .thermalPowerOff _ | .reset | .linkTraining _ _ _ _ | .atsInvalidation _ _ _ _
  | .prgResponse _ _ _ | .faultRecordFlush | .dutysplitWrite _ | .frqsizeWrite _ | .registerWrite _ _ _
  | .remoteRequest _ _ _ _ | .remoteReply _ _ | .replyAck _ _ | .remoteResend _ | .remoteTimeout _
  | .remoteFillNotice _ _ | .tagAbandon _ _ | .peerLinkDown _ | .directoryRequest _ _ _ | .directoryRecall _ _
  | .attestationReport | .wpctlWrite _ _ | .snapshotLatch | .snapshotFree | .linkLevelRetry _ => true
  | i => checkFields i.layout i.fields == none

end Sys2Proof
end

