-- ==== Sys2Proof/Certificates/Slice0/Obligations.lean ====
section
/-!
DEFINITION. The statements about the model: what each word and each event does, where it completes, and what it leaves alone.
-/
namespace Sys2Proof.Claims
open Sys2Proof Sys2Proof.Machine

/-! ### The words of the statements -/

/-- The step of `i` at `s` answers a next state, and `P` holds of it. -/
def Completes (i : Instr) (s : State) (P : State → Prop) : Prop := ∃ t, exec i s = .next t ∧ P t

/-- Nothing but the troupe in slot `k` differs. -/
def OnlyTroupe (k : Nat) (s t : State) : Prop := t = { s with troupes := t.troupes } ∧ ∀ j, j ≠ k → t.tr j = s.tr j

/-- Every byte of memory reads as before. -/
def SameBytes (s t : State) : Prop := ∀ pa, t.byteAt pa = s.byteAt pa

/-- The threads of the run stand at PC + 16, the others where they were; nothing else of the PC table differs (R69). -/
def RanOn (s t : State) : Prop :=
  t.curT.pt = { s.curT.pt with pcs := t.curT.pt.pcs } ∧
  ∀ l, l < 64 → t.curT.pt.pc l = if inMask s.cur.run l then s.cur.pc + 16 else s.curT.pt.pc l

/-- The issue of a word that changes only registers of its troupe: the package, memory and every other troupe are as before,
and the run has moved on. -/
def Issued (s t : State) : Prop := OnlyTroupe s.cur.t s t ∧ SameBytes s t ∧ RanOn s t

/-- The lanes in which a lane-class word acts (R47). -/
def act (s : State) (f : Fields) : Mask := s.curT.active f.g s.cur.run

/-- A 32-bit register result: in the acting lanes register `d` holds `v`; every other vector register and lane, and all
of the troupe but its PC table and reuse slots, is as before. A result in VZ is dropped (R40). -/
def VecResult (s t : State) (m : Mask) (d : Nat) (v : Nat → W32) : Prop :=
  (∀ r l, l < 64 → t.curT.rv r l = if r = d ∧ r < 255 ∧ inMask m l then v l else s.curT.rv r l) ∧
  t.curT = { s.curT with v := t.curT.v, reuse := t.curT.reuse, pt := t.curT.pt }

/-- A 64-bit result in the pair `d`, `d + 1`, the low half in `d`. -/
def PairResult (s t : State) (m : Mask) (d : Nat) (v : Nat → W64) : Prop :=
  (∀ r l, l < 64 → t.curT.rv r l =
    if r = d ∧ r < 255 ∧ inMask m l then (v l).setWidth 32
    else if r = d + 1 ∧ r < 255 ∧ inMask m l then (v l).extractLsb' 32 32
    else s.curT.rv r l) ∧
  t.curT = { s.curT with v := t.curT.v, reuse := t.curT.reuse, pt := t.curT.pt }

/-- A predicate result: in the acting lanes bit `l` of `P(d)` is `v l`; everything else is as before. -/
def PredResult (s t : State) (m : Mask) (d : Nat) (v : Nat → Bool) : Prop :=
  (∀ r l, l < 64 → inMask (t.curT.rp r) l = if r = d ∧ r < 7 ∧ inMask m l then v l else inMask (s.curT.rp r) l) ∧
  t.curT = { s.curT with p := t.curT.p, pt := t.curT.pt }

/-- A scalar result: `S(d)` of the trap level holds `v`; every other scalar, and all else of the troupe, is as before. -/
def ScalarResult (s t : State) (d : Nat) (v : W64) : Prop :=
  (∀ r, t.curT.rs64 r = if r = d ∧ r < 63 then v else s.curT.rs64 r) ∧
  t.curT = { s.curT with s := t.curT.s, s1 := t.curT.s1, pt := t.curT.pt }

/-- A scalar predicate result. -/
def QResult (s t : State) (d : Nat) (v : Bool) : Prop :=
  (∀ r, t.curT.rq r = if r = d ∧ r < 7 then v else s.curT.rq r) ∧
  t.curT = { s.curT with q := t.curT.q, pt := t.curT.pt }

/-! ### Operands (R44, R45, R108) -/

/-- The 32-bit B operand of a lane: V(B), the low half of S(B), or X. -/
def opd32 (s : State) (f : Fields) (l : Nat) : W32 :=
  match f.kind with
  | 0 => s.curT.rv f.b.toNat l
  | 1 => (s.curT.rs64 f.b.toNat).setWidth 32
  | _ => f.x

/-- The 64-bit integer B operand of a lane: a pair, a whole scalar, or X sign-extended. -/
def opd64 (s : State) (f : Fields) (l : Nat) : W64 :=
  match f.kind with
  | 0 => s.curT.rpair f.b.toNat l
  | 1 => s.curT.rs64 f.b.toNat
  | _ => f.x.signExtend 64

/-- The FP64 B operand of a lane: an immediate is the upper half of the value. -/
def opdF64 (s : State) (f : Fields) (l : Nat) : W64 :=
  match f.kind with
  | 0 => s.curT.rpair f.b.toNat l
  | 1 => s.curT.rs64 f.b.toNat
  | _ => f.x ++ 0#32

/-- The 64-bit B operand of a uniform word: S(B), or X sign-extended. -/
def opdS (s : State) (f : Fields) : W64 := if f.kind = 0 then s.curT.rs64 f.b.toNat else f.x.signExtend 64

/-- The shift amount of a 64-bit or uniform shift: 32 bits (R108). -/
def opdAmount (s : State) (f : Fields) (l : Nat) : W32 :=
  match f.kind with
  | 0 => s.curT.rv f.b.toNat l
  | 1 => (s.curT.rs64 f.b.toNat).setWidth 32
  | _ => f.x

/-! ### 32-bit integers (R117) -/

/-- A sum or difference by VAR: modulo, clamped signed, clamped unsigned. -/
def sum (n : Nat) (var : Nat) (sub : Bool) (a b : BitVec n) : BitVec n :=
  let k : Int := if sub then -1 else 1
  match var with
  | 1 => BitVec.ofInt n (max (-(2 ^ (n - 1) : Int)) (min (2 ^ (n - 1) - 1) (a.toInt + k * b.toInt)))
  | 2 => BitVec.ofInt n (max 0 (min (2 ^ n - 1) ((a.toNat : Int) + k * (b.toNat : Int))))
  | _ => BitVec.ofInt n (a.toInt + k * b.toInt)

/-- A value read as signed or as unsigned. -/
def asInt {n : Nat} (signed : Bool) (x : BitVec n) : Int := if signed then x.toInt else (x.toNat : Int)

/-- The six comparisons. -/
def compare (var : Nat) (a b : Int) : Bool :=
  match var with
  | 0 => decide (a = b)
  | 1 => decide (a ≠ b)
  | 2 => decide (a < b)
  | 3 => decide (a ≤ b)
  | 4 => decide (b < a)
  | _ => decide (b ≤ a)

/-- A shift amount: clamping, or its low bits under .WRAP. -/
def amount (n : Nat) (wrap : Bool) (k : Nat) : Nat := if wrap then k % n else k

/-- The word whose bit `i`, for `i` below `n`, is `g i`. -/
def ofBits (n : Nat) (g : Nat → Bool) : BitVec n :=
  (List.range n).foldl (fun w i => if g i then w ||| BitVec.twoPow n i else w) 0

/-- The operands V(D) (as it was), V(A) and V(E) of a lane, and the pairs. -/
def vd (s : State) (f : Fields) (l : Nat) : W32 := s.curT.rv f.d.toNat l
def va (s : State) (f : Fields) (l : Nat) : W32 := s.curT.rv f.a.toNat l
def ve (s : State) (f : Fields) (l : Nat) : W32 := s.curT.rv f.e.toNat l
def pa (s : State) (f : Fields) (l : Nat) : W64 := s.curT.rpair f.a.toNat l
def pe (s : State) (f : Fields) (l : Nat) : W64 := s.curT.rpair f.e.toNat l

/-- The field of BFE and BFI: its place and its length. -/
def fieldPos (b : W32) : Nat := b.toNat % 256
def fieldLen (b : W32) : Nat := min (b.toNat / 256 % 256) 32

/-- A result byte of PRMT. -/
def permByte (a e b : W32) (k : Nat) : Byte :=
  let n := b.toNat / 16 ^ k % 16
  let y := if n % 8 < 4 then a.extractLsb' (8 * (n % 4)) 8 else e.extractLsb' (8 * (n % 4)) 8
  if n < 8 then y else if y.getLsbD 7 then 0xFF#8 else 0#8

/-- The result of a word of lane group 2 with a 32-bit vector result, lane by lane (R117). -/
def int32 (i : Instr) (s : State) : Option (Fields × (Nat → W32)) :=
  match i with
  | .mov f => some (f, fun l => opd32 s f l)
  | .movi f => some (f, fun l => match f.var with
      | 1 => (vd s f l).extractLsb' 16 16 ++ f.x.extractLsb' 0 16
      | 2 => f.x.extractLsb' 0 16 ++ (vd s f l).extractLsb' 0 16
      | 3 => BitVec.ofNat 32 (f.x.toNat + l)
      | _ => f.x)
  | .iadd f => some (f, fun l => sum 32 f.var false (va s f l) (opd32 s f l))
  | .isub f => some (f, fun l => sum 32 f.var true (va s f l) (opd32 s f l))
  | .imul f => some (f, fun l => BitVec.ofNat 32 ((va s f l).toNat * (opd32 s f l).toNat))
  | .imulh f => some (f, fun l =>
      BitVec.ofInt 32 (asInt (f.var = 0) (va s f l) * asInt (f.var = 0) (opd32 s f l) / 2 ^ 32))
  | .imad f => some (f, fun l => BitVec.ofNat 32 ((va s f l).toNat * (ve s f l).toNat + (opd32 s f l).toNat))
  | .imin f => some (f, fun l =>
      if asInt (f.var = 0) (va s f l) ≤ asInt (f.var = 0) (opd32 s f l) then va s f l else opd32 s f l)
  | .imax f => some (f, fun l =>
      if asInt (f.var = 0) (va s f l) ≤ asInt (f.var = 0) (opd32 s f l) then opd32 s f l else va s f l)
  | .iabs f => some (f, fun l =>
      if f.var = 1 ∧ (opd32 s f l).toInt = -2 ^ 31 then 0x7FFFFFFF#32
      else BitVec.ofInt 32 ((opd32 s f l).toInt.natAbs : Int))
  | .ineg f => some (f, fun l =>
      if f.var = 1 ∧ (opd32 s f l).toInt = -2 ^ 31 then 0x7FFFFFFF#32 else BitVec.ofInt 32 (-(opd32 s f l).toInt))
  | .sel f => some (f, fun l =>
      if inMask (s.curT.rp (f.e.toNat % 8)) l ^^ f.e.getLsbD 3 then va s f l else opd32 s f l)
  | .shl f => some (f, fun l => va s f l <<< amount 32 (f.var = 1) (opd32 s f l).toNat)
  | .shr f => some (f, fun l => va s f l >>> amount 32 (f.var = 1) (opd32 s f l).toNat)
  | .sar f => some (f, fun l => (va s f l).sshiftRight (amount 32 (f.var = 1) (opd32 s f l).toNat))
  | .shf f => some (f, fun l =>
      let n := if 2 ≤ f.var then (opd32 s f l).toNat % 32 else min (opd32 s f l).toNat 32
      let w := ve s f l ++ va s f l
      if f.var % 2 = 1 then (w <<< n).extractLsb' 32 32 else (w >>> n).extractLsb' 0 32)
  | .bitf3 f => some (f, fun l => ofBits 32 fun k =>
      f.x.getLsbD (4 * ((va s f l).getLsbD k).toNat + 2 * ((ve s f l).getLsbD k).toNat + ((opd32 s f l).getLsbD k).toNat))
  | .popc f => some (f, fun l => BitVec.ofNat 32 ((List.range 32).countP (opd32 s f l).getLsbD))
  | .clz f => some (f, fun l =>
      BitVec.ofNat 32 (((List.range 32).find? fun k => (opd32 s f l).getLsbD (31 - k)).getD 32))
  | .ctz f => some (f, fun l => BitVec.ofNat 32 (((List.range 32).find? fun k => (opd32 s f l).getLsbD k).getD 32))
  | .brev f => some (f, fun l => ofBits 32 fun k => (opd32 s f l).getLsbD (31 - k))
  | .bfe f => some (f, fun l =>
      let n := fieldLen (opd32 s f l)
      let v := asInt (f.var = 1) (va s f l) / 2 ^ fieldPos (opd32 s f l) % 2 ^ n
      BitVec.ofInt 32 (if f.var = 1 ∧ 0 < n ∧ 2 ^ (n - 1) ≤ v then v - 2 ^ n else v))
  | .bfi f => some (f, fun l =>
      let mask := BitVec.ofNat 32 ((2 ^ fieldLen (opd32 s f l) - 1) * 2 ^ fieldPos (opd32 s f l))
      (ve s f l &&& ~~~mask) ||| ((va s f l <<< fieldPos (opd32 s f l)) &&& mask))
  | .prmt f => some (f, fun l =>
      let y := permByte (va s f l) (ve s f l) (opd32 s f l)
      y 3 ++ y 2 ++ y 1 ++ y 0)
  | .idp4 f => some (f, fun l =>
      let sgA := f.var % 4 = 0 ∨ f.var % 4 = 2
      let sgB := f.var % 4 = 0 ∨ f.var % 4 = 3
      let term := fun k =>
        asInt (decide sgA) ((va s f l).extractLsb' (8 * k) 8) * asInt (decide sgB) ((opd32 s f l).extractLsb' (8 * k) 8)
      let total := (ve s f l).toInt + (term 0 + term 1 + term 2 + term 3)
      BitVec.ofInt 32 (if 4 ≤ f.var then max (-2 ^ 31) (min (2 ^ 31 - 1) total) else total))
  | _ => none

/-- The result of a word of lane group 3 with a pair result, lane by lane (R118). -/
def int64 (i : Instr) (s : State) : Option (Fields × (Nat → W64)) :=
  match i with
  | .iadd64 f => some (f, fun l => sum 64 f.var false (pa s f l) (opd64 s f l))
  | .isub64 f => some (f, fun l => sum 64 f.var true (pa s f l) (opd64 s f l))
  | .imadw f => some (f, fun l =>
      BitVec.ofInt 64 (asInt (f.var = 0) (va s f l) * asInt (f.var = 0) (ve s f l) + (opd64 s f l).toInt))
  | .imad64 f => some (f, fun l => BitVec.ofNat 64 ((pa s f l).toNat * (pe s f l).toNat + (opd64 s f l).toNat))
  | .shl64 f => some (f, fun l => pa s f l <<< amount 64 (f.var = 1) (opd32 s f l).toNat)
  | .shr64 f => some (f, fun l => pa s f l >>> amount 64 (f.var = 1) (opd32 s f l).toNat)
  | .sar64 f => some (f, fun l => (pa s f l).sshiftRight (amount 64 (f.var = 1) (opd32 s f l).toNat))
  | _ => none

/-- A comparison combined with a predicate bit by the condition byte `e` (R110). -/
def cond (e : BitVec 8) (cmp p : Bool) : Bool :=
  let q := p ^^ e.getLsbD 3
  match e.toNat / 16 % 4 with
  | 0 => cmp && q
  | 1 => cmp || q
  | _ => cmp ^^ q

/-- The predicate that a condition byte combines with, in a lane (R110). -/
def condPred (s : State) (f : Fields) (l : Nat) : Bool := inMask (s.curT.rp (f.e.toNat % 8)) l

/-- The result of a word that writes one lane predicate from vector operands (R117, R118, R121, R123). -/
def toPred (i : Instr) (s : State) : Option (Fields × (Nat → Bool)) :=
  match i with
  | .isetp f => some (f, fun l =>
      cond f.e ((compare f.var (asInt (!f.e.getLsbD 6) (va s f l)) (asInt (!f.e.getLsbD 6) (opd32 s f l)))) (condPred s f l))
  | .isetp64 f => some (f, fun l =>
      cond f.e ((compare f.var (asInt (!f.e.getLsbD 6) (pa s f l)) (asInt (!f.e.getLsbD 6) (opd64 s f l)))) (condPred s f l))
  | .fsetp f => some (f, fun l =>
      cond f.e (fp32.compare f.var (f.e.getLsbD 6) (va s f l).toNat (opd32 s f l).toNat) (condPred s f l))
  | .dsetp f => some (f, fun l =>
      cond f.e (fp64.compare f.var (f.e.getLsbD 6) (pa s f l).toNat (opdF64 s f l).toNat) (condPred s f l))
  | .fclass f => some (f, fun l => f.x.getLsbD (classOf (va s f l).toNat))
  | _ => none

/-! ### Floating point (R119 to R128) -/

/-- A lane's generator after `n` steps (R28). -/
def steps : Nat → BitVec 16 → BitVec 16
  | 0, x => x
  | n + 1, x => steps n (lfsrStep x)

/-- Draw `j` of a lane's generator: its state after `j + 1` steps; no draw but under RS (R28, R29). -/
def draw (s : State) (f : Fields) (l j : Nat) : Nat :=
  if f.rm = 4 then (steps (j + 1) (s.curT.rs.read l)).toNat else 0

/-- The generators after a word that draws `n` times in each acting lane: they step under RS alone. -/
def Stepped (s t : State) (f : Fields) (n : Nat) : Prop :=
  ∀ l, l < 64 → t.curT.rs.read l =
    if f.rm = 4 ∧ inMask (act s f) l then steps n (s.curT.rs.read l) else s.curT.rs.read l

/-- A 32-bit vector result, the generators of the acting lanes apart. -/
def VecDrawn (s t : State) (m : Mask) (d : Nat) (v : Nat → W32) : Prop :=
  (∀ r l, l < 64 → t.curT.rv r l = if r = d ∧ r < 255 ∧ inMask m l then v l else s.curT.rv r l) ∧
  t.curT = { s.curT with v := t.curT.v, reuse := t.curT.reuse, pt := t.curT.pt, rs := t.curT.rs }

/-- A pair result, the generators of the acting lanes apart. -/
def PairDrawn (s t : State) (m : Mask) (d : Nat) (v : Nat → W64) : Prop :=
  (∀ r l, l < 64 → t.curT.rv r l =
    if r = d ∧ r < 255 ∧ inMask m l then (v l).setWidth 32
    else if r = d + 1 ∧ r < 255 ∧ inMask m l then (v l).extractLsb' 32 32
    else s.curT.rv r l) ∧
  t.curT = { s.curT with v := t.curT.v, reuse := t.curT.reuse, pt := t.curT.pt, rs := t.curT.rs }

/-- The three operations of R119 on codes of a format: A or the first factor and B may be negated exactly (bits 2 and 1 of
VAR), the result may be saturated (bit 0). -/
def fAdd (F : FFmt) (f : Fields) (d a b : Nat) : Nat :=
  let r := F.addR f.rm d ((F.decode a).negIf (f.md.getLsbD 2)) ((F.decode b).negIf (f.md.getLsbD 1))
  if f.md.getLsbD 0 then saturate01 F r else r
def fMul (F : FFmt) (f : Fields) (d a b : Nat) : Nat :=
  let r := F.mulR f.rm d ((F.decode a).negIf (f.md.getLsbD 2)) ((F.decode b).negIf (f.md.getLsbD 1))
  if f.md.getLsbD 0 then saturate01 F r else r
def fFma (F : FFmt) (f : Fields) (d a e b : Nat) : Nat :=
  let r := F.fmaR f.rm d ((F.decode a).negIf (f.md.getLsbD 2)) (F.decode e) ((F.decode b).negIf (f.md.getLsbD 1))
  if f.md.getLsbD 0 then saturate01 F r else r

/-- The packed format of a word: BF16 by bit 2 of VAR, else FP16. -/
def half (f : Fields) : FFmt := if f.md.getLsbD 2 then bf16 else fp16
/-- Element `k` of a packed register. -/
def elem (x : W32) (k : Nat) : Nat := x.toNat / 65536 ^ k % 65536
/-- Two elements packed. -/
def pack2 (x y : Nat) : W32 := BitVec.ofNat 16 y ++ BitVec.ofNat 16 x
/-- A packed operation: A is never negated in it. -/
def hOp (f : Fields) (g : Fields → Nat → Nat) : W32 :=
  let f' := { f with md := f.md &&& 0xFB#8 }
  pack2 (g f' 0) (g f' 1)

/-- The words with a rounded 32-bit vector result, with the draws of a lane (R119, R120, R122, R124). -/
def float32 (i : Instr) (s : State) : Option (Fields × Nat × (Nat → W32)) :=
  match i with
  | .fadd f => some (f, 1, fun l => BitVec.ofNat 32 (fAdd fp32 f (draw s f l 0) (va s f l).toNat (opd32 s f l).toNat))
  | .fmul f => some (f, 1, fun l => BitVec.ofNat 32 (fMul fp32 f (draw s f l 0) (va s f l).toNat (opd32 s f l).toNat))
  | .ffma f => some (f, 1, fun l =>
      BitVec.ofNat 32 (fFma fp32 f (draw s f l 0) (va s f l).toNat (ve s f l).toNat (opd32 s f l).toNat))
  | .fmin f => some (f, 0, fun l =>
      BitVec.ofNat 32 (fp32.minmax false (f.var = 1) (va s f l).toNat (opd32 s f l).toNat))
  | .fmax f => some (f, 0, fun l =>
      BitVec.ofNat 32 (fp32.minmax true (f.var = 1) (va s f l).toNat (opd32 s f l).toNat))
  | .frnd f => some (f, 1, fun l => BitVec.ofNat 32 (roundIntegral f.rm (draw s f l 0) (opd32 s f l).toNat))
  | .hadd2 f => some (f, 2, fun l => hOp f fun g k =>
      fAdd (half f) g (draw s f l k) (elem (va s f l) k) (elem (opd32 s f l) k))
  | .hmul2 f => some (f, 2, fun l => hOp f fun g k =>
      fMul (half f) g (draw s f l k) (elem (va s f l) k) (elem (opd32 s f l) k))
  | .hfma2 f => some (f, 2, fun l => hOp f fun g k =>
      fFma (half f) g (draw s f l k) (elem (va s f l) k) (elem (ve s f l) k) (elem (opd32 s f l) k))
  | .hmin2 f => some (f, 0, fun l => pack2
      ((half f).minmax false (f.md.getLsbD 0) (elem (va s f l) 0) (elem (opd32 s f l) 0))
      ((half f).minmax false (f.md.getLsbD 0) (elem (va s f l) 1) (elem (opd32 s f l) 1)))
  | .hmax2 f => some (f, 0, fun l => pack2
      ((half f).minmax true (f.md.getLsbD 0) (elem (va s f l) 0) (elem (opd32 s f l) 0))
      ((half f).minmax true (f.md.getLsbD 0) (elem (va s f l) 1) (elem (opd32 s f l) 1)))
  | .frcp f => some (f, 0, fun l => BitVec.ofNat 32 (fp32.rcp f.rm (fp32.decode (opd32 s f l).toNat)))
  | .frsq f => some (f, 0, fun l => BitVec.ofNat 32 (fp32.rsqrtR f.rm (fp32.decode (opd32 s f l).toNat)))
  | .fsqrt f => some (f, 0, fun l => BitVec.ofNat 32 (fp32.sqrtR f.rm (fp32.decode (opd32 s f l).toNat)))
  | .fex2 f => some (f, 0, fun l => BitVec.ofNat 32 (fex2 f.rm (fp32.decode (opd32 s f l).toNat)))
  | .flg2 f => some (f, 0, fun l => BitVec.ofNat 32 (flg2 f.rm (fp32.decode (opd32 s f l).toNat)))
  | .fsin f => some (f, 0, fun l => BitVec.ofNat 32 (fsin f.rm (fp32.decode (opd32 s f l).toNat)))
  | .fcos f => some (f, 0, fun l => BitVec.ofNat 32 (fcos f.rm (fp32.decode (opd32 s f l).toNat)))
  | _ => none

/-- The words with a rounded FP64 result (R119, R120, R124). -/
def float64 (i : Instr) (s : State) : Option (Fields × Nat × (Nat → W64)) :=
  match i with
  | .dadd f => some (f, 1, fun l => BitVec.ofNat 64 (fAdd fp64 f (draw s f l 0) (pa s f l).toNat (opdF64 s f l).toNat))
  | .dmul f => some (f, 1, fun l => BitVec.ofNat 64 (fMul fp64 f (draw s f l 0) (pa s f l).toNat (opdF64 s f l).toNat))
  | .dfma f => some (f, 1, fun l =>
      BitVec.ofNat 64 (fFma fp64 f (draw s f l 0) (pa s f l).toNat (pe s f l).toNat (opdF64 s f l).toNat))
  | .dmin f => some (f, 0, fun l => BitVec.ofNat 64 (fp64.minmax false (f.var = 1) (pa s f l).toNat (opdF64 s f l).toNat))
  | .dmax f => some (f, 0, fun l => BitVec.ofNat 64 (fp64.minmax true (f.var = 1) (pa s f l).toNat (opdF64 s f l).toNat))
  | .drcp f => some (f, 0, fun l => BitVec.ofNat 64 (fp64.rcp f.rm (fp64.decode (opdF64 s f l).toNat)))
  | _ => none

end Sys2Proof.Claims
open Sys2Proof Sys2Proof.Machine Sys2Proof.Claims

/-- R117: every word of lane group 2 but ISETP, in every operand form known at issue, completes with the result that the
table gives in each acting lane, and leaves everything else alone. -/
def Sys2Proof.Claims.IntegerResults32 : Prop :=
  ∀ (i : Instr) (s : State) (f : Fields) (v : Nat → W32), int32 i s = some (f, v) → f.kind ≠ 3 →
    Completes i s fun t => Issued s t ∧ VecResult s t (act s f) f.d.toNat v

/-- R118: the same of lane group 3 but ISETP64, whose results are pairs. -/
def Sys2Proof.Claims.IntegerResults64 : Prop :=
  ∀ (i : Instr) (s : State) (f : Fields) (v : Nat → W64), int64 i s = some (f, v) → f.kind ≠ 3 →
    Completes i s fun t => Issued s t ∧ PairResult s t (act s f) f.d.toNat v

/-- R110, R117, R118, R121, R123: ISETP, ISETP64, FSETP, DSETP and FCLASS write their predicate in the acting lanes. -/
def Sys2Proof.Claims.CompareResults : Prop :=
  ∀ (i : Instr) (s : State) (f : Fields) (v : Nat → Bool), toPred i s = some (f, v) → f.kind ≠ 3 →
    Completes i s fun t => Issued s t ∧ PredResult s t (act s f) f.d.toNat v

/-- R119, R120, R122, R124: the rounded words of lane groups 4 to 6 with a 32-bit result: the value in each acting lane, the
steps of the generators, and everything else as before. -/
def Sys2Proof.Claims.FloatResults32 : Prop :=
  ∀ (i : Instr) (s : State) (f : Fields) (n : Nat) (v : Nat → W32), float32 i s = some (f, n, v) → f.kind ≠ 3 →
    Completes i s fun t => Issued s t ∧ VecDrawn s t (act s f) f.d.toNat v ∧ Stepped s t f n

/-- R119, R120, R124: the same of the FP64 words. -/
def Sys2Proof.Claims.FloatResults64 : Prop :=
  ∀ (i : Instr) (s : State) (f : Fields) (n : Nat) (v : Nat → W64), float64 i s = some (f, n, v) → f.kind ≠ 3 →
    Completes i s fun t => Issued s t ∧ PairDrawn s t (act s f) f.d.toNat v ∧ Stepped s t f n
namespace Sys2Proof.Claims

/-! ### Exchange between lanes (R101 to R104, R112 to R115) -/

/-- The lane that SHFL reads (R113): `mode` 0 by index, 1 up, 2 down, 3 by exclusive or, in segments of `2 ^ sw` lanes. -/
def source (mode sw l c : Nat) : Nat :=
  match mode with
  | 0 => l - l % 2 ^ sw + c % 2 ^ sw
  | 1 => if c ≤ l % 2 ^ sw then l - c else l
  | 2 => if l % 2 ^ sw + c < 2 ^ sw then l + c else l
  | _ => l - l % 2 ^ sw + (l % 2 ^ sw ^^^ c) % 2 ^ sw

/-- The operation, type and rounding fields of REDUX and SCAN. -/
def treeFn (f : Fields) : Nat → Nat → Nat := treeOp (f.x.toNat % 16) (f.x.toNat / 16 % 16) (f.x.toNat / 256 % 8)
/-- The type is 64 bits wide. -/
def wide (f : Fields) : Bool := decide (3 ≤ f.x.toNat / 16 % 16)
/-- The value an acting lane brings to REDUX and SCAN; an inactive lane brings none (R33). -/
def leaf (s : State) (f : Fields) (l : Nat) : Option Nat :=
  if inMask (act s f) l then some (if wide f then (pa s f l).toNat else (va s f l).toNat) else none
/-- The value of REDUX: the root of the tree (R33). -/
def reduced (s : State) (f : Fields) : W64 :=
  let v := (treeNode (treeFn f) (leaf s f) 6 0).getD 0
  if f.x.toNat / 16 % 16 = 0 then (BitVec.ofNat 32 v).signExtend 64 else BitVec.ofNat 64 v
/-- The value of SCAN in a lane: the fold of the lanes below it, itself included unless VAR is 1 (R34). -/
def scanned (s : State) (f : Fields) (l : Nat) : Nat :=
  (prefixFold (treeFn f) (leaf s f) 6 0 (if f.var = 1 then l else l + 1) none).getD
    (treeIdentity (f.x.toNat % 16) (f.x.toNat / 16 % 16))

/-- The lowest, or the highest, lane of a set. -/
def isEnd (high : Bool) (m : Mask) (l : Nat) : Bool :=
  inMask m l && (List.range 64).all fun k => !inMask m k || (if high then decide (k ≤ l) else decide (l ≤ k))

/-! ### Uniform words (R129, R130) -/

/-- The scalars S(D) (as it was), S(A) and S(E). -/
def sd (s : State) (f : Fields) : W64 := s.curT.rs64 f.d.toNat
def sa (s : State) (f : Fields) : W64 := s.curT.rs64 f.a.toNat
def se (s : State) (f : Fields) : W64 := s.curT.rs64 f.e.toNat
/-- The shift amount of a uniform shift. -/
def samt (s : State) (f : Fields) : Nat := if f.kind = 0 then (s.curT.rs64 f.b.toNat).toNat % 2 ^ 32 else f.x.toNat

/-- The word executes: its scalar guard holds (R47). -/
def enabled (s : State) (f : Fields) : Bool := s.curT.rq (f.g.toNat % 8) ^^ f.g.getLsbD 3

/-- The lane SV2S reads: X, or the lowest lane of the run. -/
def sv2sLane (s : State) (f : Fields) : Nat :=
  if f.var < 3 then f.x.toNat % 64 else ((List.range 64).find? fun l => inMask s.cur.run l).getD 0

/-- The result of a uniform word that writes a scalar (R129, R130). -/
def scalar (i : Instr) (s : State) : Option (Fields × W64) :=
  match i with
  | .smov f => some (f, opdS s f)
  | .smovi f => some (f, match f.var with
      | 1 => f.x ++ (sd s f).extractLsb' 0 32
      | 2 => (sd s f).extractLsb' 32 32 ++ f.x
      | _ => f.x.signExtend 64)
  | .sadd f => some (f, sum 64 f.var false (sa s f) (opdS s f))
  | .ssub f => some (f, sum 64 f.var true (sa s f) (opdS s f))
  | .smul f => some (f, match f.var with
      | 1 => BitVec.ofInt 64 ((sa s f).toInt * (opdS s f).toInt / 2 ^ 64)
      | 2 => BitVec.ofNat 64 ((sa s f).toNat * (opdS s f).toNat / 2 ^ 64)
      | _ => BitVec.ofNat 64 ((sa s f).toNat * (opdS s f).toNat))
  | .smad f => some (f, BitVec.ofNat 64 ((sa s f).toNat * (se s f).toNat + (opdS s f).toNat))
  | .smin f => some (f, if asInt (f.var = 0) (sa s f) ≤ asInt (f.var = 0) (opdS s f) then sa s f else opdS s f)
  | .smax f => some (f, if asInt (f.var = 0) (sa s f) ≤ asInt (f.var = 0) (opdS s f) then opdS s f else sa s f)
  | .sbitf3 f => some (f, ofBits 64 fun k => f.x.getLsbD
      (4 * ((sa s f).getLsbD k).toNat + 2 * ((se s f).getLsbD k).toNat + ((opdS s f).getLsbD k).toNat))
  | .sshl f => some (f, sa s f <<< amount 64 (f.var = 1) (samt s f))
  | .sshr f => some (f, sa s f >>> amount 64 (f.var = 1) (samt s f))
  | .ssar f => some (f, (sa s f).sshiftRight (amount 64 (f.var = 1) (samt s f)))
  | .ssel f => some (f, if s.curT.rq (f.e.toNat % 8) ^^ f.e.getLsbD 3 then sa s f else opdS s f)
  | .sv2s f => some (f, match f.var with
      | 1 => (va s f (sv2sLane s f)).signExtend 64
      | 2 | 4 => pa s f (sv2sLane s f)
      | _ => (va s f (sv2sLane s f)).setWidth 64)
  | _ => none

/-- The result of a uniform word that writes a scalar predicate (R110, R129). -/
def toQ (i : Instr) (s : State) : Option (Fields × Bool) :=
  match i with
  | .ssetp f => some (f,
      cond f.e (compare f.var (asInt (!f.e.getLsbD 6) (sa s f)) (asInt (!f.e.getLsbD 6) (opdS s f))) (s.curT.rq (f.e.toNat % 8)))
  | .sqlop f => some (f, f.x.getLsbD
      (4 * (s.curT.rq f.a.toNat).toNat + 2 * (s.curT.rq f.e.toNat).toNat + (s.curT.rq f.b.toNat).toNat))
  | _ => none

/-- The troupe is as it was but for its run's move. -/
def Untouched (s t : State) : Prop := t.curT = { s.curT with pt := t.curT.pt }

/-! ### Branches (R95) -/

/-- A target is aligned and canonical. -/
def goodTarget (x : W64) : Prop := x.toNat % 16 = 0 ∧ ∀ k, 57 ≤ k → k < 64 → x.getLsbD k = x.getLsbD 56

/-- The acting lanes of a branch stand at their targets, the other threads of the run at PC + 16. -/
def Branched (s t : State) (f : Fields) (tgt : Nat → W64) : Prop :=
  t.curT.pt = { s.curT.pt with pcs := t.curT.pt.pcs } ∧
  ∀ l, l < 64 → t.curT.pt.pc l =
    if inMask (act s f) l then tgt l else if inMask s.cur.run l then s.cur.pc + 16 else s.curT.pt.pc l

/-- The target of a direct branch: PC + 16 times the signed offset. -/
def direct (s : State) (f : Fields) (_ : Nat) : W64 := s.cur.pc + BitVec.ofInt 64 (16 * f.x.toInt)

/-- The branches, with their targets and whether they link (R95). -/
def branch (i : Instr) (s : State) : Option (Fields × (Nat → W64) × Bool) :=
  match i with
  | .bra f => some (f, direct s f, false)
  | .bri f => some (f, pa s f, false)
  | .call f => some (f, (if f.var = 1 then pa s f else direct s f), true)
  | .ret f => some (f, pa s f, false)
  | _ => none

/-- A trace record is not written for the troupe of the word being issued: the debug right is not held (R266). -/
def Quiet (s : State) : Prop := (s.ctx (s.ctxOf s.cur.t)).debug = false

end Sys2Proof.Claims
open Sys2Proof.Claims

/-- R47: a lane acts when it is in the run and its bit of the guard predicate, inverted by G bit 3, is one; G = 7 is no guard.
A uniform word executes by the scalar predicate of the same number. -/
def Sys2Proof.Claims.GuardMeaning : Prop :=
  ∀ (s : State) (f : Fields) (l : Nat), l < 64 →
    (inMask (s.curT.active f.g s.cur.run) l = (inMask s.cur.run l && (inMask (s.curT.rp (f.g.toNat % 8)) l ^^ f.g.getLsbD 3))) ∧
    (f.g = 7 → s.curT.active f.g s.cur.run = s.cur.run) ∧
    s.curT.enabled f.g = enabled s f

/-- R48, R49, R52, R54: an issue holds its troupe for ST cycles (reason 0), and leaves its results of fixed latency pending; while ST
runs, while a flag that WM names is not zero (reason 2), and while a register that it reads or writes is pending or is still to be written
by an operation in flight, the next word does not issue. Registers are named at the trap level (R81). -/
def Sys2Proof.Claims.IssueHolds : Prop :=
  (∀ (s : State) (k : Nat) (p : Pick) (w : IWord) (i : Instr), let t := s.beginIssue k p w (some i)
    t.clock = s.clock ∧ (t.tr k).holdUntil = s.clock + 1 + i.fields.st.toNat ∧ (t.tr k).issuedAt = s.clock + 1 ∧
    ((s.tr k).acts i p.run = true → latency i ≠ 0 → ∃ e ∈ (t.tr k).lates,
      e.regs = atLevel (s.tr k).level i.writes ∧ e.due = s.clock + latency i)) ∧
  (∀ (s : State) (k : Nat) (i : Instr) (run : Mask), let t := s.tr k
    (∀ o ∈ t.ops, o.park = none) →
    (s.clock < t.holdUntil → s.holdReason k i run = some 0) ∧
    (t.holdUntil ≤ s.clock → t.flagWait i.fields.wm = true → s.holdReason k i run = some 2) ∧
    (∀ e ∈ t.lates, s.clock < e.due → meets (namesAt i t.level) e.regs = true → s.holdReason k i run ≠ none) ∧
    (∀ o ∈ t.ops, meets (namesAt i t.level) (atLevel o.level o.ins.writes) = true → s.holdReason k i run ≠ none))

/-- R101: PLOP. -/
def Sys2Proof.Claims.PlopResult : Prop :=
  ∀ (s : State) (f : Fields), Completes (.plop f) s fun t => Issued s t ∧
    PredResult s t (act s f) f.d.toNat fun l => f.x.getLsbD (4 * (inMask (s.curT.rp f.a.toNat) l).toNat +
      2 * (inMask (s.curT.rp f.e.toNat) l).toNat + (inMask (s.curT.rp f.b.toNat) l).toNat)

/-- R102: VOTE; with no active lane it writes nothing. -/
def Sys2Proof.Claims.VoteResult : Prop :=
  ∀ (s : State) (f : Fields), let m := s.curT.rp f.a.toNat &&& act s f
    Completes (.vote f) s fun t => Issued s t ∧
      (act s f = 0 → Untouched s t) ∧
      (act s f ≠ 0 → f.var = 0 → QResult s t f.d.toNat (decide (m = act s f))) ∧
      (act s f ≠ 0 → f.var = 1 → QResult s t f.d.toNat (decide (m ≠ 0))) ∧
      (act s f ≠ 0 → f.var = 2 → QResult s t f.d.toNat (decide (m = act s f ∨ m = 0))) ∧
      (act s f ≠ 0 → f.var = 3 → ScalarResult s t f.d.toNat m)

/-- R103: ELECT writes all 64 bits of P(D): the lowest, or with VAR 1 the highest, active lane's alone is one. -/
def Sys2Proof.Claims.ElectResult : Prop :=
  ∀ (s : State) (f : Fields), Completes (.elect f) s fun t => Issued s t ∧
    (act s f = 0 → Untouched s t) ∧
    (act s f ≠ 0 → PredResult s t (-1) f.d.toNat (isEnd (f.var ≠ 0) (act s f)))

/-- R104: MATCH gives each active lane the set of the active lanes that hold its value. -/
def Sys2Proof.Claims.MatchResult : Prop :=
  ∀ (s : State) (f : Fields), Completes (.match f) s fun t => Issued s t ∧
    PairResult s t (act s f) f.d.toNat fun l => ofBits 64 fun k => inMask (act s f) k &&
      (if f.var = 1 then decide (pa s f k = pa s f l) else decide (va s f k = va s f l))

/-- R112 to R115: SHFL, REDUX and SCAN. -/
def Sys2Proof.Claims.ExchangeResults : Prop :=
  (∀ (s : State) (f : Fields), Completes (.shfl f) s fun t => Issued s t ∧
    VecResult s t (act s f) f.d.toNat fun l =>
      va s f (source f.var (f.x.toNat / 256 % 8) l (((s.curT.rv f.b.toNat l).toNat + f.x.toNat % 64) % 2 ^ 32))) ∧
  (∀ (s : State) (f : Fields), Completes (.redux f) s fun t => Issued s t ∧
    (act s f = 0 → Untouched s t) ∧ (act s f ≠ 0 → ScalarResult s t f.d.toNat (reduced s f))) ∧
  (∀ (s : State) (f : Fields), Completes (.scan f) s fun t => Issued s t ∧
    (wide f = false → VecResult s t (act s f) f.d.toNat fun l => BitVec.ofNat 32 (scanned s f l)) ∧
    (wide f = true → PairResult s t (act s f) f.d.toNat fun l => BitVec.ofNat 64 (scanned s f l)))

/-- R129, R130: the uniform words with a scalar result, in the operand forms known at issue. -/
def Sys2Proof.Claims.ScalarResults : Prop :=
  ∀ (i : Instr) (s : State) (f : Fields) (v : W64), scalar i s = some (f, v) → f.kind ≠ 3 →
    Completes i s fun t => Issued s t ∧
      (enabled s f = true → ScalarResult s t f.d.toNat v) ∧ (enabled s f = false → Untouched s t)

/-- R110, R129: SSETP and SQLOP. -/
def Sys2Proof.Claims.ScalarPredicates : Prop :=
  ∀ (i : Instr) (s : State) (f : Fields) (v : Bool), toQ i s = some (f, v) → f.kind ≠ 3 →
    Completes i s fun t => Issued s t ∧
      (enabled s f = true → QResult s t f.d.toNat v) ∧ (enabled s f = false → Untouched s t)

/-- R94: NOP has no effect beyond R69. -/
def Sys2Proof.Claims.NopResult : Prop :=
  ∀ (s : State) (f : Fields), Completes (.nop f) s fun t => Issued s t ∧ Untouched s t

/-- R97: YIELD adds its active lanes to the deferred set, opens a window of 64 issues, and asks for a swap. -/
def Obligations.YieldResult : Prop :=
  ∀ (s : State) (f : Fields), yields (.yield f) true = true ∧
    Completes (.yield f) s fun t => OnlyTroupe s.cur.t s t ∧ SameBytes s t ∧
      (∀ l, l < 64 → t.curT.pt.pc l = if inMask s.cur.run l then s.cur.pc + 16 else s.curT.pt.pc l) ∧
      (act s f = 0 → Untouched s t ∧ RanOn s t) ∧
      (act s f ≠ 0 →
        t.curT.pt = { s.curT.pt with pcs := t.curT.pt.pcs, deferred := s.curT.pt.deferred ||| act s f, w := 64 } ∧
        t.curT = { s.curT with pt := t.curT.pt, windows := s.curT.windows + 1 })

/-- R98: SLEEP puts its active lanes to sleep at PC + 16 for max(1, n) cycles; the other threads of the run stay READY. -/
def Sys2Proof.Claims.SleepResult : Prop :=
  ∀ (s : State) (f : Fields), Completes (.sleep f) s fun t => OnlyTroupe s.cur.t s t ∧ SameBytes s t ∧ Untouched s t ∧
    ∀ l, l < 64 →
      t.curT.pt.pc l = (if inMask s.cur.run l then s.cur.pc + 16 else s.curT.pt.pc l) ∧
      t.curT.pt.state l = (if inMask (act s f) l then .sleep else s.curT.pt.state l) ∧
      t.curT.pt.wake.read l = (if inMask (act s f) l then s.clock + max 1 (f.x.toNat % 2 ^ 24) else s.curT.pt.wake.read l)

/-- R95: a branch whose active lanes' targets are all aligned and canonical moves them there, and a CALL writes PC + 16 to its
pair in the active lanes. (With the debug right held an indirect branch is also traced, R266.) -/
def Sys2Proof.Claims.BranchResult : Prop :=
  ∀ (i : Instr) (s : State) (f : Fields) (tgt : Nat → W64) (link : Bool), branch i s = some (f, tgt, link) → Quiet s →
    (∀ l, l < 64 → inMask (act s f) l → goodTarget (tgt l)) →
    Completes i s fun t => OnlyTroupe s.cur.t s t ∧ SameBytes s t ∧ Branched s t f tgt ∧
      (link = false → Untouched s t) ∧
      (link = true → PairResult s t (act s f) f.d.toNat fun _ => s.cur.pc + 16)

/-- R79, R95: a branch with an active lane whose target is misaligned or not canonical changes nothing of its own: it takes
trap 0x04 with the lowest such lane's target, with detail 1 if that target is misaligned and 2 if not. -/
def Sys2Proof.Claims.BranchTraps : Prop :=
  ∀ (i : Instr) (s : State) (f : Fields) (tgt : Nat → W64) (link : Bool) (l : Nat), branch i s = some (f, tgt, link) →
    l < 64 → inMask (act s f) l → ¬ goodTarget (tgt l) → (∀ k, k < l → inMask (act s f) k → goodTarget (tgt k)) →
    exec i s = .next (s.trapWord 4 (if (tgt l).toNat % 16 = 0 then 2 else 1) (tgt l))
namespace Sys2Proof.Claims

/-! ### Packed compares, conversions and blocks (R121, R125 to R128) -/

/-- One element's bit of HSETP2. -/
def halfBit (s : State) (f : Fields) (l k : Nat) : Bool :=
  cond f.e ((if f.e.getLsbD 7 then bf16 else fp16).compare f.var (f.e.getLsbD 6) (elem (va s f l) k) (elem (opd32 s f l) k)) (condPred s f l)

/-- The fields of CVT: source and destination formats, slots, and the two saturation bits (R126). -/
def cvtSrc (s : State) (f : Fields) (l : Nat) : Nat :=
  let w := fmtBits (f.x.toNat / 256 % 32)
  if w = 64 then (s.curT.rpair f.b.toNat l).toNat else (s.curT.rv f.b.toNat l).toNat / 2 ^ (w * (f.x.toNat / 2 ^ 16 % 8)) % 2 ^ w
/-- The code that CVT makes of a lane's source (R125). -/
def cvtCode (s : State) (f : Fields) (l : Nat) : Nat :=
  convertTo (f.x.toNat % 32) f.rm (draw s f l 0) (f.x.getLsbD 13) (f.x.getLsbD 14) (decodeFmt (f.x.toNat / 256 % 32) (cvtSrc s f l))
/-- A 32-bit destination of CVT: the whole register, or the slot replaced and the others kept. -/
def cvtWord (s : State) (f : Fields) (l : Nat) : W32 :=
  let w := fmtBits (f.x.toNat % 32)
  let at' := w * (f.x.toNat / 2 ^ 20 % 8)
  if w = 32 then BitVec.ofNat 32 (cvtCode s f l)
  else ofBits 32 fun k => if at' ≤ k ∧ k < at' + w then (cvtCode s f l).testBit (k - at') else (vd s f l).getLsbD k

/-- The mantissa bits of a block format (R23). -/
def blkBits (f : Fields) : Nat := f.x.toNat % 32 - 0x16
/-- The values of a block: element `i` is register A + i mod 4 of lane i / 4; an inactive lane brings +0 (R127). -/
def blkVals (s : State) (f : Fields) : List FVal :=
  (List.range 256).map fun i =>
    if inMask (act s f) (i / 4) then fp32.decode (s.curT.rv (f.a.toNat + i % 4) (i / 4)).toNat else .fin false 0 0
/-- The mantissa of element `i`: rounded at the block's exponent, zero where the whole block flushes (R24, R127). -/
def blkMant (s : State) (f : Fields) (i : Nat) : Int :=
  if bfpSkips (blkVals s f) then 0
  else bfpMant (blkBits f) (bfpExp (blkVals s f)) f.rm (draw s f (i / 4) (i % 4)) ((blkVals s f).getD i (.fin false 0 0))
/-- The register of a lane that QBLK writes: 32 bits of the packed mantissas, or four bytes. -/
def blkWord (s : State) (f : Fields) (l : Nat) : W32 :=
  if f.x.getLsbD 8 then ofBits 32 fun k =>
    let b := 32 * l + k
    decide (b / blkBits f < 256) && (BitVec.ofInt 8 (blkMant s f (b / blkBits f))).getLsbD (b % blkBits f)
  else BitVec.ofInt 8 (blkMant s f (4 * l + 3)) ++ BitVec.ofInt 8 (blkMant s f (4 * l + 2)) ++
    BitVec.ofInt 8 (blkMant s f (4 * l + 1)) ++ BitVec.ofInt 8 (blkMant s f (4 * l))

/-- Bit `b` of the 2,048 bits that the 64 lanes of V(A) hold. -/
def blkBit (s : State) (f : Fields) (b : Nat) : Bool := (s.curT.rv f.a.toNat (b / 32)).getLsbD (b % 32)
/-- The mantissa of element `i` that DQBLK reads: packed, or the low bits of a byte (R128). -/
def blkRead (s : State) (f : Fields) (i : Nat) : Int :=
  let n := blkBits f
  let u := ((List.range n).map fun k =>
    if blkBit s f (if f.x.getLsbD 8 then n * i + k else 8 * i + k) then 2 ^ k else 0).sum
  if 2 ^ (n - 1) ≤ u then (u : Int) - 2 ^ n else u

end Sys2Proof.Claims
open Sys2Proof.Claims

/-- R121: HSETP2 writes element 0's comparison to P(D) and element 1's to P(D + 1), in the acting lanes. -/
def Sys2Proof.Claims.PackedCompare : Prop :=
  ∀ (s : State) (f : Fields), f.kind ≠ 3 → Completes (.hsetp2 f) s fun t => Issued s t ∧
    (∀ r l, l < 64 → inMask (t.curT.rp r) l =
      if r = f.d.toNat ∧ r < 7 ∧ inMask (act s f) l then halfBit s f l 0
      else if r = f.d.toNat + 1 ∧ r < 7 ∧ inMask (act s f) l then halfBit s f l 1
      else inMask (s.curT.rp r) l) ∧
    t.curT = { s.curT with p := t.curT.p, pt := t.curT.pt }

/-- R125, R126: CVT converts one slot of B; under RS each acting lane draws once. -/
def Sys2Proof.Claims.ConvertResult : Prop :=
  ∀ (s : State) (f : Fields), f.kind ≠ 3 → Completes (.cvt f) s fun t => Issued s t ∧ Stepped s t f 1 ∧
    (fmtBits (f.x.toNat % 32) = 64 → PairDrawn s t (act s f) f.d.toNat fun l => BitVec.ofNat 64 (cvtCode s f l)) ∧
    (fmtBits (f.x.toNat % 32) ≠ 64 → VecDrawn s t (act s f) f.d.toNat (cvtWord s f))

/-- R127, R128: QBLK writes the block's exponent to S(B) and its mantissas to the acting lanes of V(D); DQBLK writes the
values of a block to four registers of the acting lanes. With no active lane neither has an effect. -/
def Sys2Proof.Claims.BlockResults : Prop :=
  (∀ (s : State) (f : Fields), Completes (.qblk f) s fun t => Issued s t ∧
    (act s f = 0 → Untouched s t) ∧
    (act s f ≠ 0 → 0x18 ≤ f.x.toNat % 32 → f.x.toNat % 32 ≤ 0x1E →
      (∀ r, t.curT.rs64 r = if r = f.b.toNat ∧ r < 63 then BitVec.ofNat 64 (bfpExp (blkVals s f)) else s.curT.rs64 r) ∧
      (∀ r l, l < 64 → t.curT.rv r l = if r = f.d.toNat ∧ r < 255 ∧ inMask (act s f) l then blkWord s f l else s.curT.rv r l) ∧
      (bfpSkips (blkVals s f) = false → Stepped s t f 4) ∧
      t.curT = { s.curT with
        v := t.curT.v, reuse := t.curT.reuse, s := t.curT.s, s1 := t.curT.s1, pt := t.curT.pt, rs := t.curT.rs })) ∧
  (∀ (s : State) (f : Fields), 0x18 ≤ f.x.toNat % 32 → f.x.toNat % 32 ≤ 0x1E → f.d.toNat ≤ 251 →
    Completes (.dqblk f) s fun t => Issued s t ∧
      (∀ r l, l < 64 → t.curT.rv r l =
        if f.d.toNat ≤ r ∧ r < f.d.toNat + 4 ∧ inMask (act s f) l then
          BitVec.ofNat 32 (fp32.round 0 0 false (bfpValue (blkBits f) ((s.curT.rs64 f.b.toNat).toNat % 256)
            (blkRead s f (4 * l + (r - f.d.toNat)))))
        else s.curT.rv r l) ∧
      t.curT = { s.curT with v := t.curT.v, reuse := t.curT.reuse, pt := t.curT.pt })

namespace Sys2Proof.Claims

/-! ### Traps (R79 to R85, R99, R100) -/

/-- A trap of the word being issued that enters level 1: the troupe is no calliope, stands at level 0, its context has a
handler, and traps are not handed to the host (R80, R83, R85). -/
def Handled (s : State) : Prop :=
  isCalliope s.cur.t = false ∧ s.curT.level = 0 ∧ s.trapHost = false ∧
  ∃ d, (s.ctx (s.ctxOf s.cur.t)).desc = some d ∧ d.trvec ≠ 0

/-- The handler's address. -/
def handler (s : State) : W64 := (((s.ctx (s.ctxOf s.cur.t)).desc).map (·.trvec)).getD 0

/-- R80: the state of the troupe on entry to level 1: the PC table is shadowed, the trap registers are set, and all 64 threads
stand READY at the handler, whose bits [3:0] a PC does not have (R39, log entry 66); every register, counter and operation in flight is as it was. -/
def Entered (s t : State) (i : TrapInfo) : Prop :=
  let a := s.curT
  let b := t.curT
  b.shadow = a.pt ∧ b.shadowRs = a.rs ∧ b.level = 1 ∧ b.trcause = BitVec.ofNat 64 (i.cause + 2 ^ 8 * i.detail + 2 ^ 16 * i.record) ∧
  b.trpc = i.resume ∧ b.trmask = i.run ∧ b.trval = i.value ∧ b.trword = i.word ∧ b.holdUntil = 0 ∧ b.reuse = [] ∧
  b.pt.deferred = 0 ∧ b.pt.w = 0 ∧ b.pt.h = 0 ∧ b.pt.fp = a.pt.fp ∧
  (∀ l, l < 64 → b.pt.state l = .ready ∧ b.pt.pc l = handler s &&& ~~~15) ∧
  b = { a with shadow := b.shadow, shadowRs := b.shadowRs, level := 1, trcause := b.trcause, trpc := b.trpc, trmask := b.trmask,
               trval := b.trval, trword := b.trword, pt := b.pt, holdUntil := 0, reuse := [], traps := a.traps + 1 }

/-- The company of the word being issued. -/
def ourCo (s : State) : Co := s.co s.curT.company

/-- After an EXIT no thread of the troupe is left (R96). -/
def AllGone (s : State) (f : Fields) : Prop := ∀ l, l < 64 → inMask (act s f) l = true ∨ s.curT.pt.state l = .exited
/-- No record of the troupe has a fatal verdict; one that has is discarded when its last thread exits (R78). -/
def NoFatal (s : State) : Prop := ∀ o ∈ s.curT.ops, ∀ p, o.park = some p → p.state ≠ .fatal
/-- The threads of a troupe after an EXIT. -/
def Exits (s : State) (f : Fields) (t : Troupe) : Prop := ∀ l, l < 64 →
  t.pt.pc l = (if inMask s.cur.run l then s.cur.pc + 16 else s.curT.pt.pc l) ∧
  t.pt.state l = (if inMask (act s f) l then .exited else s.curT.pt.state l)

end Sys2Proof.Claims
open Sys2Proof.Claims

/-- R96: EXIT: the active lanes are EXITED, and the run's threads stand at PC + 16. While a thread has not exited, or an Encore record
is in use, nothing else changes; else the troupe ends, and with the last of its company's troupes and calliope the company's slots
and its place are released (R167). In no case is a register of a troupe that goes on, or a byte of memory, changed. -/
def Obligations.ExitResult : Prop :=
  ∀ (s : State) (f : Fields),
    let c := s.curT.company
    let others := fun P : Nat → Prop => ∀ x ∈ (ourCo s).slots, isCalliope x = true ∨ x = s.cur.t ∨ P x
    let recordsFree := ∀ o ∈ s.curT.ops, o.recs = []
    (AllGone s f → NoFatal s) →
    (¬ AllGone s f ∨ (∃ o ∈ s.curT.ops, o.recs ≠ []) → Completes (.exit f) s fun t =>
      OnlyTroupe s.cur.t s t ∧ SameBytes s t ∧ Untouched s t ∧ Exits s f t.curT) ∧
    (AllGone s f → recordsFree → Quiet s → s.curT.resident = true → s.curT.ended = false →
      ((ourCo s).st ≠ .resident ∨ ((ourCo s).calliopeDone = false ∧ isCalliope s.cur.t = false) ∨
        (∃ x ∈ (ourCo s).slots, isCalliope x = false ∧ x ≠ s.cur.t ∧ (s.tr x).ended = false) →
        Completes (.exit f) s fun t => (∀ j, j ≠ s.cur.t → t.tr j = s.tr j) ∧ SameBytes s t ∧ Exits s f t.curT ∧
          t.curT = { s.curT with pt := t.curT.pt, ended := true, spotlit := false } ∧
          (∀ j, j ≠ c → t.co j = s.co j) ∧
          t.co c = { ourCo s with calliopeDone := (ourCo s).calliopeDone || isCalliope s.cur.t }) ∧
      ((ourCo s).st = .resident → ((ourCo s).calliopeDone = true ∨ isCalliope s.cur.t = true) →
        others (fun x => (s.tr x).ended = true) →
        Completes (.exit f) s fun t => SameBytes s t ∧ (t.co c).st = .released ∧ (∀ j, j ≠ c → t.co j = s.co j) ∧
          (∀ x ∈ (ourCo s).slots, t.tr x = default) ∧
          ∀ j, j ∉ (ourCo s).slots → j ≠ s.cur.t → t.tr j = s.tr j))

/-- R79, R80: an exception that enters level 1 saves and sets what the spec says, in its troupe alone. -/
def Sys2Proof.Claims.TrapEntered : Prop :=
  ∀ (s : State) (i : TrapInfo), Handled s → Quiet s →
    OnlyTroupe s.cur.t s (s.takeTrap s.cur.t i) ∧ SameBytes s (s.takeTrap s.cur.t i) ∧ Entered s (s.takeTrap s.cur.t i) i

/-- R83, R85, R338, R340: at level 1, and with no handler, the context begins to end, for reasons 1 and 4; with DUTYSPLIT.TRAP the
trap registers are set and the company is to be saved for the host. -/
def Sys2Proof.Claims.TrapElsewhere : Prop :=
  ∀ (s : State) (i : TrapInfo), isCalliope s.cur.t = false → Quiet s →
    (s.ctx (s.ctxOf s.cur.t)).endReason = 0 → (s.ctx (s.ctxOf s.cur.t)).dead = false →
    let t := s.takeTrap s.cur.t i
    (s.curT.level = 1 → (t.ctx (s.ctxOf s.cur.t)).endReason = 1 ∧ (t.ctx (s.ctxOf s.cur.t)).endCause = i.trcause) ∧
    (s.curT.level = 0 → s.trapHost = false → handler s = 0 →
      (t.ctx (s.ctxOf s.cur.t)).endReason = 4 ∧ t.curT.trcause = i.trcause ∧ t.curT.trpc = i.resume ∧ t.curT.level = 0) ∧
    (s.curT.level = 0 → s.trapHost = true →
      (t.co s.curT.company).st = .saving ∧ t.curT.trcause = i.trcause ∧ t.curT.trpc = i.resume ∧ t.curT.level = 0)

/-- R99, R264: TRAP, and BKPT where the debug right is not held or the breakpoint is not armed or the troupe is at level 1, take
causes 0x03 and 0x07 with their code, resuming at PC + 16; with no active lane they have no effect. -/
def Sys2Proof.Claims.TrapWords : Prop :=
  ∀ (s : State) (f : Fields),
    (act s f = 0 → (Completes (.trap f) s fun t => Issued s t ∧ Untouched s t) ∧
      Completes (.bkpt f) s fun t => Issued s t ∧ Untouched s t) ∧
    (act s f ≠ 0 → Completes (.trap f) s fun t => t = s.takeTrap s.cur.t
      { cause := 3, value := BitVec.ofNat 64 (f.x.toNat % 2 ^ 16), word := s.cur.word, resume := s.cur.pc + 16, run := s.cur.run,
        seq := s.cur.seq.toNat, site := s.cur.pc }) ∧
    (act s f ≠ 0 → (s.curT.level = 1 ∨ (s.ctx (s.ctxOf s.cur.t)).debug = false ∨ (s.ctx (s.ctxOf s.cur.t)).arm = false) →
      s.curT.level ≤ 1 → Completes (.bkpt f) s fun t => t = s.takeTrap s.cur.t
      { cause := 7, value := BitVec.ofNat 64 (f.x.toNat % 2 ^ 16), word := s.cur.word, resume := s.cur.pc + 16, run := s.cur.run,
        seq := s.cur.seq.toNat, site := s.cur.pc })

/-- R260, R264: an armed BKPT at level 0 halts its troupe at PC + 16, with cause 2: its READY threads are HALTED. -/
def Sys2Proof.Claims.BreakpointHalts : Prop :=
  ∀ (s : State) (f : Fields), let c := s.ctx (s.ctxOf s.cur.t)
    act s f ≠ 0 → s.curT.level = 0 → c.debug = true → c.arm = true → c.stopring = false →
    s.curT.halted = false → s.curT.resident = true → s.curT.ended = false →
    Completes (.bkpt f) s fun t =>
      t.curT.halted = true ∧ t.curT.haltpc = s.cur.pc + 16 ∧ t.curT.haltrec = BitVec.ofNat 64 (2 * 2 ^ 16) ∧ t.curT.level = 0 ∧
      t.curT.haltseq = s.curT.issueseq.setWidth 64 ∧
      ∀ l, l < 64 → t.curT.pt.pc l = (if inMask s.cur.run l then s.cur.pc + 16 else s.curT.pt.pc l) ∧
        t.curT.pt.state l = (if s.curT.pt.state l = .ready then .halted else s.curT.pt.state l)

/-- R82: TRET at level 1 restores the PC table from the shadow, puts the threads of TRMASK at TRPC, without its bits
[3:0] (R39, log entry 66), and returns to level 0; no
register and nothing of the trap registers changes. -/
def Sys2Proof.Claims.TretResult : Prop :=
  ∀ (s : State) (f : Fields), act s f ≠ 0 → s.curT.level = 1 →
    Completes (.tret f) s fun t => OnlyTroupe s.cur.t s t ∧ SameBytes s t ∧
      t.curT.level = 0 ∧ t.curT.reuse = [] ∧
      t.curT.pt = { s.curT.shadow with pcs := t.curT.pt.pcs } ∧
      (∀ l, l < 64 → t.curT.pt.pc l = if inMask s.curT.trmask l then s.curT.trpc &&& ~~~15 else s.curT.shadow.pc l) ∧
      t.curT = { s.curT with pt := t.curT.pt, level := 0, reuse := [] }

/-- R100: TRET at level 0 with an active lane is cause 0x0B, detail 1; with no active lane it has no effect. -/
def Sys2Proof.Claims.TretAtLevelZero : Prop :=
  ∀ (s : State) (f : Fields),
    (act s f = 0 → Completes (.tret f) s fun t => Issued s t ∧ Untouched s t) ∧
    (act s f ≠ 0 → s.curT.level = 0 → exec (.tret f) s = .next (s.trapWord 0x0B 1 0))
namespace Sys2Proof.Claims

/-! ### Instructions that go on after issue (R69, R74, R76) -/

/-- The operation of the word being issued: what its launch site says of it. -/
def Ours (s : State) (i : Instr) (o : MemOp) : Prop :=
  o.ins = i ∧ o.seq = s.cur.seq.toNat ∧ o.stamp = s.clock ∧ o.pc = s.cur.pc ∧ o.word = s.cur.word ∧ o.run = s.cur.run ∧
  o.level = s.curT.level ∧ o.done = 0 ∧ o.park = none ∧ o.added = false ∧ o.readYet = false

/-- The flags named by the word rise by one, where it has a register result; no other flag changes (R51). -/
def Raised (s t : State) (f : Fields) (result : Bool) : Prop :=
  ∀ k, t.curT.f.read k = s.curT.f.read k +
    (if result = true ∧ ((f.sa.toNat = k ∧ k < 12) ∨ (f.sb.toNat = k ∧ k < 12)) then 1 else 0)

/-- An outstanding counter rises by one, if any (R186). -/
def Counted (s t : State) (c : Option Nat) : Prop :=
  ∀ k, t.curT.oc.read k = s.curT.oc.read k + (if c = some k then 1 else 0)

/-- The word is in flight: its operation, of which `P` holds, has joined the troupe's; the run stands at PC + 16, in WAIT where it
waits; flags and counters have risen; the generators of the acting lanes have stepped `n` times. Nothing else of its troupe, no
other troupe and no byte of memory has changed. -/
def InFlight (i : Instr) (f : Fields) (result waits : Bool) (c : Option Nat) (n : Nat) (s : State) (P : MemOp → Prop) (t : State) : Prop :=
  (∀ j, j ≠ s.cur.t → t.tr j = s.tr j) ∧ SameBytes s t ∧ Raised s t f result ∧ Counted s t c ∧
    (∀ l, l < 64 → t.curT.pt.pc l = (if inMask s.cur.run l then s.cur.pc + 16 else s.curT.pt.pc l) ∧
      t.curT.pt.state l = (if waits = true ∧ inMask s.cur.run l then .wait else s.curT.pt.state l) ∧
      t.curT.rs.read l = if inMask (act s f) l then steps n (s.curT.rs.read l) else s.curT.rs.read l) ∧
    t.curT.pt = { s.curT.pt with pcs := t.curT.pt.pcs, tst := t.curT.pt.tst } ∧
    ∃ o, Ours s i o ∧ P o ∧
      t.curT = { s.curT with ops := s.curT.ops ++ [o], pt := t.curT.pt, f := t.curT.f, oc := t.curT.oc, rs := t.curT.rs }

/-- The word completes its issue and goes on in flight; nothing of the package but its troupe has changed. -/
def Joins (i : Instr) (f : Fields) (result waits : Bool) (c : Option Nat) (n : Nat) (s : State) (P : MemOp → Prop) : Prop :=
  Completes i s fun t => t = { s with troupes := t.troupes } ∧ InFlight i f result waits c n s P t

/-- The word has no effect beyond R69. -/
def NoEffect (i : Instr) (s : State) : Prop := Completes i s fun t => Issued s t ∧ Untouched s t

/-! ### Addresses (R143, R149, R150) -/

/-- The signed offset in the low `n` bits of X. -/
def offset (f : Fields) (n : Nat) : W64 := (f.x.setWidth n).signExtend 64
/-- The sum of R143: a lane's address for `wide` (a global access) from V(A); from S(A); from S(A) and a lane's index, unsigned or
signed. A scratchpad sum keeps 32 bits. -/
def laneEa (s : State) (f : Fields) (scratch : Bool) (l : Nat) : W64 :=
  let sum := match f.kind with
    | 0 => (if scratch then (s.curT.rv f.a.toNat l).setWidth 64 else s.curT.rpair f.a.toNat l) + offset f 24
    | 1 => s.curT.rs64 f.a.toNat + offset f 24
    | 2 => s.curT.rs64 f.a.toNat + (s.curT.rv f.b.toNat l).setWidth 64 + offset f 24
    | _ => s.curT.rs64 f.a.toNat + (s.curT.rv f.b.toNat l).signExtend 64 + offset f 24
  if scratch then (sum.setWidth 32).setWidth 64 else sum
/-- The byte that a sum names: a 4-bit format counts half bytes (R143). -/
def byteOfSum (f : Fields) (sum : W64) : W64 := if isNibble f then sum >>> 1 else sum
/-- The half of that byte. -/
def halfOfSum (f : Fields) (sum : W64) : Bool := isNibble f && sum.getLsbD 0
/-- The address of element `j` of a lane of GATH and SCAT (R150). -/
def gatherEa (s : State) (f : Fields) (l j : Nat) : W64 :=
  s.curT.rs64 f.a.toNat + ((s.curT.rv (f.b.toNat + j) l).signExtend 64 <<< (f.x.toNat / 2 ^ 16 % 8)) + offset f 16

/-- In the acting lanes a table holds `g`. -/
def OnLanes {α : Type} [Inhabited α] (s : State) (f : Fields) (m : Tbl α) (g : Nat → α) : Prop :=
  ∀ l, l < 64 → inMask (act s f) l → m.read l = g l

/-- LD, ST, LDS and STS, with whether they store and whether they go to the scratchpad. -/
def laneWord (i : Instr) : Option (Fields × Bool × Bool) :=
  match i with
  | .ld f => some (f, false, false)
  | .st f => some (f, true, false)
  | .lds f => some (f, false, true)
  | .sts f => some (f, true, true)
  | _ => none

/-- A store that rounds under RS: each lane draws once an element (R145). -/
def storeDraws (f : Fields) (store : Bool) : Bool := store && f.md.getLsbD 0 && decide (f.x.toNat / 2 ^ 28 % 8 = 4)

end Sys2Proof.Claims
open Sys2Proof.Claims

/-- R141, R143, R145, R151: LD, ST, LDS and STS by address: with an active lane the operation captures each acting lane's address, of
the width of the format, and a store its data; an acquire follows a load and a release precedes a store where ORD asks. With no active
lane they have no effect. -/
def Sys2Proof.Claims.AccessIssue : Prop :=
  ∀ (i : Instr) (s : State) (f : Fields) (store scratch : Bool), laneWord i = some (f, store, scratch) →
    (act s f = 0 → NoEffect i s) ∧
    (act s f ≠ 0 → ¬ (scratch = true ∧ f.kind = 3) → Joins i f (!store) false none (if storeDraws f store then 1 else 0) s fun o =>
      o.act = act s f ∧ o.size = max 1 (accessBits f / 8) ∧ o.elems = 1 ∧ o.single = false ∧
      OnLanes s f o.addr (fun l => byteOfSum f (laneEa s f scratch l)) ∧
      OnLanes s f o.nib (fun l => halfOfSum f (laneEa s f scratch l)) ∧
      (store = true → OnLanes s f o.dat fun l => storeValue f (if storeDraws f true then
        (steps 1 (s.curT.rs.read l)).toNat else 0) (laneData f s.curT f.e.toNat l)) ∧
      o.rel = (store && decide (f.x.toNat / 2 ^ 24 % 4 = 1)) ∧ o.acq = (!store && decide (f.x.toNat / 2 ^ 24 % 4 = 1)))

/-- R149: in the layout form LDS and STS take each acting lane's address from the layout word in S(A) to S(A + 2) and the coordinate in
V(B), where the word is well formed and its element size is the format's. -/
def Sys2Proof.Claims.LayoutIssue : Prop :=
  ∀ (i : Instr) (s : State) (f : Fields) (store : Bool), laneWord i = some (f, store, true) → f.kind = 3 → act s f ≠ 0 →
    let w := s.curT.layWord f.a.toNat
    let at' := fun l : Nat => layoutAddr (isNibble f) w (s.curT.rv f.b.toNat l).toNat
    layoutBad f w = false → Joins i f (!store) false none (if storeDraws f store then 1 else 0) s fun o =>
      o.act = act s f ∧ OnLanes s f o.addr (fun l => (at' l).1) ∧ OnLanes s f o.nib fun l => (at' l).2

/-- R143, R150, R151, R186: GATH and SCAT, with one or two elements a lane: addresses captured, and the .GATH counter raised. -/
def Sys2Proof.Claims.GatherIssue : Prop :=
  ∀ (i : Instr) (s : State) (f : Fields) (store : Bool), (i = .gath f ∧ store = false) ∨ (i = .scat f ∧ store = true) →
    (act s f = 0 → NoEffect i s) ∧
    (act s f ≠ 0 → Joins i f (!store) false (some 2) (if storeDraws f store then f.kind + 1 else 0) s fun o =>
      o.act = act s f ∧ o.size = max 1 (accessBits f / 8) ∧ o.elems = f.kind + 1 ∧
      ∀ j l, j ≤ f.kind → l < 64 → inMask (act s f) l →
        o.addr.read (l + 64 * j) = byteOfSum f (gatherEa s f l j) ∧ o.nib.read (l + 64 * j) = halfOfSum f (gatherEa s f l j) ∧
        (store = true → o.dat.read (l + 64 * j) = storeValue f (if storeDraws f true then
          (steps (j + 1) (s.curT.rs.read l)).toNat else 0) (laneData f s.curT (f.e.toNat + j) l)))

/-- R131, R46: SLD reads at S(A) plus the signed offset, SLDC in the constant bank at the wrapped and aligned offset. -/
def Sys2Proof.Claims.ScalarLoadIssue : Prop :=
  ∀ (s : State) (f : Fields),
    let n := if f.var = 0 then 8 else if f.var ≤ 2 then 1 else if f.var ≤ 4 then 2 else 4
    let bank := ((s.curT.rs64 f.a.toNat).toNat + f.x.toNat) % 2 ^ 16 / n * n
    (enabled s f = false → NoEffect (.sld f) s ∧ NoEffect (.sldc f) s) ∧
    (enabled s f = true →
      (Joins (.sld f) f true false none 0 s fun o =>
        o.single = true ∧ o.size = n ∧ o.addr.read 0 = s.curT.rs64 f.a.toNat + f.x.signExtend 64) ∧
      (Joins (.sldc f) f true false none 0 s fun o =>
        o.single = true ∧ o.size = n ∧ o.addr.read 0 = (s.co s.curT.company).param + BitVec.ofNat 64 bank))

namespace Sys2Proof.Claims

/-- The lane-class words that KIND 3 gives a constant-bank operand, with the bytes it takes and the draws of a lane under RS (R44, R46,
R108). -/
def bankWord (i : Instr) (s : State) : Option (Fields × Nat × Nat) :=
  match int32 i s, int64 i s, toPred i s, float32 i s, float64 i s, i with
  | some (f, _), _, _, _, _, _ => some (f, 4, 0)
  | _, some (f, _), _, _, _, i => some (f, (match i with | .shl64 _ | .shr64 _ | .sar64 _ => 4 | _ => 8), 0)
  | _, _, some (f, _), _, _, i => some (f, (match i with | .isetp64 _ | .dsetp _ => 8 | _ => 4), 0)
  | _, _, _, some (f, n, _), _, _ => some (f, 4, n)
  | _, _, _, _, some (f, n, _), _ => some (f, 8, n)
  | _, _, _, _, _, .hsetp2 f => some (f, 4, 0)
  | _, _, _, _, _, _ => none

/-- The uniform words that KIND 3 gives a constant-bank operand, with the bytes it takes. -/
def bankUniform (i : Instr) (s : State) : Option (Fields × Nat) :=
  match i with
  | .sv2s _ => none
  | i => match scalar i s, toQ i s with
    | some (f, _), _ => some (f, match i with | .sshl _ | .sshr _ | .ssar _ => 4 | _ => 8)
    | _, some (f, _) => some (f, 8)
    | _, _ => none

end Sys2Proof.Claims
open Sys2Proof.Claims

/-- R46, R29: a word whose operand lies in the constant bank loads it: where it acts, a load of the operand's bytes at PARAM + X is in
flight, the draws of RS are taken, and the flags rise; where it does not, it has no effect. -/
def Sys2Proof.Claims.ConstantBankIssue : Prop :=
  (∀ (i : Instr) (s : State) (f : Fields) (n d : Nat), bankWord i s = some (f, n, d) → f.kind = 3 →
    (act s f = 0 → NoEffect i s) ∧
    (act s f ≠ 0 → Joins i f true false none (if f.rm = 4 then d else 0) s fun o =>
      o.single = true ∧ o.act = act s f ∧ o.size = n ∧ o.addr.read 0 = (s.co s.curT.company).param + BitVec.ofNat 64 f.x.toNat)) ∧
  (∀ (i : Instr) (s : State) (f : Fields) (n : Nat), bankUniform i s = some (f, n) → f.kind = 3 →
    (enabled s f = false → NoEffect i s) ∧
    (enabled s f = true → Joins i f true false none 0 s fun o =>
      o.single = true ∧ o.size = n ∧ o.addr.read 0 = (s.co s.curT.company).param + BitVec.ofNat 64 f.x.toNat))

namespace Sys2Proof.Claims

/-- The core of the word being issued. -/
def here (s : State) : Nat := s.cur.t / 64

/-- Its troupe has moved on and is otherwise as it was; every other troupe is as it was. -/
def OnlyMoves (s t : State) : Prop := (∀ j, j ≠ s.cur.t → t.tr j = s.tr j) ∧ RanOn s t ∧ Untouched s t

/-- After an acquire a core's L1 holds no valid line that it does not own (R292). -/
def Acquired (c : Nat) (t : State) : Prop := ∀ l, ((t.core c).l1.read l).valid = true → ((t.core c).l1.read l).owned = true

/-- The word's troupe acquires: it has moved on, its core keeps no clean copy that it does not own, and the drop takes 4 cycles (R292). -/
def AcquiresHere (s t : State) : Prop :=
  (∀ j, j ≠ s.cur.t → t.tr j = s.tr j) ∧ RanOn s t ∧ Acquired (here s) t ∧
  t.curT = { s.curT with pt := t.curT.pt, orderUntil := s.clock + 4 }

/-- No store of a troupe waits to be written. -/
def NoStores (s : State) : Prop := ∀ e ∈ s.troupes, ∀ o ∈ e.2.ops, match o.ins with | .st _ | .scat _ => False | _ => True

/-- Every lane of the acting set is a multiple of `n`. -/
def LanesAligned (s : State) (f : Fields) (g : Nat → W64) (n : Nat) : Prop :=
  ∀ l, l < 64 → inMask (act s f) l → (g l).toNat % n = 0

/-- `l` is the lowest acting lane for which `bad` holds. -/
def Lowest (s : State) (f : Fields) (bad : Nat → Prop) (l : Nat) : Prop :=
  l < 64 ∧ inMask (act s f) l ∧ bad l ∧ ∀ k, k < l → inMask (act s f) k → ¬ bad k

/-- ATOM, ATOMS and RED, with whether they act on the scratchpad and whether they discard their result. -/
def atomWord (i : Instr) : Option (Fields × Bool × Bool) :=
  match i with
  | .atom f => some (f, false, false)
  | .atoms f => some (f, true, false)
  | .red f => some (f, false, true)
  | _ => none

/-- The address of a lane of an atomic: a pair, a register or S(A), plus the offset in X[15:0] (R304, R305). -/
def atomEa (s : State) (f : Fields) (scratch : Bool) (l : Nat) : W64 :=
  let base := if f.x.toNat / 2 ^ 18 % 4 = 1 then s.curT.rs64 f.a.toNat
    else if scratch then (s.curT.rv f.a.toNat l).setWidth 64 else s.curT.rpair f.a.toNat l
  if scratch then ((base + offset f 16).setWidth 32).setWidth 64 else base + offset f 16

/-- An operand of an atomic, by the width of its type: 8 bytes for the types 2, 3 and 5, else 4 (R302). -/
def atomBytes (f : Fields) : Nat :=
  if f.md.toNat / 16 % 8 = 2 ∨ f.md.toNat / 16 % 8 = 3 ∨ f.md.toNat / 16 % 8 = 5 then 8 else 4
def atomOpd (s : State) (f : Fields) (r l : Nat) : Nat :=
  if atomBytes f = 8 then (s.curT.rpair r l).toNat else (s.curT.rv r l).toNat

/-- DCAS, AMOV and MCAS: the alignment of their addresses, and whether they name two (R311 to R314). -/
def lockWord (i : Instr) : Option (Fields × Nat × Bool) :=
  match i with
  | .dcas f => some (f, 8, true)
  | .amov f => some (f, 8, true)
  | .mcas f => some (f, 16, false)
  | _ => none

/-- DCAS has at most 32 lanes (R312). -/
def fewLanes (i : Instr) (m : Mask) : Prop :=
  match i with
  | .dcas _ => popCount m ≤ 32
  | _ => True

end Sys2Proof.Claims
open Sys2Proof.Claims

/-- R153 to R156, R187: PREF, CCTL, FENCE, ICINV, IFENCE and WAITOC complete without a change to any register or to another troupe.
Where a PREF or a CCTL makes a slice evict a line that a core owns, stores that wait for it are written first (R279, R284); with none
waiting, no other troupe changes. FENCE with .ACQ and an active lane, and an enabled WAITOC, acquire; CCTL.INV.ALL and .WBINV.ALL leave
the core's L1 empty; ICINV.ALL empties every L1 instruction cache; IFENCE discards the troupe's fetched words.
That they complete at issue is the model's reading: log entry 46. -/
def Obligations.CacheWords : Prop :=
  ∀ (s : State) (f : Fields),
    (Completes (.pref f) s fun t => (∀ l, l < 64 → inMask s.cur.run l → t.curT.pt.pc l = s.cur.pc + 16) ∧
      (NoStores s → OnlyMoves s t) ∧ (act s f = 0 → Issued s t)) ∧
    (Completes (.cctl f) s fun t => (∀ l, l < 64 → inMask s.cur.run l → t.curT.pt.pc l = s.cur.pc + 16) ∧
      (NoStores s → OnlyMoves s t) ∧ (act s f = 0 → Issued s t) ∧
      (act s f ≠ 0 → f.var = 4 ∨ f.var = 5 → ∀ l, ((t.core (here s)).l1.read l).valid = false)) ∧
    (Completes (.fence f) s fun t => (act s f ≠ 0 → f.md.getLsbD 0 = true → AcquiresHere s t) ∧
      (act s f = 0 ∨ f.md.getLsbD 0 = false → Issued s t ∧ Untouched s t)) ∧
    (Completes (.icinv f) s fun t => OnlyMoves s t ∧ SameBytes s t ∧
      (act s f ≠ 0 → f.md.getLsbD 0 = true → ∀ c l, ((t.core c).l1i.read l).valid = false) ∧
      ∀ c, t.core c = { s.core c with l1i := (t.core c).l1i }) ∧
    (Completes (.ifence f) s fun t => Issued s t ∧
      t.curT = { s.curT with pt := t.curT.pt, ibuf := if act s f = 0 then s.curT.ibuf else [] }) ∧
    (Completes (.waitoc f) s fun t => (enabled s f = true → AcquiresHere s t) ∧ (enabled s f = false → Issued s t ∧ Untouched s t))

/-- R302 to R305: ATOM, ATOMS and RED with every acting lane aligned to its type: the addresses, data and compare operands are captured. -/
def Sys2Proof.Claims.AtomicIssue : Prop :=
  ∀ (i : Instr) (s : State) (f : Fields) (scratch red : Bool), atomWord i = some (f, scratch, red) →
    let ea := atomEa s f scratch
    (act s f = 0 → NoEffect i s) ∧
    (act s f ≠ 0 → LanesAligned s f ea (atomBytes f) → Joins i f (!red) false none 0 s fun o =>
      o.act = act s f ∧ o.size = atomBytes f ∧ o.elems = 1 ∧ o.single = false ∧ OnLanes s f o.addr ea ∧ OnLanes s f o.dat (atomOpd s f f.b.toNat) ∧
      (red = false → f.md.toNat % 16 = 7 → OnLanes s f o.cmp (atomOpd s f f.e.toNat)) ∧
      o.rel = f.x.getLsbD 17 ∧ o.acq = f.x.getLsbD 16)

/-- R311 to R314: DCAS, AMOV and MCAS with aligned addresses, and two different ones where they name two; DCAS with at most 32 lanes:
the addresses are captured, of DCAS the quads of expected and of new values, and of AMOV the refill value. -/
def Sys2Proof.Claims.LockedIssue : Prop :=
  ∀ (i : Instr) (s : State) (f : Fields) (n : Nat) (two : Bool), lockWord i = some (f, n, two) →
    let a0 := fun l => s.curT.rpair f.a.toNat l
    let a1 := fun l => s.curT.rpair f.e.toNat l
    (act s f = 0 → NoEffect i s) ∧
    (act s f ≠ 0 → fewLanes i (act s f) → LanesAligned s f a0 n →
      (two = true → LanesAligned s f a1 n ∧ ∀ l, l < 64 → inMask (act s f) l → a0 l ≠ a1 l) →
      Joins i f true false none 0 s fun o => o.act = act s f ∧ OnLanes s f o.addr a0 ∧
        (two = true → ∀ l, l < 64 → inMask (act s f) l → o.addr.read (l + 64) = a1 l) ∧
        (i = .dcas f → OnLanes s f o.dat (fun l => (s.curT.rquad f.b.toNat l).toNat) ∧
          OnLanes s f o.cmp fun l => (s.curT.rquad (f.x.toNat % 256) l).toNat) ∧
        (i = .amov f → OnLanes s f o.dat fun l => (s.curT.rpair f.b.toNat l).toNat) ∧
        o.elems = 1 ∧ o.single = false ∧ o.rel = f.x.getLsbD 17 ∧ o.acq = f.x.getLsbD 16 ∧ o.locks = [])

/-- R302, R305, R311, R312: an acting lane of an atomic or a locked operation that is misaligned, a DCAS with more than 32 active lanes,
and equal addresses of DCAS and AMOV take cause 0x0A, and nothing is performed. -/
def Obligations.AtomicTraps : Prop :=
  (∀ (i : Instr) (s : State) (f : Fields) (scratch red : Bool) (l : Nat), atomWord i = some (f, scratch, red) →
    Lowest s f (fun l => (atomEa s f scratch l).toNat % atomBytes f ≠ 0) l →
    exec i s = .next (s.trapWord 0x0A 1 (atomEa s f scratch l))) ∧
  (∀ (s : State) (f : Fields), 32 < popCount (act s f) →
    exec (.dcas f) s = .next (s.trapWord 0x0A 0x40 (BitVec.ofNat 64 (popCount (act s f))))) ∧
  (∀ (i : Instr) (s : State) (f : Fields) (n : Nat) (two : Bool) (l : Nat), lockWord i = some (f, n, two) →
    fewLanes i (act s f) →
    let a0 := fun l => s.curT.rpair f.a.toNat l
    let a1 := fun l => s.curT.rpair f.e.toNat l
    (Lowest s f (fun l => (a0 l).toNat % n ≠ 0 ∨ (two = true ∧ (a1 l).toNat % n ≠ 0)) l →
      exec i s = .next (s.trapWord 0x0A 1 (if (a0 l).toNat % n ≠ 0 then a0 l else a1 l))) ∧
    (two = true → LanesAligned s f a0 n → LanesAligned s f a1 n → Lowest s f (fun l => a0 l = a1 l) l →
      exec i s = .next (s.trapWord 0x0A 0x41 (a0 l))))

/-- R157, R158: CPL with aligned lanes and turnstile is in flight with both addresses of each acting lane, and raises .COPY; a misaligned
lane or turnstile takes cause 0x0A. -/
def Obligations.LaneCopyIssue : Prop :=
  ∀ (s : State) (f : Fields),
    let n := 4 * 2 ^ (f.md.toNat % 4)
    let ga := fun l => s.curT.rpair f.a.toNat l
    let sa := fun l => (s.curT.rv f.b.toNat l).setWidth 64
    let ts := s.curT.rs64 f.e.toNat
    (act s f = 0 → NoEffect (.cpl f) s) ∧
    (act s f ≠ 0 → LanesAligned s f ga n → LanesAligned s f sa n →
      (ts.toNat % 8 = 0 → Joins (.cpl f) f false false (some 0) 0 s fun o =>
        o.act = act s f ∧ o.size = n ∧ o.target = ts ∧ OnLanes s f o.addr ga ∧ OnLanes s f o.cmp fun l => (sa l).toNat) ∧
      (ts.toNat % 8 ≠ 0 → exec (.cpl f) s = .next (s.trapWord 0x0A 2 ts))) ∧
    (∀ l, Lowest s f (fun l => (ga l).toNat % n ≠ 0 ∨ (sa l).toNat % n ≠ 0) l →
      exec (.cpl f) s = .next (s.trapWord 0x0A 1 (if (ga l).toNat % n ≠ 0 then ga l else sa l)))

namespace Sys2Proof.Claims

/-- The scalar operands of the commands of the copy and layout engines, their counter, and the engine of the die they go to (R161, R163,
R354 to R356). -/
def engineWord (i : Instr) (s : State) : Option (Fields × List W64 × Nat × Nat) :=
  let u := fun r : Nat => s.curT.rs64 r
  let copy := 9 * (here s / 128) + here s / 8 % 16 % 8
  match i with
  | .cpt f => some (f, [u f.a.toNat, u f.b.toNat, u (f.b.toNat + 1), u (f.b.toNat + 2), u f.e.toNat, u (f.e.toNat + 1),
      u (f.e.toNat + 2)], 0, copy)
  | .cps f => some (f, [u f.a.toNat, u f.b.toNat, u f.e.toNat, u (f.e.toNat + 1)], 3, copy)
  | .layex f => some (f, [u f.a.toNat, u f.e.toNat], 3, 9 * (here s / 128) + 8)
  | _ => none

/-- What such a command checks at issue: alignment, and a length of less than 2^40. -/
def engineOk (i : Instr) (s : State) : Prop :=
  let u := fun r : Nat => (s.curT.rs64 r).toNat
  match i with
  | .cpt f => u f.a.toNat % 64 = 0 ∧ u (f.e.toNat + 2) % 8 = 0
  | .cps f => u f.e.toNat < 2 ^ 40 ∧ u (f.e.toNat + 1) % 8 = 0
  | .layex f => u f.e.toNat % 8 = 0 ∧ u f.a.toNat % 128 = 0
  | _ => False

/-- A command has joined the end of a queue; nothing else but the troupe has changed, which has moved on and counted it. -/
def Enqueued (s t : State) (i : Instr) (uni : List W64) (c e : Nat) : Prop :=
  t = { s with troupes := t.troupes, engines := t.engines } ∧ (∀ j, j ≠ s.cur.t → t.tr j = s.tr j) ∧ SameBytes s t ∧ RanOn s t ∧
  Counted s t (some c) ∧ t.curT = { s.curT with pt := t.curT.pt, oc := t.curT.oc } ∧
  (∀ e', e' ≠ e → t.engines.read e' = s.engines.read e') ∧
  ∃ x : EngCmd, t.engines.read e = s.engines.read e ++ [x] ∧ x.ins = i ∧ x.uni = uni ∧ x.t = s.cur.t ∧ x.seq = s.cur.seq.toNat ∧
    x.pc = s.cur.pc ∧ x.company = s.curT.company ∧ x.ctx = s.ctxOf s.cur.t ∧ x.started = false ∧ x.done = 0 ∧ x.delivered = 0 ∧
    x.added = 0 ∧ x.park = none

end Sys2Proof.Claims
open Sys2Proof.Claims

/-- R160 to R163, R354 to R356: CPT, CPS and LAYEX whose operands pass their checks join the queue of their engine. -/
def Sys2Proof.Claims.EngineCommandIssue : Prop :=
  ∀ (i : Instr) (s : State) (f : Fields) (uni : List W64) (c e : Nat), engineWord i s = some (f, uni, c, e) →
    (enabled s f = false → NoEffect i s) ∧
    (enabled s f = true → engineOk i s → Completes i s fun t => Enqueued s t i uni c e)

/-- R160, R355, R356: the commands of CPT, CPS and LAYEX that fail a check take cause 0x0A: for a length its value is TRVAL; the TRVAL of
the others is left open by the spec, and is a free value. -/
def Sys2Proof.Claims.EngineCommandTraps : Prop :=
  ∀ (i : Instr) (s : State) (f : Fields) (uni : List W64) (c e : Nat), engineWord i s = some (f, uni, c, e) → enabled s f = true →
    ¬ engineOk i s →
    (∃ (d : Nat) (v : W64) (s' : State), exec i s = .next (s'.trapWord 0x0A d v) ∧ (d = 2 ∨ d = 3 ∨ d = 8) ∧ (d = 8 → v = s.curT.rs64 f.e.toNat) ∧
      s' = { s with free := s'.free })

/-- R175, R177, R180 to R184: TSADD, TSREAD, TSWAIT, BAR and BARA at an aligned turnstile are in flight, TSADD with an amount below 2^32;
the threads of the run WAIT in TSWAIT and BAR. A misaligned turnstile is cause 0x0A detail 2, an amount out of range detail 4. -/
def Sys2Proof.Claims.TurnstileIssue : Prop :=
  ∀ (s : State) (f : Fields),
    let a := tsAddr (f.md.getLsbD 0) (s.curT.rs64 f.a.toNat)
    let b := tsAddr true (s.curT.rs64 f.a.toNat)
    let v := if f.md.getLsbD 2 then f.x.setWidth 64 else s.curT.rs64 f.b.toNat
    let at' := fun (a : W64) (o : MemOp) => o.single = true ∧ o.size = 8 ∧ o.addr.read 0 = a
    (enabled s f = false → NoEffect (.tsadd f) s ∧ NoEffect (.tsread f) s ∧ NoEffect (.tswait f) s ∧ NoEffect (.bar f) s ∧
      NoEffect (.bara f) s) ∧
    (enabled s f = true → a.toNat % 8 = 0 →
      (v.toNat < 2 ^ 32 → Joins (.tsadd f) f (decide (f.d.toNat ≠ 63)) false none 0 s fun o =>
        at' a o ∧ o.dat.read 0 = v.toNat ∧ o.rel = !f.md.getLsbD 1) ∧
      (2 ^ 32 ≤ v.toNat → exec (.tsadd f) s = .next (s.trapWord 0x0A 4 v)) ∧
      (Joins (.tsread f) f (decide (f.d.toNat ≠ 63)) false none 0 s fun o => at' a o ∧ o.acq = f.md.getLsbD 1) ∧
      (Joins (.tswait f) f (decide (f.d.toNat ≠ 7)) true none 0 s fun o => at' a o ∧ o.target = s.curT.rs64 f.b.toNat ∧
        o.deadline = if f.md.getLsbD 1 then some (s.clock + f.x.toNat) else none)) ∧
    (enabled s f = true → a.toNat % 8 ≠ 0 → exec (.tsadd f) s = .next (s.trapWord 0x0A 2 a) ∧
      exec (.tsread f) s = .next (s.trapWord 0x0A 2 a) ∧ exec (.tswait f) s = .next (s.trapWord 0x0A 2 a)) ∧
    (enabled s f = true → b.toNat % 8 = 0 →
      (Joins (.bar f) f false true none 0 s fun o => at' b o ∧ o.rel = true ∧ o.acq = true) ∧
      (Joins (.bara f) f false false none 0 s fun o => at' b o ∧ o.rel = true ∧ o.acq = false)) ∧
    (enabled s f = true → b.toNat % 8 ≠ 0 → exec (.bar f) s = .next (s.trapWord 0x0A 2 b) ∧
      exec (.bara f) s = .next (s.trapWord 0x0A 2 b))

/-- R192 to R194: QPUSH captures its k registers of all lanes of the run, QPOP names its k destinations; the queue's header is aligned to
64 bytes, else cause 0x0A detail 2. -/
def Sys2Proof.Claims.QueueIssue : Prop :=
  ∀ (s : State) (f : Fields),
    let a := tsAddr true (s.curT.rs64 f.a.toNat)
    let k := f.md.toNat % 4 + 1
    (enabled s f = false → NoEffect (.qpush f) s) ∧ (act s f = 0 → NoEffect (.qpop f) s) ∧
    (enabled s f = true → a.toNat % 64 = 0 → Joins (.qpush f) f false false none 0 s fun o =>
      o.single = true ∧ o.rel = true ∧ o.uni = [s.curT.rs64 f.a.toNat] ∧
      ∀ l j, l < 64 → j < k → inMask s.cur.run l → o.dat.read (l + 64 * j) = (s.curT.rv (f.b.toNat + j) l).toNat) ∧
    (act s f ≠ 0 → a.toNat % 64 = 0 → Joins (.qpop f) f true false none 0 s fun o =>
      o.act = act s f ∧ o.elems = k ∧ o.acq = true ∧ o.uni = [s.curT.rs64 f.a.toNat]) ∧
    (a.toNat % 64 ≠ 0 → (enabled s f = true → exec (.qpush f) s = .next (s.trapWord 0x0A 2 a)) ∧
      (act s f ≠ 0 → exec (.qpop f) s = .next (s.trapWord 0x0A 2 a)))

namespace Sys2Proof.Claims

/-- The number of its company as a holder of arrays and banks. -/
def owner (s : State) : Nat := s.curT.company + 1
/-- The array of core `c` is held by the company. -/
def holdsArray (s : State) (c : Nat) : Prop := (s.core c).array.holder = owner s
/-- The word comes from the leader core of a paired company (R202). -/
def fromLeader (s : State) : Prop := (ourCo s).paired = true ∧ here s = (ourCo s).core
/-- The arrays that a command needs: its core's, or both of the pair. -/
def holdsFor (s : State) (pair : Bool) : Prop :=
  if pair then fromLeader s ∧ holdsArray s (here s) ∧ holdsArray s (here s + 1) else holdsArray s (here s)
/-- The physical banks of the company on core `c`, in logical order (R206). -/
def coBanks (s : State) (c : Nat) : List Nat := if c = (ourCo s).core then (ourCo s).banks else (ourCo s).fbanks
/-- Rows `r` to `r + n - 1` lie in the banks that the company holds on its core (R206, R211). -/
def rowsHeld (s : State) (r : W64) (n : Nat) (both : Bool) : Prop :=
  r.toNat < 2048 ∧ r.toNat + n ≤ 128 * (coBanks s (here s)).length ∧ (both = true → r.toNat + n ≤ 128 * (coBanks s (here s + 1)).length)
/-- The format class of a stream set at issue, and of the tile latched at issue, on core `c` (R197, R211). -/
def streamClass (s : State) (c k : Nat) : Option Nat := matrixClass ((s.core c).array.issued k).fmt
def tileClass (s : State) (c : Nat) : Option Nat := matrixClass (s.core c).array.nextTile.fmt

/-- A command stands in the queue of core `c`, which it has joined; it keeps only its place there where `shadow` holds (R203, R205). -/
def HasJoined (s t : State) (i : Instr) (uni : List W64) (c : Nat) (shadow : Bool) : Prop :=
  (t.core c).queue.length = (s.core c).queue.length + 1 ∧ (∀ y ∈ (s.core c).queue, y ∈ (t.core c).queue) ∧
  ∃ x ∈ (t.core c).queue, x.ins = i ∧ x.uni = uni ∧ x.t = s.cur.t ∧ x.seq = s.cur.seq.toNat ∧ x.pc = s.cur.pc ∧
    x.company = s.curT.company ∧ x.row = 0 ∧ x.shadow = shadow

/-- A matrix command has entered the queues of the listed cores; .MATRIX has risen, and the troupe is otherwise only moved on; no other
troupe and no byte of memory has changed, and no other queue. -/
def Commanded (s t : State) (i : Instr) (uni : List W64) (cs : List (Nat × Bool)) : Prop :=
  (∀ j, j ≠ s.cur.t → t.tr j = s.tr j) ∧ SameBytes s t ∧ RanOn s t ∧ Counted s t (some 1) ∧
  t.curT = { s.curT with pt := t.curT.pt, oc := t.curT.oc } ∧
  (∀ c, c ∉ cs.map (·.1) → (t.core c).queue = (s.core c).queue) ∧ ∀ x ∈ cs, HasJoined s t i uni x.1 x.2

/-- The commands whose operands are scalars: the operands, and the queues that they enter, own core first (R203, R205, R211 to R216). -/
def matrixWord (i : Instr) (s : State) : Option (Fields × List W64 × List (Nat × Bool)) :=
  let u := fun r : Nat => s.curT.rs64 r
  let c := here s
  let one := fun (fol : Bool) => if fol then [(c + 1, false)] else [(c, false)]
  let both := fun (ds shadow : Bool) => if ds then [(c, false), (c + 1, shadow)] else [(c, false)]
  match i with
  | .mxrel f => some (f, [], both (f.md.getLsbD 0) false)
  | .mxfmt f => some (f, [u f.a.toNat], one (f.md.getLsbD 5))
  | .mxlw f => some (f, [u f.a.toNat, u f.b.toNat], one (f.md.getLsbD 5))
  | .mxmul f => some (f, [u f.a.toNat, u (f.a.toNat + 1), u (f.a.toNat + 2), u f.b.toNat, u f.e.toNat], both (f.md.getLsbD 1) true)
  | .mxchn f => some (f, [u f.a.toNat, u f.e.toNat], both (f.md.getLsbD 1) true)
  | .accz f => some (f, [u f.a.toNat], one false)
  | .accld f => some (f, [u f.a.toNat, u f.b.toNat], one false)
  | .accst f => some (f, [u f.a.toNat, u f.b.toNat, u f.e.toNat], one false)
  | _ => none

/-- What such a command checks at issue (R211 to R216). -/
def matrixOk (i : Instr) (s : State) : Prop :=
  let u := fun r : Nat => s.curT.rs64 r
  match i with
  | .mxrel f => holdsFor s (f.md.getLsbD 0)
  | .mxfmt f => holdsFor s (f.md.getLsbD 5)
  | .mxlw f => holdsFor s (f.md.getLsbD 5)
  | .mxmul f =>
    let k := f.x.toNat / 2 ^ 8 % 4
    let ds := f.md.getLsbD 1
    holdsFor s ds ∧ tileClass s (here s) = streamClass s (here s) k ∧
      (ds = true → tileClass s (here s + 1) = streamClass s (here s) k) ∧
      (f.md.getLsbD 0 = true → streamClass s (here s) k = some 0 ∨ streamClass s (here s) k = some 1) ∧
      rowsHeld s (u f.e.toNat) (f.x.toNat % 256 + 1) ds
  | .mxchn f =>
    let k := f.x.toNat / 2 ^ 8 % 4
    let ds := f.md.getLsbD 1
    let n := f.x.toNat % 128 + 1
    holdsFor s ds ∧ tileClass s (here s) = streamClass s (here s) k ∧
      (ds = true → tileClass s (here s + 1) = streamClass s (here s) k) ∧ ((s.core (here s)).array.issued k).scf < 2 ∧
      (u f.a.toNat).toNat < 2048 ∧ rowsHeld s (u f.e.toNat) n ds ∧
      chainSourceOk (u f.a.toNat).toNat (u f.e.toNat).toNat n (classK (streamClass s (here s) k)) (coBanks s (here s)).length = true
  | .accz f => rowsHeld s (u f.a.toNat) (f.x.toNat % 2048 + 1) false
  | .accld f => rowsHeld s (u f.b.toNat) (f.x.toNat % 2048 + 1) false ∧ (u f.a.toNat).toNat % 4 = 0
  | .accst f => rowsHeld s (u f.b.toNat) (f.x.toNat % 2048 + 1) false ∧ (u f.a.toNat).toNat % 4 = 0 ∧ (u f.e.toNat).toNat % 8 = 0
  | _ => False

end Sys2Proof.Claims
open Sys2Proof.Claims

/-- R202, R212: MXACQ gets the array, or both arrays of the pair, where each is free or its company's already: Q(D) := 1, and an array that
was free is reset and held; otherwise Q(D) := 0 and nothing else. A .PAIR form that does not come from the leader of a paired company
is cause 0x0A, detail 0x10. -/
def Sys2Proof.Claims.AcquireArray : Prop :=
  ∀ (s : State) (f : Fields),
    let cs := if f.md.getLsbD 0 then [here s, here s + 1] else [here s]
    let free := cs.all fun c => decide ((s.core c).array.holder = 0) || decide ((s.core c).array.holder = owner s)
    (enabled s f = false → NoEffect (.mxacq f) s) ∧
    (enabled s f = true → (f.md.getLsbD 0 = true → fromLeader s) → Completes (.mxacq f) s fun t =>
      (∀ j, j ≠ s.cur.t → t.tr j = s.tr j) ∧ SameBytes s t ∧ RanOn s t ∧ QResult s t f.d.toNat free ∧
      (∀ c, free = false ∨ c ∉ cs ∨ holdsArray s c → t.core c = s.core c) ∧
      (∀ c, free = true → c ∈ cs → (t.core c).array.holder = owner s) ∧
      (∀ c, free = true → c ∈ cs → (s.core c).array.holder = 0 → (t.core c).array.streams = List.replicate 4 plainStream ∧
        (t.core c).array.tile = plainTile ∧ (t.core c).array.rs = if s.curT.seed = 0 then 1 else s.curT.seed)) ∧
    (enabled s f = true → f.md.getLsbD 0 = true → ¬ fromLeader s → exec (.mxacq f) s = .next (s.trapWord 0x0A 0x10 0))

/-- R203, R205, R211 to R216: MXREL, MXFMT, MXLW, MXMUL, MXCHN, ACCZ, ACCLD and ACCST that pass the checks of their issue enter their
queues with the scalars they name. -/
def Sys2Proof.Claims.MatrixIssue : Prop :=
  ∀ (i : Instr) (s : State) (f : Fields) (uni : List W64) (cs : List (Nat × Bool)), matrixWord i s = some (f, uni, cs) →
    (enabled s f = false → NoEffect i s) ∧
    (enabled s f = true → matrixOk i s → Completes i s fun t => Commanded s t i uni cs)

/-- R211 to R217: a matrix command that fails a check of its issue enters no queue: it takes cause 0x0A.
The order of the checks is the model's reading: log entry 24. -/
def Obligations.MatrixTraps : Prop :=
  ∀ (i : Instr) (s : State) (f : Fields) (uni : List W64) (cs : List (Nat × Bool)), matrixWord i s = some (f, uni, cs) →
    enabled s f = true → ¬ matrixOk i s →
    ∃ (d : Nat) (v : W64) (s' : State), exec i s = .next (s'.trapWord 0x0A d v) ∧ s' = { s with free := s'.free } ∧
      d ∈ [1, 2, 0x10, 0x11, 0x12, 0x13, 0x15]

/-- R217: ACCRD and ACCWR whose element indexes lie in the banks held go in flight and enter the matrix queue; an index outside them is
cause 0x0A detail 0x12, with the lowest such lane's first index. -/
def Sys2Proof.Claims.ElementIssue : Prop :=
  ∀ (i : Instr) (s : State) (f : Fields) (write : Bool), (i = .accrd f ∧ write = false) ∨ (i = .accwr f ∧ write = true) →
    let k := f.md.toNat % 4 + 1
    let e := fun l => s.curT.rs64 f.a.toNat + (s.curT.rv f.b.toNat l).setWidth 64
    let n := 4096 * (coBanks s (here s)).length
    (act s f = 0 → NoEffect i s) ∧
    (act s f ≠ 0 → (∀ l, l < 64 → inMask (act s f) l → (e l).toNat + k ≤ n) → Completes i s fun t =>
      InFlight i f (!write) false (some 1) 0 s (fun o => o.act = act s f ∧ o.elems = k ∧ OnLanes s f o.addr e ∧
        o.blk1 = coBanks s (here s) ∧ (write = true → ∀ l j, l < 64 → j < k → inMask (act s f) l →
          o.dat.read (l + 64 * j) = (s.curT.rv (f.e.toNat + j) l).toNat)) t ∧
      HasJoined s t i [s.curT.rs64 f.a.toNat] (here s) false ∧ ∀ c, c ≠ here s → t.core c = s.core c) ∧
    (∀ l, Lowest s f (fun l => n < (e l).toNat + k) l → exec i s = .next (s.trapWord 0x0A 0x12 (e l)))

/-- R207: ACCALLOC of an idle core: with no waiter and enough free banks the company gets k banks, zeroed, as its next logical banks, and
Q(D) := 1; a company that would hold more than 16 is refused, with Q(D) := 0. -/
def Sys2Proof.Claims.AllocateBanks : Prop :=
  ∀ (s : State) (f : Fields),
    let k := f.x.toNat % 32
    let held := s.heldBanks (here s) s.curT.company
    (enabled s f = false → NoEffect (.accalloc f) s) ∧
    (enabled s f = true → f.md.getLsbD 0 = false → (s.core (here s)).waiters = [] →
      (16 < held + k → Completes (.accalloc f) s fun t =>
        (∀ j, j ≠ s.cur.t → t.tr j = s.tr j) ∧ RanOn s t ∧ QResult s t f.d.toNat false ∧ (t.core (here s)).bankOwner = (s.core (here s)).bankOwner) ∧
      (held + k ≤ 16 → k ≤ (s.freeBanks (here s)).length → here s = (ourCo s).core → Completes (.accalloc f) s fun t =>
        (∀ j, j ≠ s.cur.t → t.tr j = s.tr j) ∧ RanOn s t ∧ QResult s t f.d.toNat true ∧
        (t.co s.curT.company).banks = (ourCo s).banks ++ (s.freeBanks (here s)).take k ∧
        ∀ b, b ∈ (s.freeBanks (here s)).take k → (t.core (here s)).bankOwner.read b = owner s ∧
          ∀ e, e / 4096 = b → (t.core (here s)).acc.read e = 0))

/-- R207: ACCFREE names the top k logical banks of its core, which then count as not held, and enters the queue to free them; a count above
those held is cause 0x0A detail 0x14. -/
def Sys2Proof.Claims.FreeBanks : Prop :=
  ∀ (s : State) (f : Fields),
    let k := f.x.toNat % 32
    let bs := (ourCo s).banks
    (enabled s f = false → NoEffect (.accfree f) s) ∧
    (enabled s f = true → f.md.getLsbD 0 = false → here s = (ourCo s).core →
      (k ≤ bs.length → Completes (.accfree f) s fun t =>
        Commanded s t (.accfree f) [] [(here s, false)] ∧ (t.co s.curT.company).banks = bs.take (bs.length - k) ∧
        ∃ x ∈ (t.core (here s)).queue, x.ins = .accfree f ∧ x.seq = s.cur.seq.toNat ∧ x.banks = bs.drop (bs.length - k)) ∧
      (bs.length < k → exec (.accfree f) s = .next (s.trapWord 0x0A 0x14 (BitVec.ofNat 64 k))))

namespace Sys2Proof.Claims

/-- The scalar addresses of an instruction of lane group 12, with the multiple each must be and the detail of its trap (R236). -/
def geometryWord (i : Instr) (s : State) : Option (Fields × List (W64 × Nat × Nat)) :=
  let u := fun r : BitVec 8 => s.curT.rs64 r.toNat
  match i with
  | .cutsel f => some (f, [(u f.a, 64, 0x30), (u f.b, 128, 0x31), (u f.e, 256, 0x32)])
  | .rayt f => some (f, [(u f.a, 256, 0x32), (u f.b, 32, 0x33)])
  | .rayr f => some (f, [(u f.a, 64, 0x30), (u f.b, 32, 0x33)])
  | .rast f => some (f, [(u f.a, 256, 0x32), (u f.b, 128, 0x34)])
  | .tex f => some (f, [(u f.b, 64, 0x35)])
  | .texg f => some (f, [(u f.b, 64, 0x35)])
  | .texq f => some (f, [(u f.b, 64, 0x35)])
  | _ => none

/-- They go to a queue of their ring. -/
def toRing (i : Instr) : Bool :=
  match i with
  | .cutsel _ | .rast _ => true
  | _ => false

/-- Every address is aligned. -/
def addressesOk (us : List (W64 × Nat × Nat)) : Prop := ∀ x ∈ us, x.1.toNat % x.2.1 = 0

end Sys2Proof.Claims
open Sys2Proof.Claims

/-- R236, R240, R241, R249, R250: RAYT, RAYR, TEX, TEXG and TEXQ with aligned addresses are in flight with their sources captured: V(E), of
RAYR also V(E + 1), and of the texture words V(A) and V(A + 1). -/
def Sys2Proof.Claims.LaneGeometryIssue : Prop :=
  ∀ (i : Instr) (s : State) (f : Fields) (us : List (W64 × Nat × Nat)), geometryWord i s = some (f, us) →
    (act s f = 0 → NoEffect i s) ∧
    (act s f ≠ 0 → addressesOk us → toRing i = false → Joins i f true false none 0 s fun o => o.act = act s f ∧ o.uni = us.map (·.1) ∧
      o.elems = 1 ∧ o.single = false ∧ (OnLanes s f o.cmp fun l => (s.curT.rv f.e.toNat l).toNat) ∧
      (i = .rayr f → ∀ l, l < 64 → inMask (act s f) l → o.cmp.read (l + 64) = (s.curT.rv (f.e.toNat + 1) l).toNat) ∧
      (us.length = 1 → ∀ j l, j < 2 → l < 64 → inMask (act s f) l → o.dat.read (l + 64 * j) = (s.curT.rv (f.a.toNat + j) l).toNat))

/-- R231, R236, R237, R245: CUTSEL and RAST with aligned addresses are in flight, and are then offered to the queue of the tightrope or of
the rasteriser of their ring. CUTSEL has recorded the granules that are present, or under DUTYSPLIT.CUT starts in the pass that merges
the host's list (R337). With no active lane they have no effect. -/
def Sys2Proof.Claims.RingCommandIssue : Prop :=
  ∀ (i : Instr) (s : State) (f : Fields) (us : List (W64 × Nat × Nat)), geometryWord i s = some (f, us) → toRing i = true →
    (act s f = 0 → NoEffect i s) ∧
    (act s f ≠ 0 → addressesOk us → Completes i s fun t => ∃ u, u = { s with troupes := u.troupes } ∧
      InFlight i f true false none 0 s (fun o => o.single = true ∧ o.uni = us.map (·.1) ∧
        (i = .cutsel f → o.snap = (if s.cutHost then [] else s.presentGranules) ∧ o.pass = if s.cutHost then 4 else 1)) u ∧
      t = match i with
        | .cutsel _ => u.cutAdmit (here s / 8)
        | _ => u.rastAdmit (here s / 8))

/-- R236: an address of an instruction of lane group 12 that is not aligned is cause 0x0A with the detail of the first such operand. -/
def Sys2Proof.Claims.GeometryTraps : Prop :=
  ∀ (i : Instr) (s : State) (f : Fields) (a b : List (W64 × Nat × Nat)) (x : W64 × Nat × Nat),
    geometryWord i s = some (f, a ++ x :: b) → act s f ≠ 0 → addressesOk a → x.1.toNat % x.2.1 ≠ 0 →
    exec i s = .next (s.trapWord 0x0A x.2.2 x.1)

namespace Sys2Proof.Claims

/-- The system registers that a troupe's own state holds (R89). -/
def ownRegister (s : State) (n : Nat) : Option W64 :=
  match n with
  | 0x04 => some (ourCo s).param
  | 0x05 => some (ourCo s).stkbase
  | 0x08 => some (s.cur.seq.setWidth 64)
  | 0x09 => some (s.curT.seed.setWidth 64)
  | 0x0A => some (BitVec.ofNat 64 s.clock)
  | 0x10 => some (BitVec.ofNat 64 s.curT.level)
  | 0x11 => some s.curT.trcause
  | 0x12 => some s.curT.trpc
  | 0x13 => some s.curT.trmask
  | 0x14 => some s.curT.trval
  | 0x15 => some (s.curT.trword.extractLsb' 0 64)
  | 0x16 => some (s.curT.trword.extractLsb' 64 64)
  | _ => none

/-- The numbers of the table of R89: those that can be read, and those that can be written. -/
def readable (n : Nat) : Prop :=
  n ≤ 0x0A ∨ (0x10 ≤ n ∧ n ≤ 0x17) ∨ n = 0x20 ∨ (0x400 ≤ n ∧ n ≤ 0x4FF) ∨ (0x1000 ≤ n ∧ n ≤ 0xFFF8)
def writable (n : Nat) : Prop := n = 9 ∨ n = 0x12 ∨ n = 0x21

/-- A count of R106, the issue of the PERF included in it already. -/
def perfCount (t : Troupe) (n : Nat) : Nat :=
  if n < 0x10 then t.stalls.read n
  else [t.issues, t.replays, t.cycles, t.forced, t.windows, t.faults, t.traps].getD (n - 0x10) 0

end Sys2Proof.Claims
open Sys2Proof.Claims

/-- R89, R92, R105: SYSR of a listed readable number writes the register's value to S(D) and changes nothing else. -/
def Sys2Proof.Claims.SystemRead : Prop :=
  ∀ (s : State) (f : Fields),
    (enabled s f = false → NoEffect (.sysr f) s) ∧
    (enabled s f = true → readable f.x.toNat → Completes (.sysr f) s fun t => Issued s t ∧
      (∃ v, ScalarResult s t f.d.toNat v ∧ ∀ w, ownRegister s f.x.toNat = some w → v = w))

/-- R28, R92, R105: SYSW of RNDSEED sets the seed and every lane's generator from it; SYSW of TRPC at level 1 sets TRPC; SYSW of
ENCORECTL at level 1 naming no fatal record has no effect. -/
def Sys2Proof.Claims.SystemWrite : Prop :=
  ∀ (s : State) (f : Fields),
    let v := s.curT.rs64 f.a.toNat
    (enabled s f = false → NoEffect (.sysw f) s) ∧
    (enabled s f = true →
      (f.x = 9 → Completes (.sysw f) s fun t => Issued s t ∧ t.curT.seed = v.setWidth 16 ∧
        (∀ l, l < 64 → t.curT.rs.read l = lfsrSeed (v.setWidth 16) l) ∧
        t.curT = { s.curT with pt := t.curT.pt, seed := t.curT.seed, rs := t.curT.rs }) ∧
      (f.x = 0x12 → s.curT.level ≠ 0 → Completes (.sysw f) s fun t => Issued s t ∧
        t.curT = { s.curT with pt := t.curT.pt, trpc := v }) ∧
      (f.x = 0x21 → s.curT.level ≠ 0 → s.curT.firstRec (v.toNat % 4) = none → NoEffect (.sysw f) s))

/-- R92: SYSR and SYSW of a number that is not listed, of one that cannot be so accessed, and SYSW of TRPC or ENCORECTL at level 0, take
cause 0x08 with details 1, 2 and 3 and the number. -/
def Sys2Proof.Claims.SystemTraps : Prop :=
  ∀ (s : State) (f : Fields), enabled s f = true →
    let n := f.x.toNat
    let num := BitVec.ofNat 64 n
    (¬ readable n → n ≠ 0x21 → exec (.sysr f) s = .next (s.trapWord 8 1 num) ∧ exec (.sysw f) s = .next (s.trapWord 8 1 num)) ∧
    (n = 0x21 → exec (.sysr f) s = .next (s.trapWord 8 2 num)) ∧
    (readable n → ¬ writable n → exec (.sysw f) s = .next (s.trapWord 8 2 num)) ∧
    ((n = 0x12 ∨ n = 0x21) → s.curT.level = 0 → exec (.sysw f) s = .next (s.trapWord 8 3 num))

/-- R106: PERF reads a count of its troupe into S(D); another number is cause 0x08 detail 1. -/
def Sys2Proof.Claims.PerfResult : Prop :=
  ∀ (s : State) (f : Fields),
    (enabled s f = false → NoEffect (.perf f) s) ∧
    (enabled s f = true → f.x.toNat ≤ 0x16 → Completes (.perf f) s fun t => Issued s t ∧
      ScalarResult s t f.d.toNat (BitVec.ofNat 64 (perfCount s.curT f.x.toNat))) ∧
    (enabled s f = true → 0x16 < f.x.toNat → exec (.perf f) s = .next (s.trapWord 8 1 (BitVec.ofNat 64 f.x.toNat)))

/-- R255, R268, R269: SNAP with the debug right and no held snapshot starts or joins one and reads its number; else it reads 0 and
changes nothing. -/
def Sys2Proof.Claims.SnapResult : Prop :=
  ∀ (s : State) (f : Fields),
    (enabled s f = false → NoEffect (.snap f) s) ∧
    (enabled s f = true → (s.ctx (s.ctxOf s.cur.t)).debug = false ∨ s.snap.lock = true → Completes (.snap f) s fun t =>
      Issued s t ∧ ScalarResult s t f.d.toNat 0) ∧
    (enabled s f = true → (s.ctx (s.ctxOf s.cur.t)).debug = true → s.snap.lock = false → Completes (.snap f) s fun t =>
      t = { s with troupes := t.troupes, snap := t.snap } ∧ (∀ j, j ≠ s.cur.t → t.tr j = s.tr j) ∧ RanOn s t ∧
      ScalarResult s t f.d.toNat (BitVec.ofNat 64 (s.snap.seq % 65535 + 1)) ∧
      t.snap.latchAt = if s.snap.latchAt = 0 then s.clock + 32 else s.snap.latchAt)

/-- R341, R342: TLBI of a context with the right drops the translations of a block or all of them at every level, its troupe then waiting
for the accesses in flight that use one of them, or advances the context's generation; without the right it is cause 0x0A detail 0x50. -/
def Sys2Proof.Claims.TlbiResult : Prop :=
  ∀ (s : State) (f : Fields) (d : CtxDesc), let c := s.ctxOf s.cur.t
    (s.ctx c).desc = some d →
    (enabled s f = false → NoEffect (.tlbi f) s) ∧
    (enabled s f = true → d.tlbiok = true → Completes (.tlbi f) s fun t =>
      (∀ j, j ≠ s.cur.t → t.tr j = s.tr j) ∧ RanOn s t ∧ SameBytes s t ∧
      t.curT = { s.curT with pt := t.curT.pt, waits := t.curT.waits } ∧
      (f.md.toNat % 4 < 2 → ∀ blk, (f.md.toNat % 4 = 1 ∧ blk = none) ∨ (f.md.toNat % 4 = 0 ∧ canonical (s.curT.rs64 f.a.toNat) = true ∧
          blk = some ((s.curT.rs64 f.a.toNat).toNat % 2 ^ 57 / 2 ^ (f.x.toNat % 64) * 2 ^ (f.x.toNat % 64), f.x.toNat % 64)) →
        t.curT.waits = s.flights.filter (fun w => meetsBlock c blk w.entry.ctx w.entry.va w.entry.size) ∧
        ∀ k e, e ∈ (t.core k).tlb ∨ e ∈ (t.core k).itlb ∨ e ∈ (t.ring k).tlb ∨ e ∈ (t.die k).tlb →
          meetsBlock c blk e.ctx e.va e.size = false) ∧
      (f.md.toNat % 4 ≠ 0 → (∀ k e, e ∈ (t.core k).tlb ∨ e ∈ (t.core k).itlb ∨ e ∈ (t.ring k).tlb ∨ e ∈ (t.die k).tlb → e.ctx ≠ c)) ∧
      (2 ≤ f.md.toNat % 4 → (t.ctx c).cgen = ((s.ctx c).cgen + 1) % 256) ∧
      (f.md.toNat % 4 < 2 → (t.ctx c).cgen = (s.ctx c).cgen)) ∧
    (enabled s f = true → d.tlbiok = false → ∃ (v : W64) (s' : State), exec (.tlbi f) s = .next (s'.trapWord 0x0A 0x50 v) ∧
      s' = { s with free := s'.free })

/-- R188, R189: SHOW raises CHILDREN and posts the launch record; at depth 10 it is cause 0x09, and a record address that is not a multiple
of 256 is cause 0x0A detail 5. SHOWQ reads CHILDREN; with .WAIT its run waits. -/
def Obligations.ShowWords : Prop :=
  ∀ (s : State) (f : Fields),
    let a := s.curT.rs64 f.a.toNat
    (enabled s f = false → NoEffect (.show f) s ∧ NoEffect (.showq f) s) ∧
    (enabled s f = true → a.toNat % 256 = 0 → (ourCo s).depth ≠ 10 → Completes (.show f) s fun t =>
      OnlyMoves s t ∧ SameBytes s t ∧ (t.co s.curT.company).children = (ourCo s).children + 1 ∧
      (∀ k, k ≠ s.curT.company → t.co k = s.co k) ∧ t.posts = s.posts ++ [{ addr := a, parent := s.curT.company, t := s.curT.index }]) ∧
    (enabled s f = true → a.toNat % 256 ≠ 0 → exec (.show f) s = .next (s.trapWord 0x0A 5 a)) ∧
    (enabled s f = true → a.toNat % 256 = 0 → (ourCo s).depth = 10 → exec (.show f) s = .next (s.trapWord 9 0 0)) ∧
    (enabled s f = true → f.md.getLsbD 0 = false → Completes (.showq f) s fun t => Issued s t ∧
      ScalarResult s t f.d.toNat (BitVec.ofNat 64 (ourCo s).children)) ∧
    (enabled s f = true → f.md.getLsbD 0 = true → Joins (.showq f) f (decide (f.d.toNat ≠ 63)) true none 0 s fun o =>
      o.single = true ∧ o.acq = true)
namespace Sys2Proof.Claims

/-! ### Events: what the words of the other agents rest on -/

/-- The operation with launch site `q` of slot `k` has left it. -/
def Ended (k q : Nat) (t : State) : Prop := ∀ o ∈ (t.tr k).ops, o.seq ≠ q

/-- The troupe in slot `k` has a thread that has not exited, so that it does not end (R96). -/
def Alive (s : State) (k : Nat) : Prop := ∃ l, l < 64 ∧ (s.tr k).pt.state l ≠ .exited

/-- The threads of `m` in slot `k` no longer wait. -/
def Left (k : Nat) (m : Mask) (t : State) : Prop := ∀ l, l < 64 → inMask m l → (t.tr k).pt.state l ≠ .wait

/-- The operation waits on, changed to `o`. -/
def WaitsOn (s : State) (k : Nat) (o : MemOp) (t : State) : Prop := t = s.setOp k o

/-- The add of a TSADD at its turnstile: scratchpad or global (R175, R177). -/
def tsaddAnswer (s : State) (k : Nat) (o : MemOp) (f : Fields) : Acc Nat × State :=
  if f.md.getLsbD 0 then
    s.tsAddScratch (s.accessor k o) 1 (s.tr k).company (coreOf k) (o.addr.read 0).toNat (o.dat.read 0) (whereOf k)
  else s.tsAddGlobal (.core (coreOf k)) (s.accessor k o) ⟨k, o.seq, 0⟩ 2 (o.addr.read 0) (o.dat.read 0)

/-- The add of BAR or BARA (R184). -/
def barAnswer (s : State) (k : Nat) (o : MemOp) : Acc Nat × State :=
  s.tsAddScratch (s.accessor k o) 1 (s.tr k).company (coreOf k) (o.addr.read 0).toNat 1 (whereOf k)

/-- An operation that has read `v`, and is then performed whole. -/
def answered (o : MemOp) (v : Nat) : MemOp := { o with got := [(0, v)].filter (fun e => e.2 != 0), prog := Tbl.write [] 0 o.full }

/-- A waiter that has not reached its target yet, and may read its turnstile (R181). -/
def waits (s : State) (k q : Nat) (o : MemOp) : Prop :=
  s.op k q = some o ∧ o.leaveAt = 0 ∧ ((o.readYet = true ∧ o.park = none) ∨ s.tsTurn k o = true)

/-- Its read is due: the first, after the way to a window; one that its watch entry tells of (R177, R181, R185). -/
def readDue (s : State) (k : Nat) (o : MemOp) : Prop :=
  (o.readYet = false ∧ (isScratchOp o.ins = true → o.stamp + windowDelay (o.addr.read 0) ≤ s.clock)) ∨
  (o.readYet = true ∧ o.poll = 0 ∧ s.watchTells k o = true)

/-- The state after a wait has read `v`: over, satisfied and about to leave, out of time, or waiting on (R177, R181, R185). -/
def Waited (u : State) (k : Nat) (o : MemOp) (v : Nat) (t : State) : Prop :=
  let w := u.watchTs k o false
  (o.target.toNat ≤ v → (o.lag = 0 → t = w.endWait k o true) ∧
    (o.lag ≠ 0 → t = w.setOp k { o with readYet := true, leaveAt := w.clock + o.lag })) ∧
  (v < o.target.toNat → (∀ d, o.deadline = some d → d ≤ u.clock → t = w.endWait k o false) ∧
    ((∀ d, o.deadline = some d → u.clock < d) → t = w.setOp k (w.waiterSeated k o)))

/-- The queue unit accepts the operation, with its header read (R192 to R194). -/
def queueReady (s : State) (k : Nat) (o : MemOp) (n : Nat) (h : QHead) : Prop := s.qTurn k o = true ∧ s.qHead k o n = .ok h

/-- The words of an entry: of all lanes, or of the acting lanes. -/
def entryWords (h : QHead) (e n : Nat) (m : Mask) (byLane : Bool) : List Nat :=
  if byLane then ((lanes.filter (inMask m)).flatMap fun l => (List.range n).map fun j => (l, j)).map fun x => h.word e x.2 x.1
  else ((List.range n).flatMap fun j => lanes.map fun l => (l, j)).map fun x => h.word e x.2 x.1

end Sys2Proof.Claims
open Sys2Proof.Claims

/-- R158, R180, R182, R184, R185, R419: an add or a read of a turnstile that its home answers ends its operation; TSADD and TSREAD deliver
the old value, or the value, to S(D); BAR keeps the target of its phase, and its threads leave two cycles after a read that finds it
reached; BARA ends. A request that faults parks its operation. The closing add of CPL follows log entry 19. -/
def Sys2Proof.Claims.TurnstileAnswers : Prop :=
  ∀ (s : State) (k q : Nat) (o : MemOp), s.op k q = some o →
    (∀ (f : Fields) (u : State), o.ins = .tsadd f → s.tsTurn k o = true →
      (∀ old, tsaddAnswer s k o f = (.ok old, u) →
        Completes (.turnstileAdd k q) s fun t => t = (match (if f.md.getLsbD 0 then none else u.lineOfVa k ((o.addr.read 0).toNat / 128)) with
            | some p => u.l1Forget (coreOf k) p
            | none => u).finish k (answered o old) 0 ∧ Ended k q t ∧
          (Alive u k → o.given = [] → o.level = 0 → f.d.toNat < 63 → (t.tr k).s.read f.d.toNat = BitVec.ofNat 64 old)) ∧
      (tsaddAnswer s k o f = (.wait, u) → exec (.turnstileAdd k q) s = .next u) ∧
      (∀ g, tsaddAnswer s k o f = (.fault g, u) → exec (.turnstileAdd k q) s = .next (u.parkOp k o g))) ∧
    (∀ (f : Fields) (v : Nat) (u : State), o.ins = .tsread f → s.tsTurn k o = true → s.tsRead k o = (.ok v, u) →
      Completes (.laneAccessPerformed k q ((o.addr.read 0).toNat / 128)) s fun t =>
        t = (u.watchTs k o false).finish k (answered o v) 0 ∧ Ended k q t ∧
        (Alive (u.watchTs k o false) k → o.given = [] → o.level = 0 → f.d.toNat < 63 →
          (t.tr k).s.read f.d.toNat = BitVec.ofNat 64 v)) ∧
    (∀ (f : Fields) (v : Nat) (u : State), o.ins = .cpl f → o.park = none → o.allDone = true → o.target ≠ 0 →
      s.tsAddGlobal (.die (dieOf (coreOf k))) { s.accessor k o with core := none } ⟨k, o.seq, 0⟩ 9 o.target
        (if o.readYet then o.count else o.cplTotal) = (.ok v, u) →
      Completes (.turnstileAdd k q) s fun t => t = u.finish k o 0 ∧ Ended k q t) ∧
    (∀ (old : Nat) (u : State), o.added = false → s.tsTurn k o = true → o.stamp + 2 + windowDelay (o.addr.read 0) ≤ s.clock →
      barAnswer s k o = (.ok old, u) →
      (∀ f, o.ins = .bar f → Completes (.barrierAdd k q) s fun t => t = u.setOp k (u.waiterSeated k { o with
        added := true, target := BitVec.ofNat 64 ((old / (f.x.toNat % 2 ^ 16) + 1) * (f.x.toNat % 2 ^ 16)) })) ∧
      (∀ f, o.ins = .bara f → Completes (.barrierAdd k q) s fun t =>
        t = u.finish k { o with prog := Tbl.write [] 0 o.full } 0 ∧ Ended k q t)) ∧
    (∀ f, o.ins = .bar f → o.added = true → o.park = none → o.poll ≤ s.clock →
      (o.leaveAt ≠ 0 → o.leaveAt ≤ s.clock → Completes (.barrierDeparture k q) s fun t =>
        t = (s.modTr k fun x => x.wakeOp o).finish k { o with prog := Tbl.write [] 0 o.full } 0 ∧ Ended k q t ∧
        (¬ (o.level = 0 ∧ (s.tr k).level = 1) → Left k o.run t)) ∧
      (∀ (v : Nat) (u : State), o.leaveAt = 0 → (o.poll = 0 → s.watchTells k o = true) → s.tsRead k o = (.ok v, u) →
        let w := u.watchTs k o false
        Completes (.barrierDeparture k q) s fun t =>
          (o.target.toNat ≤ v → t = w.setOp k { o with leaveAt := w.clock + 2 + windowDelay (o.addr.read 0) }) ∧
          (v < o.target.toNat → t = if o.poll = 0 then w else w.setOp k { o with poll := w.clock + 1024 })))

/-- R177, R181, R185, R187, R189: a waiter that reads at or above its target leaves with Q(D) := 1 and an acquire, a waiter of a barrier
unit two cycles after the add and any waiter of a window eight cycles later; one whose time is out leaves with Q(D) := 0; else it waits
on, and without a watch entry reads again 1,024 cycles later. A WAITOC or SHOWQ.WAIT that is over issues or ends. -/
def Sys2Proof.Claims.WaitEvents : Prop :=
  (∀ (s u : State) (k q v : Nat) (o : MemOp) (f : Fields), waits s k q o → o.ins = .tswait f → s.tsRead k o = (.ok v, u) →
    (readDue s k o → Completes (.tswaitSatisfied k q) s (Waited u k o v)) ∧
    (o.poll ≠ 0 → o.poll ≤ s.clock → Completes (.turnstilePoll k q) s (Waited u k o v)) ∧
    (∀ d, o.deadline = some d → d ≤ s.clock → o.readYet = true → Completes (.tswaitTimeout k q) s (Waited u k o v))) ∧
  (∀ (s : State) (k q : Nat) (o : MemOp) (f : Fields), s.op k q = some o → o.ins = .tswait f → o.leaveAt ≠ 0 → o.park = none →
    o.leaveAt ≤ s.clock → exec (.tswaitSatisfied k q) s = .next (s.endWait k o true)) ∧
  (∀ (s : State) (k : Nat) (o : MemOp) (f : Fields) (sat : Bool), o.ins = .tswait f → o.given = [] → Alive s k →
    (¬ (o.level = 0 ∧ (s.tr k).level = 1) → Left k o.run (s.endWait k o sat)) ∧ Ended k o.seq (s.endWait k o sat) ∧
    (f.d.toNat < 7 → ((s.endWait k o sat).tr k).rq f.d.toNat = sat) ∧ (sat = true → Acquired (coreOf k) (s.endWait k o sat))) ∧
  (∀ (s u : State) (k : Nat) (p : Pick) (w : IWord) (f : Fields), s.onPort k = true → (s.nextWord k).1 = .word p w (.waitoc f) →
    exec (.waitoc f) (s.beginIssue k p w (some (.waitoc f))) = .next u →
    Completes (.waitocDone k) s fun t => t = u.endIssue k p.pc f.yl) ∧
  (∀ (s : State) (k q : Nat) (o : MemOp) (f : Fields), s.op k q = some o → o.ins = .showq f → o.park = none →
    (s.co (s.tr k).company).children = 0 → Completes (.showqWaitDone k q) s fun t => Ended k q t ∧
      t = (s.modTr k fun x => x.wakeOp o).finish k { o with got := [], prog := Tbl.write [] 0 o.full } 0)

/-- R193, R194: an accepted push whose queue has room writes the words of every lane to the entry's slot, raises PUSHED, and ends; an
accepted pop takes the words of its active lanes from the entry's slot, raises POPPED, and ends; under .NB one on an empty queue fails and
ends. (That the entry holds the words is said of a queue whose data lie in local scratchpad, apart from its header.) -/
def Sys2Proof.Claims.QueueEvents : Prop :=
  ∀ (s : State) (k q : Nat) (o : MemOp) (f : Fields) (h : QHead), s.op k q = some o →
    queueReady s k o (f.md.toNat % 4 + 1) h →
    let n := f.md.toNat % 4 + 1
    let co := (s.tr k).company
    let c := coreOf k
    let apart := h.data + 256 * h.eregs * h.depth ≤ 2 ^ 19 ∧ (o.qAddr + 64 ≤ h.data ∨ h.data + 256 * h.eregs * h.depth ≤ o.qAddr)
    (o.ins = .qpush f → (h.pushed + 2 ^ 32 - h.popped) % 2 ^ 32 ≠ h.depth →
      s.wordsFault k true (entryWords h h.pushed n (-1) false) = none →
      Completes (.qpushEntryWrite k q) s fun t => Ended k q t ∧ ∃ u : State,
        t = u.finish k { o with prog := Tbl.write [] 0 o.full } 0 ∧
        u.scratchNat co c o.qAddr 4 = .ok ((h.pushed + 1) % 2 ^ 32) ∧
        (apart → ∀ l j, l < 64 → j < n →
          u.scratchNat co c (h.word h.pushed j l) 4 = .ok (o.dat.read (l + 64 * j) % 2 ^ 32))) ∧
    (o.ins = .qpop f → h.pushed ≠ h.popped →
      s.wordsFault k false (entryWords h h.popped n o.act true) = none →
      Completes (.qpopEntryRead k q) s fun t => Ended k q t ∧ ∃ (u : State) (got : Tbl Nat),
        t = u.finish k { o with got := got, readYet := true } 0 ∧
        u.scratchNat co c ((o.qAddr + 4) % 2 ^ 32) 4 = .ok ((h.popped + 1) % 2 ^ 32) ∧
        ∀ l j v, l < 64 → j < n → inMask o.act l → s.scratchNat co c (h.word h.popped j l) 4 = .ok v → got.read (l + 64 * j) = v) ∧
    (o.ins = .qpop f → h.pushed = h.popped → f.md.getLsbD 2 = true → Completes (.qpopEntryRead k q) s fun t => Ended k q t ∧
      t = (s.watchHead k o none).finish k { o with acq := false, readYet := false } 0)
namespace Sys2Proof.Claims

/-! ### Events of the caches, the homes and the locks -/

/-- An access of a lane operation to a line has its translation, `e` and `pa`, and no earlier access of its troupe holds it back (R148, R326). -/
def Translated (s : State) (k : Nat) (o : MemOp) (line : Nat) (kind : AccKind) (e : TlbEntry) (pa : Nat) (u : State) : Prop :=
  ∃ x, (o.pieces line).head? = some x ∧
    s.carried (.core (coreOf k)) (s.ctxOf k) ⟨k, o.seq, 0⟩ (o.byteVa x.1 x.2) kind = (.ok (e, pa), u) ∧
    ∀ y ∈ u.earlier k o, u.conflict k o y line (pa / 128) = .none

/-- The address at which an access to a line is made: that of its first byte on it. -/
def lineVa (o : MemOp) (line : Nat) : W64 := match (o.pieces line).head? with | some x => o.byteVa x.1 x.2 | none => 0

/-- The L1 copy of a line that a load may take (R147, R289). -/
def goodCopy (u : State) (k : Nat) (o : MemOp) (p : Nat) : Prop :=
  ((u.core (coreOf k)).l1.read p).valid = true ∧
    (((u.core (coreOf k)).l1.read p).owned = true ∨ (o.acq = false ∧ hintOf o.ins ≠ 3)) ∧ u.lost p = false

/-- A load takes its bytes on a line from the data `d`, and ends when it has them all. -/
def loadedFrom (u : State) (k : Nat) (o : MemOp) (line : Nat) (d : LineData) : State :=
  (u.watchPieces k o true false (o.pieces line)).finishOrKeep k (o.take (fun _ => none) (lineByte d) (o.pieces line))

/-- A lane access may be performed on a line (R147). -/
def lineReady (s : State) (k q line : Nat) (o : MemOp) : Prop :=
  s.op k q = some o ∧ isLaneMem o.ins = true ∧ s.mayPerform k o = true ∧ line ∈ o.lines ∧ line ∉ o.stuck

/-- A lane of an atomic may be performed (R301). -/
def atomReady (s : State) (k q lane : Nat) (o : MemOp) (f : Fields) : Prop :=
  s.op k q = some o ∧ atomFields o.ins = some f ∧ inMask o.act lane = true ∧ o.keyDone lane = false ∧
    (o.addr.read lane).toNat / 128 ∉ o.stuck ∧ s.mayPerform k o = true ∧ s.laneBehind k o lane = false

/-- The value that a lane of an atomic writes, if any (R302). -/
def atomWrites (f : Fields) (o : MemOp) (lane old : Nat) : Option Nat :=
  atomNew (f.md.toNat % 16) (f.md.toNat / 16 % 8) old (o.dat.read lane) (o.cmp.read lane)

/-- The operation of slot `k` with launch site `q` has lane `lane` in a locking state of which `P` holds. -/
def LaneIs (k q lane : Nat) (t : State) (P : LockLane → Prop) : Prop := ∃ o, t.op k q = some o ∧ P (o.locks.read lane)

end Sys2Proof.Claims
open Sys2Proof.Claims

/-- R51, R76 to R78, R151, R186, R292: what the end of an operation is: its registers are written, its flags fall by one, its counter falls,
it leaves the troupe, and an acquire follows where it has one that was not discarded. (Of a troupe with a thread that has not exited;
that an acquire changes no byte is said where the L1 lines and the homes agree about their owners.) -/
def Sys2Proof.Claims.OperationEnds : Prop :=
  ∀ (s : State) (k : Nat) (o : MemOp) (zero : Mask), Alive s k →
    let t := s.finish k o zero
    let u := (o.deliver zero (s.tr k)).drop o.flags
    (o.acq = false ∨ zero ≠ 0 ∨ (∀ l, s.owner l = some (coreOf k) → ((s.core (coreOf k)).l1.read l).owned = true) → SameBytes s t) ∧
    (∀ j, j ≠ k → t.tr j = s.tr j) ∧ Ended k o.seq t ∧
    t.tr k = { u with
      ops := u.ops.filter fun x => x.seq != o.seq
      oc := match counterOf o.ins with | some c => u.oc.write c (u.oc.read c - 1) | none => u.oc
      orderUntil := if o.acq = true ∧ zero = 0 then s.clock + 4 else u.orderUntil } ∧
    (o.acq = true → zero = 0 → Acquired (coreOf k) t)

/-- R135, R139, R147, R151, R282, R286, R289, R326: a lane access that may be performed on a line. A load takes its bytes from a good L1 copy,
else from the current copy at the home, which its L1 then keeps unless .NL1 was asked, or from the data of a fill that an
invalidation has met. A store writes them into the line that its core owns, or with .NL1 at the home, else its core asks for the
token. An access that faults takes its fault, and one that the home does not answer yet waits. -/
def Sys2Proof.Claims.AccessEvents : Prop :=
  ∀ (s : State) (k q line : Nat) (o : MemOp), lineReady s k q line o → isScratchOp o.ins = false →
    let c := coreOf k
    let w : Asker := ⟨k, o.seq, 0⟩
    let va := lineVa o line
    let answers := fun x : State => exec (.laneAccessPerformed k q line) s = .next x
    (∀ (e : TlbEntry) (pa : Nat) (u : State), writesMem o.ins = false → Translated s k o line .read e pa u →
      let p := pa / 128
      (goodCopy u k o p → answers (loadedFrom ((u.landFlight w line).l1Touch c p (hintOf o.ins)) k o line ((u.core c).l1.read p).data)) ∧
      (¬ goodCopy u k o p →
        (∀ x, u.arrive w va e pa .read (hintOf o.ins) = (.ok none, x) → let y := x.readHome p
          answers (loadedFrom (if hintOf o.ins = 3 then y.l1Forget c p else y.l1Put c p (y.current p) (hintOf o.ins) false)
            k o line (y.current p))) ∧
        (∀ d x, u.arrive w va e pa .read (hintOf o.ins) = (.ok (some d), x) → answers (loadedFrom (x.l1Forget c p) k o line d)) ∧
        (∀ x, u.arrive w va e pa .read (hintOf o.ins) = (.wait, x) → answers x) ∧
        (∀ g x, u.arrive w va e pa .read (hintOf o.ins) = (.fault g, x) → answers (x.faultAccess k o .read line g)))) ∧
    (∀ (e : TlbEntry) (pa : Nat) (u : State), writesMem o.ins = true → Translated s k o line .write e pa u →
      let p := pa / 128
      (hintOf o.ins ≠ 3 → ((u.core c).l1.read p).owned = true → u.lost p = false → answers ((u.landFlight w line).storeOwned k o line p)) ∧
      (hintOf o.ins ≠ 3 → ((u.core c).l1.read p).owned = false → u.homeCheck e pa .write = .ok pa →
        Completes (.laneAccessPerformed k q line) s fun t => p ∈ (t.core c).want ∧ SameBytes u t ∧ (∀ j, t.tr j = u.tr j) ∧
          (t.flightOf w line).isSome = true) ∧
      (hintOf o.ins = 3 → ∀ d x, u.arrive w va e pa .write 3 = (.ok d, x) → let y := (x.takeBack p).l1Forget c p
        answers (((y.writeBytes (128 * p) (lineBytes (o.storeLine (o.pieces line) (y.current p)))).watchPieces k o false true
          (o.pieces line)).finishOrKeep k (o.markAll (o.pieces line))))) ∧
    (∀ (x : Nat × Nat) (g : FaultInfo) (u : State), (o.pieces line).head? = some x →
      let kind := if writesMem o.ins then AccKind.write else .read
      s.carried (.core c) (s.ctxOf k) w (o.byteVa x.1 x.2) kind = (.fault g, u) → answers (u.faultAccess k o kind line g))

/-- R133, R135, R144, R152: a scratchpad access of a line in its turn: where every byte of it can be reached, a store writes each byte and no
other, and a load takes each element that lies on the line whole. -/
def Sys2Proof.Claims.ScratchEvents : Prop :=
  ∀ (s : State) (k q line : Nat) (o : MemOp), lineReady s k q line o → isScratchOp o.ins = true → s.scratchTurn k o = true →
    let st := writesMem o.ins
    (∀ x ∈ o.pieces line, ∃ y, s.scratchByte k o st x = .ok y) →
    (st = true → Completes (.laneAccessPerformed k q line) s fun t => ∃ u : State,
      t = (u.watchScratch k o true (o.pieces line)).finishOrKeep k (o.markAll (o.pieces line)) ∧
      (∀ c p, (∀ x ∈ o.pieces line, s.scratchByte k o true x ≠ .ok (c, p)) → (u.core c).scratch.read p = (s.core c).scratch.read p) ∧
      ∀ x ∈ o.pieces line, ∀ c p, s.scratchByte k o true x = .ok (c, p) →
        (∀ y ∈ o.pieces line, s.scratchByte k o true y = .ok (c, p) → y = x) →
        (u.core c).scratch.read p = o.storeByte (storeFields o.ins) x.1 x.2 ((s.core c).scratch.read p)) ∧
    (st = false → Completes (.laneAccessPerformed k q line) s fun t => ∃ o' : MemOp,
      t = (s.watchScratch k o false (o.pieces line)).finishOrKeep k o' ∧
      ∀ key v, key ∈ o.keys → o.prog.read key = 0 → o.got.read key = 0 → (∀ i, i < o.size → (o.byteVa key i).toNat / 128 = line) →
        s.scratchNat (s.tr k).company (coreOf k) (o.byteVa key 0).toNat o.size = .ok v →
        o'.got.read key = v ∧ o'.prog.read key = o.full)

/-- R279 to R286, R378, R379, R382: a token is granted with the line's data, and the stores that wait for it are performed; a recalled token,
and a read from another core, bring the owner's dirty bytes home; a miss entry closes after 64 cycles; a fill installs its line and
serves the reads that joined it, and after an invalidation gives each its data once; a clean copy leaves; ownership of pool and host lines
is granted; a snoop takes a line away. -/
def Obligations.CacheEvents : Prop :=
  ∀ (s : State) (line : Nat),
    (∀ c k q v o e pa u d w, line ∈ (s.core c).want → (s.waiting c line).head? = some (k, q, v) → s.op k q = some o →
      let va := BitVec.ofNat 64 (128 * v)
      s.carried (.core c) (s.ctxOf k) ⟨k, q, 0⟩ va .write = (.ok (e, pa), u) →
      u.arrive ⟨k, q, 0⟩ va e pa .write (hintOf o.ins) = (.ok d, w) →
      Completes (.tokenGrant c line) s fun t => ∃ y : State, y.owner line = some c ∧
        ((y.core c).l1.read line).owned = true ∧ ((y.core c).l1.read line).valid = true ∧
        ((y.core c).l1.read line).data = ((w.takeBack line).dropCuts line).current line ∧
        t = ((y.waiting c line).foldl (fun (y : State) z => match y.op z.1 z.2.1 with
          | some o => if y.mayPerform z.1 o then y.storeAt z.1 o z.2.2 else y
          | none => y) (y.fit line)).modCore c fun y => { y with want := y.want.filter (· != line) }) ∧
    (∀ c, s.owner line = some c → Completes (.tokenRecall line) s fun t => t.owner line = none ∧
      (NoStores s →
        (t.core c).l1.read line = { (s.core c).l1.read line with owned := false, dirty := false } ∧
        (((s.core c).l1.read line).valid = true → ((s.core c).l1.read line).dirty = true →
          (t.sline line).data = ((s.core c).l1.read line).data ∧ (t.sline line).present = true ∧ (t.sline line).dirty = true))) ∧
    (∀ c, s.owner line = some c → Completes (.readForward line) s fun t => ∃ u : State, (t = u ∨ t = u.fit line) ∧
      SameBytes s u ∧ u.owner line = some c ∧
      (((s.core c).l1.read line).valid = true → ((s.core c).l1.read line).dirty = true →
        (u.sline line).data = ((s.core c).l1.read line).data ∧ ((u.core c).l1.read line).dirty = false)) ∧
    (∀ m, s.missOf line = some m → m.opened + 64 ≤ s.clock → Completes (.mergeWindowClose line) s fun t =>
      t = { s with misses := t.misses } ∧ ∃ m', t.missOf line = some m' ∧ m'.closed = true ∧ m'.joined = m.joined) ∧
    (∀ m, s.missOf line = some m →
      let u : State := { s with misses := s.misses.filter fun x => x.line != line }
      let served := fun (P : State → Prop) => Completes (.fillReturn line) s fun t => ∃ v : State, P v ∧ t = v.serveJoined line m.joined
      (m.killed = true → served fun v => v = { u with flights := v.flights } ∧
        ∀ f ∈ s.flights, f.who ∈ m.joined → f.phys = line → { f with took := some m.took } ∈ v.flights) ∧
      (m.killed = false → u.held line = true → served fun v => v = u.servePrefs line m.prefs) ∧
      (m.killed = false → u.held line = false → u.fillOk m = false → served fun v => v = u) ∧
      (m.killed = false → u.held line = false → u.fillOk m = true → served fun v => ∃ x : State, v = x.servePrefs line m.prefs ∧
        (NoStores s → (x.sline line).present = true ∧ (x.sline line).dirty = false ∧
          (x.sline line).data = ((u.refill line).touchFrame line).lowLine line))) ∧
    (∀ c, ((s.core c).l1.read line).valid = true → ((s.core c).l1.read line).owned = false →
      Completes (.cleanCopyExpiry c line) s fun t => ((t.core c).l1.read line).valid = false ∧ (s.owner line ≠ some c → SameBytes s t)) ∧
    (s.cache.pool.read line = 3 → Completes (.poolOwnershipGrant line) s fun t => t.cache.pool.read line = 2 ∧
      (∀ l, l ≠ line → t.cache.pool.read l = s.cache.pool.read l) ∧ t = { s with cache := { s.cache with pool := t.cache.pool } }) ∧
    (∀ w, (s.sline line).lock = 0 → s.reclaimBusy line = false →
      let gone := fun (t : State) => t.owner line = none ∧ (t.sline line).present = false ∧ t.cache.pool.read line = 0 ∧
        ∀ i b, i < 128 → w = [(i, b)] → t.mem.read (128 * line + i) = b
      (s.window (128 * line) = some (2, s.caps.pkg) → Completes (.backInvalidateSnoop line w) s gone) ∧
      (∀ h, s.window (128 * line) = some (3, h) → Completes (.hostSnoop line w) s gone))

/-- R300 to R302, R305, R390: a lane of an atomic that may be performed takes its old value, and its word the new one, at its home or in its
scratchpad; on a word of another package it asks that package's home. A lane that faults takes its fault. (That the word then reads the
new value is said where no store waits to be written.) -/
def Sys2Proof.Claims.AtomicEvents : Prop :=
  ∀ (s : State) (k q lane : Nat) (o : MemOp) (f : Fields), atomReady s k q lane o f →
    let c := coreOf k
    let va := o.addr.read lane
    let line := va.toNat / 128
    let w : Asker := ⟨k, o.seq, lane + 1⟩
    (∀ e pa u, isScratchOp o.ins = false → s.carried (.core c) (s.ctxOf k) w va .both = (.ok (e, pa), u) →
      (∀ y ∈ u.earlier k o, u.conflict k o y line (pa / 128) = .none) →
      (e.mt = 2 → u.staleOf e = 0 → u.peerDown pa = false →
        exec (.homeAtomic k q lane) s = .next ((u.putFlight w line e).askTag w 2 pa 0)) ∧
      (e.mt ≠ 2 →
        (∀ x, u.arrive w va e pa .both (f.x.toNat / 2 ^ 20 % 4 % 3) = (.wait, x) → exec (.homeAtomic k q lane) s = .next x) ∧
        (∀ d x, u.arrive w va e pa .both (f.x.toNat / 2 ^ 20 % 4 % 3) = (.ok d, x) → Completes (.homeAtomic k q lane) s fun t =>
          let old := (x.takeBack (pa / 128)).peekNat pa o.size
          ∃ v : State,
            t = (v.watchDie (dieOf c) (v.accessor k o) true (atomWrites f o lane old).isSome va o.size).finishOrKeep k (o.laneResult lane old) ∧
            (NoStores s → pa % 128 + o.size ≤ 128 → ∀ y, atomWrites f o lane old = some y → v.peekNat pa o.size = y % 2 ^ (8 * o.size))))) ∧
    (∀ g u, isScratchOp o.ins = false → s.carried (.core c) (s.ctxOf k) w va .both = (.fault g, u) →
      exec (.homeAtomic k q lane) s = .next (u.faultAccess k o .both line g)) ∧
    (∀ old, isScratchOp o.ins = true → s.scratchTurn k o = true → s.scratchNat (s.tr k).company c va.toNat o.size = .ok old →
      s.scratchOk (s.tr k).company c va.toNat o.size = .ok () →
      Completes (.homeAtomic k q lane) s fun t => ∃ v u : State, t = u.finishOrKeep k (o.laneResult lane old) ∧
        (∀ c p, (u.core c).scratch.read p = (v.core c).scratch.read p) ∧
        (atomWrites f o lane old = none → v = s) ∧
        ∀ y, atomWrites f o lane old = some y → v.scratchNat (s.tr k).company c va.toNat o.size = .ok (y % 2 ^ (8 * o.size)))

/-- R308, R309, R311 to R315: a lane of a locked operation makes its attempt: phase 1, then its next line is asked for, and granted to the first
waiter; the last grant acts. A lane whose line is gone, or that has waited for 4,096 cycles, gives way, and starts again after its
back-off, or after 16 retries ends. Where taking a token back lets stores be written (R284), they are written first. -/
def Obligations.LockEvents : Prop :=
  ∀ (s : State) (k q lane : Nat) (o : MemOp), s.lockLane k q lane = some o →
    let y := o.locks.read lane
    let key := lockKey k lane
    (∀ l, y.phase = .locking → y.next = some l → key ∉ (s.sline l).lockq → Completes (.lockRequest k q lane) s fun t =>
      (t.sline l).lockq = (s.sline l).lockq ++ [key] ∧ t.owner l = none ∧
      (NoStores s → LaneIs k q lane t fun z => z = { y with since := s.clock })) ∧
    (y.phase = .start → (s.co (s.tr k).company).st ≠ .saving → let u := s.lockStart k o lane
      exec (.lockRequest k q lane) s = .next (match u.op k q with
        | some o' => if (o'.locks.read lane).phase = .locking then u.lockAsk k o' lane else u
        | none => u)) ∧
    (∀ l, o.asked s k lane = some l → s.lockBroken k y l = true → exec (.lockGrant k q lane) s = .next (s.lockDrop k o lane)) ∧
    (∀ l, o.asked s k lane = some l → s.lockBroken k y l = false → (s.sline l).lock = 0 → (s.sline l).lockq.head? = some key →
      s.missOf l = none → s.dirBusy (128 * l) = false → (s.held l = true ∨ s.hasRoom l = true) →
      let owns := y.mayWrite l = true → s.needsOwn { (default : TlbEntry) with mt := 0 } (128 * l) = true → s.cache.pool.read l = 2
      (¬ owns → Completes (.lockGrant k q lane) s fun t => t.cache.pool.read l = 3 ∧ t = { s with cache := t.cache }) ∧
      (owns → Completes (.lockGrant k q lane) s fun t => ∃ v : State, (v.sline l).lock = key ∧ (v.sline l).present = true ∧
        (v.sline l).lockq = (s.sline l).lockq.drop 1 ∧
        (NoStores s → LaneIs k q lane v fun z => z = { y with granted := y.granted + 1 }) ∧
        t = match v.op k q with
          | some o' => if (o'.locks.read lane).granted = y.lines.length then v.lockAct k o' lane else v.lockAsk k o' lane
          | none => v)) ∧
    (∀ l, o.asked s k lane = some l → y.since + 4096 < s.clock →
      (y.retries < 16 → Completes (.lockTimeout k q lane) s fun t =>
        (∀ l', (t.sline l').lock ≠ key ∧ key ∉ (t.sline l').lockq) ∧
        LaneIs k q lane t fun z => z.phase = .backoff ∧ z.retries = y.retries + 1 ∧
          z.wake = s.clock + 32 * 2 ^ min (y.retries + 1) 6 + 8 * (lane % 16)) ∧
      (16 ≤ y.retries → Completes (.lockTimeout k q lane) s fun t => t = (s.lockQuit k o.seq lane).lockEnd k o lane
        (match o.ins with | .mcas _ => 0x100 | _ => 0) false (match o.ins with | .mcas _ => false | _ => true))) ∧
    (y.phase = .backoff → y.wake ≤ s.clock → Completes (.lockBackoffExpiry k q lane) s fun t =>
      LaneIs k q lane t fun z => z = { y with phase := .start }) ∧
    ((∀ i, i < y.words.length → s.lost (y.words.getD i 0 / 128) = false) →
      let r := lockEffect o.ins (o.dat.read lane) (o.cmp.read lane) y.blk (y.words.map fun pa => s.peekNat pa 8)
      let pa := fun i : Nat => y.words.getD i 0
      let apart := ∀ i j, i < y.words.length → j < y.words.length → pa i % 8 = 0 ∧ (i ≠ j → pa i ≠ pa j)
      ∃ u : State, s.lockAct k o lane = ((List.range y.words.length).foldl (fun (x : State) i =>
          (x.l1Forget (coreOf k) (pa i / 128)).watchDie (dieOf (coreOf k)) (x.accessor k o) true (r.1.any fun w => w.1 == i)
            (o.wordVa lane i) 8) u).lockEnd k o lane r.2.1 r.2.2 false ∧
        (r.1 = [] → u = s) ∧
        (NoStores s → apart → (∀ w ∈ r.1, w.1 < y.words.length) →
          ∀ w ∈ r.1, u.peekNat (pa w.1) 8 = w.2 % 2 ^ 64))
namespace Sys2Proof.Claims

/-- The register value of a loaded element (R131, R141, R144): plain forms deliver the bytes; an element form widens an integer by its sign
and converts any other format to FP32; of a 4-bit format the half that the address sum's lowest bit names is taken. -/
def loaded (f : Fields) (bytes : Nat) (upper : Bool) : Nat :=
  let fmt := f.md.toNat / 2 % 32
  let n := fmtBits fmt
  let raw := if n = 4 then (if upper then bytes / 16 % 16 else bytes % 16) else bytes
  if f.md.getLsbD 0 = false then bytes
  else if 32 ≤ n then raw
  else match intFmt fmt with
    | some (w, true) => ((BitVec.ofNat w raw).signExtend 32).toNat
    | some (w, false) => raw % 2 ^ w
    | none => convertTo 0 0 0 false false (decodeFmt fmt raw)

end Sys2Proof.Claims
open Sys2Proof.Claims

/-- R46, R77, R131, R141, R144, R194, R301, R305, R311, R312, R314: what an operation that ends delivers: LD, LDS and GATH their elements'
values to their registers in the lanes that acted; ATOM and ATOMS the old values, and RED nothing; DCAS, AMOV and MCAS the results of their
lanes and their predicates; QPOP the words of its entry, and with .NB whether it succeeded; SLD and SLDC the extended bytes to S(D); and
a word with a constant-bank operand its own result, from the operand that was loaded and its other sources as they stood at issue. -/
def Sys2Proof.Claims.DeliveredValues : Prop :=
  ∀ (o : MemOp) (t : Troupe) (f : Fields), o.given = [] →
    let v := o.deliver 0 t
    let d := f.d.toNat
    let kind := o.ins.layout.d
    let words := fun g : Nat → Nat => ∀ r l, l < 64 → v.rv r l = if r = d ∧ r < 255 ∧ inMask o.act l then BitVec.ofNat 32 (g l) else t.rv r l
    let pairs := fun g : Nat → Nat => ∀ l, l < 64 → d < 254 → inMask o.act l → v.rpair d l = BitVec.ofNat 64 (g l)
    let pred := fun (n : Nat) (g : Nat → Bool) => ∀ l, l < 64 → n < 7 → inMask o.act l → inMask (v.rp n) l = g l
    (o.ins = .ld f ∨ o.ins = .lds f →
      (kind = .vec → words fun l => loaded f (o.got.read l) (o.nib.read l)) ∧
      (kind = .pair → pairs fun l => loaded f (o.got.read l) (o.nib.read l))) ∧
    (o.ins = .gath f → kind ≠ .pair → kind ≠ .quad → ∀ j l, j < o.elems → l < 64 → d + j < 255 → inMask o.act l →
      v.rv (d + j) l = BitVec.ofNat 32 (loaded f (o.got.read (l + 64 * j)) (o.nib.read (l + 64 * j)))) ∧
    (o.ins = .atom f ∨ o.ins = .atoms f → (kind = .vec → words fun l => o.got.read l) ∧ (kind = .pair → pairs fun l => o.got.read l)) ∧
    (o.ins = .red f → v = t) ∧
    (o.ins = .dcas f → (∀ l, l < 64 → d ≤ 251 → inMask o.act l → v.rquad d l = BitVec.ofNat 128 (o.locks.read l).result) ∧
      (f.x.toNat / 2 ^ 8 % 8 ≠ f.x.toNat / 2 ^ 12 % 8 → pred (f.x.toNat / 2 ^ 8 % 8) fun l => (o.locks.read l).ps) ∧
      pred (f.x.toNat / 2 ^ 12 % 8) fun l => (o.locks.read l).pb) ∧
    (o.ins = .amov f → (pairs fun l => (o.locks.read l).result) ∧ pred (f.x.toNat / 2 ^ 12 % 8) fun l => (o.locks.read l).pb) ∧
    (o.ins = .mcas f → pairs fun l => (o.locks.read l).result) ∧
    (o.ins = .qpop f → (∀ j l, j < f.md.toNat % 4 + 1 → l < 64 → d + j < 255 → inMask o.act l → o.readYet = true →
        v.rv (d + j) l = BitVec.ofNat 32 (o.got.read (l + 64 * j))) ∧
      (f.md.getLsbD 2 = true → pred f.e.toNat fun _ => o.readYet)) ∧
    (o.ins = .sld f ∨ o.ins = .sldc f → o.level = t.level → d < 63 → v.rs64 d =
      (match f.var with
       | 2 => (BitVec.ofNat 8 (o.got.read 0)).signExtend 64
       | 4 => (BitVec.ofNat 16 (o.got.read 0)).signExtend 64
       | 6 => (BitVec.ofNat 32 (o.got.read 0)).signExtend 64
       | _ => BitVec.ofNat 64 (o.got.read 0))) ∧
    (∀ body, bankBody o.ins = some body → o.ins.fields = f → o.level = t.level →
      let v := (o.capture t).deliver 0 t
      let r := body o.act (fun _ => BitVec.ofNat 64 (o.got.read 0)) o.draws t
      (kind = .vec → ∀ n l, l < 64 → v.rv n l = if n = d ∧ inMask o.act l then r.rv n l else t.rv n l) ∧
      (kind = .pair → ∀ l, l < 64 → inMask o.act l → v.rpair d l = r.rpair d l) ∧
      (kind = .lanePred → ∀ l, l < 64 → inMask o.act l → inMask (v.rp d) l = inMask (r.rp d) l) ∧
      (kind = .scalar → v.rs64 d = r.rs64 d) ∧ (kind = .scalarPred → v.rq d = r.rq d))
namespace Sys2Proof.Claims

/-! ### Events of the copy and layout engines -/

/-- The command `x` that an engine performs, at the state `u` in which it goes on: a replayed one has left its record, with the entries of
a rejected access dropped (R77, R164, R327). -/
def EngineHas (s : State) (e : Nat) (u : State) (x : EngCmd) : Prop := ∃ y, s.engActive e = some y ∧ s.engUnpark e y = (u, x)

/-- A command has left its engine. -/
def Gone (e : Nat) (x : EngCmd) (t : State) : Prop := ∀ y ∈ t.engines.read e, ¬ (y.t = x.t ∧ y.seq = x.seq)

/-- The operands of a lane of CPL that memory reads or writes on a line (R158). -/
def cplLanesOn (o : MemOp) (line : Nat) : List Nat :=
  (lanes.filter (inMask o.act)).filter fun l => !o.keyDone l && (o.addr.read l).toNat / 128 == line

/-- A memory read of an engine, and a write, with the hint of CPT and CPS (R139, R160, R354). -/
def engRead (s : State) (e : Nat) (x : EngCmd) (va : W64) (n hint : Nat) : Acc (List Nat) × State :=
  State.spanRead (.die (e / 9)) (s.engAccessor x) x.asker va n s hint
def engWrite (s : State) (e : Nat) (x : EngCmd) (va : W64) (b : List Nat) (hint : Nat) : Acc Unit × State :=
  State.spanWrite (.die (e / 9)) (s.engAccessor x) x.asker va b s hint

/-- The event by which an engine performs a unit of a command (R162, R355, R357, R358). -/
def unitEvent (e : Nat) (x : EngCmd) : Instr :=
  match x.ins with
  | .cpt _ => .cptElementDelivered e
  | .cps _ => .cpsChunkCopied e
  | _ => if x.lop = 0 then .layexRefmtElement e else if x.lop = 1 then .layexExpandLine e else .layexPackLine e

/-- A command of an engine. -/
def isEngine (i : Instr) : Bool := match i with | .cpt _ | .cps _ => true | .layex f => f.md.toNat % 4 < 3 | _ => false

end Sys2Proof.Claims
open Sys2Proof.Claims

/-- R158: a delivery of CPL makes all its lanes on one line of memory, from the line as its home holds it or into it; without a turnstile the
copy then ends. One that its home does not answer waits, and one that faults takes its fault. A lane into scratchpad leaves there what
memory holds. -/
def Sys2Proof.Claims.LaneCopyEvent : Prop :=
  (∀ (s : State) (k q line : Nat) (o : MemOp) (f : Fields), s.op k q = some o → o.ins = .cpl f → cplLanesOn o line ≠ [] → line ∉ o.stuck →
    let toMem := f.md.getLsbD 2
    let kind := if toMem then AccKind.write else AccKind.read
    let asked := s.reach (.die (dieOf (coreOf k))) (s.ctxOf k) ⟨k, q, 1⟩ (o.addr.read ((cplLanesOn o line).headD 0)) kind (f.md.toNat / 32 % 4 % 3)
    (∀ pa d u, asked = (.ok (pa, d), u) →
      let r := State.cplLanes k toMem (pa / 128) d (cplLanesOn o line) o
        (if toMem then u.takeBack (pa / 128) else u.readHome (pa / 128)) none
      (r.2.2 = none →
        exec (.cplDelivery k q line) s = .next (if r.1.allDone = true ∧ o.target = 0 then r.2.1.finish k r.1.settle 0
          else r.2.1.setOp k r.1.settle)) ∧
      (∀ g, r.2.2 = some g → r.1.park = none →
        exec (.cplDelivery k q line) s = .next (r.2.1.parkOp k { r.1 with stuck := r.1.stuck ++ [line] } g))) ∧
    (∀ u, asked = (.wait, u) → exec (.cplDelivery k q line) s = .next u) ∧
    (∀ g u, asked = (.fault g, u) → exec (.cplDelivery k q line) s = .next (u.faultAccess k o kind line g))) ∧
  (∀ (s : State) (k p l : Nat) (o : MemOp), o.drop.read l = 0 →
    s.scratchOk (s.tr k).company (coreOf k) (o.cmp.read l) o.size = .ok () →
    let r := s.cplLane k o false p none l
    r.1 = o.mark l o.full ∧ r.2.2 = none ∧ r.2.1.scratchNat (s.tr k).company (coreOf k) (o.cmp.read l) o.size =
      .ok (s.peekNat (128 * p + (o.addr.read l).toNat % 128) o.size))

/-- R161, R162, R354 to R359: an engine starts the command at its head with the descriptor or block that it reads, or parks it with a FORMAT
fault; it performs its next element, chunk or line, adds what it has delivered to the turnstile, and is rid of a command whose units are
done. .EXPAND ends only when its stream is used up, and .PACK with PLEN written, of which log entry 68 fixes the place of the last add. -/
def Sys2Proof.Claims.EngineSteps : Prop :=
  ∀ (s0 s : State) (e : Nat) (x : EngCmd), EngineHas s0 e s x → isEngine x.ins = true →
    let answers := fun (i : Instr) (t : State) => exec i s0 = .next t
    let event := unitEvent e x
    (x.started = false →
      (∀ f, x.ins = .cps f → (x.units ≠ 0 → answers (.copyCommandStart e) (s.setCmd e { x with started := true })) ∧
        (x.units = 0 → Completes (.copyCommandStart e) s0 (Gone e x))) ∧
      (∀ f b u, x.ins = .cpt f → engRead s e x (x.u 0) 64 0 = (.ok b, u) → answers (.copyCommandStart e)
        (if descOk x b = true then u.setCmd e { x with started := true, blk := b } else u.engPark e x { cls := 7, addr := x.u 0 })) ∧
      (∀ f b u, x.ins = .layex f → engRead s e x (x.u 0) 128 0 = (.ok b, u) →
        let seed := fieldOf b 0x1E 2
        let y := { x with blk := b, rs := BitVec.ofNat 16 (if seed = 0 then 1 else seed) }
        answers (.copyCommandStart e)
          (if blockOk y = true then u.setCmd e { y with started := true } else u.engPark e y { cls := 7, addr := x.u 0 }))) ∧
    (x.started = true → x.adding = 0 → x.done ≠ x.units →
      (∀ f u b, x.ins = .cpt f → f.md.getLsbD 0 = false → localFault x.element.1 true = none →
        s.scratchOk x.company (coreOf x.t) x.element.1 x.esz = .ok () →
        (if x.element.2.2 = true then engRead s e x x.element.2.1 x.esz x.hint else (.ok (List.replicate x.esz 0), s)) = (.ok b, u) →
        answers event (((u.scratchPoke x.company (coreOf x.t) x.element.1 b).engWatch x true x.element.1
          x.esz).engDelivered e { x with done := x.done + 1 } x.esz)) ∧
      (∀ f, x.ins = .cpt f → f.md.getLsbD 0 = true →
        (x.element.2.2 = false → answers event (s.engDelivered e { x with done := x.done + 1 } x.esz)) ∧
        (∀ v u, x.element.2.2 = true → localFault x.element.1 false = none →
          s.scratchNat x.company (coreOf x.t) x.element.1 x.esz = .ok v →
          engWrite s e x x.element.2.1 (leBytes x.esz v) x.hint = (.ok (), u) →
          answers event ((u.engWatch x false x.element.1 x.esz).engDelivered e { x with done := x.done + 1 } x.esz))) ∧
      (∀ f u w b, x.ins = .cps f →
        let dst := x.u 0 + BitVec.ofNat 64 x.done
        let n := min (128 - dst.toNat % 128) (x.units - x.done)
        engRead s e x (x.u 1 + BitVec.ofNat 64 x.done) n x.hint = (.ok b, u) → engWrite u e x dst b x.hint = (.ok (), w) →
        answers event (w.engDelivered e { x with done := x.done + n } n)) ∧
      (∀ f u w b, x.ins = .layex f → x.lop = 0 →
        let rs := if x.lrm = 4 then lfsrStep x.rs else x.rs
        engRead s e x (x.strided x.src x.sstr) (fmtBytes x.sfmt) 0 = (.ok b, u) →
        engWrite u e x (x.strided x.dst x.dstr) (leBytes (fmtBytes x.dfmt)
          (convertTo x.dfmt x.lrm rs.toNat x.lsat x.lsat (decodeFmt x.sfmt (leNat b)))) 0 = (.ok (), w) →
        answers event (w.engDelivered e { x with done := x.done + 1, rs := rs } (fmtBytes x.dfmt))) ∧
      (∀ f u h, x.ins = .layex f → x.lop = 1 →
        let at' := BitVec.ofNat 64 (x.src + x.pos)
        let n := recordLen (h % 8)
        engRead s e x at' 1 0 = (.ok [h], u) →
        (4 < h ∨ x.sbytes < x.pos + n → answers event (u.engFault e x { cls := 7, addr := at' })) ∧
        (∀ w v b, x.pos + n ≤ x.sbytes → h ≤ 4 → engRead u e x at' n 0 = (.ok b, w) →
          engWrite w e x (BitVec.ofNat 64 (x.dst + 128 * x.done)) (decodeRecord h b) 0 = (.ok (), v) →
          let y := { x with done := x.done + 1, pos := x.pos + n }
          answers event (if y.done = y.units ∧ y.pos ≠ y.sbytes then v.setCmd e { y with delivered := y.delivered + 128 }
            else v.engDelivered e y 128))) ∧
      (∀ f u b, x.ins = .layex f → x.lop = 2 →
        let n := (encodeRecord b).length
        let to' := BitVec.ofNat 64 (x.dst + x.pos)
        engRead s e x (BitVec.ofNat 64 (x.src + 128 * x.done)) 128 0 = (.ok b, u) →
        (x.sbytes < x.pos + n → answers event (u.engFault e x { cls := 7, addr := to' })) ∧
        (∀ w, x.pos + n ≤ x.sbytes → engWrite u e x to' (encodeRecord b) 0 = (.ok (), w) →
          let y := { x with done := x.done + 1, pos := x.pos + n }
          answers event (if y.done < y.units then w.engDelivered e y 128 else w.setCmd e y)))) ∧
    (x.started = true → x.adding ≠ 0 → ∀ v u,
      s.tsAddGlobal (.die (e / 9)) (s.engAccessor x) x.asker 9 x.ts (x.adding - 1) = (.ok v, u) →
      answers event (u.setCmd e { x with added := x.added + (x.adding - 1), adding := 0 })) ∧
    (x.started = true → x.adding = 0 → x.done = x.units →
      (x.lop ≤ 1 ∨ (∀ f, x.ins ≠ .layex f) → (∀ f, x.ins = .layex f → x.lop = 1 → x.pos = x.sbytes) → Completes event s0 (Gone e x)) ∧
      (∀ f, x.ins = .layex f → x.lop = 1 → x.pos ≠ x.sbytes → x.closing = 0 →
        answers event (s.engPark e x { cls := 7, addr := BitVec.ofNat 64 (x.src + x.pos) })) ∧
      (∀ f, x.ins = .layex f → x.lop = 2 →
        (x.ts ≠ 0 → x.added = 128 * x.units → Completes event s0 (Gone e x)) ∧
        (∀ u, ¬ (x.ts ≠ 0 ∧ x.added = 128 * x.units) → engWrite s e x (x.u 0 + 0x60) (leBytes 8 x.pos) 0 = (.ok (), u) →
          (x.ts = 0 → Completes event s0 (Gone e x)) ∧
          (x.ts ≠ 0 → answers event (u.setCmd e { x with delivered := 128 * x.units, adding := 128 * x.units - x.added + 1 })))))

/-- R164, R359, R419: a command with a fatal verdict ends: the host is told, a resident issuer is to take cause 0x06, and the rest of the
total is to be added to its turnstile; the command is gone when that add is performed. -/
def Sys2Proof.Claims.EngineFatalEvents : Prop :=
  ∀ (s : State) (e k q : Nat) (x : EngCmd), s.engCmd e k q = some x →
    (∀ p n, x.closing = 0 → x.park = some p → p.state = .fatal → x.total = some n → Completes (.engineFatalEnd e k q) s fun t =>
      (x.ts = 0 → Gone e x t) ∧
      (x.ts ≠ 0 → ∃ y ∈ t.engines.read e, y.t = k ∧ y.seq = q ∧ y.closing = n - x.added + 1 ∧ y.park = none)) ∧
    (∀ v u, x.closing ≠ 0 → x.park = none →
      s.tsAddGlobal (.die (e / 9)) (s.engAccessor x) x.asker 9 x.ts (x.closing - 1) = (.ok v, u) →
      Completes (.engineFatalEnd e k q) s (Gone e x))
namespace Sys2Proof.Claims

/-! ### Events of the matrix queues -/

/-- The command at the head of a core's matrix queue. -/
def MxHas (s : State) (c : Nat) (x : MxCmd) : Prop := s.mxHead c = some x

/-- A command is in no queue of a core. -/
def OutOf (c : Nat) (x : MxCmd) (t : State) : Prop := ∀ y ∈ (t.core c).queue, ¬ (y.t = x.t ∧ y.seq = x.seq)

/-- The elements of logical row `r` of a command's banks on core `c` hold `v`, and no element of them is in error. -/
def RowHolds (t : State) (c : Nat) (banks : List Nat) (r : Nat) (v : Nat → W32) : Prop :=
  ∀ i, i < 32 → (t.core c).acc.read (accKey banks (32 * r + i)) = v i ∧ (t.core c).accErr.read (accKey banks (32 * r + i)) = false

/-- The next row of a command has been performed from state `u`. -/
def RowDone (u : State) (c : Nat) (x : MxCmd) (t : State) : Prop := t = u.rowDone c x

/-- The stream of an MXMUL or MXCHN, its unit and its row in the array. -/
def streamOf (s : State) (c : Nat) (f : Fields) : MxStream := (s.core c).array.streams.getD (f.x.toNat / 2 ^ 8 % 4) plainStream

/-- A row of a double-stop command may be performed only when the follower has reached it (R205). -/
def pairReady (s : State) (c : Nat) (x : MxCmd) (f : Fields) : Prop := f.md.getLsbD 1 = true → s.followerReady c x = true

/-- No row of the arrays that a command uses is in error (R196). -/
def rowsGood (s : State) (c : Nat) (f : Fields) : Prop :=
  (s.core c).rowErr = false ∧ (f.md.getLsbD 1 = true → (s.core (c + 1)).rowErr = false)

/-- The layout word of an MXMUL (R136, R215). -/
def mulLayout (x : MxCmd) : LayWord :=
  { w0 := (x.uni.getD 0 0).toNat % 2 ^ 32, w1 := (x.uni.getD 1 0).toNat % 2 ^ 32, w2 := (x.uni.getD 2 0).toNat % 2 ^ 32 }

/-- The bytes of a unit of an activation row (R199). -/
def mulUnit (st : MxStream) : Nat := if matrixClass st.fmt = some 0 then 2 else 1

/-- The scale codes of the next activation row of an MXMUL (R199). -/
def mulScales (s : State) (c : Nat) (x : MxCmd) (st : MxStream) : Acc (List Nat) :=
  let m := scaleCount st.fmt st.bc st.scf
  s.mxBytes x c ((x.uni.getD 3 0).toNat % 2 ^ 32 + x.row * m) m

/-- The elements of the next activation row of an MXMUL (R199). -/
def mulElems (s : State) (c : Nat) (x : MxCmd) (f : Fields) : Acc (List Nat) :=
  let st := streamOf s c f
  s.actBytes x c (mulLayout x) (f.md.getLsbD 0) (mulUnit st) (rowBytes st.fmt) x.row

/-- The layout word is well formed and its unit is the stream's (R199, R215). -/
def mulWellFormed (s : State) (c : Nat) (x : MxCmd) (f : Fields) : Prop :=
  (mulLayout x).malformed = false ∧ 2 ^ (mulLayout x).esize = mulUnit (streamOf s c f)

/-- The next activation row of an MXMUL is read whole and enters the array: the machine is then at `v`. -/
def RowEnters (s : State) (c : Nat) (x : MxCmd) (f : Fields) (v : State) : Prop :=
  let st := streamOf s c f
  rowsGood s c f ∧ mulWellFormed s c x f ∧ ∃ b codes, mulElems s c x f = .ok b ∧ mulScales s c x st = .ok codes ∧
    v = s.enterRow c x (f.md.getLsbD 1) (actRow st b codes) (decodeFmt 3 st.ts).toF ((x.uni.getD 4 0).toNat + x.row) (f.x.toNat % 256 + 1)

/-- The command at the head of the queue is still the one that `x` is, as `y`. -/
def StillHead (s : State) (c : Nat) (x y : MxCmd) : Prop := MxHas s c y ∧ y.t = x.t ∧ y.seq = x.seq

/-- The rows of the accumulators from which an activation row of MXCHN comes (R208). -/
def chainElems (s : State) (c : Nat) (x : MxCmd) (f : Fields) : List Nat :=
  let srow := (x.uni.getD 0 0).toNat
  (List.range (classK (matrixClass (streamOf s c f).fmt))).map fun k =>
    32 * (128 * (srow / 128 + k / 32) + srow % 128 + x.row) + k % 32

end Sys2Proof.Claims
open Sys2Proof.Claims

/-- R198, R207, R212 to R214: at the head of its queue MXLW latches its tile, MXFMT sets its stream, MXREL frees the array, and ACCFREE returns
its banks; each then leaves the queue. -/
def Sys2Proof.Claims.MatrixStateEvents : Prop :=
  ∀ (s : State) (c : Nat) (x : MxCmd), MxHas s c x →
    (∀ f w sc, x.ins = .mxlw f → (s.core c).rowErr = false →
      let tile := lwTile f (x.uni.getD 1 0)
      let m := scaleCount tile.fmt tile.bc tile.scf
      readAll (fun i => s.mxBytes x c ((x.uni.getD 0 0).toNat % 2 ^ 32 + i * (f.x.toNat / 2 ^ 8 % 2 ^ 16)) (rowBytes tile.fmt))
        (List.range 32) = .ok w →
      readAll (fun i => s.mxBytes x c ((x.uni.getD 1 0).toNat % 2 ^ 32 + i * m) m) (List.range 32) = .ok sc →
      Completes (.mxlwExecute c) s fun t => OutOf c x t ∧ (t.core c).array.tile = tile ∧ (t.core c).array.valid = true ∧
        (t.core c).array.weights = columnTable 256 w ∧ (t.core c).array.scales = columnTable 64 sc) ∧
    (∀ f, x.ins = .mxfmt f → Completes (.mxfmtExecute c) s fun t => OutOf c x t ∧
      (t.core c).array.streams = (s.core c).array.streams.set (f.x.toNat % 4)
        { fmt := f.md.toNat % 32, bc := f.x.toNat / 4 % 8, scf := f.x.toNat / 32 % 4, rm := f.x.toNat / 256 % 8
          ts := if f.x.getLsbD 7 then (x.uni.getD 0 0).toNat % 65536 else 0x3F80 }) ∧
    (∀ f, x.ins = .mxrel f → Completes (.mxrelExecute c) s fun t => OutOf c x t ∧ (t.core c).array.holder = 0) ∧
    (∀ f, x.ins = .accfree f → (s.core c).waiters = [] → Completes (.accfreeExecute c) s fun t => OutOf c x t ∧
      ∀ b ∈ x.banks, (t.core c).bankOwner.read b = 0)

/-- R35, R201, R205, R208, R215: a row of MXMUL or MXCHN enters the array: it is read, or converted from the accumulators, and its products
are added into a row of the banks of the core, and of the follower under .DS; in BFP one event takes up to eight rows of an MXMUL, the
states `u 0` to `u 8` one after another; a double-stop command waits for the follower. -/
def Sys2Proof.Claims.MatrixRowEvents : Prop :=
  ∀ (s : State) (c : Nat) (x : MxCmd) (f : Fields), MxHas s c x →
    (x.ins = .mxmul f → ¬ pairReady s c x f → exec (.mxmulRow c) s = .next s) ∧
    (∀ v, x.ins = .mxmul f → pairReady s c x f → matrixClass (streamOf s c f).fmt ≠ some 3 → RowEnters s c x f v →
      exec (.mxmulRow c) s = .next v) ∧
    (∀ u : Nat → State, x.ins = .mxmul f → pairReady s c x f → matrixClass (streamOf s c f).fmt = some 3 → u 0 = s →
      (∀ j, j < 8 → (∃ y, StillHead (u j) c x y ∧ RowEnters (u j) c y f (u (j + 1))) ∨
        ((∀ y, ¬ StillHead (u j) c x y) ∧ u (j + 1) = u j)) → exec (.mxmulRow c) s = .next (u 8)) ∧
    (x.ins = .mxchn f → ¬ pairReady s c x f → exec (.mxchnRow c) s = .next s) ∧
    (x.ins = .mxchn f → pairReady s c x f → rowsGood s c f → s.accBad c x.banks (chainElems s c x f) = none →
      let r := downConvert (streamOf s c f) ((chainElems s c x f).map fun e => fp32.decode (s.accGet c x.banks e).toNat) (s.core c).array.rs
      exec (.mxchnRow c) s = .next ((s.modCore c fun y => { y with array := { y.array with rs := r.2 } }).enterRow c x (f.md.getLsbD 1)
        r.1 (decodeFmt 3 (streamOf s c f).ts).toF ((x.uni.getD 1 0).toNat + x.row) (f.x.toNat % 128 + 1)))

/-- R196, R209: an error of a matrix command ends it: an array row in error, a malformed layout word, a fault of its scratchpad reads or an
accumulator element in error. What an end does: the command leaves its queue, and an MXLW leaves a tile that is not valid. The
error of a row or of a layout word, to which the spec gives no address, is the free value of log entry 9. -/
def Sys2Proof.Claims.MatrixErrorEvents : Prop :=
  ∀ (s : State) (c : Nat) (x : MxCmd) (f : Fields),
    (∀ g, OutOf c x (s.mxEnd c x g) ∧ (x.ins = .mxlw f → x.addsTs = false → ((s.mxEnd c x g).core c).array.valid = false)) ∧
    (MxHas s c x →
      (x.ins = .mxlw f → (s.core c).rowErr = true → exec (.mxlwExecute c) s = .next (s.mxEndOpen c x 6)) ∧
      (x.ins = .mxchn f → pairReady s c x f → ¬ rowsGood s c f → exec (.mxchnRow c) s = .next (s.mxEndOpen c x 6)) ∧
      (∀ g, x.ins = .mxchn f → pairReady s c x f → rowsGood s c f → s.accBad c x.banks (chainElems s c x f) = some g →
        exec (.mxchnRow c) s = .next (s.mxEnd c x g)) ∧
      (x.ins = .mxmul f → pairReady s c x f → matrixClass (streamOf s c f).fmt ≠ some 3 →
        (¬ rowsGood s c f → exec (.mxmulRow c) s = .next (s.mxEndOpen c x 6)) ∧
        (rowsGood s c f → ¬ mulWellFormed s c x f → exec (.mxmulRow c) s = .next (s.mxEndOpen c x 7)) ∧
        (∀ g, rowsGood s c f → mulWellFormed s c x f → mulElems s c x f = .fault g ∨
          (∃ b, mulElems s c x f = .ok b ∧ mulScales s c x (streamOf s c f) = .fault g) →
          exec (.mxmulRow c) s = .next (s.mxEnd c x g))))

/-- R207, R216, R217: ACCZ, ACCLD and ACCST perform their next row, an ACCST's add is made once it has left its queue, and ACCRD and ACCWR move
the elements of their lanes. -/
def Obligations.AccumulatorEvents : Prop :=
  (∀ (s : State) (c : Nat) (x : MxCmd) (f : Fields), MxHas s c x →
    (x.ins = .accz f → Completes (.acczRow c) s fun t => ∃ u : State, t = u.rowDone c x ∧
      RowHolds u c x.banks ((x.uni.getD 0 0).toNat + x.row) fun _ => 0) ∧
    (x.ins = .accld f →
      (∀ b, s.mxBytes x c ((x.uni.getD 0 0).toNat + x.row * (f.x.toNat / 65536)) 128 = .ok b →
        Completes (.accldRow c) s fun t => ∃ u : State, t = u.rowDone c x ∧
          RowHolds u c x.banks ((x.uni.getD 1 0).toNat + x.row) fun i => BitVec.ofNat 32 (fieldOf b (4 * i) 4)) ∧
      (∀ g, s.mxBytes x c ((x.uni.getD 0 0).toNat + x.row * (f.x.toNat / 65536)) 128 = .fault g →
        exec (.accldRow c) s = .next (s.mxEnd c x g))) ∧
    (x.ins = .accst f →
      let row := (x.uni.getD 1 0).toNat + x.row
      let a := ((x.uni.getD 0 0).toNat + x.row * (f.x.toNat / 65536)) % 2 ^ 32
      (∀ g, s.accBad c x.banks (rowElems row) = some g → exec (.accstRow c) s = .next (s.mxEnd c x g)) ∧
      (s.accBad c x.banks (rowElems row) = none →
        (s.scratchOk x.company c a 128 = .ok () →
          exec (.accstRow c) s = .next (((s.scratchPoke x.company c a ((rowElems row).flatMap fun e =>
            leBytes 4 (s.accGet c x.banks e).toNat)).mxWatch x c true a 128).rowDone c x)) ∧
        (s.scratchOk x.company c a 128 = .wait → exec (.accstRow c) s = .next s) ∧
        (∀ g, s.scratchOk x.company c a 128 = .fault g → exec (.accstRow c) s = .next (s.mxEnd c x { g with write := true }))))) ∧
  (∀ (s : State) (c : Nat) (a : AccAdd),
    (s.core c).adds.find? (fun y => match y.park with | none => true | some p => p.state != .pending) = some a → a.park = none →
    let x := a.cmd
    let who : Accessor := {
      ctx := (s.co x.company).ctx, pc := x.pc, seq := x.seq
      troupe := if (s.tr x.t).resident && (s.tr x.t).company == x.company then some x.t else none, core := some c }
    let made := if x.target.2 then s.tsAddScratch who 8 x.company c x.target.1.toNat (128 * x.rows) (whereOf x.t)
      else s.tsAddGlobal (.core c) who ⟨x.t, x.seq, 0⟩ 8 x.target.1 (128 * x.rows)
    (∀ v u, made = (.ok v, u) → Completes (.accstTurnstile c) s fun t => t = u.addDone c x ∧
      ∀ z ∈ (t.core c).adds, ¬ (z.cmd.t = x.t ∧ z.cmd.seq = x.seq)) ∧
    (∀ u, made = (.wait, u) → exec (.accstTurnstile c) s = .next (u.addSet c x none)) ∧
    (∀ g u, made = (.fault g, u) → exec (.accstTurnstile c) s = .next (u.addFault c x g))) ∧
  (∀ (s : State) (c : Nat) (x : MxCmd) (o : MemOp), MxHas s c x → s.op x.t x.seq = some o →
    (∀ f, o.ins = .accrd f → (∀ l, l < 64 → s.accBad c o.blk1 (o.laneElems l) = none) → Completes (.accrdExecute c) s fun t =>
      OutOf c x t ∧ ∃ o' : MemOp, t = (s.mxDrop c x).finishOrKeep x.t o' ∧
        ∀ l j, l < 64 → j < o.elems → o.elems ≤ 4 → inMask o.act l → o.keyDone l = false →
          o'.got.read (l + 64 * j) = (s.accGet c o.blk1 ((o.addr.read l).toNat + j)).toNat) ∧
    (∀ f, o.ins = .accwr f → Completes (.accwrExecute c) s fun t => OutOf c x t ∧ Ended x.t x.seq t ∧
      ∃ (u : State) (o' : MemOp), t = u.finish x.t o' 0 ∧
        let key := fun l j : Nat => accKey o.blk1 ((o.addr.read l).toNat + j)
        ∀ l j, l < 64 → j < o.elems → inMask o.act l →
          (∀ m i, m < 64 → i < o.elems → inMask o.act m → key m i = key l j → m < l ∨ (m = l ∧ i = j)) →
          (u.core c).acc.read (key l j) = BitVec.ofNat 32 (o.dat.read (l + 64 * j))))
namespace Sys2Proof.Claims

/-! ### Events of the geometry and texture units, and of a troupe -/

/-- The lane that the engine of an operation of lane group 12 takes next is `l`. -/
def nextLane (s : State) (k q : Nat) (o : MemOp) (l : Nat) : Prop :=
  s.op k q = some o ∧ s.geoTurn k o = true ∧ o.nextLane = some l

/-- The command at the head of a ring's tightrope, once its queue has taken in what it can, and the graph it works on. -/
def TightHead (s : State) (ring : Nat) (u : State) (k q : Nat) (o : MemOp) : Prop :=
  s.cutAdmit ring = u ∧ (u.ring ring).tight.head? = some (k, q) ∧ u.op k q = some o

/-- What the engine has made of an operation by the time the machine is at `v`. -/
def nowOp (v : State) (k q : Nat) (o : MemOp) : MemOp := (v.op k q).getD o

/-- What a save leaves: the image in memory, and the company's place given up (R171, R172). -/
def saved (u : State) (k ctx : Nat) (area : W64) (ps : List Piece) : State :=
  ((u.deliverAll k).schedPoke ctx area ps ((u.deliverAll k).image k)).saveDone k

/-- The save of company `k` goes on from `s` to `t`: its memory work stops; once it has settled its image is written, and a company that
trapped for the host is reported; a save area that is not there, or faults, leaves it stopped; the area may have to be waited for. -/
def SaveGoesOn (s : State) (k : Nat) (t : State) : Prop :=
  let c := s.co k
  let x := (s.stopOps k).stopCmds k
  let reached := x.schedReach c.ctx c.save (x.imageSize k)
  c.st = .saving ∧ c.stuck = false ∧ (s.ctx c.ctx).endReason = 0 ∧
    ((x.settled k = false ∧ t = x) ∨
      (x.settled k = true ∧ c.save = 0 ∧ t = x.saveStuck k) ∨
      (x.settled k = true ∧ c.save ≠ 0 ∧ ∃ u,
        ((reached = (.wait, u) ∧ t = u) ∨ (∃ f, reached = (.fault f, u) ∧ t = u.saveStuck k) ∨
          ∃ ps, reached = (.ok ps, u) ∧
            t = (if c.hostTrap = 0 then saved u k c.ctx c.save ps else (saved u k c.ctx c.save ps).hostTrapRecord k c.save))))

/-- The companies that are saved with one that traps for the host (R221, R340). -/
def SavedBeside (s : State) (k : Nat) : List Nat := (s.saveSet k).filter fun m => m != k && (s.co m).save != 0

/-- An operation as its replay begins: a lane memory access makes its unfinished elements again from the log (R76, R77, R145). -/
def replayedOp (o : MemOp) : MemOp := if isLaneMem o.ins then o.again else o

/-- Troupe `n` has taken place `p` of its core from troupe `k` (R169, R170). -/
def TookPlace (s t : State) (p k n : Nat) : Prop :=
  (t.tr k).place = 0 ∧ (t.tr n).place = p + 1 ∧ (t.tr n).since = s.clock ∧ (t.tr n).idleUntil = s.clock + 3

/-- A core's pending set, its places and when they were taken are all that differs (R169, R170). -/
def OnlyPlaces (s t : State) : Prop :=
  t = { s with troupes := t.troupes } ∧ ∀ j, t.tr j = { s.tr j with
    place := (t.tr j).place, since := (t.tr j).since, idleUntil := (t.tr j).idleUntil, lastIssue := (t.tr j).lastIssue, reuse := (t.tr j).reuse }

end Sys2Proof.Claims
open Sys2Proof.Claims

/-- R230, R233 to R235, R237, R238: an event of a ring's tightrope performs the next item of the command at its head, waits for it, or parks
the command; the last item writes the header, and the command ends with its result; a discarded command leaves the buffer invalid. -/
def Sys2Proof.Claims.TightropeEvents : Prop :=
  ∀ (s u : State) (ring k q : Nat) (o : MemOp), TightHead s ring u k q o →
    (∀ g, graphOf o.blk1 = some g → o.pass ≠ 5 →
      let item := u.cutItem k o { g with hdr := o.uni.headD 0 }
      (∀ v, item = (.wait, v) → exec (.tightropeCommand ring) s = .next v) ∧
      (∀ f v, item = (.fault f, v) → exec (.tightropeCommand ring) s = .next (v.parkOp k o f)) ∧
      (∀ x v, item = (.ok x, v) →
        (∀ w, v.geoWrites k o x.writes = (.wait, w) → exec (.tightropeCommand ring) s = .next w) ∧
        (∀ f w, v.geoWrites k o x.writes = (.fault f, w) → exec (.tightropeCommand ring) s = .next (w.parkOp k o f)) ∧
        (∀ w, v.geoWrites k o x.writes = (.ok (), w) → exec (.tightropeCommand ring) s = .next (w.cutDone k x))) ∧
      (∀ v, 4 ≤ o.pass → o.cutTree ≤ o.cursor → o.keys = [0] →
        u.geoWrites k o [(o.cutBuf 0x10, leBytes 4 o.count ++ leBytes 4 o.misses ++ leBytes 4 o.cutFlags ++
          leBytes 4 o.cutTree ++ leBytes 8 (o.uni.headD 0).toNat ++ leBytes 24 0)] = (.ok (), v) →
        Completes (.tightropeCommand ring) s fun t => Ended k q t ∧
          let o' := { o with prog := Tbl.write [] 0 o.full }
          t = (v.keepCut k o').cutEnd k o' o.cutResult)) ∧
    (∀ r v, o.pass = 5 → u.geoWrites k o [(o.cutBuf 0x18, leBytes 4 0)] = (r, v) → r ≠ .wait →
      Completes (.tightropeCommand ring) s fun t => t = v.cutEnd k o 0 ∧ Ended k q t)

/-- R240 to R242: an event of a ray engine takes the next lane of RAYT or RAYR: its result is the nearest candidate of the clusters that the
ray reaches, or a miss; a lane that faults is noted, and parks the instruction when every lane has been tried. -/
def Sys2Proof.Claims.RayEvents : Prop :=
  ∀ (s u v : State) (k q l : Nat) (o : MemOp), nextLane s k q o l →
    (∀ f, o.ins = .rayt f →
      (s.raytLane k o l = (.wait, u) → exec (.rayTraversal k q) s = .next u) ∧
      (∀ g, s.raytLane k o l = (.fault g, u) → exec (.rayTraversal k q) s = .next (u.laneFault k (nowOp u k q o) l 0 g)) ∧
      (∀ h b, s.readCut k o (o.uni.headD 0) = (.ok h, u) → u.geoRead k o (o.rayAddr l) 32 = (.ok b, v) →
        (h.count = 0 → exec (.rayTraversal k q) s = .next (v.laneDone k (nowOp v k q o) l (rayMiss (rayAny o.ins)))) ∧
        (∀ g v1 v2 v3 v4 v5 js cs kept c, h.count ≠ 0 → v.readGraph k o h.graph = (.ok g, v1) →
          State.treeReach k o (o.uni.headD 0) h (rayOf b) 32 [0] v1 = (.ok js, v2) →
          State.leafPass k o (o.uni.headD 0) g (rayOf b) (js.filter (· < h.count)) v2 = (.ok cs, v3) →
          v3.keptCand k o g (rayOf b) l = (.ok kept, v4) → State.rayClusters k g (rayOf b) l o cs kept v4 = (.ok c, v5) →
          exec (.rayTraversal k q) s = .next (v5.laneDone k (nowOp v5 k q o) l (rayResult (rayAny o.ins) c))))) ∧
    (∀ f, o.ins = .rayr f →
      (s.rayrLane k o l = (.wait, u) → exec (.rayTraversal k q) s = .next u) ∧
      (∀ g, s.rayrLane k o l = (.fault g, u) → exec (.rayTraversal k q) s = .next (u.laneFault k (nowOp u k q o) l 0 g)) ∧
      (∀ g b, s.readGraph k o (o.uni.headD 0) = (.ok g, u) → u.geoRead k o (o.rayAddr l) 32 = (.ok b, v) →
        let n := o.cmp.read (l + 64)
        (g.clusters ≤ n → exec (.rayTraversal k q) s = .next (v.laneDone k (nowOp v k q o) l (rayMiss (rayAny o.ins)))) ∧
        (∀ c w, n < g.clusters → v.readCluster k o g n = (.ok c, w) →
          let best := ((rayOf b).clusterHits (rayCull o.ins) n c).foldl bestOf none
          let w' := w.setOp k (o.noteBest l best)
          exec (.rayTraversal k q) s = .next (w'.laneDone k (nowOp w' k q o) l (rayResult (rayAny o.ins) best)))))

/-- R245, R246: an event of a ring's rasteriser performs the next cluster of the command at its head, with every fragment's minimum, or waits,
or parks it; past the end of the cut the command ends, and S(D) receives the number of fragments. -/
def Sys2Proof.Claims.RasterEvents : Prop :=
  ∀ (s u v : State) (ring k q : Nat) (o : MemOp), s.rastAdmit ring = u → (u.ring ring).rast.head? = some (k, q) → u.op k q = some o →
    (u.rastCluster k o = (.ok none, v) → Completes (.rasterCommand ring) s fun t => Ended k q t ∧
      t = v.finish k (answered o o.count) 0) ∧
    (∀ n, u.rastCluster k o = (.ok (some n), v) →
      exec (.rasterCommand ring) s = .next (v.setOp k { o with cursor := o.cursor + 1, count := o.count + n })) ∧
    (∀ f, u.rastCluster k o = (.fault f, v) → exec (.rasterCommand ring) s = .next (v.parkOp k o f)) ∧
    (u.rastCluster k o = (.wait, v) → exec (.rasterCommand ring) s = .next v)

/-- R249 to R251: an event of a sampler reads the descriptor of TEX, TEXG or TEXQ, or performs the next lane: its filtered or gathered texels,
the canonical NaN where the coordinate test fails, or the answer of a query; a lane with texels that fault is noted with them. -/
def Sys2Proof.Claims.TextureEvents : Prop :=
  ∀ (s u : State) (k q : Nat) (o : MemOp), (∃ f, o.ins = .tex f ∨ o.ins = .texg f ∨ o.ins = .texq f) → s.op k q = some o →
    s.geoTurn k o = true →
    (o.pass = 0 →
      (s.geoRead k o (o.uni.headD 0) 64 = (.wait, u) → exec (.textureSample k q) s = .next u) ∧
      (∀ g, s.geoRead k o (o.uni.headD 0) 64 = (.fault g, u) → exec (.textureSample k q) s = .next (u.parkOp k o g)) ∧
      (∀ b, s.geoRead k o (o.uni.headD 0) 64 = (.ok b, u) →
        (∀ t, texOf b = some t → exec (.textureSample k q) s = .next (u.setOp k { o with blk1 := b, pass := 1 })) ∧
        (texOf b = none →
          exec (.textureSample k q) s = .next (u.parkOp k { o with blk1 := b } { cls := 7, addr := o.uni.headD 0 })))) ∧
    (∀ t l, o.pass ≠ 0 → texOf o.blk1 = some t → o.nextLane = some l →
      (∀ f, o.ins = .texq f → exec (.textureSample k q) s = .next (s.laneDone k o l (t.query (o.dat.read l)))) ∧
      ((∀ f, o.ins ≠ .texq f) →
        (o.texPlan t l = none → exec (.textureSample k q) s = .next (s.laneDone k o l (quadOf fun _ => fNan))) ∧
        (∀ p, o.texPlan t l = some p →
          (State.fetchTaps k o t 0 p.taps s = (.wait, u) → exec (.textureSample k q) s = .next u) ∧
          (∀ r, State.fetchTaps k o t 0 p.taps s = (.ok r, u) →
            (r.bad = none → exec (.textureSample k q) s = .next (u.laneDone k o l (texResult o.ins p r.texels))) ∧
            (∀ g, r.bad = some g → exec (.textureSample k q) s = .next (u.laneFault k o l r.miss g))))))

/-- R77, R79, R83, R98, R168 to R172, R340: a troupe takes its oldest deferred trap, or its context ends, or the host is told; it replays its
oldest ready operation, fetches again once its holds are lifted, wakes its sleepers, and changes places; a company whose troupe traps
for the host is saved. The order of replays is the model's choice: log entry 18. -/
def Obligations.TroupeEvents : Prop :=
  ∀ (s : State) (k : Nat),
    (∀ d, s.trapDue k = true → (s.tr k).nextTrap = some d →
      let u := s.setTr k { s.tr k with dtraps := (s.tr k).dtraps.erase d }
      (d.level = 1 → exec (.deferredTrap k) s =
        .next (u.startEnd (u.ctxOf k) 1 (BitVec.ofNat 64 (d.cause + 256 * d.detail + 65536 * d.record)))) ∧
      (d.level ≠ 1 → (s.tr k).allExited = true → exec (.deferredTrap k) s = .next (u.frqRaise {
        type := 3, cls := if d.cause = 6 then d.detail else 0, rflags := 16, ctx := u.ctxOf k, detail := d.detail
        va := d.value, place := whereOf k, value := d.value })) ∧
      (d.level ≠ 1 → (s.tr k).allExited = false → exec (.deferredTrap k) s = .next ((u.takeTrap k {
        cause := d.cause, detail := d.detail, record := d.record, value := d.value, word := d.word
        resume := (s.tr k).headRun.2, run := (s.tr k).headRun.1, seq := (s.tr k).issueseq.toNat }).orphanCheck k))) ∧
    (∀ v, let m := (s.tr k).company
      let x := if SavedBeside s m = [] then s else
        (m :: SavedBeside s m).foldl (fun (x : State) j => x.modCo j fun c => { c with st := .saving, group := s.clock + 1 }) s
      (s.tr k).resident = true → (s.co m).st = .saving → (s.co m).hostTrap ≠ 0 → SaveGoesOn x m v → exec (.hostTrap k) s = .next v) ∧
    (∀ q o, (s.tr k).readyOp = some o → o.seq = q → s.replayDue k = true → Completes (.encoreReplay k q) s fun t =>
      ∃ u : State, u.op k q = some { replayedOp o with park := none, stuck := [], replayed := true } ∧
        (u.tr k).replays = (s.tr k).replays + 1 ∧ (u.tr k).cycles = (s.tr k).cycles + 1 ∧
        (u.tr k).stalls.read 7 = min ((s.tr k).stalls.read 7 + 1) (2 ^ 48 - 1) ∧
        t = (replayedOp o).lines.foldl (fun (x : State) l => x.performLine k q l) u) ∧
    (∀ h ∈ (s.tr k).holds, h.park.state = .ready → Completes (.fetchRetry k) s fun t =>
      ∀ x ∈ (t.tr k).holds, x ∈ (s.tr k).holds ∧ x.park.state ≠ .ready) ∧
    ((s.tr k).resident = true → Completes (.sleepExpiry k) s fun t => OnlyTroupe k s t ∧ ∀ l, l < 64 →
      (t.tr k).pt.state l = (if (s.tr k).pt.state l = .sleep ∧ (s.tr k).pt.wake.read l ≤ s.clock then
        (if (s.tr k).halted = true then .halted else .ready) else (s.tr k).pt.state l)) ∧
    (∀ c, Completes (.activeSetSwap c) s fun t => OnlyPlaces s t ∧ t = (List.range 8).foldl (fun (x : State) p => x.turnPlace c p) s) ∧
    (∀ c p, let out := (s.setOf c true).find? fun j => (s.tr j).place == p + 1
      (∀ n, out = some k → (s.longStalled k = true ∧ s.incoming c 0 = some n) ∨
          (s.longStalled k = false ∧ (s.tr k).since + 1024 ≤ s.clock ∧ s.incoming c (s.prioOf k) = some n) → n ≠ k →
        OnlyPlaces s (s.turnPlace c p) ∧ TookPlace s (s.turnPlace c p) p k n) ∧
      (out = some k → s.longStalled k = false → s.clock < (s.tr k).since + 1024 → s.turnPlace c p = s) ∧
      (∀ n, out = some k → (s.tr k).since + 1024 ≤ s.clock → s.incoming c (s.prioOf k) = some n → n ≠ k →
        Completes (.tenureExpiry c p) s fun t => OnlyPlaces s t ∧ TookPlace s t p k n))
namespace Sys2Proof.Claims

/-! ### Events of the scheduler -/

/-- The order of R364 gives this waiting company its turn. -/
def TurnOf (s : State) (w : Waiting) : Prop := ∃ c, s.nextPlaced s.waitList none = some (w, c)

/-- The scheduler reads `n` bytes of a context: they are `b`, and the machine is then at `u`. -/
def SchedReads (s : State) (ctx : Nat) (a : W64) (n : Nat) (b : List Nat) (u : State) : Prop := s.schedRead ctx a n = (.ok b, u)

/-- Launch queue `lq` may take a record: it is enabled, not suspended, has entries, its context runs, and no show of it waits to start. -/
def MayTake (s : State) (lq : Nat) : Prop :=
  lq < 64 ∧ s.qEnabled lq = true ∧ s.qSuspended lq = false ∧ s.qreg lq 0x08 ≠ 0 ∧ s.ctxLive (s.qCtx lq) = true ∧
    ∀ e ∈ s.shows, e.2.queue = lq + 1 → e.2.live = true → e.2.started = true

/-- The companies that are on their way out, and the package as it will stand without them (R365). -/
def Leaving (s : State) : List Nat := (s.companies.filter fun e => e.2.st == .saving && !e.2.stuck).map (·.1)
def Without (s : State) : State :=
  (Leaving s).foldl (fun (x : State) m => x.modCo m fun c => { c with st := .saved, stuck := true }) (s.evict (Leaving s).contains)

/-- `n` names a waiting company that is due a place, as placement-wait events number them (log entry 34). -/
def WaitsFor (s : State) (n : Nat) (w : Waiting) : Prop :=
  (∃ sh, n = 2 * sh ∧ w = .show sh ∧ s.places sh = true) ∨ (∃ k, n = 2 * k + 1 ∧ w = .saved k ∧ s.returns k = true)

/-- The context of a write of HRESTORE: that of the write it repeats, else HRESTCTX (R368). -/
def restoreCtx (s : State) (x : W64) : Nat :=
  match s.restores.find? fun y => y.1 == x with
  | some y => y.2
  | none => (s.reg 0x90A8).toNat % 4096

/-- Every company that would be saved with `k` has a save area, and its context runs. -/
def MaySave (s : State) (k : Nat) : Prop :=
  (s.co k).st = .resident ∧ (∀ m ∈ s.saveSet k, (s.co m).save ≠ 0) ∧ s.ctxLive (s.co k).ctx = true

/-- The companies of a queue that its suspension saves are saving, with those that are saved with them; QCTL holds SUSPEND. -/
def Suspended (s t : State) (lq : Nat) : Prop :=
  t.qSuspended lq = true ∧ ∀ k, k ∈ s.queueCompanies lq → (s.co k).st = .resident → (∀ m ∈ s.saveSet k, (s.co m).save ≠ 0) →
    s.saveSet k = [k] → (t.co k).st = .saving

end Sys2Proof.Claims
open Sys2Proof.Claims

/-- R65: a troupe as a launch leaves it: 64 READY threads at the entry, V0 and V1 their indexes, S0 and S1 the parameter and the company's
index, everything else zero, the stochastic states seeded (R28). -/
def Obligations.LaunchedTroupe : Prop :=
  ∀ (index company n ci : Nat) (entry param : W64), let t := Troupe.launched index company n entry param ci
    (∀ l, l < 64 → t.pt.state l = .ready ∧ t.pt.pc l = entry ∧ t.v.read l = BitVec.ofNat 32 l ∧
      t.v.read (64 + l) = BitVec.ofNat 32 (64 * index + l)) ∧
    (∀ i, 128 ≤ i → t.v.read i = 0) ∧ t.s.read 0 = param ∧ t.s.read 1 = BitVec.ofNat 64 ci ∧ (∀ i, 2 ≤ i → t.s.read i = 0) ∧
    t.p = [] ∧ t.q = [] ∧ t.f = [] ∧ t.pt.deferred = 0 ∧ t.pt.w = 0 ∧ t.pt.h = 0 ∧ t.pt.fp = 0 ∧ t.level = 0 ∧
    t.trcause = 0 ∧ t.trpc = 0 ∧ t.trmask = 0 ∧ t.trval = 0 ∧ t.ops = [] ∧ t.stalls = [] ∧ t.issueseq = 0 ∧
    t = { (default : Troupe).seedLanes (BitVec.ofNat 16 (0xACE1 + index)) with
      resident := true, company := company, index := index, nregs := n, v := t.v, s := t.s, pt := t.pt }

/-- R10, R167, R171, R174, R221, R365, R367: a quiet company retires once its exit record and its turnstile have been written; a resident
company is saved; a saved one returns with its group when its turn comes and every image can be read and is of this part's level; a
placement that has waited 65,536 cycles makes companies leave. The model's readings are log entries 32, 35 and 36. -/
def Sys2Proof.Claims.CompanyEvents : Prop :=
  ∀ (s u v : State) (k c : Nat),
    (∀ r, s.companyQuiet k = true → let x := s.co k
      s.schedReach x.ctx (if x.donets = 0 then x.exitrec else x.donets) (if x.donets = 0 ∧ x.exitrec = 0 then 0 else 8) = (r, u) →
      (r = .wait → exec (.companyRetire k) s = .next u) ∧
      (r ≠ .wait → u.putExit k = (false, v) → exec (.companyRetire k) s = .next v) ∧
      (r ≠ .wait → u.putExit k = (true, v) → Completes (.companyRetire k) s fun t =>
        t = (v.schedAdd x.ctx x.donets 1).2.retireDone k ∧ (t.co k).st = .retired)) ∧
    (MaySave s k → exec (.preemptRequest k) s = .next ((s.startSave k).saveStep k) ∧ ∀ m ∈ s.saveSet k, ((s.startSave k).co m).st = .saving) ∧
    (SaveGoesOn s k v → s.saveStep k = v ∧ ((s.co k).hostTrap = 0 → exec (.preemptRequest k) s = .next v)) ∧
    (TurnOf s (.saved k) → s.savedFits k c = true →
      (s.checkImages (s.groupOf k) = (.ok true, u) → State.restoreAll u k c (u.groupOf k) u = some v →
        exec (.companyRestore k c) s = .next v) ∧
      (∀ r, s.checkImages (s.groupOf k) = (r, u) → r ≠ .ok true → exec (.companyRestore k c) s = .next u)) ∧
    (∀ h x, s.readImage k = (.ok (h, x), u) → s.checkImages [k] =
      (if h.major = 1 ∧ h.minor = 0 then (.ok true, u) else (.ok false, (u.refuseRecord (u.co k).ctx (u.co k).image).modCo k fun y =>
        { y with stuck := true }))) ∧
    (∀ n w, WaitsFor s n w → s.waitClock w + 65536 ≤ s.clock → s.waitSeat w = none →
      (∀ vs, (Without s).enough w [] ((Without s).leavers (s.waitPrio w)) = some vs →
        exec (.placementWaitExpiry n) s = .next (vs.foldl (fun (x : State) m => if (x.co m).st = .resident then x.startSave m else x) s)) ∧
      ((Without s).enough w [] ((Without s).leavers (s.waitPrio w)) = none → exec (.placementWaitExpiry n) s = .next s))

/-- R188, R360 to R366, R368, R420: the scheduler takes the next record of a queue, or refuses it, starts shows, reads child shows, and
places companies; the host's writes suspend and resume queues and hand back images. The model's readings are log entries 31, 33 and 34. -/
def Sys2Proof.Claims.ShowEvents : Prop :=
  ∀ (s u v : State) (k c lq sh : Nat),
    (MayTake s lq → ∀ a, SchedReads s (s.qCtx lq) (s.qVa lq 0x10) 8 a u →
      let ctx := s.qCtx lq
      let next := (s.qreg lq 0x28).toNat
      let addr := u.qVa lq 0 + BitVec.ofNat 64 (256 * (next % (s.qreg lq 0x08).toNat))
      (leNat a ≤ next → exec (.launchRecordTake lq) s = .next u) ∧
      (next < leNat a →
        (u.schedRead ctx addr 256 = (.wait, v) → exec (.launchRecordTake lq) s = .next v) ∧
        (∀ f, u.schedRead ctx addr 256 = (.fault f, v) → exec (.launchRecordTake lq) s = .next (v.refuseNext lq addr)) ∧
        (∀ b, SchedReads u ctx addr 256 b v →
          (launchOf b = none → exec (.launchRecordTake lq) s = .next (v.refuseNext lq addr)) ∧
          (∀ l w, launchOf b = some l →
            (v.launchable ctx = (.wait, w) → exec (.launchRecordTake lq) s = .next w) ∧
            (∀ ok, v.launchable ctx = (.ok ok, w) → ok = false ∨ (w.qHost lq = false ∧ l.pcore ≠ 0) →
              exec (.launchRecordTake lq) s = .next (w.refuseNext lq addr)) ∧
            (∀ y, v.launchable ctx = (.ok true, w) → w.qHost lq = true ∨ l.pcore = 0 →
              w.schedAdd (w.qCtx lq) (w.qVa lq 0x18) 1 = (true, y) → Completes (.launchRecordTake lq) s fun t =>
                t.qreg lq 0x28 = y.qreg lq 0x28 + 1 ∧ t.nextShow = y.nextShow + 1 ∧ t.sh y.nextShow = {
                  live := true, launch := l, ctx := ctx, addr := addr, queue := lq + 1, root := lq + 1, parent := 0, depth := 1
                  started := false, startedAt := 0, next := 0, retired := 0, waitSince := y.clock }))))) ∧
    (∀ addr, s.schedAdd (s.qCtx lq) (s.qVa lq 0x18) 1 = (true, u) → let t := s.refuseNext lq addr
      t = (u.setReg (0xA000 + 64 * lq + 0x28) (u.qreg lq 0x28 + 1)).frqRaise {
        type := 3, unit := 0x0A, ctx := u.qCtx lq, cgen := (u.ctx (u.qCtx lq)).cgen, va := addr }) ∧
    ((s.sh sh).live = true → (s.sh sh).started = false → s.ctxLive (s.sh sh).ctx = true →
      (s.depsMet (s.sh sh).ctx (s.sh sh).launch.deps = (true, u) →
        Completes (.showStart sh) s fun t => t.sh sh = { u.sh sh with started := true, startedAt := u.clock, waitSince := u.clock }) ∧
      (s.depsMet (s.sh sh).ctx (s.sh sh).launch.deps = (false, u) → exec (.showStart sh) s = .next u)) ∧
    (∀ p, s.posts.find? (fun p => (s.co p.parent).st != .saved) = some p → let x := s.co p.parent
      (s.schedRead x.ctx p.addr 256 = (.wait, u) → exec .childShowPost s = .next u) ∧
      (∀ f, s.schedRead x.ctx p.addr 256 = (.fault f, u) →
        exec .childShowPost s = .next (({ u with posts := s.posts.erase p } : State).childRefused p)) ∧
      (∀ b, SchedReads s x.ctx p.addr 256 b u →
        (launchOf b = none → exec .childShowPost s = .next (({ u with posts := s.posts.erase p } : State).childRefused p)) ∧
        (∀ l, launchOf b = some l → Completes .childShowPost s fun t => t.posts = s.posts.erase p ∧ t.nextShow = u.nextShow + 1 ∧
          (t.sh u.nextShow).live = true ∧ (t.sh u.nextShow).launch = l ∧ (t.sh u.nextShow).parent = p.parent + 1 ∧
          (t.sh u.nextShow).depth = x.depth + 1 ∧ (t.sh u.nextShow).ctx = x.ctx))) ∧
    (∀ p, TurnOf s (.show sh) → c ∈ s.waitCores (.show sh) → s.seat c (s.sh sh).launch.need = some p →
      let x : State := { s with
        companies := s.companies.write s.nextCompany (s.newCompany sh (s.sh sh).next), nextCompany := s.nextCompany + 1 }
      let y := (x.takeSeat s.nextCompany c (s.sh sh).launch.need p).startCompany s.nextCompany
      exec (.companyPlace sh c) s = .next (y.modSh sh fun h => { h with next := h.next + 1, waitSince := y.clock })) ∧
    (lq < 64 → s.power.up = true →
      (∀ v : W64, s.qSuspended lq = true ∨ v.getLsbD 1 = false → Completes (.qctlWrite lq v) s fun t =>
        t.qreg lq 0x20 = v &&& 0xFFF7 ∧ (v.getLsbD 0 = true → s.qEnabled lq = false → t.qreg lq 0x28 = 0)) ∧
      (∀ v : W64, s.qSuspended lq = false → v.getLsbD 1 = true → Completes (.qctlWrite lq v) s fun t => Suspended s t lq) ∧
      (s.qSuspended lq = false → Completes (.queueSuspend lq) s fun t => Suspended s t lq) ∧
      (Completes (.queueResume lq) s fun t => t = { s with bar2 := t.bar2 } ∧ t.qSuspended lq = false ∧
        t.qreg lq 0x20 = s.qreg lq 0x20 &&& ~~~2)) ∧
    (∀ a : W64, s.power.up = true → let x := a &&& 0x01FFFFFFFFFFFFFF
      let va := (x.setWidth 57).signExtend 64
      let ctx := restoreCtx s x
      (s.schedRead ctx va 256 = (.wait, u) → Completes (.hrestore a) s fun t => (x, ctx) ∈ t.restores ∧ t = { u with restores := t.restores }) ∧
      (∀ f, s.schedRead ctx va 256 = (.fault f, u) → exec (.hrestore a) s = .next ((u.refuseRecord ctx va).restoreOver x ctx)) ∧
      (∀ b, SchedReads s ctx va 256 b u → let h := headOf b
        (h.major ≠ 1 ∨ h.minor ≠ 0 → exec (.hrestore a) s = .next ((u.refuseRecord ctx va).restoreOver x ctx)) ∧
        (h.major = 1 → h.minor = 0 →
          let known := u.companies.find? fun e => e.2.st == .saved && e.2.ctx == ctx && e.2.recaddr == h.recaddr && e.2.index == h.index
          (∀ j, known = some j → Completes (.hrestore a) s fun t => (t.co j.1).image = va ∧ (t.co j.1).prio = 7 ∧ (t.co j.1).hostTrap = 0 ∧
            (t.co j.1).stuck = false ∧ (x, ctx) ∉ t.restores) ∧
          (∀ l r, known = none → SchedReads u ctx h.recaddr 256 r v → launchOf r = some l →
            exec (.hrestore a) s = .next ((v.restoreOver x ctx).adopt va ctx h l))))) ∧
    (∀ q o f, s.op k q = some o → o.ins = .showq f → o.park = none →
      ((s.co (s.tr k).company).children = 0 → Completes (.showqWaitDone k q) s (Ended k q)) ∧
      ((s.co (s.tr k).company).children ≠ 0 → exec (.showqWaitDone k q) s = .next s))
namespace Sys2Proof.Claims

/-! ### Events of the page cache -/

/-- The frame `f` of `t` is that of `s`, changed to `x`, and nothing but frames differs. -/
def FrameTo (s t : State) (f : Nat) (x : Frame) : Prop :=
  t.frame f = x ∧ (∀ g, g ≠ f → t.frame g = s.frame g) ∧ t = { s with cache := { s.cache with frames := t.cache.frames } }

/-- A dirty line in which an error can be lost: its first copy is dirty, and it is not lost yet. -/
def LosesData (s : State) (l : Nat) : Prop := s.dirtyHere l = true ∧ s.lost l = false

/-- The batch that closes: one request for each granule, with the items of the others. -/
def closing (s : State) : List FillReq :=
  (s.cache.fce.batch.take 64).foldl (fun (l : List FillReq) r =>
    if l.any fun x => x.granule == r.granule then l.map fun x => if x.granule == r.granule then { x with more := x.more ++ [r.item] } else x
    else l ++ [r]) []

/-- The first request in the order of R346: of an earlier batch, else of a lower span, else demanded before predicted, else of a lower granule. -/
def goesBefore (a b : FillReq) : Prop :=
  a.turn < b.turn ∨ (a.turn = b.turn ∧ (a.granule / 16 < b.granule / 16 ∨ (a.granule / 16 = b.granule / 16 ∧
    ((a.pred = false ∧ b.pred = true) ∨ (a.pred = b.pred ∧ a.granule < b.granule)))))

/-- The requests stand in the order in which they are served. -/
def InOrder (l : List FillReq) : Prop := l.Pairwise fun a b => ¬ goesBefore b a

/-- A batch is due to close. -/
def BatchDue (s : State) : Prop :=
  s.cache.fce.batch ≠ [] ∧ (s.cache.fce.opened + 2000 ≤ s.clock ∨ 64 ≤ s.cache.fce.batch.length)

end Sys2Proof.Claims
open Sys2Proof.Claims

/-- R346: the fault coalescing engine collects requests, closes batches, serves them in order and fills granules. The model's readings are
log entries 45 and 54. -/
def Sys2Proof.Claims.FillEvents : Prop :=
  ∀ (s : State),
    (∀ ctx pa, (s.faultsvc = true ∨ ∃ x ∈ s.cache.fce.batch, x.granule = pa / 4096) → exec (.residencyRequest ctx pa) s = .next s) ∧
    (∀ ctx pa, s.faultsvc = false → (∀ x ∈ s.cache.fce.batch, x.granule ≠ pa / 4096) → exec (.residencyRequest ctx pa) s =
      .next (s.askFill { granule := pa / 4096, ctx := ctx, graph := s.graphAt ctx pa, va := 0, item := 0 })) ∧
    (∀ r, (∀ x ∈ s.cache.fce.fills ++ s.cache.fce.waiting, x.granule ≠ r.granule) → s.taking (r.granule / 16) = false →
      (s.askFill r).cache.fce = { s.cache.fce with
        batch := s.cache.fce.batch ++ [r], opened := if s.cache.fce.batch = [] then s.clock else s.cache.fce.opened }) ∧
    (∀ r, (∃ x ∈ s.cache.fce.fills, x.granule = r.granule) → s.askFill r = s) ∧
    (¬ BatchDue s → exec .batchClose s = .next s.pump) ∧
    (BatchDue s → (∀ x ∈ s.cache.fce.batch, x.item = 0 ∧ x.graph = false) → Completes .batchClose s fun t => ∃ u : State, t = u.pump ∧
      u.cache.fce = { s.cache.fce with
        batch := s.cache.fce.batch.drop 64, opened := s.clock, turn := s.cache.fce.turn + 1
        waiting := (closing s).foldl (fun l r => placeReq { r with turn := s.cache.fce.turn + 1 } l) s.cache.fce.waiting }) ∧
    (∀ r l, InOrder l → InOrder (placeReq r l) ∧ ∀ x, x ∈ placeReq r l ↔ x = r ∨ x ∈ l) ∧
    (∀ r rs x, s.cache.fce.waiting = r :: rs → s.spanFrame (r.granule / 16) = some x → x.2.newspan ≠ 0 → s.pump = s) ∧
    (∀ r rs, s.cache.fce.fills = r :: rs → (∀ i ∈ r.item :: r.more, i % 2 ^ 32 ≤ 2 ^ 31) → Completes (.granuleFillComplete r.granule) s fun t =>
      t = (((s.modFce fun f => { f with fills := rs }).fillGranule r.granule).wakeGranule r.granule).pump) ∧
    (∀ g f, s.frameOf (4096 * g) = some f → (s.frame f).fstate = 1 → (s.frame f).resmask.getLsbD (g % 16) = false →
      let t := s.fillGranule g
      t.frame f = { s.frame f with
        resmask := (s.frame f).resmask ||| BitVec.ofNat 16 (2 ^ (g % 16)), accessed := true } ∧
      (s.mem.wf → s.cache.gddr.wf → ∀ i, i < 4096 → t.cache.gddr.read (65536 * f + 4096 * (g % 16) + i) = s.mem.read (4096 * g + i)))

/-- R329, R348, R350, R351, R353: the carousel visits 64 frames; a frame is reclaimed once its advance need not wait and no line of it is
locked, its lines come home, its dirty granules are written back, and it goes to its new span. The model's readings are log entries
45 and 50. -/
def Sys2Proof.Claims.PageEvents : Prop :=
  ∀ (s : State),
    (∀ d, s.victimHost = false → d < 4 → (s.die d).handAt ≤ s.clock → (s.die d).cold.length < s.cqLow →
      Completes (.carouselHandStep d) s fun t => ∃ u : State, t = u.pump ∧ (u.die d).handAt = s.clock + 1 ∧ (u.die d).sweeping =
        ((u.die d).cold.length < s.cqHigh : Bool) ∧ ∀ f ∈ (u.die d).cold, f ∉ (s.die d).cold →
          (u.frame f).fstate = 0 ∨ (u.frame f).accessed = false) ∧
    (∀ d, s.victimHost = true ∨ s.clock < (s.die d).handAt → exec (.carouselHandStep d) s = .next s) ∧
    (∀ f, (s.frame f).fstate = 1 → (s.frame f).newspan ≠ 0 →
      ((s.frame f).pinned = true ∨ (s.frame f).error = true → s.cache.fce.waiting = [] →
        exec (.frameReclaim f) s = .next (s.modFrame f fun x => { x with newspan := 0, stage := 0 })) ∧
      ((s.frame f).pinned = false → (s.frame f).error = false →
        (s.frameHold f = true → exec (.frameReclaim f) s = .next s) ∧
        (s.frameHold f = false → s.frameLocked f = true → exec (.frameReclaim f) s = .next (s.reclaimStart f)) ∧
        (s.frameHold f = false → s.frameLocked f = false → Completes (.frameReclaim f) s fun t =>
          let u := (s.reclaimStart f).reclaimDrain f
          (u.frame f).fgen = ((s.frame f).fgen + 1) % 65536 ∧
          (∀ l, 512 * (s.frame f).span ≤ l → l < 512 * (s.frame f).span + 512 → ∀ c, (u.core c).l1.read l = default) ∧
          ((u.frame f).errs = [] → t = u.modFrame f fun x => { x with stage := 2 }) ∧
          ((u.frame f).errs ≠ [] → t = (u.modFrame f fun x => { x with fstate := 1, error := true, stage := 0, newspan := 0 }).pump)))) ∧
    (∀ f, (s.frame f).fstate = 2 → (s.frame f).stage = 2 → Completes (.reclaimWritebackDone f) s fun t =>
      t.frame f = { s.frame f with stage := 3 } ∧
      ((s.frame f).shared = false → (∀ i, i < 16 → (s.frame f).dirtymask.getLsbD i = false) → t.mem = s.mem) ∧
      ((s.frame f).shared = false → s.mem.wf → s.cache.gddr.wf → ∀ i j, i < 16 → j < 4096 → (s.frame f).dirtymask.getLsbD i = true →
        t.mem.read (65536 * (s.frame f).span + 4096 * i + j) = s.cache.gddr.read (65536 * f + 4096 * i + j))) ∧
    (∀ f, (s.frame f).fstate = 2 → (s.frame f).stage = 3 →
      ((s.frame f).newspan = 0 → Completes (.reclaimReleaseDone f) s fun t => ∃ u : State, t = u.pump ∧
        u.frame f = { (default : Frame) with fgen := (s.frame f).fgen }) ∧
      ((s.frame f).newspan ≠ 0 → Completes (.reclaimReleaseDone f) s fun t => ∃ u : State, t = u.pump ∧
        (u.frame f).span = (s.frame f).newspan - 1 ∧ (u.frame f).fstate = 1 ∧ (u.frame f).resmask = 0 ∧ (u.frame f).dirtymask = 0 ∧
        (u.frame f).accessed = false ∧ (u.frame f).error = false ∧
        (u.frame f).newspan = 0 ∧ (u.frame f).fgen = (s.frame f).fgen))

/-- R196, R268, R350, R352, R353, R371: an uncorrectable error loses a dirty line, a scratchpad word, an accumulator element or an array row
and triggers a snapshot; a clean line loses nothing; the host's frame control pins, releases, discards and reclaims; VLHEAD lets waiting
requests go on. -/
def Sys2Proof.Claims.FrameControlEvents : Prop :=
  ∀ (s : State),
    (∀ l, LosesData s l → Completes (.dataLostError (.line l)) s fun t => (∀ f, s.frameOf (128 * l) = some f → (t.frame f).error = true) ∧
      exec (.scrub l .uncorrectable) s = .next t ∧ ∃ u : State, t = (u.frqRaise { type := 3, cls := 6, pa := 128 * l }).trigger 3 ∧
        (s.held l = true → u.lineErr.read l = true) ∧ (s.held l = false → ∀ f, s.frameOf (128 * l) = some f → l ∈ (u.frame f).errs)) ∧
    (∀ l, ¬ LosesData s l → exec (.dataLostError (.line l)) s = .next s ∧ exec (.scrub l .uncorrectable) s = .next s) ∧
    (∀ c w, Completes (.dataLostError (.scratch c w)) s fun t => (t.core c).scrErr.read w = true) ∧
    (∀ c e, Completes (.dataLostError (.acc c e)) s fun t => (t.core c).accErr.read e = true) ∧
    (∀ c r, (s.core c).rowsBad.length < 2 → Completes (.dataLostError (.row c r)) s fun t => r ∈ (t.core c).rowsBad) ∧
    (∀ l, exec (.scrub l .clean) s = .next s ∧ exec (.scrub l .singleBit) s = .next s) ∧
    (s.power.up = true →
      (∀ f, f < 2097152 →
        (Completes (.framectlPin f) s fun t => FrameTo s t f { s.frame f with pinned := true }) ∧
        (Completes (.framectlUnpin f) s fun t => FrameTo s t f { s.frame f with pinned := false }) ∧
        ((s.frame f).fstate = 1 → (s.frame f).newspan = 0 → (s.frame f).pinned = false → (s.frame f).error = false →
          Completes (.framectlReclaimNow f) s fun t => FrameTo s t f (if s.frameHold f = true then { s.frame f with stage := 4 } else
            { s.frame f with fstate := 2, fgen := ((s.frame f).fgen + 1) % 65536, stage := 1 }))) ∧
      (∀ f, (s.frame f).fstate ≠ 0 → Completes (.framectlDiscard f) s fun t =>
        t.frame f = { s.frame f with errs := [], error := false, accessed := (t.frame f).accessed } ∧
        ((s.frame f).errs ≠ [] → (t.frame f).accessed = true) ∧
        (∀ l, 512 * (s.frame f).span ≤ l → l < 512 * (s.frame f).span + 512 → t.lineErr.read l = false)) ∧
      (∀ d (v : W64), d < 4 → Completes (.vlheadWrite d v) s fun t => ∃ u : State, t = u.pump ∧ u = { s with bar2 := u.bar2 } ∧
        u.vl d 2 = v.toNat % 2 ^ 32))
/-- R372: too hot, or above its power cap, the module lowers the core clock by 50 MHz, to no less than 500; once the cause has been gone
for 10 ms (10,000 cycles for each MHz of the clock then) it raises it again; at 110 degrees it powers off. Nothing else changes. That the
clock rises by 50 MHz at a time is the model's reading: log entry 37. -/
def Sys2Proof.Claims.ThermalEvents : Prop :=
  ∀ (s : State) (tj watts : Nat),
    (95 ≤ tj ∨ s.powerCap < watts → exec (.thermalThrottle tj watts) s =
      .next { s with power := { s.power with mhz := max 500 (s.power.mhz - 50), throt := true, tj := tj, raiseAt := 0 } }) ∧
    (tj < 95 → watts ≤ s.powerCap →
      (s.power.raiseAt = 0 → s.power.mhz ≠ 0 → exec (.thermalRecover tj watts) s = .next { s with power := { s.power with
        tj := tj, raiseAt := s.clock + 10000 * s.power.mhz + 1 } }) ∧
      (s.clock + 1 < s.power.raiseAt → exec (.thermalRecover tj watts) s = .next { s with power := { s.power with tj := tj } }) ∧
      (s.power.raiseAt ≠ 0 → s.power.raiseAt ≤ s.clock + 1 → exec (.thermalRecover tj watts) s = .next { s with power := { s.power with
        mhz := min 1000 (s.power.mhz + 50), throt := decide (s.power.mhz + 50 < 1000), tj := tj } })) ∧
    (110 ≤ tj → exec (.thermalPowerOff tj) s = .next { s with power := { s.power with off := true, tj := tj } })

/-- R6, R272, R353, R369, R373, R376, R390, R396, R397: the host's resets and register writes, link training, a retry on a link, spare parts
and attestation. What RESET keeps is the model's reading: log entry 38. -/
def Sys2Proof.Claims.HostWrites : Prop :=
  ∀ (s : State),
    (Completes .reset s fun t => t.troupes = [] ∧ t.companies = [] ∧ t.shows = [] ∧ t.engines = [] ∧ t.slices = [] ∧ t.clock = 0 ∧
      t.cache.frames = [] ∧ t.contexts = [] ∧ t.mem = s.mem ∧ t.caps.change = (s.caps.change + 1) % 2 ^ 32 ∧ t.caps.compress = [] ∧
      (∀ c, (t.core c).spare = (s.core c).spare ∧ (t.core c).rowMap = (s.core c).rowMap ∧ (t.core c).rowsBad = (s.core c).rowsBad) ∧
      (∀ d, (t.die d).slices = (s.die d).slices ∧ (t.die d).retired = (s.die d).retired) ∧
      (bootCode = 0 → t.bar2 = State.reset.bar2 ∧ t.power = State.reset.power) ∧ (bootCode ≠ 0 → t.power.up = false ∧ t.power.bootFail = bootCode)) ∧
    (∀ port cxl, (cxl, port) ∉ s.caps.compress → exec (.linkTraining port cxl true true) s = .next { s with
      caps := { s.caps with compress := s.caps.compress ++ [(cxl, port)], change := (s.caps.change + 1) % 2 ^ 32 }
      fabric := { s.fabric with untrained := s.fabric.untrained.filter fun x => x != (cxl, port) } }) ∧
    (∀ port cxl compress, Completes (.linkTraining port cxl false compress) s fun t =>
      (cxl, port) ∉ t.caps.compress ∧ (cxl, port) ∈ t.fabric.untrained ∧
      ((cxl, port) ∈ s.caps.compress → t.caps.change = (s.caps.change + 1) % 2 ^ 32)) ∧
    (∀ port, exec (.linkLevelRetry port) s = .next s) ∧
    (∀ c regs, (∀ i, i < 8 → (s.core (8 * ringOf c + i)).spare = false) → (∀ e ∈ s.companies, c ∉ e.2.cores) →
      Completes (.spareReplace (.core c regs)) s fun t => (t.core c).spare = true ∧ t.caps.spareCores = s.caps.spareCores + 1 ∧
        t.caps.change = (s.caps.change + 1) % 2 ^ 32) ∧
    (∀ c regs i, i < 8 → (s.core (8 * ringOf c + i)).spare = true → exec (.spareReplace (.core c regs)) s = .next s) ∧
    (∀ c r p, (s.core c).array.holder = 0 → (s.core c).rowsBad.length < 2 → r < 32 →
      let bad := (s.core c).physRow r
      let all := if bad ∈ (s.core c).rowsBad then (s.core c).rowsBad else (s.core c).rowsBad ++ [bad]
      ([32, 33].find? fun x => !all.contains x && !(List.range 32).any fun i => (s.core c).physRow i == x) = some p →
      Completes (.spareReplace (.row c r)) s fun t => (t.core c).physRow r = p ∧ (t.core c).rowsBad = all ∧
        (∀ i, i < 32 → i ≠ r → (t.core c).physRow i = (s.core c).physRow i) ∧
        t.caps.spareRows = s.caps.spareRows + 1 - (if 32 ≤ bad then 1 else 0) ∧ t.caps.change = (s.caps.change + 1) % 2 ^ 32) ∧
    (∀ n p, (s.die (n / 64)).freeSlice = some p → (∀ l ∈ s.linesOfSlice n, (s.sline l).lock = 0) →
      Completes (.spareReplace (.slice n)) s fun t => (t.die (n / 64)).physSlice (n % 64) = p ∧
        (s.die (n / 64)).physSlice (n % 64) ∈ (t.die (n / 64)).retired ∧ ∃ u : State, u = (s.linesOfSlice n).foldl (fun (x : State) l => x.evictLine l) s ∧
          t.slices = u.slices ∧ t.mem = u.mem ∧ t.cores = u.cores) ∧
    (∀ n, ((s.die (n / 64)).freeSlice = none ∨ ∃ l ∈ s.linesOfSlice n, (s.sline l).lock ≠ 0) → exec (.spareReplace (.slice n)) s = .next s) ∧
    (∀ n, s.caps.remapped.read n < 64 → Completes (.spareReplace (.channel n)) s fun t =>
      t.caps.remapped.read n = s.caps.remapped.read n + 1 ∧ (∀ m, m ≠ n → t.caps.remapped.read m = s.caps.remapped.read m) ∧
      t.caps.change = (if s.caps.remapped.read n = 0 then (s.caps.change + 1) % 2 ^ 32 else s.caps.change) ∧ t = { s with caps := t.caps }) ∧
    (∀ n, 64 ≤ s.caps.remapped.read n → exec (.spareReplace (.channel n)) s = .next s) ∧
    (s.power.up = true →
      (∀ off v, off ≠ 0x38 → regMask off ≠ 0 → Completes (.registerWrite 2 off v) s fun t => t.reg off = v &&& regMask off ∧
        (∀ o, o ≠ off → t.reg o = s.reg o) ∧ t = { s with bar2 := t.bar2 }) ∧
      (∀ v, Completes (.registerWrite 2 0x38 v) s fun t => t.reg 0x38 = s.reg 0x38 &&& ~~~v ∧ t = { s with bar2 := t.bar2 }) ∧
      (∀ off v, off ≠ 0x38 → regMask off = 0 → exec (.registerWrite 2 off v) s = .next s) ∧
      (s.attest.busy = false → Completes .attestationReport s fun t => t.attest.busy = true ∧ t.attest.dest = (s.reg 0xC020).toNat ∧
        t.attest.nonce = leBytes 8 (s.reg 0xC000).toNat ++ leBytes 8 (s.reg 0xC008).toNat ++ leBytes 8 (s.reg 0xC010).toNat
          ++ leBytes 8 (s.reg 0xC018).toNat) ∧
      (s.attest.busy = true → ∀ (ok : Bool) (u : State),
        (State.physWrites ⟨2 ^ 43, 1, 0⟩ s.reportLines s = (.wait, u) → exec .attestationReport s = .next u) ∧
        (State.physWrites ⟨2 ^ 43, 1, 0⟩ s.reportLines s = (.ok ok, u) →
          exec .attestationReport s = .next { (if ok then u.writeBytes u.attest.dest u.report else u) with
            attest := { u.attest with busy := false, done := ok, err := !ok } })) ∧
      (s.attest.busy = true → s.window s.attest.dest = none →
        exec .attestationReport s = .next { s with attest := { s.attest with busy := false, done := false, err := true } }))
namespace Sys2Proof.Claims

/-! ### Events of translation, of the fault queue and of contexts -/

/-- The walk or ATS request of a page that is in flight on a die, not yet answered. -/
def InFlightWalk (s : State) (q : WalkSite) (v : Nat) (w : Walk) : Prop := (s.die q.die).walkOf q.ctx v = some w ∧ w.found = none

/-- No translation of context `c` is held whose block meets the block of `2^n` bytes at `b`. -/
def Dropped (t : State) (c : Nat) (meets : TlbEntry → Bool) : Prop :=
  (∀ d, ∀ e ∈ (t.die d).tlb, e.ctx = c → meets e = false) ∧ (∀ d, ∀ e ∈ (t.ring d).tlb, e.ctx = c → meets e = false) ∧
    ∀ d, (∀ e ∈ (t.core d).tlb, e.ctx = c → meets e = false) ∧ ∀ e ∈ (t.core d).itlb, e.ctx = c → meets e = false

/-- The block of an entry meets the block of `2^n` bytes at `b`. -/
def overlaps (b n : Nat) (e : TlbEntry) : Bool := b / 2 ^ max n e.size == e.va / 2 ^ max n e.size

/-- A group of page requests that the response names, live and of its context's generation (R336). -/
def LiveGroup (s : State) (g : Prg) : Prop :=
  (s.fq.prgs.find? fun x => x.pasid == g.pasid && x.idx == g.idx) = some g ∧ g.dead = false ∧ g.cgen = (s.ctx g.ctx).cgen ∧
    (s.ctx g.ctx).dead = false

/-- The TYPE 0x08 record of a discarded response. -/
def discarded (s : State) (c pasid idx : Nat) : FRec :=
  { type := 8, ctx := c, cgen := (s.ctx c).cgen, detail := idx % 512, value := BitVec.ofNat 64 (pasid % 2 ^ 20) }

/-- A pending fault that was begun while the host served faults, of class 1 or 2, and is in no live group. -/
def MayAsk (s : State) (k q c : Nat) (p : Park) : Prop :=
  s.sitePark k q = some (c, p) ∧ p.host = true ∧ p.state = .pending ∧ (p.cls = 1 ∨ p.cls = 2) ∧
    ∀ g ∈ s.fq.prgs, g.dead = true ∨ (k, q) ∉ g.members

/-- The group that a fault of context `c` on a page joins: live, of the context's generation, of its span and of the window that is open. -/
def joinable (s : State) (c page : Nat) : Option Prg :=
  s.fq.prgs.find? fun g => !g.dead && g.ctx == c && g.span == page / 16 && g.cgen == (s.ctx c).cgen && g.window == s.prgNo

end Sys2Proof.Claims
open Sys2Proof.Claims

/-- R321 to R324, R342, R343, R383, R384: a walk or an ATS request in flight ends with a translation, which the last level of its die takes,
or with a fault, which an access that missed takes; an invalidation drops what it meets and ends once the accesses that used it have. -/
def Obligations.TranslationEvents : Prop :=
  ∀ (s u : State) (q : WalkSite) (va : W64), let v := va.toNat % 2 ^ 57
    (∀ w, InFlightWalk s q v w → w.ats = false →
      (s.walkNow q.die q.ctx v = (.wait, u) → exec (.translationWalk q va) s = .next u) ∧
      (∀ e, s.walkNow q.die q.ctx v = (.ok e, u) → exec (.translationWalk q va) s = .next (u.foundEntry q.die q.ctx (v / 4096) e)) ∧
      (∀ f, s.walkNow q.die q.ctx v = (.fault f, u) → exec (.translationWalk q va) s = .next (u.foundFault q.die q.ctx (v / 4096) f))) ∧
    ((s.die q.die).walkOf q.ctx v = none → exec (.translationWalk q va) s = .next s ∧ ∀ g, exec (.atsCompletion q va g) s = .next s) ∧
    (∀ w g, InFlightWalk s q v w → w.ats = true →
      (w.old ≠ 0 → exec (.atsCompletion q va g) s = .next (s.modWalk q.die q.ctx (v / 4096) fun w => some { w with old := w.old - 1 })) ∧
      (w.old = 0 → (g.untranslatedOnly = true ∨ g.error = true ∨ (g.read = false ∧ g.write = false)) →
        exec (.atsCompletion q va g) s = .next (s.foundFault q.die q.ctx (v / 4096) { cls := 1 })) ∧
      (w.old = 0 → g.untranslatedOnly = false → g.error = false → (g.read = true ∨ g.write = true) →
        (12 ≤ g.size → g.size ≤ 30 → g.pa % 2 ^ g.size = 0 → g.pa < 2 ^ 52 →
          exec (.atsCompletion q va g) s = .next (s.foundEntry q.die q.ctx (v / 4096) {
            ctx := q.ctx, cgen := (s.ctx q.ctx).cgen, va := v / 2 ^ g.size * 2 ^ g.size, size := g.size, pa := g.pa
            r := g.read, w := g.write, x := g.exec, mt := 3, graph := false, frame := 0, fgen := 0, group := 0 })) ∧
        (30 < g.size → Completes (.atsCompletion q va g) s fun t => ∃ e : TlbEntry, t = s.foundEntry q.die q.ctx (v / 4096) e ∧
          e.size = 30 ∧ e.va = v / 2 ^ 30 * 2 ^ 30 ∧ e.pa = (g.pa / 2 ^ g.size * 2 ^ g.size + v % 2 ^ g.size) / 2 ^ 30 * 2 ^ 30 % 2 ^ 52))) ∧
    (∀ e page, let t := s.foundEntry q.die q.ctx page e
      e ∈ (t.die q.die).tlb ∧ ∀ w ∈ (t.die q.die).walks, ¬ (w.ctx = q.ctx ∧ w.page = page)) ∧
    (∀ f page, ∀ w ∈ ((s.foundFault q.die q.ctx page f).die q.die).walks, w.ctx = q.ctx → w.page = page → w.found = some f.keep) ∧
    (∀ pasid span itag, itag < 32 → (∀ i ∈ s.invals, i.itag ≠ itag) → canonical va = true →
      Completes (.atsInvalidation pasid va span itag) s fun t =>
        let users := (s.pasidContexts pasid).flatMap fun c => s.usersOf c (some (v / 2 ^ span * 2 ^ span, span))
        (∀ c ∈ s.pasidContexts pasid, Dropped t c (overlaps (v / 2 ^ span * 2 ^ span) span)) ∧
        t.invals = (if users = [] then s.invals else s.invals ++ [{ itag := itag, waits := users }]))

/-- R332 to R336, R376: the oldest record of the fault queue is written into memory once there is room, with its number, and its turnstile is
added to, or it is dropped; FRESUME and FRQSIZE act on pending faults, page requests form groups, and their responses are applied or
discarded. The model's readings are log entries 5, 48 and 54. -/
def Obligations.FaultQueueEvents : Prop :=
  ∀ (s u v : State),
    (s.fq.buffer = [] ∨ s.frqFull = true → exec .faultRecordFlush s = .next s) ∧
    (∀ b bs, s.fq.buffer = b :: bs → s.frqFull = false →
      let n := (s.reg 0x28).toNat % 2 ^ 32
      let pa := (s.reg 0x10).toNat % 2 ^ 52 + 64 * (n % s.frqSlots)
      let ts := (s.reg 0x30).toNat % 2 ^ 52
      (s.frqReach pa = (.wait, u) → exec .faultRecordFlush s = .next u) ∧
      (s.frqReach pa = (.ok false, u) → exec .faultRecordFlush s = .next ({ u with fq := { u.fq with buffer := bs } } : State).frqLose) ∧
      (s.frqReach pa = (.ok true, u) →
        (ts ≠ 0 → u.frqReach ts = (.wait, v) → exec .faultRecordFlush s = .next v) ∧
        (∀ add, (ts = 0 ∧ add = false ∧ v = u) ∨ (ts ≠ 0 ∧ u.frqReach ts = (.ok add, v)) →
          let w := (({ v with fq := { v.fq with buffer := bs } } : State).writeBytes pa (b.take 0x2C ++ leBytes 4 n ++ b.drop 0x30)).setReg
            0x28 (BitVec.ofNat 64 ((n + 1) % 2 ^ 32))
          exec .faultRecordFlush s = .next (if add = true then w.frqAdd ts else w)))) ∧
    (∀ k q c p, MayAsk s k q c p →
      let page := p.addr.toNat % 2 ^ 57 / 4096
      let pasid := ((s.descriptor c).map (·.pasid)).getD 0
      (joinable s c page = none → s.fq.prgs.length < 512 → s.prgLoad < (s.reg 0x10000).toNat → Completes (.pageRequest k q) s fun t =>
        t = { s with fq := t.fq } ∧ t.fq.prgs = s.fq.prgs ++ [{
          idx := s.prgIndex pasid, pasid := pasid, ctx := c, cgen := (s.ctx c).cgen, span := page / 16, dead := false
          members := [(k, q)], pages := [page], window := s.prgNo }]) ∧
      (joinable s c page = none → 512 ≤ s.fq.prgs.length ∨ (s.reg 0x10000).toNat ≤ s.prgLoad → exec (.pageRequest k q) s = .next s) ∧
      (∀ g, joinable s c page = some g → page ∈ g.pages ∨ s.prgLoad < (s.reg 0x10000).toNat → Completes (.pageRequest k q) s fun t =>
        t = { s with fq := t.fq } ∧ t.fq.prgs = s.fq.prgs.map fun x => if x = g then { g with
          members := g.members ++ [(k, q)], pages := if page ∈ g.pages then g.pages else g.pages ++ [page] } else x)) ∧
    (∀ pasid idx r, (∀ g ∈ s.fq.prgs, ¬ (g.pasid = pasid ∧ g.idx = idx)) →
      exec (.prgResponse pasid idx r) s = .next (s.frqRaise (discarded s 0 pasid idx))) ∧
    (∀ g r, (s.fq.prgs.find? fun x => x.pasid == g.pasid && x.idx == g.idx) = some g → ¬ LiveGroup s g →
      let u : State := { s with fq := { s.fq with prgs := s.fq.prgs.filter fun x => x != g } }
      exec (.prgResponse g.pasid g.idx r) s = .next (u.frqRaise (discarded s g.ctx g.pasid g.idx))) ∧
    (∀ g, LiveGroup s g →
      let u : State := { s with fq := { s.fq with prgs := s.fq.prgs.filter fun x => x != g } }
      let gone := fun (x : State) (m : Nat × Nat) =>
        (x.setSite m.1 m.2 fun p => if p.state = .pending then { p with cls := 1 } else p).condemnSite m.1 m.2
      exec (.prgResponse g.pasid g.idx .success) s = .next (u.prgServe g.members) ∧
      exec (.prgResponse g.pasid g.idx .invalid) s = .next (g.members.foldl gone u) ∧
      exec (.prgResponse g.pasid g.idx .failure) s = .next (g.members.foldl gone (u.modCtx g.ctx fun x => { x with prifail := true }))) ∧
    (s.power.up = true →
      (∀ ctx span, Completes (.fresumeRetry ctx span) s fun t => ∀ k q o p, s.op k q = some o → o.park = some p → p.state = .pending →
        s.resumes ctx span (s.ctxOf k) p = true → ∃ o' : MemOp, t.op k q = some o' ∧ o' = { o with park := some { p with state := .ready } }) ∧
      (∀ ctx span, exec (.fresumeUnmappable ctx span) s =
        .next ((s.pendingSites (s.resumes ctx span)).foldl (fun (x : State) y => x.condemnSite y.1 y.2) s)) ∧
      (∀ v : W64, Completes (.dutysplitWrite v) s fun t => t.reg 0 = v &&& 0x3F ∧ t = { s with bar2 := t.bar2 }) ∧
      (∀ v : W64, v.toNat % 2 ^ 32 / 4096 ≠ 0 → Completes (.frqsizeWrite v) s fun t => t = { s with bar2 := t.bar2 } ∧
        t.reg 0x18 = v &&& 0x1FFFFF000) ∧
      (∀ v : W64, v.toNat % 2 ^ 32 / 4096 = 0 →
        let u := s.setReg 0x18 (v &&& 0x100000000)
        exec (.frqsizeWrite v) s = .next ((s.fq.buffer.filter fun b => b.headD 0 == 2).foldl
          (fun (x : State) b => x.frqLose.condemnSite (recordSite b).1 (recordSite b).2)
          { u with fq := { u.fq with buffer := s.fq.buffer.filter fun b => b.headD 0 != 2 } })))

/-- R329, R333, R336, R339, R420: a write of CTXSTATE or PRIFAIL reloads, ends, revives or flushes a context; the end of a context takes its
companies, shows and translations away, and the host is told once; an advance of the generation waits for the accesses in flight that
carry the generation it would reach. That an end is one event is the model's reading: log entry 42. -/
def Obligations.ContextEvents : Prop :=
  ∀ (s : State) (c : Nat),
    (s.power.up = true →
      (Completes (.ctxstateReload c) s fun t => Dropped t c (fun _ => true) ∧ (t.ctx c).cgen = (s.ctx c).cgen ∧ (t.ctx c).dead = (s.ctx c).dead ∧
        ∀ e u, (s.modCtx c fun x => { x with stale := true }).readDesc c = (.ok e, u) → (t.ctx c).desc = some e ∧ (t.ctx c).stale = false) ∧
      ((s.ctx c).endReason = 0 → (s.ctx c).dead = false → Completes (.ctxstateEnd c) s fun t =>
        (t.ctx c).endReason = 3 ∧ (t.ctx c).endCause = 0 ∧ t = { s with contexts := t.contexts }) ∧
      ((s.ctx c).endReason = 0 → s.genHold c = false → Completes (.ctxstateRevive c) s fun t => (t.ctx c).dead = false ∧
        Dropped t c (fun _ => true) ∧ (t.ctx c).cgen = ((s.ctx c).cgen + 1) % 256) ∧
      ((s.ctx c).endReason = 0 → s.genHold c = true → Completes (.ctxstateRevive c) s fun t => (t.ctx c).revive = true ∧
        (t.ctx c).dead = (s.ctx c).dead ∧ t = { s with contexts := t.contexts }) ∧
      (Completes (.ctxstatePriflush c) s fun t => t = { s with fq := t.fq } ∧
        t.fq.prgs = s.fq.prgs.filter fun g => !(g.dead && g.ctx == c)) ∧
      (Completes (.prifailClear c) s fun t => (t.ctx c).prifail = false ∧ t = { s with contexts := t.contexts })) ∧
    ((s.ctx c).endReason = 0 ∨ s.genHold c = true → exec (.contextEnd c) s = .next s) ∧
    ((s.ctx c).endReason ≠ 0 → s.genHold c = false → Completes (.contextEnd c) s fun t => ∃ u : State,
      (u.ctx c).dead = true ∧ (u.ctx c).endReason = 0 ∧ (u.ctx c).cgen = ((s.ctx c).cgen + 1) % 256 ∧
      (∀ k, (u.co k).ctx = c → (u.co k).st = .retired ∨ (u.co k).st = .none) ∧ (∀ h ∈ u.shows, h.2.ctx = c → h.2.live = false) ∧
      Dropped u c (fun _ => true) ∧ (∀ g ∈ u.fq.prgs, g.ctx = c → g.dead = true) ∧
      t = u.frqRaise {
        type := 5, ctx := c, cgen := ((s.ctx c).cgen + 1) % 256, detail := (s.ctx c).endReason, value := (s.ctx c).endCause })
namespace Sys2Proof.Claims

/-! ### Events of the fabric -/

/-- A peer's request that may be performed: it is new, its address is this package's and present, no lock or other owner stands in the
way, and a line shared with the pool's host is owned (R387, R390, R392). -/
def Serves (s : State) (origin num pa : Nat) (op : RemoteOp) : Prop :=
  (isTagged op = true → s.fabric.replies.read (tagKey origin num) = .none) ∧ s.inboundFault pa op = none ∧
    (s.sline (pa / 128)).lock = 0 ∧
    ((s.fabric.dir.read (pa / 2048)).state = .o → (s.fabric.dir.read (pa / 2048)).owner = origin) ∧
    (isTagged op = true → (∃ h, s.window pa = some (2, h)) → (s.refill (pa / 128)).cache.pool.read (pa / 128) = 2)

/-- A tag that waits for its reply. -/
def Open (s : State) (g : Tag) : Prop := s.openTag g.num = some g

/-- No line of a region is locked, and the region is homed as said. -/
def RegionOpen (s : State) (region : Nat) : Prop := s.regionFree region = true

/-- The entry of a region after an event. -/
def dirOf (t : State) (region : Nat) : DirEntry := t.fabric.dir.read region

end Sys2Proof.Claims
open Sys2Proof.Claims

/-- R387, R390, R392: a peer's request is performed once at its home, its reply kept until it is acknowledged or abandoned; one that faults
is answered with its class; the directory follows. What waits is the model's reading: log entry 23. -/
def Obligations.InboundEvents : Prop :=
  ∀ (s : State) (origin num pa : Nat) (op : RemoteOp),
    (isTagged op = true → s.fabric.replies.read (tagKey origin num) ≠ .none → exec (.remoteRequest origin num pa op) s = .next s) ∧
    (∀ v, Serves s origin num pa op → (∀ w, op = .write w → (s.fabric.dir.read (pa / 2048)).state ≠ .o) →
      (s.refill (pa / 128)).dirServe origin (pa / 2048) op = some v →
      exec (.remoteRequest origin num pa op) s = .next (if isTagged op = true then
        (v.serveInbound origin pa op).2.putReply origin num (v.serveInbound origin pa op).1 else (v.serveInbound origin pa op).2)) ∧
    (∀ w, op = .write w → Serves s origin num pa op → (s.fabric.dir.read (pa / 2048)).state = .o →
      exec (.remoteRequest origin num pa op) s = .next (((s.refill (pa / 128)).serveInbound origin pa op).2.putReply origin num (.value 0))) ∧
    (∀ c, (isTagged op = true → s.fabric.replies.read (tagKey origin num) = .none) → s.inboundFault pa op = some c → c ≠ 2 →
      Completes (.remoteRequest origin num pa op) s fun t =>
        (isTagged op = true → t.fabric.replies.read (tagKey origin num) = .fault c) ∧ ∃ u : State, t = u.frqRaise {
          type := 7, cls := c, detail := c, pa := pa, value := BitVec.ofNat 64 origin, rflags := if op = .read then 0 else 1 }) ∧
    (Completes (.replyAck origin num) s fun t => t.fabric.replies.read (tagKey origin num) = .none ∧
      ∀ k, k ≠ tagKey origin num → t.fabric.replies.read k = s.fabric.replies.read k) ∧
    (Completes (.tagAbandon origin num) s fun t => t.fabric.replies.read (tagKey origin num) = .none ∧
      ∀ k, k ≠ tagKey origin num → t.fabric.replies.read k = s.fabric.replies.read k) ∧
    (∀ p r, s.homedHere (2048 * r) = true → RegionOpen s r →
      (∀ w, Completes (.directoryRequest p r (.write w)) s fun t => dirOf t r = default) ∧
      (p ≠ s.caps.pkg → ((dirOf s r).state ≠ .u ∨ s.fabric.dir.length < 1048576) →
        (Completes (.directoryRequest p r .ownership) s fun t => (dirOf t r).state = .o ∧ (dirOf t r).owner = p) ∧
        ((dirOf s r).state ≠ .o → Completes (.directoryRequest p r .read) s fun t => (dirOf t r).state = .s ∧
          (dirOf t r).sharers = (dirOf s r).sharers ||| pkgBit p))) ∧
    (∀ r, NoStores s → s.homedAway (2048 * r) = true → RegionOpen s r →
      (Completes (.directoryRecall r false) s fun t => t.fabric.owned.read r = false ∧
        ∀ i, i < 16 → (t.sline (16 * r + i)).present = false ∧ t.owner (16 * r + i) = none) ∧
      (Completes (.directoryRecall r true) s fun t => t.fabric.owned.read r = false ∧
        ∀ i, i < 16 → (t.sline (16 * r + i)).dirty = false ∧ t.owner (16 * r + i) = none))

/-- R277, R390, R391, R393: a reply ends its tag and the accesses that it was bound to go on or fault; a line comes raw or as a block, and
a malformed block is a FORMAT fault; an ownership grant that an invalidation met gives nothing; a request is sent again after 500 us and
times out after 2 ms; a REMOTE record is ready at a fill notice, or after 65,536 cycles; a lost link ends its tags.
The model's readings are log entry 22. -/
def Sys2Proof.Claims.ReplyEvents : Prop :=
  ∀ (s : State) (g : Tag), Open s g →
    (∀ c, exec (.remoteReply g.num (.fault c)) s = .next ((s.freeTag g).tagFaults g (g.remote c))) ∧
    (∀ v d, g.what = 0 → exec (.remoteReply g.num (.done v d)) s = .next ((s.freeTag g).lineArrives g d)) ∧
    (∀ v d, g.what = 1 → g.killed = true → exec (.remoteReply g.num (.done v d)) s = .next (s.freeTag g)) ∧
    (∀ v d, g.what = 1 → g.killed = false → Completes (.remoteReply g.num (.done v d)) s fun t => ∃ u : State,
      u.fabric.owned.read (g.pa / 2048) = true ∧ t = u.lineArrives g d) ∧
    (∀ b : List Byte, let n := b.map (·.toNat)
      (blockMalformed n = true → exec (.remoteReply g.num (.block b)) s =
        .next ((s.freeTag g).tagFaults g { cls := 7, pa := g.pa, write := g.what != 0 })) ∧
      (blockMalformed n = false → g.what = 0 → exec (.remoteReply g.num (.block b)) s =
        .next ((s.freeTag g).lineArrives g (blockLine n)))) ∧
    (∀ v d, g.what = 2 → exec (.remoteReply g.num (.done v d)) s = .next ((s.freeTag g).atomReply g v)) ∧
    (∀ v d, g.what = 3 → exec (.remoteReply g.num (.done v d)) s = .next ((s.freeTag g).addReply g v)) ∧
    (g.sent + 500 * s.power.mhz ≤ s.clock → Completes (.remoteResend g.num) s fun t => t = { s with fabric := t.fabric } ∧
      ∀ x ∈ t.fabric.tags, x.num = g.num → x.timedOut = false → x.sent = s.clock) ∧
    (g.first + 2000 * s.power.mhz ≤ s.clock → Completes (.remoteTimeout g.num) s fun t => ∃ u : State, t = u.tagFaults g (g.remote 0) ∧
      (g.what ≠ 0 → ∀ x ∈ u.fabric.tags, x.num = g.num → x.timedOut = true) ∧
      (g.what = 0 → ∀ x ∈ u.fabric.tags, x.num = g.num → x.origin ≠ g.origin))

/-- R393: what wakes a REMOTE record, and what a lost link does. -/
def Sys2Proof.Claims.RemoteRecordEvents : Prop :=
  ∀ (s : State),
    (∀ pkg granule kind, s.window (4096 * granule) = some (kind, pkg) → Completes (.remoteFillNotice pkg granule) s fun t =>
      ∀ k q o p, s.op k q = some o → o.park = some p → p.state = .pending → p.cls = 5 → p.detail = 2 → p.pa / 4096 = granule →
        t.op k q = some { o with park := some { p with state := .ready } }) ∧
    (∀ k q o p, k < 2 ^ 40 → q < 2 ^ 32 → s.op k q = some o → o.park = some p → p.state = .pending → p.cls = 5 → p.since + 65536 ≤ s.clock →
      Completes (.remoteRetryTimer k q) s fun t => t.op k q = some { o with park := some { p with state := .ready } }) ∧
    (∀ pkg, (∀ g ∈ s.fabric.tags, g.target ≠ pkg) → Completes (.peerLinkDown pkg) s fun t => pkg ∈ t.fabric.down ∧
      t = { s with fabric := { s.fabric with down := t.fabric.down } })
namespace Sys2Proof.Claims

/-! ### Events of the debugger -/

/-- The troupe in slot `k` may be edited: it is halted, and the debug right of its context is held. -/
def Editable (s : State) (k : Nat) : Prop := (s.tr k).resident = true ∧ (s.ctx (s.ctxOf k)).debug = true ∧ (s.tr k).halted = true

/-- The troupe in slot `k` stands halted for `cause`, at its head; its READY threads are HALTED, the others as they were (R258, R260). -/
def HaltedFor (s t : State) (k cause : Nat) : Prop :=
  (t.tr k).halted = true ∧ (t.tr k).haltpc = (s.tr k).headPc ∧
    (t.tr k).haltrec = haltRec (if cause = 1 then (s.tr k).skid else 0) cause (s.tr k).level ∧
    ∀ l, l < 64 → (t.tr k).pt.state l = (if (s.tr k).pt.state l = .ready then .halted else (s.tr k).pt.state l) ∧
      (t.tr k).pt.pc l = (s.tr k).pt.pc l

/-- The halted threads of slot `k` are READY again (R261). -/
def ReleasedAt (s t : State) (k : Nat) : Prop :=
  (t.tr k).halted = false ∧ ∀ l, l < 64 → (t.tr k).pt.state l = (if (s.tr k).pt.state l = .halted then .ready else (s.tr k).pt.state l)

/-- The edit of slot `k` leaves it as `x`, and nothing else changes. -/
def EditedTo (s t : State) (k : Nat) (x : Troupe) : Prop := t.tr k = x ∧ OnlyTroupe k s t

/-- The watchpoint with number `wp`. -/
def watchAt (s : State) (wp : Nat) : Watch :=
  if wp < 256 then (s.ring (wp / 4)).wps.read (wp % 4) else (s.die ((wp - 256) / 8)).wps.read ((wp - 256) % 8)

end Sys2Proof.Claims
open Sys2Proof.Claims

/-- R254, R258 to R264, R270: rights are granted and revoked; with the right a troupe is halted, stepped and released, and breakpoints are
armed; a stop halts the context's troupes on the core that it reaches. -/
def Obligations.HaltEvents : Prop :=
  ∀ (s : State) (c k : Nat),
    (∀ b, Completes (.debugGrant c b) s fun t => (t.ctx c).debug = true ∧ (t.ctx c).killrev = b ∧ t = { s with contexts := t.contexts }) ∧
    ((s.ctx c).debug = true → (s.ctx c).endReason = 0 → (s.ctx c).dead = false → Completes (.debugRevoke c) s fun t =>
      (t.ctx c).debug = false ∧ (t.ctx c).arm = false ∧ (t.ctx c).stopring = false ∧ (∀ x ∈ t.stops, x.ctx ≠ c) ∧
      (∀ j, (s.tr j).resident = true → s.ctxOf j = c → (t.tr j).halted = false ∧ (t.tr j).stepping = false ∧ (t.tr j).spotlit = false) ∧
      ((s.ctx c).killrev = true → (t.ctx c).endReason = 2)) ∧
    (s.debugs k = true → (s.tr k).halted = false → (s.tr k).ended = false → Completes (.hjelmHalt (.troupe k)) s fun t => HaltedFor s t k 0) ∧
    (s.debugs k = true → (s.tr k).halted = true → exec (.hjelmHalt (.troupe k)) s = .next s) ∧
    (∀ x ∈ s.stops, x.ctx = c → x.arrives ≤ s.clock → Completes (.stopBroadcastArrival c x.core) s fun t =>
      (∀ y ∈ t.stops, y ∈ s.stops ∧ ¬ (y.ctx = c ∧ y.core = x.core ∧ y.arrives ≤ s.clock)) ∧
      ∀ j, s.debugs j = true → s.ctxOf j = c → coreOf j = x.core → (s.tr j).ended = false → (t.tr j).halted = true) ∧
    (Editable s k → (s.tr k).pt.inState .halted ≠ 0 → Completes (.hjelmStep k) s fun t =>
      ReleasedAt s t k ∧ (t.tr k).stepping = true ∧ OnlyTroupe k s t) ∧
    (Editable s k → Completes (.hjelmRelease (.troupe k)) s fun t => ReleasedAt s t k ∧ OnlyTroupe k s t) ∧
    ((s.ctx c).debug = true → ∀ on ring, Completes (.breakpointArm c on ring) s fun t =>
      (t.ctx c).arm = on ∧ (t.ctx c).stopring = ring ∧ t = { s with contexts := t.contexts })

/-- R254, R255, R261, R268: watchpoints, snapshots, and edits of a halted troupe, of its scratchpad and of memory. The numbers of
watchpoints and how an edit of memory waits are the model's: log entries 39, 40 and 76. -/
def Obligations.DebugEvents : Prop :=
  ∀ (s : State) (k : Nat),
    (∀ wp (v : W64), (s.ctx (bitsOf v.toNat 31 16)).debug = true → Completes (.wpctlWrite wp v) s fun t =>
      watchAt t wp = (watchAt s wp).write (if wp < 256 then 18 else 21) v ∧ ∀ j, j ≠ wp → watchAt t j = watchAt s j) ∧
    (∀ wp (v : W64), (s.ctx (bitsOf v.toNat 31 16)).debug = false → exec (.wpctlWrite wp v) s = .next s) ∧
    (∀ c, (s.ctx c).debug = true → s.snap.lock = false → s.snap.latchAt = 0 → Completes (.hjelmSnapshot c) s fun t =>
      t.snap.latchAt = s.clock + 32 ∧ t.snap.pendingSource = 2 ∧ t = { s with snap := t.snap }) ∧
    (s.snap.latchAt ≠ 0 → s.snap.latchAt < s.clock → Completes .snapshotLatch s fun t => t.snap.lock = true ∧
      t.snap.seq = s.snap.nextSeq ∧ t.snap.source = s.snap.pendingSource ∧ t.snap.clock = s.clock ∧ t = { s with snap := t.snap } ∧
      t.snap.cores = s.cores ∧ t.snap.rings = s.rings ∧ t.snap.dies = s.dies ∧ t.snap.engines = s.engines ∧ t.snap.bar2 = s.bar2 ∧
      ∀ e ∈ t.snap.troupes, ∃ x, (e.1, x) ∈ s.troupes ∧ x.resident = true ∧ e.2 = (x.pt, x.stalls)) ∧
    (Completes .snapshotFree s fun t => t = { s with snap := { s.snap with lock := false } }) ∧
    (Editable s k →
      (∀ r l v, r < (s.tr k).nregs → l < 64 → Completes (.hjelmEdit (.vreg k r l v)) s fun t =>
        EditedTo s t k { s.tr k with v := (s.tr k).v.write (64 * r + l) v }) ∧
      (∀ r v, Completes (.hjelmEdit (.sreg k r v)) s fun t => EditedTo s t k ((s.tr k).wsAt (s.tr k).level r v)) ∧
      (∀ r v, Completes (.hjelmEdit (.pred k r v)) s fun t => EditedTo s t k ((s.tr k).wp r (-1) v)) ∧
      (∀ r v, Completes (.hjelmEdit (.qpred k r v)) s fun t => EditedTo s t k ((s.tr k).wq r v)) ∧
      (∀ l v, l < 64 → v.toNat % 16 = 0 → canonical v = true → Completes (.hjelmEdit (.pc k l v)) s fun t =>
        EditedTo s t k { s.tr k with pt := { (s.tr k).pt with pcs := (s.tr k).pt.pcs.write l v } }) ∧
      (∀ va b u, k ∈ s.ctxTroupes (s.ctxOf k) → let ed := DebugEdit.memory (s.ctxOf k) va [b]
        (s.editLine (s.ctxOf k) va [b] = (.wait, u) → exec (.hjelmEdit ed) s = .next (u.keepEdit ed [ed])) ∧
        (∀ r, r ≠ .wait → s.editLine (s.ctxOf k) va [b] = (r, u) → exec (.hjelmEdit ed) s = .next (u.keepEdit ed []))) ∧
      (∀ ofs b, ofs < (s.co (s.tr k).company).scratch → Completes (.hjelmEdit (.scratch k ofs [b])) s fun t =>
        let p := (s.co (s.tr k).company).base (coreOf k) + ofs
        t = (s.scratchPut (coreOf k) p b).watchRing (coreOf k) (editBy (s.co (s.tr k).company).ctx) false true p 1) ∧
      (∀ ofs b, (s.co (s.tr k).company).scratch ≤ ofs → exec (.hjelmEdit (.scratch k ofs [b])) s = .next s)) ∧
    -- what a line of the edit does: a page that may be read is edited, at the line's current copy
    (∀ c va b e pa u v x, let w : Asker := ⟨2 ^ 45, c, 0⟩
      let die := ((s.ctxTroupes c).find? s.editable).elim 0 fun k => dieOf (coreOf k)
      (s.carried (.die die) c w va .read = (.wait, u) → s.editLine c va b = (.wait, u)) ∧
      (s.carried (.die die) c w va .read = (.ok (e, pa), u) → u.arrive w va e pa .write 0 = (.wait, v) → s.editLine c va b = (.wait, v)) ∧
      (s.carried (.die die) c w va .read = (.ok (e, pa), u) → u.arrive w va e pa .write 0 = (.ok x, v) → s.editLine c va b =
        (.ok (), ((v.writeBytes pa (b.map (·.toNat))).dropWords (pa / 128)).watchDie (homeSlice pa / 64) (editBy c) false true va b.length))) ∧
    ((s.tr k).halted = false →
      (∀ r l v, exec (.hjelmEdit (.vreg k r l v)) s = .next s) ∧ (∀ r v, exec (.hjelmEdit (.sreg k r v)) s = .next s) ∧
      (∀ l v, exec (.hjelmEdit (.pc k l v)) s = .next s))
namespace Sys2Proof.Claims

/-! ### The step, the decoder and memory -/

/-- No agent has anything to do, and the package has power: the step is an issue cycle. -/
def IssueTurn (s : State) : Prop := s.agenda = [] ∧ s.power.off = false ∧ s.defaultEvent = none

/-- The step issues `i` for the troupe in slot `k` from state `u`: the update of R68, the instruction, then the end of the cycle. -/
def Runs (s u : State) (k : Nat) (p : Pick) (w : IWord) (i : Instr) : Prop :=
  (∀ t, exec i (u.beginIssue k p w (some i)) = .next t → step s = .next (t.endIssue k p.pc (yields i ((u.tr k).acts i p.run)))) ∧
  (∀ x, exec i (u.beginIssue k p w (some i)) = .fault x → step s = .fault x) ∧
  (∀ x, exec i (u.beginIssue k p w (some i)) = .refused x → step s = .refused x)

/-- A word from its upper and lower half, as the spec writes them (R37). -/
def halves (hi lo : BitVec 64) : IWord := hi ++ lo

/-- The fields of a word with no flags, no stall and no reuse. -/
def plain (md : BitVec 8) (g : BitVec 4) (d a b e : BitVec 8) (x : BitVec 32) : Fields :=
  { md := md, g := g, d := d, a := a, b := b, e := e, x := x, st := 0, yl := false, wm := 0, sa := 15, sb := 15, ru := 0 }

end Sys2Proof.Claims
open Sys2Proof.Claims

/-- R67, R68, R140: on an issue cycle the word at the picked run's PC is fetched and decoded, and the step is that instruction's, with the
update of R68 before it and the end of the cycle after it; a word in the L1 instruction cache or in a present line is the 16 bytes at
the PC's offset. -/
def Obligations.StepRunsDecoded : Prop :=
  (∀ (s u : State) (k : Nat) (p : Pick) (w : IWord) (i : Instr), IssueTurn s → State.chooseIssue s.ports s = (some (k, .word p w i), u) →
    Runs s u k p w i ∧ ∃ v : State, (v.nextWord k).1 = .word p w i ∧ decodeFor (isCalliope k) (v.tr k).nregs w = .ok i) ∧
  (∀ (s u : State) (k : Nat) (ks : List Nat) (p : Pick) (w : IWord) (i : Instr), IssueTurn s → s.ports = k :: ks →
    (s.tr k).pt.pick (s.tr k).heldThreads = some p → (∀ h ∈ (s.tr k).holds, h.pc ≠ p.pc) → s.fetchWord k p.pc = (.ok w, u) →
    decodeFor (isCalliope k) (s.tr k).nregs w = .ok i → (∀ f, i ≠ .accalloc f) → u.holdReason k i p.run = none → Runs s u k p w i) ∧
  (∀ (s u : State) (k : Nat) (pc : W64) (e : TlbEntry) (pa : Nat), (s.tr k).ibuf = [] →
    s.carried (.core (coreOf k)) (s.ctxOf k) (fetcher k pc) pc .fetch = (.ok (e, pa), u) →
    (((u.core (coreOf k)).l1i.read (pa / 128)).valid = true →
      (s.fetchWord k pc).1 = .ok (wordIn ((u.core (coreOf k)).l1i.read (pa / 128)).data pc.toNat)) ∧
    (∀ x, ((u.core (coreOf k)).l1i.read (pa / 128)).valid = false → u.flightOf (fetcher k pc) (pc.toNat / 128) = none →
      (u.sline (pa / 128)).present = true → u.homeCheck e pa .fetch = .ok x →
      (s.fetchWord k pc).1 = .ok (wordIn (u.sline (pa / 128)).data pc.toNat)))

/-- R372, and the model's order of agents (log entry 1): the next item of the agenda comes first, then an event by which an
agent goes on, then an issue; when nothing can issue, troupes change places, and a cycle passes. Without power only RESET runs.
The order is the model's choice: log entries 1 and 13. -/
def Obligations.StepOrder : Prop :=
  (∀ (s : State) (i : Instr) (is : List Instr), s.agenda = i :: is →
    (s.power.off = false ∨ i = .reset → i.word = none → step s = exec i { s with agenda := is }) ∧
    (s.power.off = false → i.word ≠ none → step s = .next { s with agenda := is }) ∧
    (s.power.off = true → i ≠ .reset → step s = .fault .poweredOff)) ∧
  (∀ s : State, s.agenda = [] → s.power.off = true → step s = .fault .poweredOff) ∧
  (∀ (s : State) (i : Instr), s.agenda = [] → s.power.off = false → s.defaultEvent = some i → step s = exec i s) ∧
  (∀ s : State, IssueTurn s → (∀ k ∈ s.ports, (s.nextWord k).1 = .none ∧ (s.nextWord k).2 = s) →
    (∀ i, (setEvents s).find? s.changedBy = some i → step s = exec i s) ∧
    ((setEvents s).find? s.changedBy = none → step s = .next s.tick))

/-- R56, R57: a word that fails a check of R56 raises its trap, which counts as an issue. The decoder refuses an opcode that the map does not
hold, an instruction that the calliope may not run, Z that is not zero, and fields that break a check, in this order.
Which detail a field raises is log entry 16. -/
def Obligations.EncodingTraps : Prop :=
  (∀ (s u : State) (k : Nat) (p : Pick) (w : IWord) (e : EncTrap), IssueTurn s → State.chooseIssue s.ports s = (some (k, .bad p w e), u) →
    step s = .next (((u.beginIssue k p w none).trapWord (EncTrap.cause e).1 (EncTrap.cause e).2 0).endIssue k p.pc false) ∧
    ∃ v : State, decodeFor (isCalliope k) (v.tr k).nregs w = .error e) ∧
  (∀ (w : IWord) (cal : Bool) (n : Nat), (ofOpcode (wordOp w) = none → decodeFor cal n w = .error (.illegalInstruction 0)) ∧
    ∀ mk, ofOpcode (wordOp w) = some mk → let i := mk (wordFields w)
      (cal = true → i.calliopeMay = false → decodeFor cal n w = .error (.illegalInstruction 1)) ∧
      (cal = false ∨ i.calliopeMay = true →
        (wordZ w ≠ 0 → decodeFor cal n w = .error (.illegalEncoding 1)) ∧
        (∀ d, wordZ w = 0 → checkFields i.layout (wordFields w) = some d → decodeFor cal n w = .error (.illegalEncoding d)) ∧
        (wordZ w = 0 → checkFields i.layout (wordFields w) = none →
          (∀ d, checkAlloc i.layout i.fields n = some d → decodeFor cal n w = .error (.illegalEncoding d)) ∧
          (checkAlloc i.layout i.fields n = none → decodeFor cal n w = .ok i))))

/-- R333, R345, R353, R360, R372, R373: the package after reset: its registers, no frame with a span, every queue off, no troupe, and the
memory form. That memory which nothing has written reads as zero is the model's choice. Log entries 3 to 6. -/
def Obligations.ResetState : Prop :=
  State.reset.reg 0x9000 = 0x80000400 ∧ State.reset.reg 0x90B8 = 1500 ∧
  (∀ o, o ≠ 0x9000 → o ≠ 0x90B8 → o ≠ 0x10000 → State.reset.reg o = 0) ∧ State.reset.troupes = [] ∧ State.reset.companies = [] ∧
  (∀ f, (State.reset.frame f).fstate = 0 ∧ (State.reset.frame f).fgen = 0) ∧ (∀ q, State.reset.qEnabled q = false) ∧
  State.reset.power = { off := false, up := true, bootStage := 4, bootFail := 0, mhz := 1000, tj := 0, throt := false, raiseAt := 0 } ∧
  State.reset.clock = 0 ∧ State.reset.snap.lock = false ∧ (∀ pa, State.reset.byteAt pa = 0) ∧ State.reset.toMemory.wf = true

/-- R37, R400 to R410: words that the spec writes out decode to the instructions that it says they are. -/
def Obligations.DecodeWords : Prop :=
  decode (halves 0x2024020401030200 0x000000400197C000) =
    .ok (.ffma { plain 0x40 2 4 1 3 2 0 with st := 4, wm := 3, sa := 2, ru := 4 }) ∧
  decode (halves 0x00100700000000FF 0xFFFFFD00007F8000) = .ok (.bra (plain 0 7 0 0 0 0 0xFFFFFFFD)) ∧
  decode (halves 0x10B0270102034C00 0x00000000007F8000) = .ok (.isetp (plain 2 7 1 2 3 0x4C 0)) ∧
  decode (halves 0x3808970804020008 0x00004000007F8000) = .ok (.ld (plain 0x89 7 8 4 2 0 0x08000040)) ∧
  decode (halves 0x8830573F05000000 0x00000100007F8000) = .ok (.tsadd (plain 5 7 63 5 0 0 1)) ∧
  decode (halves 0x90402700080C0E00 0x00013F00007F8000) = .ok (.mxmul (plain 2 7 0 8 12 14 0x13F)) ∧
  decode (halves 0x6010270C04061400 0x00000000007F8000) = .ok (.rayt (plain 2 7 12 4 6 20 0)) ∧
  decode (halves 0xA030070700000000 0x00001200007F8000) = .ok (.snap (plain 0 7 7 0 0 0 0x12)) ∧
  decode (halves 0x4050070A14000000 0x03000000007F8000) = .ok (.mcas (plain 0 7 10 20 0 0 0x00030000)) ∧
  decode (halves 0x8810270004060A00 0x00000000007F8000) = .ok (.cps (plain 2 7 0 4 6 10 0))

/-- R37, R56, R58, R59: every well-formed word of the opcode map, with every operand at every value that its encoding admits, decodes from
its own encoding. -/
def Obligations.DecodeEncode : Prop :=
  ∀ (i : Instr) (w : IWord), i.wf = true → encode i = some w → decode w = .ok i

/-- The canonical form of memory is kept by every step, from every state that has it. -/
def Obligations.MemoryFormKept : Prop :=
  ∀ s t : State, s.toMemory.wf = true → step s = .next t → t.toMemory.wf = true

/-- R180, R281, R284: a byte written at its home is the byte that is read there; every other line reads as before, and the rest of its line
as the recall of its token leaves it. A turnstile add leaves the sum, or 2^64 - 1, and says whether it saturated. -/
def Obligations.HomeWrites : Prop :=
  (∀ (s : State) (pa : Nat) (b : Byte), (s.pokeByte pa b).byteAt pa = b ∧
    (∀ a, a / 128 ≠ pa / 128 → (s.pokeByte pa b).byteAt a = s.byteAt a) ∧
    (∀ a, a / 128 = pa / 128 → a ≠ pa → (s.pokeByte pa b).byteAt a = (s.recall (pa / 128)).byteAt a)) ∧
  (∀ (s : State) (pa v : Nat), pa % 8 = 0 →
    (s.addPhys pa v).2.peekNat pa 8 = min (s.peekNat pa 8 + v) (2 ^ 64 - 1) ∧
    (s.addPhys pa v).1 = decide (2 ^ 64 ≤ s.peekNat pa 8 + v) ∧
    ∀ a, a / 128 ≠ pa / 128 → (s.addPhys pa v).2.byteAt a = s.byteAt a)

/-- Results and frame of the 32-bit and 64-bit integer words. -/
def Obligations.IntegerWords : Prop :=
  IntegerResults32 ∧ IntegerResults64

/-- Results and frame of the compares that write predicates. -/
def Obligations.CompareWords : Prop :=
  CompareResults ∧ PackedCompare

/-- Results and frame of the floating-point words. -/
def Obligations.FloatWords : Prop :=
  FloatResults32 ∧ FloatResults64

/-- CVT, QBLK and DQBLK: results, draws and frame. -/
def Obligations.ConversionWords : Prop :=
  ConvertResult ∧ BlockResults

/-- PLOP, VOTE, ELECT and MATCH write what their rules say and nothing else. -/
def Obligations.LanePredicateWords : Prop :=
  PlopResult ∧ VoteResult ∧ ElectResult ∧ MatchResult

/-- SHFL, REDUX and SCAN: results and frame. -/
def Obligations.ExchangeWords : Prop :=
  ExchangeResults

/-- The uniform words: scalar and predicate results, guard and frame. -/
def Obligations.ScalarWords : Prop :=
  ScalarResults ∧ ScalarPredicates

/-- What a guard means, and what ST, WM and pending results hold. -/
def Obligations.GuardsAndHolds : Prop :=
  GuardMeaning ∧ IssueHolds

/-- NOP has no effect; SLEEP puts its active lanes to sleep at PC + 16. -/
def Obligations.PauseWords : Prop :=
  NopResult ∧ SleepResult

/-- BRA, BRI, CALL and RET: targets, links and the branch-target trap. -/
def Obligations.BranchWords : Prop :=
  BranchResult ∧ BranchTraps

/-- Taking an exception: entry to level 1, the double trap, no handler, host handling. -/
def Obligations.TrapEntry : Prop :=
  TrapEntered ∧ TrapElsewhere

/-- TRAP and BKPT: their causes, and the halt of an armed breakpoint. -/
def Obligations.SoftwareTraps : Prop :=
  TrapWords ∧ BreakpointHalts

/-- TRET returns from level 1, and is trapped at level 0. -/
def Obligations.TrapReturn : Prop :=
  TretResult ∧ TretAtLevelZero

/-- Loads, stores and layout accesses issue as operations with their addresses and data. -/
def Obligations.AccessWords : Prop :=
  AccessIssue ∧ LayoutIssue

/-- GATH, SCAT, SLD, SLDC and words with a constant-bank operand issue as operations. -/
def Obligations.GatherWords : Prop :=
  GatherIssue ∧ ScalarLoadIssue ∧ ConstantBankIssue

/-- Atomics and locked operations issue with their lanes, addresses and operands. -/
def Obligations.AtomicWords : Prop :=
  AtomicIssue ∧ LockedIssue

/-- CPT, CPS and LAYEX enter an engine, or trap. -/
def Obligations.EngineWords : Prop :=
  EngineCommandIssue ∧ EngineCommandTraps

/-- TSADD, TSWAIT, TSREAD, BAR, BARA, WAITOC, QPUSH and QPOP issue. -/
def Obligations.SynchronisationWords : Prop :=
  TurnstileIssue ∧ QueueIssue

/-- MXACQ, ACCALLOC and ACCFREE at issue. -/
def Obligations.AccumulatorBanks : Prop :=
  AcquireArray ∧ AllocateBanks ∧ FreeBanks

/-- Matrix words enter the queue of their core. -/
def Obligations.MatrixWords : Prop :=
  MatrixIssue

/-- ACCRD and ACCWR issue as operations in the matrix queue. -/
def Obligations.ElementWords : Prop :=
  ElementIssue

/-- CUTSEL, RAYT, RAYR, RAST and the texture words issue, or trap. -/
def Obligations.GeometryWords : Prop :=
  LaneGeometryIssue ∧ RingCommandIssue ∧ GeometryTraps

/-- SYSR and SYSW: values, effects and traps of every register. -/
def Obligations.SystemRegisterWords : Prop :=
  SystemRead ∧ SystemWrite ∧ SystemTraps

/-- PERF, SNAP and TLBI. -/
def Obligations.CounterWords : Prop :=
  PerfResult ∧ SnapResult ∧ TlbiResult

/-- Adds, reads, waits and barriers of turnstiles complete, and accepted pushes and pops end. -/
def Obligations.TurnstileEvents : Prop :=
  TurnstileAnswers ∧ WaitEvents ∧ QueueEvents

/-- Lane accesses and atomics are performed, end, and deliver their values. -/
def Obligations.LaneMemoryEvents : Prop :=
  OperationEnds ∧ AccessEvents ∧ ScratchEvents ∧ AtomicEvents ∧ DeliveredValues

/-- Copies and layout commands are performed, and end. -/
def Obligations.EngineEvents : Prop :=
  LaneCopyEvent ∧ EngineSteps ∧ EngineFatalEvents

/-- Matrix commands act at the head of their queue, and errors end a company or a command. -/
def Obligations.MatrixEvents : Prop :=
  MatrixStateEvents ∧ MatrixRowEvents ∧ MatrixErrorEvents

/-- The page cache fills, reclaims and loses frames as its rules say. -/
def Obligations.PageCacheEvents : Prop :=
  FillEvents ∧ PageEvents ∧ FrameControlEvents

/-- Heat, reset, links, spares, registers and attestation. -/
def Obligations.HostEvents : Prop :=
  ThermalEvents ∧ HostWrites

/-- Replies, resends, time-outs and lost links. -/
def Obligations.OutboundEvents : Prop :=
  ReplyEvents ∧ RemoteRecordEvents

/-- The tightrope, the ray engine, the rasteriser and the sampler perform their next item, or take its fault. -/
def Obligations.GeometryEvents : Prop :=
  TightropeEvents ∧ RayEvents ∧ RasterEvents ∧ TextureEvents

/-- Shows and companies are taken, started, placed, saved, restored and retired. -/
def Obligations.SchedulerEvents : Prop :=
  CompanyEvents ∧ ShowEvents

/-- No form stops the machine: each instruction and each event answers a next state, in every state. -/
def Obligations.NoFormStops : Prop :=
  ∀ (i : Instr) (s : State), ∃ t, exec i s = .next t
end

