-- ==== Sys2Proof/Laws/Table.lean ====
section
/-!
SUPPORT. What reading and writing a sparse table does, and that every operation on a table keeps its canonical form.
-/
namespace Sys2Proof

variable {α : Type}

@[simp] theorem Tbl.read_nil [Inhabited α] (k : Nat) : Tbl.read ([] : Tbl α) k = default := rfl

@[simp] theorem Tbl.read_drop_self [Inhabited α] (m : Tbl α) (k : Nat) : (m.drop k).read k = default := by
  induction m with
  | nil => rfl
  | cons e m ih =>
    obtain ⟨k', v'⟩ := e
    by_cases h : k' = k
    · subst h; simpa [Tbl.drop] using ih
    · have : (k' != k) = true := by simp [h]
      simp only [Tbl.drop, List.filter_cons, this, if_true, Tbl.read, h, if_false] at ih ⊢
      exact ih

theorem Tbl.read_drop_other [Inhabited α] (m : Tbl α) {k k' : Nat} (h : k' ≠ k) : (m.drop k).read k' = m.read k' := by
  induction m with
  | nil => rfl
  | cons e m ih =>
    obtain ⟨j, v⟩ := e
    by_cases hj : j = k
    · subst hj
      have : ¬ j = k' := fun e => h e.symm
      simpa [Tbl.drop, Tbl.read, this] using ih
    · have hb : (j != k) = true := by simp [hj]
      simp only [Tbl.drop, List.filter_cons, hb, if_true, Tbl.read] at ih ⊢
      split
      · rfl
      · exact ih

/-- A read after a write to the same key gives the value written. -/
@[simp] theorem Tbl.read_write_self [Inhabited α] [DecidableEq α] (m : Tbl α) (k : Nat) (v : α) :
    (m.write k v).read k = v := by
  induction m with
  | nil => by_cases h : v = default <;> simp [Tbl.write, Tbl.read, h]
  | cons e m ih =>
    obtain ⟨j, w⟩ := e
    simp only [Tbl.write]
    split
    · split
      · rename_i h; simp [h]
      · simp [Tbl.read]
    · rename_i hj
      have hj' : ¬ j = k := fun e => hj e.symm
      split
      · split
        · rename_i h; simp [Tbl.read, hj', h]
        · simp [Tbl.read]
      · simpa [Tbl.read, hj'] using ih

/-- A write leaves every other key alone. -/
theorem Tbl.read_write_other [Inhabited α] [DecidableEq α] (m : Tbl α) {k k' : Nat} (v : α) (h : k' ≠ k) :
    (m.write k v).read k' = m.read k' := by
  have h' : ¬ k = k' := fun e => h e.symm
  induction m with
  | nil => by_cases hv : v = default <;> simp [Tbl.write, Tbl.read, hv, h']
  | cons e m ih =>
    obtain ⟨j, w⟩ := e
    simp only [Tbl.write]
    split
    · rename_i hj
      subst hj
      split
      · simpa [Tbl.read, h'] using Tbl.read_drop_other m h
      · simp [Tbl.read, h']
    · split
      · split
        · simp only [Tbl.read, Tbl.read_drop_other m h]
        · simp [Tbl.read, h']
      · simp only [Tbl.read, ih]

theorem Tbl.read_write [Inhabited α] [DecidableEq α] (m : Tbl α) (k k' : Nat) (v : α) :
    (m.write k v).read k' = if k' = k then v else m.read k' := by
  split
  · rename_i h; subst h; simp
  · rename_i h; exact Tbl.read_write_other m v h

theorem Tbl.read_modify [Inhabited α] [DecidableEq α] (m : Tbl α) (k k' : Nat) (f : α → α) :
    (m.modify k f).read k' = if k' = k then f (m.read k) else m.read k' := by
  simp [Tbl.modify, Tbl.read_write]

/-- What writing the listed lanes does to a read. -/
theorem Tbl.read_writeLanes [Inhabited α] [DecidableEq α] (base : Nat) (act : Mask) (f : Nat → α) (ls : List Nat)
    (m : Tbl α) (k : Nat) :
    (Tbl.writeLanes m base act f ls).read k =
      if ∃ l ∈ ls, k = base + l ∧ inMask act l = true then f (k - base) else m.read k := by
  induction ls generalizing m with
  | nil => simp [Tbl.writeLanes]
  | cons l ls ih =>
    simp only [Tbl.writeLanes, ih]
    by_cases h : ∃ x ∈ ls, k = base + x ∧ inMask act x = true
    · obtain ⟨x, hx, hk, ha⟩ := h
      have h1 : ∃ x ∈ ls, k = base + x ∧ inMask act x = true := ⟨x, hx, hk, ha⟩
      have h2 : ∃ x ∈ l :: ls, k = base + x ∧ inMask act x = true := ⟨x, List.mem_cons_of_mem _ hx, hk, ha⟩
      simp only [h1, h2, if_true]
    · simp only [h, if_false]
      by_cases ha : inMask act l = true
      · simp only [ha, if_true, Tbl.read_write]
        by_cases hk : k = base + l
        · have h2 : ∃ x ∈ l :: ls, k = base + x ∧ inMask act x = true := ⟨l, List.mem_cons_self .., hk, ha⟩
          simp only [hk, if_true] at *
          rw [if_pos h2]; congr 1; omega
        · have h2 : ¬ ∃ x ∈ l :: ls, k = base + x ∧ inMask act x = true := by
            rintro ⟨x, hx, hkx, hax⟩
            rcases List.mem_cons.1 hx with rfl | hx
            · exact hk hkx
            · exact h ⟨x, hx, hkx, hax⟩
          simp only [hk, if_false, h2]
      · have h2 : ¬ ∃ x ∈ l :: ls, k = base + x ∧ inMask act x = true := by
          rintro ⟨x, hx, hkx, hax⟩
          rcases List.mem_cons.1 hx with rfl | hx
          · exact ha hax
          · exact h ⟨x, hx, hkx, hax⟩
        simp only [ha, h2, if_false, Bool.false_eq_true]

/-- The read of lane `l` of a group of 64 keys after a write of the group's active lanes. -/
theorem Tbl.read_writeLanes_lane [Inhabited α] [DecidableEq α] (m : Tbl α) (r r' : Nat) (act : Mask) (f : Nat → α)
    {l : Nat} (h : l < 64) :
    (Tbl.writeLanes m (64 * r) act f lanes).read (64 * r' + l) =
      if r' = r ∧ inMask act l = true then f l else m.read (64 * r' + l) := by
  rw [Tbl.read_writeLanes]
  by_cases hr : r' = r
  · subst hr
    by_cases ha : inMask act l = true
    · have h2 : ∃ x ∈ lanes, 64 * r' + l = 64 * r' + x ∧ inMask act x = true :=
        ⟨l, by simp [lanes, h], rfl, ha⟩
      rw [if_pos h2, if_pos ⟨rfl, ha⟩]; congr 1; omega
    · have h2 : ¬ ∃ x ∈ lanes, 64 * r' + l = 64 * r' + x ∧ inMask act x = true := by
        rintro ⟨x, _, hx, hax⟩
        have : l = x := by omega
        exact ha (this ▸ hax)
      rw [if_neg h2, if_neg (fun h => ha h.2)]
  · have h2 : ¬ ∃ x ∈ lanes, 64 * r' + l = 64 * r + x ∧ inMask act x = true := by
      rintro ⟨x, hx, hk, _⟩
      simp only [lanes, List.mem_range] at hx
      omega
    rw [if_neg h2, if_neg (fun h => hr h.1)]

/-- The read of a lane after a write of all lanes at keys 0 to 63. -/
theorem Tbl.read_writeLanes_zero [Inhabited α] [DecidableEq α] (m : Tbl α) (act : Mask) (f : Nat → α) {l : Nat}
    (h : l < 64) :
    (Tbl.writeLanes m 0 act f lanes).read l = if inMask act l = true then f l else m.read l := by
  simpa using Tbl.read_writeLanes_lane m 0 0 act f h

/-! ### The canonical form -/

section Canonical
variable [Inhabited α] [DecidableEq α]

theorem Tbl.wfFrom_mono {b b' : Option Nat} {m : Tbl α} (hb : ∀ x, b' = some x → ∃ y, b = some y ∧ x ≤ y)
    (h : Tbl.wfFrom b m = true) : Tbl.wfFrom b' m = true := by
  cases m with
  | nil => rfl
  | cons e m =>
    obtain ⟨k, v⟩ := e
    simp only [Tbl.wfFrom, Bool.and_eq_true] at h ⊢
    refine ⟨⟨?_, h.1.2⟩, h.2⟩
    cases b' with
    | none => rfl
    | some x =>
      obtain ⟨y, rfl, hxy⟩ := hb x rfl
      have := h.1.1
      simp only [decide_eq_true_eq] at this ⊢
      omega

theorem Tbl.wfFrom_weaken {b : Option Nat} {k : Nat} {m : Tbl α} (h : Tbl.wfFrom (some k) m = true)
    (hb : ∀ x, b = some x → x ≤ k) : Tbl.wfFrom b m = true :=
  Tbl.wfFrom_mono (fun x hx => ⟨k, rfl, hb x hx⟩) h

theorem Tbl.wfFrom_filter (p : Nat × α → Bool) {b : Option Nat} {m : Tbl α} (h : Tbl.wfFrom b m = true) :
    Tbl.wfFrom b (m.filter p) = true := by
  induction m generalizing b with
  | nil => exact h
  | cons e m ih =>
    obtain ⟨k, v⟩ := e
    simp only [Tbl.wfFrom, Bool.and_eq_true] at h
    simp only [List.filter_cons]
    split
    · simp only [Tbl.wfFrom, Bool.and_eq_true]
      exact ⟨h.1, ih h.2⟩
    · refine Tbl.wfFrom_weaken (ih h.2) ?_
      rintro x rfl
      have := h.1.1
      simp only [decide_eq_true_eq] at this
      omega

/-- A bound below a key, in the form the canonical form states it. -/
theorem Tbl.below (b : Option Nat) (k : Nat) : (∀ x, b = some x → x < k) →
    (match b with | none => true | some b => decide (b < k)) = true := by
  intro hb
  cases b with
  | none => rfl
  | some x => simp [hb x rfl]

theorem Tbl.wfFrom_write {b : Option Nat} {m : Tbl α} {k : Nat} (v : α) (h : Tbl.wfFrom b m = true)
    (hb : ∀ x, b = some x → x < k) : Tbl.wfFrom b (m.write k v) = true := by
  induction m generalizing b with
  | nil =>
    by_cases hv : v = default
    · simp [Tbl.write, hv, Tbl.wfFrom]
    · cases b with
      | none => simp [Tbl.write, hv, Tbl.wfFrom]
      | some x => simp [Tbl.write, hv, Tbl.wfFrom, hb x rfl]
  | cons e m ih =>
    obtain ⟨j, w⟩ := e
    simp only [Tbl.wfFrom, Bool.and_eq_true, decide_eq_true_eq] at h
    obtain ⟨⟨h1, h2⟩, h3⟩ := h
    simp only [Tbl.write]
    split
    · rename_i hj
      subst hj
      split
      · refine Tbl.wfFrom_filter _ (Tbl.wfFrom_weaken h3 ?_)
        rintro x rfl
        exact (hb x rfl).le
      · rename_i hv
        simp only [Tbl.wfFrom, Bool.and_eq_true, decide_eq_true_eq]
        exact ⟨⟨Tbl.below _ _ hb, hv⟩, h3⟩
    · split
      · rename_i hj hlt
        split
        · simp only [Tbl.wfFrom, Bool.and_eq_true, decide_eq_true_eq]
          exact ⟨⟨h1, h2⟩, Tbl.wfFrom_filter _ h3⟩
        · rename_i hv
          simp only [Tbl.wfFrom, Bool.and_eq_true, decide_eq_true_eq]
          exact ⟨⟨Tbl.below _ _ hb, hv⟩, ⟨hlt, h2⟩, h3⟩
      · rename_i hj hlt
        simp only [Tbl.wfFrom, Bool.and_eq_true, decide_eq_true_eq]
        refine ⟨⟨h1, h2⟩, ih h3 ?_⟩
        rintro x hx
        cases hx
        omega

/-- A write keeps the canonical form. -/
theorem Tbl.wf_write {m : Tbl α} (k : Nat) (v : α) (h : m.wf = true) : (m.write k v).wf = true :=
  Tbl.wfFrom_write v h (by simp)

theorem Tbl.wf_modify {m : Tbl α} (k : Nat) (f : α → α) (h : m.wf = true) : (m.modify k f).wf = true :=
  Tbl.wf_write k _ h

/-- Leaving entries out keeps the canonical form. -/
theorem Tbl.wf_filter {m : Tbl α} (p : Nat × α → Bool) (h : m.wf = true) : Tbl.wf (m.filter p) = true :=
  Tbl.wfFrom_filter p h

theorem Tbl.wf_writeLanes {m : Tbl α} (base : Nat) (act : Mask) (f : Nat → α) (ls : List Nat) (h : m.wf = true) :
    (Tbl.writeLanes m base act f ls).wf = true := by
  induction ls generalizing m with
  | nil => exact h
  | cons l ls ih =>
    simp only [Tbl.writeLanes]
    apply ih
    split
    · exact Tbl.wf_write _ _ h
    · exact h

theorem Tbl.wfFrom_mapAll (f : Nat → α → α) {b : Option Nat} {m : Tbl α} (h : Tbl.wfFrom b m = true) :
    Tbl.wfFrom b (m.mapAll f) = true := by
  induction m generalizing b with
  | nil => rfl
  | cons e m ih =>
    obtain ⟨k, v⟩ := e
    simp only [Tbl.wfFrom, Bool.and_eq_true] at h
    simp only [Tbl.mapAll, List.map_cons, List.filter_cons] at ih ⊢
    split
    · rename_i hv
      simp only [Tbl.wfFrom, Bool.and_eq_true]
      exact ⟨⟨h.1.1, by simpa using hv⟩, ih h.2⟩
    · refine Tbl.wfFrom_weaken (ih h.2) ?_
      rintro x rfl
      have := h.1.1
      simp only [decide_eq_true_eq] at this
      omega

/-- Changing every listed value keeps the canonical form. -/
theorem Tbl.wf_mapAll {m : Tbl α} (f : Nat → α → α) (h : m.wf = true) : (m.mapAll f).wf = true :=
  Tbl.wfFrom_mapAll f h

end Canonical

theorem wf_writeBytes {m : Tbl Byte} (a n v : Nat) (h : m.wf = true) : (writeBytes m a n v).wf = true := by
  induction n generalizing m a v with
  | zero => exact h
  | succ n ih => exact ih _ _ (Tbl.wf_write _ _ h)

end Sys2Proof
end

