-- ==== Sys2Proof/Laws/State.lean ====
section
/-!
SUPPORT. One lemma for each field of the state and each named update: what the update leaves as it was; and what a unit
reads as after its own update.
-/
namespace Sys2Proof.Machine
variable (s : State)

@[simp] theorem State.setTr_cores (k : Nat) (x : Troupe) : (s.setTr k x).cores = s.cores := rfl
@[simp] theorem State.setTr_rings (k : Nat) (x : Troupe) : (s.setTr k x).rings = s.rings := rfl
@[simp] theorem State.setTr_dies (k : Nat) (x : Troupe) : (s.setTr k x).dies = s.dies := rfl
@[simp] theorem State.setTr_engines (k : Nat) (x : Troupe) : (s.setTr k x).engines = s.engines := rfl
@[simp] theorem State.setTr_companies (k : Nat) (x : Troupe) : (s.setTr k x).companies = s.companies := rfl
@[simp] theorem State.setTr_shows (k : Nat) (x : Troupe) : (s.setTr k x).shows = s.shows := rfl
@[simp] theorem State.setTr_contexts (k : Nat) (x : Troupe) : (s.setTr k x).contexts = s.contexts := rfl
@[simp] theorem State.setTr_posts (k : Nat) (x : Troupe) : (s.setTr k x).posts = s.posts := rfl
@[simp] theorem State.setTr_stops (k : Nat) (x : Troupe) : (s.setTr k x).stops = s.stops := rfl
@[simp] theorem State.setTr_nextCompany (k : Nat) (x : Troupe) : (s.setTr k x).nextCompany = s.nextCompany := rfl
@[simp] theorem State.setTr_nextShow (k : Nat) (x : Troupe) : (s.setTr k x).nextShow = s.nextShow := rfl
@[simp] theorem State.setTr_mem (k : Nat) (x : Troupe) : (s.setTr k x).mem = s.mem := rfl
@[simp] theorem State.setTr_slices (k : Nat) (x : Troupe) : (s.setTr k x).slices = s.slices := rfl
@[simp] theorem State.setTr_misses (k : Nat) (x : Troupe) : (s.setTr k x).misses = s.misses := rfl
@[simp] theorem State.setTr_lineErr (k : Nat) (x : Troupe) : (s.setTr k x).lineErr = s.lineErr := rfl
@[simp] theorem State.setTr_cache (k : Nat) (x : Troupe) : (s.setTr k x).cache = s.cache := rfl
@[simp] theorem State.setTr_bar2 (k : Nat) (x : Troupe) : (s.setTr k x).bar2 = s.bar2 := rfl
@[simp] theorem State.setTr_caps (k : Nat) (x : Troupe) : (s.setTr k x).caps = s.caps := rfl
@[simp] theorem State.setTr_restores (k : Nat) (x : Troupe) : (s.setTr k x).restores = s.restores := rfl
@[simp] theorem State.setTr_fq (k : Nat) (x : Troupe) : (s.setTr k x).fq = s.fq := rfl
@[simp] theorem State.setTr_fabric (k : Nat) (x : Troupe) : (s.setTr k x).fabric = s.fabric := rfl
@[simp] theorem State.setTr_snap (k : Nat) (x : Troupe) : (s.setTr k x).snap = s.snap := rfl
@[simp] theorem State.setTr_attest (k : Nat) (x : Troupe) : (s.setTr k x).attest = s.attest := rfl
@[simp] theorem State.setTr_power (k : Nat) (x : Troupe) : (s.setTr k x).power = s.power := rfl
@[simp] theorem State.setTr_agenda (k : Nat) (x : Troupe) : (s.setTr k x).agenda = s.agenda := rfl
@[simp] theorem State.setTr_cur (k : Nat) (x : Troupe) : (s.setTr k x).cur = s.cur := rfl
@[simp] theorem State.setTr_free (k : Nat) (x : Troupe) : (s.setTr k x).free = s.free := rfl
@[simp] theorem State.setTr_clock (k : Nat) (x : Troupe) : (s.setTr k x).clock = s.clock := rfl
@[simp] theorem State.modTr_cores (k : Nat) (g : Troupe → Troupe) : (s.modTr k g).cores = s.cores := rfl
@[simp] theorem State.modTr_rings (k : Nat) (g : Troupe → Troupe) : (s.modTr k g).rings = s.rings := rfl
@[simp] theorem State.modTr_dies (k : Nat) (g : Troupe → Troupe) : (s.modTr k g).dies = s.dies := rfl
@[simp] theorem State.modTr_engines (k : Nat) (g : Troupe → Troupe) : (s.modTr k g).engines = s.engines := rfl
@[simp] theorem State.modTr_companies (k : Nat) (g : Troupe → Troupe) : (s.modTr k g).companies = s.companies := rfl
@[simp] theorem State.modTr_shows (k : Nat) (g : Troupe → Troupe) : (s.modTr k g).shows = s.shows := rfl
@[simp] theorem State.modTr_contexts (k : Nat) (g : Troupe → Troupe) : (s.modTr k g).contexts = s.contexts := rfl
@[simp] theorem State.modTr_posts (k : Nat) (g : Troupe → Troupe) : (s.modTr k g).posts = s.posts := rfl
@[simp] theorem State.modTr_stops (k : Nat) (g : Troupe → Troupe) : (s.modTr k g).stops = s.stops := rfl
@[simp] theorem State.modTr_nextCompany (k : Nat) (g : Troupe → Troupe) : (s.modTr k g).nextCompany = s.nextCompany := rfl
@[simp] theorem State.modTr_nextShow (k : Nat) (g : Troupe → Troupe) : (s.modTr k g).nextShow = s.nextShow := rfl
@[simp] theorem State.modTr_mem (k : Nat) (g : Troupe → Troupe) : (s.modTr k g).mem = s.mem := rfl
@[simp] theorem State.modTr_slices (k : Nat) (g : Troupe → Troupe) : (s.modTr k g).slices = s.slices := rfl
@[simp] theorem State.modTr_misses (k : Nat) (g : Troupe → Troupe) : (s.modTr k g).misses = s.misses := rfl
@[simp] theorem State.modTr_lineErr (k : Nat) (g : Troupe → Troupe) : (s.modTr k g).lineErr = s.lineErr := rfl
@[simp] theorem State.modTr_cache (k : Nat) (g : Troupe → Troupe) : (s.modTr k g).cache = s.cache := rfl
@[simp] theorem State.modTr_bar2 (k : Nat) (g : Troupe → Troupe) : (s.modTr k g).bar2 = s.bar2 := rfl
@[simp] theorem State.modTr_caps (k : Nat) (g : Troupe → Troupe) : (s.modTr k g).caps = s.caps := rfl
@[simp] theorem State.modTr_restores (k : Nat) (g : Troupe → Troupe) : (s.modTr k g).restores = s.restores := rfl
@[simp] theorem State.modTr_fq (k : Nat) (g : Troupe → Troupe) : (s.modTr k g).fq = s.fq := rfl
@[simp] theorem State.modTr_fabric (k : Nat) (g : Troupe → Troupe) : (s.modTr k g).fabric = s.fabric := rfl
@[simp] theorem State.modTr_snap (k : Nat) (g : Troupe → Troupe) : (s.modTr k g).snap = s.snap := rfl
@[simp] theorem State.modTr_attest (k : Nat) (g : Troupe → Troupe) : (s.modTr k g).attest = s.attest := rfl
@[simp] theorem State.modTr_power (k : Nat) (g : Troupe → Troupe) : (s.modTr k g).power = s.power := rfl
@[simp] theorem State.modTr_agenda (k : Nat) (g : Troupe → Troupe) : (s.modTr k g).agenda = s.agenda := rfl
@[simp] theorem State.modTr_cur (k : Nat) (g : Troupe → Troupe) : (s.modTr k g).cur = s.cur := rfl
@[simp] theorem State.modTr_free (k : Nat) (g : Troupe → Troupe) : (s.modTr k g).free = s.free := rfl
@[simp] theorem State.modTr_clock (k : Nat) (g : Troupe → Troupe) : (s.modTr k g).clock = s.clock := rfl
@[simp] theorem State.setCore_troupes (c : Nat) (x : Core) : (s.setCore c x).troupes = s.troupes := rfl
@[simp] theorem State.setCore_rings (c : Nat) (x : Core) : (s.setCore c x).rings = s.rings := rfl
@[simp] theorem State.setCore_dies (c : Nat) (x : Core) : (s.setCore c x).dies = s.dies := rfl
@[simp] theorem State.setCore_engines (c : Nat) (x : Core) : (s.setCore c x).engines = s.engines := rfl
@[simp] theorem State.setCore_companies (c : Nat) (x : Core) : (s.setCore c x).companies = s.companies := rfl
@[simp] theorem State.setCore_shows (c : Nat) (x : Core) : (s.setCore c x).shows = s.shows := rfl
@[simp] theorem State.setCore_contexts (c : Nat) (x : Core) : (s.setCore c x).contexts = s.contexts := rfl
@[simp] theorem State.setCore_posts (c : Nat) (x : Core) : (s.setCore c x).posts = s.posts := rfl
@[simp] theorem State.setCore_stops (c : Nat) (x : Core) : (s.setCore c x).stops = s.stops := rfl
@[simp] theorem State.setCore_nextCompany (c : Nat) (x : Core) : (s.setCore c x).nextCompany = s.nextCompany := rfl
@[simp] theorem State.setCore_nextShow (c : Nat) (x : Core) : (s.setCore c x).nextShow = s.nextShow := rfl
@[simp] theorem State.setCore_mem (c : Nat) (x : Core) : (s.setCore c x).mem = s.mem := rfl
@[simp] theorem State.setCore_slices (c : Nat) (x : Core) : (s.setCore c x).slices = s.slices := rfl
@[simp] theorem State.setCore_misses (c : Nat) (x : Core) : (s.setCore c x).misses = s.misses := rfl
@[simp] theorem State.setCore_lineErr (c : Nat) (x : Core) : (s.setCore c x).lineErr = s.lineErr := rfl
@[simp] theorem State.setCore_cache (c : Nat) (x : Core) : (s.setCore c x).cache = s.cache := rfl
@[simp] theorem State.setCore_bar2 (c : Nat) (x : Core) : (s.setCore c x).bar2 = s.bar2 := rfl
@[simp] theorem State.setCore_caps (c : Nat) (x : Core) : (s.setCore c x).caps = s.caps := rfl
@[simp] theorem State.setCore_restores (c : Nat) (x : Core) : (s.setCore c x).restores = s.restores := rfl
@[simp] theorem State.setCore_fq (c : Nat) (x : Core) : (s.setCore c x).fq = s.fq := rfl
@[simp] theorem State.setCore_fabric (c : Nat) (x : Core) : (s.setCore c x).fabric = s.fabric := rfl
@[simp] theorem State.setCore_snap (c : Nat) (x : Core) : (s.setCore c x).snap = s.snap := rfl
@[simp] theorem State.setCore_attest (c : Nat) (x : Core) : (s.setCore c x).attest = s.attest := rfl
@[simp] theorem State.setCore_power (c : Nat) (x : Core) : (s.setCore c x).power = s.power := rfl
@[simp] theorem State.setCore_agenda (c : Nat) (x : Core) : (s.setCore c x).agenda = s.agenda := rfl
@[simp] theorem State.setCore_cur (c : Nat) (x : Core) : (s.setCore c x).cur = s.cur := rfl
@[simp] theorem State.setCore_free (c : Nat) (x : Core) : (s.setCore c x).free = s.free := rfl
@[simp] theorem State.setCore_clock (c : Nat) (x : Core) : (s.setCore c x).clock = s.clock := rfl
@[simp] theorem State.modCore_troupes (c : Nat) (g : Core → Core) : (s.modCore c g).troupes = s.troupes := rfl
@[simp] theorem State.modCore_rings (c : Nat) (g : Core → Core) : (s.modCore c g).rings = s.rings := rfl
@[simp] theorem State.modCore_dies (c : Nat) (g : Core → Core) : (s.modCore c g).dies = s.dies := rfl
@[simp] theorem State.modCore_engines (c : Nat) (g : Core → Core) : (s.modCore c g).engines = s.engines := rfl
@[simp] theorem State.modCore_companies (c : Nat) (g : Core → Core) : (s.modCore c g).companies = s.companies := rfl
@[simp] theorem State.modCore_shows (c : Nat) (g : Core → Core) : (s.modCore c g).shows = s.shows := rfl
@[simp] theorem State.modCore_contexts (c : Nat) (g : Core → Core) : (s.modCore c g).contexts = s.contexts := rfl
@[simp] theorem State.modCore_posts (c : Nat) (g : Core → Core) : (s.modCore c g).posts = s.posts := rfl
@[simp] theorem State.modCore_stops (c : Nat) (g : Core → Core) : (s.modCore c g).stops = s.stops := rfl
@[simp] theorem State.modCore_nextCompany (c : Nat) (g : Core → Core) : (s.modCore c g).nextCompany = s.nextCompany := rfl
@[simp] theorem State.modCore_nextShow (c : Nat) (g : Core → Core) : (s.modCore c g).nextShow = s.nextShow := rfl
@[simp] theorem State.modCore_mem (c : Nat) (g : Core → Core) : (s.modCore c g).mem = s.mem := rfl
@[simp] theorem State.modCore_slices (c : Nat) (g : Core → Core) : (s.modCore c g).slices = s.slices := rfl
@[simp] theorem State.modCore_misses (c : Nat) (g : Core → Core) : (s.modCore c g).misses = s.misses := rfl
@[simp] theorem State.modCore_lineErr (c : Nat) (g : Core → Core) : (s.modCore c g).lineErr = s.lineErr := rfl
@[simp] theorem State.modCore_cache (c : Nat) (g : Core → Core) : (s.modCore c g).cache = s.cache := rfl
@[simp] theorem State.modCore_bar2 (c : Nat) (g : Core → Core) : (s.modCore c g).bar2 = s.bar2 := rfl
@[simp] theorem State.modCore_caps (c : Nat) (g : Core → Core) : (s.modCore c g).caps = s.caps := rfl
@[simp] theorem State.modCore_restores (c : Nat) (g : Core → Core) : (s.modCore c g).restores = s.restores := rfl
@[simp] theorem State.modCore_fq (c : Nat) (g : Core → Core) : (s.modCore c g).fq = s.fq := rfl
@[simp] theorem State.modCore_fabric (c : Nat) (g : Core → Core) : (s.modCore c g).fabric = s.fabric := rfl
@[simp] theorem State.modCore_snap (c : Nat) (g : Core → Core) : (s.modCore c g).snap = s.snap := rfl
@[simp] theorem State.modCore_attest (c : Nat) (g : Core → Core) : (s.modCore c g).attest = s.attest := rfl
@[simp] theorem State.modCore_power (c : Nat) (g : Core → Core) : (s.modCore c g).power = s.power := rfl
@[simp] theorem State.modCore_agenda (c : Nat) (g : Core → Core) : (s.modCore c g).agenda = s.agenda := rfl
@[simp] theorem State.modCore_cur (c : Nat) (g : Core → Core) : (s.modCore c g).cur = s.cur := rfl
@[simp] theorem State.modCore_free (c : Nat) (g : Core → Core) : (s.modCore c g).free = s.free := rfl
@[simp] theorem State.modCore_clock (c : Nat) (g : Core → Core) : (s.modCore c g).clock = s.clock := rfl
@[simp] theorem State.modRing_troupes (c : Nat) (g : Ring → Ring) : (s.modRing c g).troupes = s.troupes := rfl
@[simp] theorem State.modRing_cores (c : Nat) (g : Ring → Ring) : (s.modRing c g).cores = s.cores := rfl
@[simp] theorem State.modRing_dies (c : Nat) (g : Ring → Ring) : (s.modRing c g).dies = s.dies := rfl
@[simp] theorem State.modRing_engines (c : Nat) (g : Ring → Ring) : (s.modRing c g).engines = s.engines := rfl
@[simp] theorem State.modRing_companies (c : Nat) (g : Ring → Ring) : (s.modRing c g).companies = s.companies := rfl
@[simp] theorem State.modRing_shows (c : Nat) (g : Ring → Ring) : (s.modRing c g).shows = s.shows := rfl
@[simp] theorem State.modRing_contexts (c : Nat) (g : Ring → Ring) : (s.modRing c g).contexts = s.contexts := rfl
@[simp] theorem State.modRing_posts (c : Nat) (g : Ring → Ring) : (s.modRing c g).posts = s.posts := rfl
@[simp] theorem State.modRing_stops (c : Nat) (g : Ring → Ring) : (s.modRing c g).stops = s.stops := rfl
@[simp] theorem State.modRing_nextCompany (c : Nat) (g : Ring → Ring) : (s.modRing c g).nextCompany = s.nextCompany := rfl
@[simp] theorem State.modRing_nextShow (c : Nat) (g : Ring → Ring) : (s.modRing c g).nextShow = s.nextShow := rfl
@[simp] theorem State.modRing_mem (c : Nat) (g : Ring → Ring) : (s.modRing c g).mem = s.mem := rfl
@[simp] theorem State.modRing_slices (c : Nat) (g : Ring → Ring) : (s.modRing c g).slices = s.slices := rfl
@[simp] theorem State.modRing_misses (c : Nat) (g : Ring → Ring) : (s.modRing c g).misses = s.misses := rfl
@[simp] theorem State.modRing_lineErr (c : Nat) (g : Ring → Ring) : (s.modRing c g).lineErr = s.lineErr := rfl
@[simp] theorem State.modRing_cache (c : Nat) (g : Ring → Ring) : (s.modRing c g).cache = s.cache := rfl
@[simp] theorem State.modRing_bar2 (c : Nat) (g : Ring → Ring) : (s.modRing c g).bar2 = s.bar2 := rfl
@[simp] theorem State.modRing_caps (c : Nat) (g : Ring → Ring) : (s.modRing c g).caps = s.caps := rfl
@[simp] theorem State.modRing_restores (c : Nat) (g : Ring → Ring) : (s.modRing c g).restores = s.restores := rfl
@[simp] theorem State.modRing_fq (c : Nat) (g : Ring → Ring) : (s.modRing c g).fq = s.fq := rfl
@[simp] theorem State.modRing_fabric (c : Nat) (g : Ring → Ring) : (s.modRing c g).fabric = s.fabric := rfl
@[simp] theorem State.modRing_snap (c : Nat) (g : Ring → Ring) : (s.modRing c g).snap = s.snap := rfl
@[simp] theorem State.modRing_attest (c : Nat) (g : Ring → Ring) : (s.modRing c g).attest = s.attest := rfl
@[simp] theorem State.modRing_power (c : Nat) (g : Ring → Ring) : (s.modRing c g).power = s.power := rfl
@[simp] theorem State.modRing_agenda (c : Nat) (g : Ring → Ring) : (s.modRing c g).agenda = s.agenda := rfl
@[simp] theorem State.modRing_cur (c : Nat) (g : Ring → Ring) : (s.modRing c g).cur = s.cur := rfl
@[simp] theorem State.modRing_free (c : Nat) (g : Ring → Ring) : (s.modRing c g).free = s.free := rfl
@[simp] theorem State.modRing_clock (c : Nat) (g : Ring → Ring) : (s.modRing c g).clock = s.clock := rfl
@[simp] theorem State.modDie_troupes (c : Nat) (g : Die → Die) : (s.modDie c g).troupes = s.troupes := rfl
@[simp] theorem State.modDie_cores (c : Nat) (g : Die → Die) : (s.modDie c g).cores = s.cores := rfl
@[simp] theorem State.modDie_rings (c : Nat) (g : Die → Die) : (s.modDie c g).rings = s.rings := rfl
@[simp] theorem State.modDie_engines (c : Nat) (g : Die → Die) : (s.modDie c g).engines = s.engines := rfl
@[simp] theorem State.modDie_companies (c : Nat) (g : Die → Die) : (s.modDie c g).companies = s.companies := rfl
@[simp] theorem State.modDie_shows (c : Nat) (g : Die → Die) : (s.modDie c g).shows = s.shows := rfl
@[simp] theorem State.modDie_contexts (c : Nat) (g : Die → Die) : (s.modDie c g).contexts = s.contexts := rfl
@[simp] theorem State.modDie_posts (c : Nat) (g : Die → Die) : (s.modDie c g).posts = s.posts := rfl
@[simp] theorem State.modDie_stops (c : Nat) (g : Die → Die) : (s.modDie c g).stops = s.stops := rfl
@[simp] theorem State.modDie_nextCompany (c : Nat) (g : Die → Die) : (s.modDie c g).nextCompany = s.nextCompany := rfl
@[simp] theorem State.modDie_nextShow (c : Nat) (g : Die → Die) : (s.modDie c g).nextShow = s.nextShow := rfl
@[simp] theorem State.modDie_mem (c : Nat) (g : Die → Die) : (s.modDie c g).mem = s.mem := rfl
@[simp] theorem State.modDie_slices (c : Nat) (g : Die → Die) : (s.modDie c g).slices = s.slices := rfl
@[simp] theorem State.modDie_misses (c : Nat) (g : Die → Die) : (s.modDie c g).misses = s.misses := rfl
@[simp] theorem State.modDie_lineErr (c : Nat) (g : Die → Die) : (s.modDie c g).lineErr = s.lineErr := rfl
@[simp] theorem State.modDie_cache (c : Nat) (g : Die → Die) : (s.modDie c g).cache = s.cache := rfl
@[simp] theorem State.modDie_bar2 (c : Nat) (g : Die → Die) : (s.modDie c g).bar2 = s.bar2 := rfl
@[simp] theorem State.modDie_caps (c : Nat) (g : Die → Die) : (s.modDie c g).caps = s.caps := rfl
@[simp] theorem State.modDie_restores (c : Nat) (g : Die → Die) : (s.modDie c g).restores = s.restores := rfl
@[simp] theorem State.modDie_fq (c : Nat) (g : Die → Die) : (s.modDie c g).fq = s.fq := rfl
@[simp] theorem State.modDie_fabric (c : Nat) (g : Die → Die) : (s.modDie c g).fabric = s.fabric := rfl
@[simp] theorem State.modDie_snap (c : Nat) (g : Die → Die) : (s.modDie c g).snap = s.snap := rfl
@[simp] theorem State.modDie_attest (c : Nat) (g : Die → Die) : (s.modDie c g).attest = s.attest := rfl
@[simp] theorem State.modDie_power (c : Nat) (g : Die → Die) : (s.modDie c g).power = s.power := rfl
@[simp] theorem State.modDie_agenda (c : Nat) (g : Die → Die) : (s.modDie c g).agenda = s.agenda := rfl
@[simp] theorem State.modDie_cur (c : Nat) (g : Die → Die) : (s.modDie c g).cur = s.cur := rfl
@[simp] theorem State.modDie_free (c : Nat) (g : Die → Die) : (s.modDie c g).free = s.free := rfl
@[simp] theorem State.modDie_clock (c : Nat) (g : Die → Die) : (s.modDie c g).clock = s.clock := rfl
@[simp] theorem State.modCo_troupes (c : Nat) (g : Co → Co) : (s.modCo c g).troupes = s.troupes := rfl
@[simp] theorem State.modCo_cores (c : Nat) (g : Co → Co) : (s.modCo c g).cores = s.cores := rfl
@[simp] theorem State.modCo_rings (c : Nat) (g : Co → Co) : (s.modCo c g).rings = s.rings := rfl
@[simp] theorem State.modCo_dies (c : Nat) (g : Co → Co) : (s.modCo c g).dies = s.dies := rfl
@[simp] theorem State.modCo_engines (c : Nat) (g : Co → Co) : (s.modCo c g).engines = s.engines := rfl
@[simp] theorem State.modCo_shows (c : Nat) (g : Co → Co) : (s.modCo c g).shows = s.shows := rfl
@[simp] theorem State.modCo_contexts (c : Nat) (g : Co → Co) : (s.modCo c g).contexts = s.contexts := rfl
@[simp] theorem State.modCo_posts (c : Nat) (g : Co → Co) : (s.modCo c g).posts = s.posts := rfl
@[simp] theorem State.modCo_stops (c : Nat) (g : Co → Co) : (s.modCo c g).stops = s.stops := rfl
@[simp] theorem State.modCo_nextCompany (c : Nat) (g : Co → Co) : (s.modCo c g).nextCompany = s.nextCompany := rfl
@[simp] theorem State.modCo_nextShow (c : Nat) (g : Co → Co) : (s.modCo c g).nextShow = s.nextShow := rfl
@[simp] theorem State.modCo_mem (c : Nat) (g : Co → Co) : (s.modCo c g).mem = s.mem := rfl
@[simp] theorem State.modCo_slices (c : Nat) (g : Co → Co) : (s.modCo c g).slices = s.slices := rfl
@[simp] theorem State.modCo_misses (c : Nat) (g : Co → Co) : (s.modCo c g).misses = s.misses := rfl
@[simp] theorem State.modCo_lineErr (c : Nat) (g : Co → Co) : (s.modCo c g).lineErr = s.lineErr := rfl
@[simp] theorem State.modCo_cache (c : Nat) (g : Co → Co) : (s.modCo c g).cache = s.cache := rfl
@[simp] theorem State.modCo_bar2 (c : Nat) (g : Co → Co) : (s.modCo c g).bar2 = s.bar2 := rfl
@[simp] theorem State.modCo_caps (c : Nat) (g : Co → Co) : (s.modCo c g).caps = s.caps := rfl
@[simp] theorem State.modCo_restores (c : Nat) (g : Co → Co) : (s.modCo c g).restores = s.restores := rfl
@[simp] theorem State.modCo_fq (c : Nat) (g : Co → Co) : (s.modCo c g).fq = s.fq := rfl
@[simp] theorem State.modCo_fabric (c : Nat) (g : Co → Co) : (s.modCo c g).fabric = s.fabric := rfl
@[simp] theorem State.modCo_snap (c : Nat) (g : Co → Co) : (s.modCo c g).snap = s.snap := rfl
@[simp] theorem State.modCo_attest (c : Nat) (g : Co → Co) : (s.modCo c g).attest = s.attest := rfl
@[simp] theorem State.modCo_power (c : Nat) (g : Co → Co) : (s.modCo c g).power = s.power := rfl
@[simp] theorem State.modCo_agenda (c : Nat) (g : Co → Co) : (s.modCo c g).agenda = s.agenda := rfl
@[simp] theorem State.modCo_cur (c : Nat) (g : Co → Co) : (s.modCo c g).cur = s.cur := rfl
@[simp] theorem State.modCo_free (c : Nat) (g : Co → Co) : (s.modCo c g).free = s.free := rfl
@[simp] theorem State.modCo_clock (c : Nat) (g : Co → Co) : (s.modCo c g).clock = s.clock := rfl
@[simp] theorem State.modCtx_troupes (c : Nat) (g : Ctx → Ctx) : (s.modCtx c g).troupes = s.troupes := rfl
@[simp] theorem State.modCtx_cores (c : Nat) (g : Ctx → Ctx) : (s.modCtx c g).cores = s.cores := rfl
@[simp] theorem State.modCtx_rings (c : Nat) (g : Ctx → Ctx) : (s.modCtx c g).rings = s.rings := rfl
@[simp] theorem State.modCtx_dies (c : Nat) (g : Ctx → Ctx) : (s.modCtx c g).dies = s.dies := rfl
@[simp] theorem State.modCtx_engines (c : Nat) (g : Ctx → Ctx) : (s.modCtx c g).engines = s.engines := rfl
@[simp] theorem State.modCtx_companies (c : Nat) (g : Ctx → Ctx) : (s.modCtx c g).companies = s.companies := rfl
@[simp] theorem State.modCtx_shows (c : Nat) (g : Ctx → Ctx) : (s.modCtx c g).shows = s.shows := rfl
@[simp] theorem State.modCtx_posts (c : Nat) (g : Ctx → Ctx) : (s.modCtx c g).posts = s.posts := rfl
@[simp] theorem State.modCtx_stops (c : Nat) (g : Ctx → Ctx) : (s.modCtx c g).stops = s.stops := rfl
@[simp] theorem State.modCtx_nextCompany (c : Nat) (g : Ctx → Ctx) : (s.modCtx c g).nextCompany = s.nextCompany := rfl
@[simp] theorem State.modCtx_nextShow (c : Nat) (g : Ctx → Ctx) : (s.modCtx c g).nextShow = s.nextShow := rfl
@[simp] theorem State.modCtx_mem (c : Nat) (g : Ctx → Ctx) : (s.modCtx c g).mem = s.mem := rfl
@[simp] theorem State.modCtx_slices (c : Nat) (g : Ctx → Ctx) : (s.modCtx c g).slices = s.slices := rfl
@[simp] theorem State.modCtx_misses (c : Nat) (g : Ctx → Ctx) : (s.modCtx c g).misses = s.misses := rfl
@[simp] theorem State.modCtx_lineErr (c : Nat) (g : Ctx → Ctx) : (s.modCtx c g).lineErr = s.lineErr := rfl
@[simp] theorem State.modCtx_cache (c : Nat) (g : Ctx → Ctx) : (s.modCtx c g).cache = s.cache := rfl
@[simp] theorem State.modCtx_bar2 (c : Nat) (g : Ctx → Ctx) : (s.modCtx c g).bar2 = s.bar2 := rfl
@[simp] theorem State.modCtx_caps (c : Nat) (g : Ctx → Ctx) : (s.modCtx c g).caps = s.caps := rfl
@[simp] theorem State.modCtx_restores (c : Nat) (g : Ctx → Ctx) : (s.modCtx c g).restores = s.restores := rfl
@[simp] theorem State.modCtx_fq (c : Nat) (g : Ctx → Ctx) : (s.modCtx c g).fq = s.fq := rfl
@[simp] theorem State.modCtx_fabric (c : Nat) (g : Ctx → Ctx) : (s.modCtx c g).fabric = s.fabric := rfl
@[simp] theorem State.modCtx_snap (c : Nat) (g : Ctx → Ctx) : (s.modCtx c g).snap = s.snap := rfl
@[simp] theorem State.modCtx_attest (c : Nat) (g : Ctx → Ctx) : (s.modCtx c g).attest = s.attest := rfl
@[simp] theorem State.modCtx_power (c : Nat) (g : Ctx → Ctx) : (s.modCtx c g).power = s.power := rfl
@[simp] theorem State.modCtx_agenda (c : Nat) (g : Ctx → Ctx) : (s.modCtx c g).agenda = s.agenda := rfl
@[simp] theorem State.modCtx_cur (c : Nat) (g : Ctx → Ctx) : (s.modCtx c g).cur = s.cur := rfl
@[simp] theorem State.modCtx_free (c : Nat) (g : Ctx → Ctx) : (s.modCtx c g).free = s.free := rfl
@[simp] theorem State.modCtx_clock (c : Nat) (g : Ctx → Ctx) : (s.modCtx c g).clock = s.clock := rfl
@[simp] theorem State.modSh_troupes (c : Nat) (g : Show → Show) : (s.modSh c g).troupes = s.troupes := rfl
@[simp] theorem State.modSh_cores (c : Nat) (g : Show → Show) : (s.modSh c g).cores = s.cores := rfl
@[simp] theorem State.modSh_rings (c : Nat) (g : Show → Show) : (s.modSh c g).rings = s.rings := rfl
@[simp] theorem State.modSh_dies (c : Nat) (g : Show → Show) : (s.modSh c g).dies = s.dies := rfl
@[simp] theorem State.modSh_engines (c : Nat) (g : Show → Show) : (s.modSh c g).engines = s.engines := rfl
@[simp] theorem State.modSh_companies (c : Nat) (g : Show → Show) : (s.modSh c g).companies = s.companies := rfl
@[simp] theorem State.modSh_contexts (c : Nat) (g : Show → Show) : (s.modSh c g).contexts = s.contexts := rfl
@[simp] theorem State.modSh_posts (c : Nat) (g : Show → Show) : (s.modSh c g).posts = s.posts := rfl
@[simp] theorem State.modSh_stops (c : Nat) (g : Show → Show) : (s.modSh c g).stops = s.stops := rfl
@[simp] theorem State.modSh_nextCompany (c : Nat) (g : Show → Show) : (s.modSh c g).nextCompany = s.nextCompany := rfl
@[simp] theorem State.modSh_nextShow (c : Nat) (g : Show → Show) : (s.modSh c g).nextShow = s.nextShow := rfl
@[simp] theorem State.modSh_mem (c : Nat) (g : Show → Show) : (s.modSh c g).mem = s.mem := rfl
@[simp] theorem State.modSh_slices (c : Nat) (g : Show → Show) : (s.modSh c g).slices = s.slices := rfl
@[simp] theorem State.modSh_misses (c : Nat) (g : Show → Show) : (s.modSh c g).misses = s.misses := rfl
@[simp] theorem State.modSh_lineErr (c : Nat) (g : Show → Show) : (s.modSh c g).lineErr = s.lineErr := rfl
@[simp] theorem State.modSh_cache (c : Nat) (g : Show → Show) : (s.modSh c g).cache = s.cache := rfl
@[simp] theorem State.modSh_bar2 (c : Nat) (g : Show → Show) : (s.modSh c g).bar2 = s.bar2 := rfl
@[simp] theorem State.modSh_caps (c : Nat) (g : Show → Show) : (s.modSh c g).caps = s.caps := rfl
@[simp] theorem State.modSh_restores (c : Nat) (g : Show → Show) : (s.modSh c g).restores = s.restores := rfl
@[simp] theorem State.modSh_fq (c : Nat) (g : Show → Show) : (s.modSh c g).fq = s.fq := rfl
@[simp] theorem State.modSh_fabric (c : Nat) (g : Show → Show) : (s.modSh c g).fabric = s.fabric := rfl
@[simp] theorem State.modSh_snap (c : Nat) (g : Show → Show) : (s.modSh c g).snap = s.snap := rfl
@[simp] theorem State.modSh_attest (c : Nat) (g : Show → Show) : (s.modSh c g).attest = s.attest := rfl
@[simp] theorem State.modSh_power (c : Nat) (g : Show → Show) : (s.modSh c g).power = s.power := rfl
@[simp] theorem State.modSh_agenda (c : Nat) (g : Show → Show) : (s.modSh c g).agenda = s.agenda := rfl
@[simp] theorem State.modSh_cur (c : Nat) (g : Show → Show) : (s.modSh c g).cur = s.cur := rfl
@[simp] theorem State.modSh_free (c : Nat) (g : Show → Show) : (s.modSh c g).free = s.free := rfl
@[simp] theorem State.modSh_clock (c : Nat) (g : Show → Show) : (s.modSh c g).clock = s.clock := rfl
@[simp] theorem State.modSline_troupes (c : Nat) (g : SLine → SLine) : (s.modSline c g).troupes = s.troupes := rfl
@[simp] theorem State.modSline_cores (c : Nat) (g : SLine → SLine) : (s.modSline c g).cores = s.cores := rfl
@[simp] theorem State.modSline_rings (c : Nat) (g : SLine → SLine) : (s.modSline c g).rings = s.rings := rfl
@[simp] theorem State.modSline_dies (c : Nat) (g : SLine → SLine) : (s.modSline c g).dies = s.dies := rfl
@[simp] theorem State.modSline_engines (c : Nat) (g : SLine → SLine) : (s.modSline c g).engines = s.engines := rfl
@[simp] theorem State.modSline_companies (c : Nat) (g : SLine → SLine) : (s.modSline c g).companies = s.companies := rfl
@[simp] theorem State.modSline_shows (c : Nat) (g : SLine → SLine) : (s.modSline c g).shows = s.shows := rfl
@[simp] theorem State.modSline_contexts (c : Nat) (g : SLine → SLine) : (s.modSline c g).contexts = s.contexts := rfl
@[simp] theorem State.modSline_posts (c : Nat) (g : SLine → SLine) : (s.modSline c g).posts = s.posts := rfl
@[simp] theorem State.modSline_stops (c : Nat) (g : SLine → SLine) : (s.modSline c g).stops = s.stops := rfl
@[simp] theorem State.modSline_nextCompany (c : Nat) (g : SLine → SLine) : (s.modSline c g).nextCompany = s.nextCompany := rfl
@[simp] theorem State.modSline_nextShow (c : Nat) (g : SLine → SLine) : (s.modSline c g).nextShow = s.nextShow := rfl
@[simp] theorem State.modSline_mem (c : Nat) (g : SLine → SLine) : (s.modSline c g).mem = s.mem := rfl
@[simp] theorem State.modSline_misses (c : Nat) (g : SLine → SLine) : (s.modSline c g).misses = s.misses := rfl
@[simp] theorem State.modSline_lineErr (c : Nat) (g : SLine → SLine) : (s.modSline c g).lineErr = s.lineErr := rfl
@[simp] theorem State.modSline_cache (c : Nat) (g : SLine → SLine) : (s.modSline c g).cache = s.cache := rfl
@[simp] theorem State.modSline_bar2 (c : Nat) (g : SLine → SLine) : (s.modSline c g).bar2 = s.bar2 := rfl
@[simp] theorem State.modSline_caps (c : Nat) (g : SLine → SLine) : (s.modSline c g).caps = s.caps := rfl
@[simp] theorem State.modSline_restores (c : Nat) (g : SLine → SLine) : (s.modSline c g).restores = s.restores := rfl
@[simp] theorem State.modSline_fq (c : Nat) (g : SLine → SLine) : (s.modSline c g).fq = s.fq := rfl
@[simp] theorem State.modSline_fabric (c : Nat) (g : SLine → SLine) : (s.modSline c g).fabric = s.fabric := rfl
@[simp] theorem State.modSline_snap (c : Nat) (g : SLine → SLine) : (s.modSline c g).snap = s.snap := rfl
@[simp] theorem State.modSline_attest (c : Nat) (g : SLine → SLine) : (s.modSline c g).attest = s.attest := rfl
@[simp] theorem State.modSline_power (c : Nat) (g : SLine → SLine) : (s.modSline c g).power = s.power := rfl
@[simp] theorem State.modSline_agenda (c : Nat) (g : SLine → SLine) : (s.modSline c g).agenda = s.agenda := rfl
@[simp] theorem State.modSline_cur (c : Nat) (g : SLine → SLine) : (s.modSline c g).cur = s.cur := rfl
@[simp] theorem State.modSline_free (c : Nat) (g : SLine → SLine) : (s.modSline c g).free = s.free := rfl
@[simp] theorem State.modSline_clock (c : Nat) (g : SLine → SLine) : (s.modSline c g).clock = s.clock := rfl
@[simp] theorem State.modFrame_troupes (c : Nat) (g : Frame → Frame) : (s.modFrame c g).troupes = s.troupes := rfl
@[simp] theorem State.modFrame_cores (c : Nat) (g : Frame → Frame) : (s.modFrame c g).cores = s.cores := rfl
@[simp] theorem State.modFrame_rings (c : Nat) (g : Frame → Frame) : (s.modFrame c g).rings = s.rings := rfl
@[simp] theorem State.modFrame_dies (c : Nat) (g : Frame → Frame) : (s.modFrame c g).dies = s.dies := rfl
@[simp] theorem State.modFrame_engines (c : Nat) (g : Frame → Frame) : (s.modFrame c g).engines = s.engines := rfl
@[simp] theorem State.modFrame_companies (c : Nat) (g : Frame → Frame) : (s.modFrame c g).companies = s.companies := rfl
@[simp] theorem State.modFrame_shows (c : Nat) (g : Frame → Frame) : (s.modFrame c g).shows = s.shows := rfl
@[simp] theorem State.modFrame_contexts (c : Nat) (g : Frame → Frame) : (s.modFrame c g).contexts = s.contexts := rfl
@[simp] theorem State.modFrame_posts (c : Nat) (g : Frame → Frame) : (s.modFrame c g).posts = s.posts := rfl
@[simp] theorem State.modFrame_stops (c : Nat) (g : Frame → Frame) : (s.modFrame c g).stops = s.stops := rfl
@[simp] theorem State.modFrame_nextCompany (c : Nat) (g : Frame → Frame) : (s.modFrame c g).nextCompany = s.nextCompany := rfl
@[simp] theorem State.modFrame_nextShow (c : Nat) (g : Frame → Frame) : (s.modFrame c g).nextShow = s.nextShow := rfl
@[simp] theorem State.modFrame_mem (c : Nat) (g : Frame → Frame) : (s.modFrame c g).mem = s.mem := rfl
@[simp] theorem State.modFrame_slices (c : Nat) (g : Frame → Frame) : (s.modFrame c g).slices = s.slices := rfl
@[simp] theorem State.modFrame_misses (c : Nat) (g : Frame → Frame) : (s.modFrame c g).misses = s.misses := rfl
@[simp] theorem State.modFrame_lineErr (c : Nat) (g : Frame → Frame) : (s.modFrame c g).lineErr = s.lineErr := rfl
@[simp] theorem State.modFrame_bar2 (c : Nat) (g : Frame → Frame) : (s.modFrame c g).bar2 = s.bar2 := rfl
@[simp] theorem State.modFrame_caps (c : Nat) (g : Frame → Frame) : (s.modFrame c g).caps = s.caps := rfl
@[simp] theorem State.modFrame_restores (c : Nat) (g : Frame → Frame) : (s.modFrame c g).restores = s.restores := rfl
@[simp] theorem State.modFrame_fq (c : Nat) (g : Frame → Frame) : (s.modFrame c g).fq = s.fq := rfl
@[simp] theorem State.modFrame_fabric (c : Nat) (g : Frame → Frame) : (s.modFrame c g).fabric = s.fabric := rfl
@[simp] theorem State.modFrame_snap (c : Nat) (g : Frame → Frame) : (s.modFrame c g).snap = s.snap := rfl
@[simp] theorem State.modFrame_attest (c : Nat) (g : Frame → Frame) : (s.modFrame c g).attest = s.attest := rfl
@[simp] theorem State.modFrame_power (c : Nat) (g : Frame → Frame) : (s.modFrame c g).power = s.power := rfl
@[simp] theorem State.modFrame_agenda (c : Nat) (g : Frame → Frame) : (s.modFrame c g).agenda = s.agenda := rfl
@[simp] theorem State.modFrame_cur (c : Nat) (g : Frame → Frame) : (s.modFrame c g).cur = s.cur := rfl
@[simp] theorem State.modFrame_free (c : Nat) (g : Frame → Frame) : (s.modFrame c g).free = s.free := rfl
@[simp] theorem State.modFrame_clock (c : Nat) (g : Frame → Frame) : (s.modFrame c g).clock = s.clock := rfl
@[simp] theorem State.modFce_troupes (g : Fce → Fce) : (s.modFce g).troupes = s.troupes := rfl
@[simp] theorem State.modFce_cores (g : Fce → Fce) : (s.modFce g).cores = s.cores := rfl
@[simp] theorem State.modFce_rings (g : Fce → Fce) : (s.modFce g).rings = s.rings := rfl
@[simp] theorem State.modFce_dies (g : Fce → Fce) : (s.modFce g).dies = s.dies := rfl
@[simp] theorem State.modFce_engines (g : Fce → Fce) : (s.modFce g).engines = s.engines := rfl
@[simp] theorem State.modFce_companies (g : Fce → Fce) : (s.modFce g).companies = s.companies := rfl
@[simp] theorem State.modFce_shows (g : Fce → Fce) : (s.modFce g).shows = s.shows := rfl
@[simp] theorem State.modFce_contexts (g : Fce → Fce) : (s.modFce g).contexts = s.contexts := rfl
@[simp] theorem State.modFce_posts (g : Fce → Fce) : (s.modFce g).posts = s.posts := rfl
@[simp] theorem State.modFce_stops (g : Fce → Fce) : (s.modFce g).stops = s.stops := rfl
@[simp] theorem State.modFce_nextCompany (g : Fce → Fce) : (s.modFce g).nextCompany = s.nextCompany := rfl
@[simp] theorem State.modFce_nextShow (g : Fce → Fce) : (s.modFce g).nextShow = s.nextShow := rfl
@[simp] theorem State.modFce_mem (g : Fce → Fce) : (s.modFce g).mem = s.mem := rfl
@[simp] theorem State.modFce_slices (g : Fce → Fce) : (s.modFce g).slices = s.slices := rfl
@[simp] theorem State.modFce_misses (g : Fce → Fce) : (s.modFce g).misses = s.misses := rfl
@[simp] theorem State.modFce_lineErr (g : Fce → Fce) : (s.modFce g).lineErr = s.lineErr := rfl
@[simp] theorem State.modFce_bar2 (g : Fce → Fce) : (s.modFce g).bar2 = s.bar2 := rfl
@[simp] theorem State.modFce_caps (g : Fce → Fce) : (s.modFce g).caps = s.caps := rfl
@[simp] theorem State.modFce_restores (g : Fce → Fce) : (s.modFce g).restores = s.restores := rfl
@[simp] theorem State.modFce_fq (g : Fce → Fce) : (s.modFce g).fq = s.fq := rfl
@[simp] theorem State.modFce_fabric (g : Fce → Fce) : (s.modFce g).fabric = s.fabric := rfl
@[simp] theorem State.modFce_snap (g : Fce → Fce) : (s.modFce g).snap = s.snap := rfl
@[simp] theorem State.modFce_attest (g : Fce → Fce) : (s.modFce g).attest = s.attest := rfl
@[simp] theorem State.modFce_power (g : Fce → Fce) : (s.modFce g).power = s.power := rfl
@[simp] theorem State.modFce_agenda (g : Fce → Fce) : (s.modFce g).agenda = s.agenda := rfl
@[simp] theorem State.modFce_cur (g : Fce → Fce) : (s.modFce g).cur = s.cur := rfl
@[simp] theorem State.modFce_free (g : Fce → Fce) : (s.modFce g).free = s.free := rfl
@[simp] theorem State.modFce_clock (g : Fce → Fce) : (s.modFce g).clock = s.clock := rfl
@[simp] theorem State.setReg_troupes (o : Nat) (v : W64) : (s.setReg o v).troupes = s.troupes := rfl
@[simp] theorem State.setReg_cores (o : Nat) (v : W64) : (s.setReg o v).cores = s.cores := rfl
@[simp] theorem State.setReg_rings (o : Nat) (v : W64) : (s.setReg o v).rings = s.rings := rfl
@[simp] theorem State.setReg_dies (o : Nat) (v : W64) : (s.setReg o v).dies = s.dies := rfl
@[simp] theorem State.setReg_engines (o : Nat) (v : W64) : (s.setReg o v).engines = s.engines := rfl
@[simp] theorem State.setReg_companies (o : Nat) (v : W64) : (s.setReg o v).companies = s.companies := rfl
@[simp] theorem State.setReg_shows (o : Nat) (v : W64) : (s.setReg o v).shows = s.shows := rfl
@[simp] theorem State.setReg_contexts (o : Nat) (v : W64) : (s.setReg o v).contexts = s.contexts := rfl
@[simp] theorem State.setReg_posts (o : Nat) (v : W64) : (s.setReg o v).posts = s.posts := rfl
@[simp] theorem State.setReg_stops (o : Nat) (v : W64) : (s.setReg o v).stops = s.stops := rfl
@[simp] theorem State.setReg_nextCompany (o : Nat) (v : W64) : (s.setReg o v).nextCompany = s.nextCompany := rfl
@[simp] theorem State.setReg_nextShow (o : Nat) (v : W64) : (s.setReg o v).nextShow = s.nextShow := rfl
@[simp] theorem State.setReg_mem (o : Nat) (v : W64) : (s.setReg o v).mem = s.mem := rfl
@[simp] theorem State.setReg_slices (o : Nat) (v : W64) : (s.setReg o v).slices = s.slices := rfl
@[simp] theorem State.setReg_misses (o : Nat) (v : W64) : (s.setReg o v).misses = s.misses := rfl
@[simp] theorem State.setReg_lineErr (o : Nat) (v : W64) : (s.setReg o v).lineErr = s.lineErr := rfl
@[simp] theorem State.setReg_cache (o : Nat) (v : W64) : (s.setReg o v).cache = s.cache := rfl
@[simp] theorem State.setReg_caps (o : Nat) (v : W64) : (s.setReg o v).caps = s.caps := rfl
@[simp] theorem State.setReg_restores (o : Nat) (v : W64) : (s.setReg o v).restores = s.restores := rfl
@[simp] theorem State.setReg_fq (o : Nat) (v : W64) : (s.setReg o v).fq = s.fq := rfl
@[simp] theorem State.setReg_fabric (o : Nat) (v : W64) : (s.setReg o v).fabric = s.fabric := rfl
@[simp] theorem State.setReg_snap (o : Nat) (v : W64) : (s.setReg o v).snap = s.snap := rfl
@[simp] theorem State.setReg_attest (o : Nat) (v : W64) : (s.setReg o v).attest = s.attest := rfl
@[simp] theorem State.setReg_power (o : Nat) (v : W64) : (s.setReg o v).power = s.power := rfl
@[simp] theorem State.setReg_agenda (o : Nat) (v : W64) : (s.setReg o v).agenda = s.agenda := rfl
@[simp] theorem State.setReg_cur (o : Nat) (v : W64) : (s.setReg o v).cur = s.cur := rfl
@[simp] theorem State.setReg_free (o : Nat) (v : W64) : (s.setReg o v).free = s.free := rfl
@[simp] theorem State.setReg_clock (o : Nat) (v : W64) : (s.setReg o v).clock = s.clock := rfl
@[simp] theorem State.retire_cores (g : Troupe → Troupe) : (s.retire g).cores = s.cores := rfl
@[simp] theorem State.retire_rings (g : Troupe → Troupe) : (s.retire g).rings = s.rings := rfl
@[simp] theorem State.retire_dies (g : Troupe → Troupe) : (s.retire g).dies = s.dies := rfl
@[simp] theorem State.retire_engines (g : Troupe → Troupe) : (s.retire g).engines = s.engines := rfl
@[simp] theorem State.retire_companies (g : Troupe → Troupe) : (s.retire g).companies = s.companies := rfl
@[simp] theorem State.retire_shows (g : Troupe → Troupe) : (s.retire g).shows = s.shows := rfl
@[simp] theorem State.retire_contexts (g : Troupe → Troupe) : (s.retire g).contexts = s.contexts := rfl
@[simp] theorem State.retire_posts (g : Troupe → Troupe) : (s.retire g).posts = s.posts := rfl
@[simp] theorem State.retire_stops (g : Troupe → Troupe) : (s.retire g).stops = s.stops := rfl
@[simp] theorem State.retire_nextCompany (g : Troupe → Troupe) : (s.retire g).nextCompany = s.nextCompany := rfl
@[simp] theorem State.retire_nextShow (g : Troupe → Troupe) : (s.retire g).nextShow = s.nextShow := rfl
@[simp] theorem State.retire_mem (g : Troupe → Troupe) : (s.retire g).mem = s.mem := rfl
@[simp] theorem State.retire_slices (g : Troupe → Troupe) : (s.retire g).slices = s.slices := rfl
@[simp] theorem State.retire_misses (g : Troupe → Troupe) : (s.retire g).misses = s.misses := rfl
@[simp] theorem State.retire_lineErr (g : Troupe → Troupe) : (s.retire g).lineErr = s.lineErr := rfl
@[simp] theorem State.retire_cache (g : Troupe → Troupe) : (s.retire g).cache = s.cache := rfl
@[simp] theorem State.retire_bar2 (g : Troupe → Troupe) : (s.retire g).bar2 = s.bar2 := rfl
@[simp] theorem State.retire_caps (g : Troupe → Troupe) : (s.retire g).caps = s.caps := rfl
@[simp] theorem State.retire_restores (g : Troupe → Troupe) : (s.retire g).restores = s.restores := rfl
@[simp] theorem State.retire_fq (g : Troupe → Troupe) : (s.retire g).fq = s.fq := rfl
@[simp] theorem State.retire_fabric (g : Troupe → Troupe) : (s.retire g).fabric = s.fabric := rfl
@[simp] theorem State.retire_snap (g : Troupe → Troupe) : (s.retire g).snap = s.snap := rfl
@[simp] theorem State.retire_attest (g : Troupe → Troupe) : (s.retire g).attest = s.attest := rfl
@[simp] theorem State.retire_power (g : Troupe → Troupe) : (s.retire g).power = s.power := rfl
@[simp] theorem State.retire_agenda (g : Troupe → Troupe) : (s.retire g).agenda = s.agenda := rfl
@[simp] theorem State.retire_cur (g : Troupe → Troupe) : (s.retire g).cur = s.cur := rfl
@[simp] theorem State.retire_free (g : Troupe → Troupe) : (s.retire g).free = s.free := rfl
@[simp] theorem State.retire_clock (g : Troupe → Troupe) : (s.retire g).clock = s.clock := rfl

/-! ### What a unit reads as after an update -/

theorem State.tr_setTr (k j : Nat) (x : Troupe) : (s.setTr k x).tr j = if j = k then x else s.tr j :=
  Tbl.read_write _ _ _ _
@[simp] theorem State.tr_setTr_self (k : Nat) (x : Troupe) : (s.setTr k x).tr k = x := Tbl.read_write_self _ _ _
theorem State.tr_setTr_other {k j : Nat} (x : Troupe) (h : j ≠ k) : (s.setTr k x).tr j = s.tr j :=
  Tbl.read_write_other _ _ h
@[simp] theorem State.tr_modTr_self (k : Nat) (g : Troupe → Troupe) : (s.modTr k g).tr k = g (s.tr k) :=
  Tbl.read_write_self _ _ _
theorem State.tr_modTr_other {k j : Nat} (g : Troupe → Troupe) (h : j ≠ k) : (s.modTr k g).tr j = s.tr j :=
  Tbl.read_write_other _ _ h
@[simp] theorem State.core_modCore_self (c : Nat) (g : Core → Core) : (s.modCore c g).core c = g (s.core c) :=
  Tbl.read_write_self _ _ _
theorem State.core_modCore_other {c j : Nat} (g : Core → Core) (h : j ≠ c) : (s.modCore c g).core j = s.core j :=
  Tbl.read_write_other _ _ h
@[simp] theorem State.ring_modRing_self (c : Nat) (g : Ring → Ring) : (s.modRing c g).ring c = g (s.ring c) :=
  Tbl.read_write_self _ _ _
@[simp] theorem State.die_modDie_self (c : Nat) (g : Die → Die) : (s.modDie c g).die c = g (s.die c) :=
  Tbl.read_write_self _ _ _
@[simp] theorem State.co_modCo_self (c : Nat) (g : Co → Co) : (s.modCo c g).co c = g (s.co c) :=
  Tbl.read_write_self _ _ _
theorem State.co_modCo_other {c j : Nat} (g : Co → Co) (h : j ≠ c) : (s.modCo c g).co j = s.co j :=
  Tbl.read_write_other _ _ h
@[simp] theorem State.ctx_modCtx_self (c : Nat) (g : Ctx → Ctx) : (s.modCtx c g).ctx c = g (s.ctx c) :=
  Tbl.read_write_self _ _ _
theorem State.ctx_modCtx_other {c j : Nat} (g : Ctx → Ctx) (h : j ≠ c) : (s.modCtx c g).ctx j = s.ctx j :=
  Tbl.read_write_other _ _ h
@[simp] theorem State.sh_modSh_self (c : Nat) (g : Show → Show) : (s.modSh c g).sh c = g (s.sh c) :=
  Tbl.read_write_self _ _ _
@[simp] theorem State.sline_modSline_self (l : Nat) (g : SLine → SLine) : (s.modSline l g).sline l = g (s.sline l) :=
  Tbl.read_write_self _ _ _
theorem State.sline_modSline_other {l j : Nat} (g : SLine → SLine) (h : j ≠ l) : (s.modSline l g).sline j = s.sline j :=
  Tbl.read_write_other _ _ h
@[simp] theorem State.frame_modFrame_self (f : Nat) (g : Frame → Frame) : (s.modFrame f g).frame f = g (s.frame f) :=
  Tbl.read_write_self _ _ _
theorem State.frame_modFrame_other {f j : Nat} (g : Frame → Frame) (h : j ≠ f) : (s.modFrame f g).frame j = s.frame j :=
  Tbl.read_write_other _ _ h
@[simp] theorem State.reg_setReg_self (o : Nat) (v : W64) : (s.setReg o v).reg o = v := Tbl.read_write_self _ _ _
theorem State.reg_setReg_other {o j : Nat} (v : W64) (h : j ≠ o) : (s.setReg o v).reg j = s.reg j :=
  Tbl.read_write_other _ _ h

/-- What the issue of a word leaves of its troupe: the run has moved on and `g` has been applied (R69). -/
theorem State.tr_retire_self (g : Troupe → Troupe) :
    (s.retire g).tr s.cur.t = g (s.curT.advance s.cur.run s.cur.pc) := Tbl.read_write_self _ _ _
theorem State.tr_retire_other {j : Nat} (g : Troupe → Troupe) (h : j ≠ s.cur.t) : (s.retire g).tr j = s.tr j :=
  Tbl.read_write_other _ _ h
@[simp] theorem State.curT_retire (g : Troupe → Troupe) :
    (s.retire g).curT = g (s.curT.advance s.cur.run s.cur.pc) := Tbl.read_write_self _ _ _
/-- Only the troupes of a state differ after the issue of a word that retires. -/
theorem State.retire_eq (g : Troupe → Troupe) :
    s.retire g = { s with troupes := s.troupes.write s.cur.t (g (s.curT.advance s.cur.run s.cur.pc)) } := rfl

end Sys2Proof.Machine
end

