-- ==== Sys2Proof/Laws/Deliver.lean ====
section
/-!
SUPPORT. What the end of an operation and of a troupe can do (R51, R96, R167, R267).
-/
namespace Sys2Proof.Machine
open Sys2Proof

variable (s : State)

/-! ### Trace records reach no troupe -/

theorem State.tracePut_frame (d : Nat) (b : List Nat) :
    ∃ m x, s.tracePut d b = { s with mem := m, dies := x } := by
  simp only [State.tracePut]
  split <;> exact ⟨_, _, rfl⟩

@[simp] theorem State.troupes_tracePut (d : Nat) (b : List Nat) : (s.tracePut d b).troupes = s.troupes := by
  obtain ⟨m, x, h⟩ := s.tracePut_frame d b
  rw [h]

@[simp] theorem State.troupes_traceRec (k type flags seq pc d1 d2 : Nat) :
    (s.traceRec k type flags seq pc d1 d2).troupes = s.troupes := by
  simp only [State.traceRec]
  split
  · rfl
  · split
    · rfl
    · split
      · simp
      · split <;> simp [State.modDie]

@[simp] theorem State.tr_traceRec (k type flags seq pc d1 d2 j : Nat) :
    (s.traceRec k type flags seq pc d1 d2).tr j = s.tr j := by
  simp [State.tr]

/-- With the debug right not held nothing is traced (R266). -/
theorem State.traceRec_quiet (k type flags seq pc d1 d2 : Nat) (h : (s.ctx (s.ctxOf k)).debug = false) :
    s.traceRec k type flags seq pc d1 d2 = s := by
  simp [State.traceRec, h]

/-! ### The end of a troupe -/

/-- A troupe with a thread that has not exited does not end (R96). -/
theorem State.endCheck_alive (k : Nat) (h : (s.tr k).allExited = false) : s.endCheck k = s := by
  simp [State.endCheck, h]

/-- A slot whose company is released is empty; every other slot is as it was (R167). -/
theorem State.tr_releaseSlots (c k : Nat) : (s.releaseSlots c).tr k = s.tr k ∨ (s.releaseSlots c).tr k = default := by
  have hf : ∀ (l : List Nat) (u : State), u.tr k = s.tr k ∨ u.tr k = default →
      (l.foldl (fun (u : State) t => (u.endAll t).setTr t default) u).tr k = s.tr k ∨
      (l.foldl (fun (u : State) t => (u.endAll t).setTr t default) u).tr k = default := by
    intro l
    induction l with
    | nil => intro u h; exact h
    | cons x xs ih =>
      intro u h
      apply ih
      rw [State.tr_setTr]
      split
      · exact .inr rfl
      · exact h
  simp only [State.releaseSlots, List.foldl]
  have h := hf (s.co c).slots s (.inl rfl)
  split <;> split <;> exact h

theorem State.tr_releaseIfOver (c k : Nat) : (s.releaseIfOver c).tr k = s.tr k ∨ (s.releaseIfOver c).tr k = default := by
  simp only [State.releaseIfOver]
  split
  · exact s.tr_releaseSlots c k
  · exact .inl rfl

/-- The operations of a slot after its end is looked for: those it had, or none. -/
theorem State.ops_endCheck (k : Nat) : ((s.endCheck k).tr k).ops = (s.tr k).ops ∨ ((s.endCheck k).tr k).ops = [] := by
  simp only [State.endCheck]
  split
  · split <;> (
      rcases State.tr_releaseIfOver _ (s.tr k).company k with h | h
      · left; rw [h]; simp [State.modCo, State.tr, State.modTr, State.setTr]
      · right; rw [h]; rfl)
  · exact .inl rfl

/-! ### The end of an operation -/

@[simp] theorem State.tr_acquire (c k : Nat) : (s.acquire c).tr k = s.tr k := rfl
@[simp] theorem State.tr_endFlights (t q k : Nat) : (s.endFlights t q).tr k = s.tr k := rfl
@[simp] theorem State.tr_endAll (t k : Nat) : (s.endAll t).tr k = s.tr k := rfl

/-- An acquire by a troupe leaves its operations as they were (R292). -/
@[simp] theorem State.ops_acquireBy (k : Nat) : ((s.acquireBy k).tr k).ops = (s.tr k).ops := by
  simp [State.acquireBy, State.tr_modTr_self]

/-- What an operation leaves of its troupe when it ends. -/
def Troupe.ended' (t : Troupe) (o : MemOp) (zero : Mask) : Troupe :=
  let t := (o.deliver zero t).drop o.flags
  let t := match counterOf o.ins with
    | some c => { t with oc := t.oc.write c (t.oc.read c - 1) }
    | none => t
  { t with ops := t.ops.filter fun x => x.seq != o.seq }

/-- An operation that ends has left its troupe. -/
theorem State.finish_ended (k : Nat) (o : MemOp) (zero : Mask) : ∀ x ∈ ((s.finish k o zero).tr k).ops, x.seq ≠ o.seq := by
  intro x hx
  simp only [State.finish] at hx
  have key : ∀ u : State, (u.tr k).ops = ((s.tr k).ended' o zero).ops → x ∈ ((u.endCheck k).tr k).ops → x.seq ≠ o.seq := by
    intro u hu hx
    rcases u.ops_endCheck k with h | h
    · rw [h, hu] at hx
      simp only [Troupe.ended', List.mem_filter] at hx
      simpa using hx.2
    · rw [h] at hx; cases hx
  refine key _ ?_ hx
  rw [State.tr_endFlights]
  split
  · rw [State.ops_acquireBy, State.tr_modTr_self]; rfl
  · rw [State.tr_modTr_self]; rfl

end Sys2Proof.Machine
end

