-- ==== Sys2Proof/Laws/Form.lean ====
section
/-!
SUPPORT. Every operation on memory keeps the canonical form of memory: the level below the slices, lines at their home and
their tokens, frames, granules and write-backs, snoops, trace records. The memory after reset has the form.
-/
namespace Sys2Proof.Machine

/-- The canonical form, table by table. -/
theorem Memory.wf_iff (m : Memory) : m.wf = true ↔ m.mem.wf = true ∧ m.slices.wf = true ∧ m.lineErr.wf = true ∧
    m.cache.frames.wf = true ∧ m.cache.gddr.wf = true ∧ m.cache.pool.wf = true := by
  simp only [Memory.wf, Bool.and_eq_true]
  tauto

variable {s : State}

/-- A step of a fold that keeps a property keeps it to the end. -/
theorem foldl_keeps {α β : Type} (P : β → Prop) (f : β → α → β) (hf : ∀ b a, P b → P (f b a)) (l : List α) {b : β} (h : P b) :
    P (l.foldl f b) := by
  induction l generalizing b with
  | nil => exact h
  | cons a l ih => exact ih (hf b a h)

/-! ### Tables -/

theorem wf_dropRange {α : Type} [Inhabited α] [DecidableEq α] {m : Tbl α} (a n : Nat) (h : m.wf = true) :
    (dropRange m a n).wf = true := Tbl.wf_filter _ h

theorem wf_copyRange (src : Tbl Byte) {dst : Tbl Byte} (a b n : Nat) (h : dst.wf = true) : (copyRange src dst a b n).wf = true :=
  foldl_keeps (fun m : Tbl Byte => m.wf = true) _ (fun _ _ hm => Tbl.wf_write _ _ hm) _ (wf_dropRange b n h)

/-! ### One table changed -/

theorem Memory.wf_mem {m : Tbl Byte} (hm : m.wf = true) (h : s.toMemory.wf = true) : ({ s with mem := m } : State).toMemory.wf = true := by
  rw [Memory.wf_iff] at h ⊢; exact ⟨hm, h.2⟩

theorem Memory.wf_slices {m : Tbl SLine} (hm : m.wf = true) (h : s.toMemory.wf = true) :
    ({ s with slices := m } : State).toMemory.wf = true := by
  rw [Memory.wf_iff] at h ⊢; exact ⟨h.1, hm, h.2.2⟩

theorem Memory.wf_lineErr {m : Tbl Bool} (hm : m.wf = true) (h : s.toMemory.wf = true) :
    ({ s with lineErr := m } : State).toMemory.wf = true := by
  rw [Memory.wf_iff] at h ⊢; exact ⟨h.1, h.2.1, hm, h.2.2.2⟩

theorem Memory.wf_gddr {m : Tbl Byte} (hm : m.wf = true) (h : s.toMemory.wf = true) :
    ({ s with cache := { s.cache with gddr := m } } : State).toMemory.wf = true := by
  rw [Memory.wf_iff] at h ⊢; exact ⟨h.1, h.2.1, h.2.2.1, h.2.2.2.1, hm, h.2.2.2.2.2⟩

theorem Memory.wf_pool {m : Tbl Nat} (hm : m.wf = true) (h : s.toMemory.wf = true) :
    ({ s with cache := { s.cache with pool := m } } : State).toMemory.wf = true := by
  rw [Memory.wf_iff] at h ⊢; exact ⟨h.1, h.2.1, h.2.2.1, h.2.2.2.1, h.2.2.2.2.1, hm⟩

/-- The ownership of a line toward its device (R378). -/
theorem State.wf_poolWrite (l v : Nat) (h : s.toMemory.wf = true) :
    ({ s with cache := { s.cache with pool := s.cache.pool.write l v } } : State).toMemory.wf = true :=
  Memory.wf_pool (Tbl.wf_write _ _ ((Memory.wf_iff _).1 h).2.2.2.2.2) h

theorem State.wf_modSline (l : Nat) (f : SLine → SLine) (h : s.toMemory.wf = true) : (s.modSline l f).toMemory.wf = true :=
  Memory.wf_slices (Tbl.wf_modify _ _ ((Memory.wf_iff _).1 h).2.1) h

theorem State.wf_modFrame (k : Nat) (f : Frame → Frame) (h : s.toMemory.wf = true) : (s.modFrame k f).toMemory.wf = true := by
  rw [Memory.wf_iff] at h ⊢
  exact ⟨h.1, h.2.1, h.2.2.1, Tbl.wf_modify _ _ h.2.2.2.1, h.2.2.2.2⟩

theorem State.wf_modFce (f : Fce → Fce) (h : s.toMemory.wf = true) : (s.modFce f).toMemory.wf = true := h
theorem State.wf_modCore (c : Nat) (f : Core → Core) (h : s.toMemory.wf = true) : (s.modCore c f).toMemory.wf = true := h
theorem State.wf_modTr (k : Nat) (f : Troupe → Troupe) (h : s.toMemory.wf = true) : (s.modTr k f).toMemory.wf = true := h
theorem State.wf_modDie (d : Nat) (f : Die → Die) (h : s.toMemory.wf = true) : (s.modDie d f).toMemory.wf = true := h
theorem State.wf_modMiss (l : Nat) (f : Miss → Miss) (h : s.toMemory.wf = true) : (s.modMiss l f).toMemory.wf = true := h

/-! ### The level below the slices (R281, R344) -/

theorem State.wf_setLowByte (pa : Nat) (b : Byte) (h : s.toMemory.wf = true) : (s.setLowByte pa b).toMemory.wf = true := by
  have hm := Memory.wf_mem (Tbl.wf_write pa b ((Memory.wf_iff _).1 h).1) h
  simp only [State.setLowByte]
  split
  · split
    · exact Memory.wf_gddr (Tbl.wf_write _ _ ((Memory.wf_iff _).1 h).2.2.2.2.1) h
    · exact hm
  · exact hm

theorem State.wf_setLow (l : Nat) (d : LineData) (is : List Nat) (h : s.toMemory.wf = true) : (s.setLow l d is).toMemory.wf = true := by
  induction is generalizing s with
  | nil => exact h
  | cons i is ih => exact ih (State.wf_setLowByte _ _ h)

theorem State.wf_refill (l : Nat) (h : s.toMemory.wf = true) : (s.refill l).toMemory.wf = true := by
  simp only [State.refill]
  generalize List.range 128 = ls
  split
  · split
    · obtain ⟨h1, h2, h3, h4, h5, h6⟩ := (Memory.wf_iff _).1 h
      exact (Memory.wf_iff _).2 ⟨h1, h2, h3, h4,
        foldl_keeps (fun m : Tbl Byte => m.wf = true) _ (fun _ _ hm => Tbl.wf_write _ _ hm) _ h5, Tbl.wf_write _ _ h6⟩
    · exact h
  · exact h

/-! ### Lines at their home (R281 to R284) -/

theorem State.wf_markDirty (l : Nat) (h : s.toMemory.wf = true) : (s.markDirty l).toMemory.wf = true := by
  simp only [State.markDirty]; split
  · exact State.wf_modFrame _ _ h
  · exact h

theorem State.wf_touchFrame (l : Nat) (h : s.toMemory.wf = true) : (s.touchFrame l).toMemory.wf = true := by
  simp only [State.touchFrame]; split
  · exact State.wf_modFrame _ _ h
  · exact h

theorem State.wf_recall (l : Nat) (h : s.toMemory.wf = true) : (s.recall l).toMemory.wf = true := by
  simp only [State.recall]
  split
  · exact h
  · refine State.wf_modSline _ _ ?_
    split
    · exact State.wf_markDirty _ (State.wf_modSline _ _ (State.wf_modCore _ _ h))
    · exact State.wf_modCore _ _ h

theorem State.wf_writeHome (l : Nat) (f : LineData → LineData) (h : s.toMemory.wf = true) : (s.writeHome l f).toMemory.wf = true := by
  simp only [State.writeHome]
  refine State.wf_markDirty _ (State.wf_modSline _ _ ?_)
  split
  · exact State.wf_recall _ h
  · exact State.wf_touchFrame _ (State.wf_recall _ h)

theorem State.wf_pokeByte (pa : Nat) (b : Byte) (h : s.toMemory.wf = true) : (s.pokeByte pa b).toMemory.wf = true :=
  State.wf_writeHome _ _ h

theorem State.wf_poke (pa : Nat) (bs : List Nat) (h : s.toMemory.wf = true) : (s.poke pa bs).toMemory.wf = true := by
  induction bs generalizing s pa with
  | nil => exact h
  | cons b bs ih => exact ih _ (State.wf_pokeByte _ _ h)

theorem State.wf_addPhys (pa v : Nat) (h : s.toMemory.wf = true) : (s.addPhys pa v).2.toMemory.wf = true :=
  State.wf_poke _ _ h

theorem State.wf_l1Forget (c l : Nat) (h : s.toMemory.wf = true) : (s.l1Forget c l).toMemory.wf = true := by
  simp only [State.l1Forget]; split
  · exact State.wf_modCore _ _ h
  · exact h

/-- Dropping locks changes no byte of the table's form (R309). -/
theorem State.wf_dropLocks (mine : Nat → Bool) (h : s.toMemory.wf = true) : (s.dropLocks mine).toMemory.wf = true :=
  Memory.wf_slices (Tbl.wf_mapAll _ ((Memory.wf_iff _).1 h).2.1) h

/-! ### Trace records, hits of watchpoints, the end of an operation (R256, R257, R266, R267) -/

theorem State.wf_tracePut (d : Nat) (b : List Nat) (h : s.toMemory.wf = true) : (s.tracePut d b).toMemory.wf = true := by
  simp only [State.tracePut]
  split
  · exact h
  · exact State.wf_modDie _ _ (Memory.wf_mem (wf_writeBytes _ _ _ ((Memory.wf_iff _).1 h).1) h)

theorem State.wf_traceRec (k type flags seq pc d1 d2 : Nat) (h : s.toMemory.wf = true) :
    (s.traceRec k type flags seq pc d1 d2).toMemory.wf = true := by
  simp only [State.traceRec]
  split
  · exact h
  · split
    · exact h
    · split
      · exact h
      · split
        · exact State.wf_tracePut _ _ h
        · exact State.wf_tracePut _ _ (State.wf_modDie _ _ (State.wf_tracePut _ _ h))

theorem State.wf_stopRing (c x : Nat) (h : s.toMemory.wf = true) : (s.stopRing c x).toMemory.wf = true := by
  simp only [State.stopRing]
  split
  · exact h
  · exact foldl_keeps (fun u : State => u.toMemory.wf = true) _ (fun _ _ hu => State.wf_modTr _ _ hu) _ h

theorem State.wf_trigger (x : Nat) (h : s.toMemory.wf = true) : (s.trigger x).toMemory.wf = true := by
  simp only [State.trigger]
  split
  · exact h
  · split <;> exact h

theorem State.wf_hitActs (w : Watch) (b : Accessor) (a : Nat) (h : s.toMemory.wf = true) : (s.hitActs w b a).toMemory.wf = true := by
  have h1 : (match b.troupe with
      | some k => s.traceRec k 7 ((s.tr k).level + if b.again then 2 else 0) b.seq b.pc.toNat a s.clock
      | none => s).toMemory.wf = true := by
    split
    · exact State.wf_traceRec _ _ _ _ _ _ _ h
    · exact h
  have h2 : ∀ u : State, u.toMemory.wf = true → (match b.core with
      | some c => if bitOf w.ctl.toNat 3 then u.stopRing b.ctx c else u
      | none => u).toMemory.wf = true := by
    intro u hu
    split
    · split
      · exact State.wf_stopRing _ _ hu
      · exact hu
    · exact hu
  have h3 : ∀ u : State, u.toMemory.wf = true → (if bitOf w.ctl.toNat 4 then u.trigger 2 else u).toMemory.wf = true := by
    intro u hu
    split
    · exact State.wf_trigger _ hu
    · exact hu
  exact h3 _ (h2 _ h1)

theorem State.wf_watchDie (d : Nat) (b : Accessor) (rd wr : Bool) (va : W64) (n : Nat) (h : s.toMemory.wf = true) :
    (s.watchDie d b rd wr va n).toMemory.wf = true := by
  simp only [State.watchDie]
  split
  · exact h
  · refine foldl_keeps (fun u : State => u.toMemory.wf = true) _ (fun u i hu => ?_) _ h
    split
    · exact hu
    · exact State.wf_hitActs _ _ _ (State.wf_modDie _ _ hu)

theorem State.wf_watchPieces (k : Nat) (o : MemOp) (rd wr : Bool) (ps : List (Nat × Nat)) (h : s.toMemory.wf = true) :
    (s.watchPieces k o rd wr ps).toMemory.wf = true := by
  refine foldl_keeps (fun u : State => u.toMemory.wf = true) _ (fun u i hu => ?_) _ h
  dsimp only
  split
  · exact State.wf_watchDie _ _ _ _ _ _ hu
  · exact hu

theorem State.wf_releaseIfOver (c : Nat) (h : s.toMemory.wf = true) : (s.releaseIfOver c).toMemory.wf = true := by
  have hf := foldl_keeps (fun u : State => u.toMemory.wf = true) (fun (u : State) t => (u.endAll t).setTr t default)
    (fun _ _ hu => hu) (s.co c).slots h
  simp only [State.releaseIfOver, State.releaseSlots, List.foldl]
  split
  · split <;> split <;> exact hf
  · exact h

theorem State.wf_endCheck (k : Nat) (h : s.toMemory.wf = true) : (s.endCheck k).toMemory.wf = true := by
  simp only [State.endCheck]
  split
  · refine State.wf_releaseIfOver _ ?_
    split <;> exact State.wf_traceRec _ _ _ _ _ _ _ h
  · exact h

theorem State.wf_finish (k : Nat) (o : MemOp) (zero : Mask) (h : s.toMemory.wf = true) : (s.finish k o zero).toMemory.wf = true := by
  simp only [State.finish]
  refine State.wf_endCheck _ ?_
  split <;> exact h

theorem State.wf_finishOrKeep (k : Nat) (o : MemOp) (h : s.toMemory.wf = true) : (s.finishOrKeep k o).toMemory.wf = true := by
  simp only [State.finishOrKeep]
  split
  · exact State.wf_finish _ _ _ h
  · exact h

/-! ### Tokens and lines that leave a slice (R279, R282, R284) -/

theorem State.wf_storeOwned (k : Nat) (o : MemOp) (line p : Nat) (h : s.toMemory.wf = true) :
    (s.storeOwned k o line p).toMemory.wf = true :=
  State.wf_finishOrKeep _ _ (State.wf_watchPieces _ _ _ _ _ h)

theorem State.wf_flushStores (c p : Nat) (h : s.toMemory.wf = true) : (s.flushStores c p).toMemory.wf = true := by
  refine foldl_keeps (fun u : State => u.toMemory.wf = true) _ (fun u x hu => ?_) _ h
  split
  · split
    · exact State.wf_storeOwned _ _ _ _ hu
    · exact hu
  · exact hu

theorem State.wf_takeBack (l : Nat) (h : s.toMemory.wf = true) : (s.takeBack l).toMemory.wf = true := by
  simp only [State.takeBack]
  split
  · exact State.wf_recall _ (State.wf_flushStores _ _ h)
  · exact h

theorem State.wf_dropCuts (l : Nat) (h : s.toMemory.wf = true) : (s.dropCuts l).toMemory.wf = true := by
  simp only [State.dropCuts]
  split <;> exact h

theorem State.wf_dropHost (l : Nat) (h : s.toMemory.wf = true) : (s.dropHost l).toMemory.wf = true := by
  simp only [State.dropHost]
  split
  · split
    · exact State.wf_poolWrite _ _ h
    · exact h
  · exact h

theorem State.wf_evictLine (l : Nat) (h : s.toMemory.wf = true) : (s.evictLine l).toMemory.wf = true := by
  have h0 : ((s.takeBack l).dropCuts l).toMemory.wf = true := State.wf_dropCuts _ (State.wf_takeBack _ h)
  simp only [State.evictLine]
  generalize (s.takeBack l).dropCuts l = u at h0 ⊢
  have key : ∀ v : State, v.toMemory.wf = true →
      (({ v with recent := v.recent.filter (· != l) } : State).modSline l fun y =>
        { y with present := false, data := 0, dirty := false, hint := 0 }).toMemory.wf = true :=
    fun v hv => State.wf_modSline _ _ hv
  refine key _ (State.wf_dropHost _ ?_)
  split
  · exact State.wf_setLow _ _ _ (State.wf_touchFrame _ h0)
  · exact h0

theorem State.wf_fit (l : Nat) (h : s.toMemory.wf = true) : (s.fit l).toMemory.wf = true := by
  have hn : ∀ n (u : State), u.toMemory.wf = true → (State.fitIn l n u).toMemory.wf = true := by
    intro n
    induction n with
    | zero => exact fun u hu => hu
    | succ n ih =>
      intro u hu
      simp only [State.fitIn]
      split
      · exact hu
      · split
        · exact hu
        · exact ih _ (State.wf_evictLine _ hu)
  exact hn 33 s h

theorem State.wf_useLine (l : Nat) (h : s.toMemory.wf = true) : (s.useLine l).toMemory.wf = true := h

theorem State.wf_forwardRead (l : Nat) (h : s.toMemory.wf = true) : (s.forwardRead l).toMemory.wf = true := by
  simp only [State.forwardRead]
  split
  · exact h
  · split
    · exact State.wf_fit _ (State.wf_markDirty _ (State.wf_modSline _ _ (State.wf_modCore _ _ h)))
    · exact h

theorem State.wf_writeBytes (pa : Nat) (b : List Nat) (h : s.toMemory.wf = true) : (s.writeBytes pa b).toMemory.wf = true := by
  simp only [State.writeBytes]
  generalize nubNat ((List.range b.length).map fun i => (pa + i) / 128) = ls
  refine foldl_keeps (fun u : State => u.toMemory.wf = true) _ (fun u l hu => State.wf_fit _ (State.wf_useLine _ hu)) _ (State.wf_poke _ _ ?_)
  exact foldl_keeps (fun u : State => u.toMemory.wf = true) _ (fun u l hu => State.wf_dropCuts _ (State.wf_takeBack _ hu)) _ h

theorem State.wf_addHome (pa v : Nat) (h : s.toMemory.wf = true) : (s.addHome pa v).2.toMemory.wf = true := by
  simp only [State.addHome]
  exact State.wf_fit _ (State.wf_useLine _ (State.wf_addPhys _ _ (State.wf_dropCuts _ (State.wf_takeBack _ h))))

/-! ### Frames (R346, R351) -/

theorem State.wf_fillGranule (g : Nat) (h : s.toMemory.wf = true) : (s.fillGranule g).toMemory.wf = true := by
  obtain ⟨h1, h2, h3, h4, h5, h6⟩ := (Memory.wf_iff _).1 h
  simp only [State.fillGranule]
  generalize List.range 32 = ls
  split
  · exact h
  · split
    · exact h
    · refine State.wf_modFrame _ _ ((Memory.wf_iff _).2 ⟨h1, h2, h3, h4, wf_copyRange _ _ _ _ h5, ?_⟩)
      split
      · exact foldl_keeps (fun m : Tbl Nat => m.wf = true) _ (fun _ _ hm => Tbl.wf_write _ _ hm) _ h6
      · exact h6

theorem State.wf_giveFrame (f span : Nat) (graph : Bool) (h : s.toMemory.wf = true) : (s.giveFrame f span graph).toMemory.wf = true :=
  State.wf_modFrame _ _ (Memory.wf_gddr (wf_dropRange _ _ ((Memory.wf_iff _).1 h).2.2.2.2.1) h)

theorem State.wf_killMiss (l : Nat) (h : s.toMemory.wf = true) : (s.killMiss l).toMemory.wf = true := h

theorem State.wf_reclaimLine (f l : Nat) (h : s.toMemory.wf = true) : (s.reclaimLine f l).toMemory.wf = true := by
  have h0 : (((s.killMiss l).takeBack l).dropCuts l).toMemory.wf = true := State.wf_dropCuts _ (State.wf_takeBack _ (State.wf_killMiss _ h))
  simp only [State.reclaimLine]
  generalize ((s.killMiss l).takeBack l).dropCuts l = u at h0 ⊢
  have key : ∀ v : State, v.toMemory.wf = true →
      ({ v with slices := v.slices.write l default, recent := v.recent.filter (· != l) } : State).toMemory.wf = true :=
    fun v hv => Memory.wf_slices (Tbl.wf_write _ _ ((Memory.wf_iff _).1 hv).2.1) hv
  apply key
  split
  · exact State.wf_modFrame _ _ (Memory.wf_lineErr (Tbl.wf_write _ _ ((Memory.wf_iff _).1 h0).2.2.1) h0)
  · split
    · exact State.wf_markDirty _ (State.wf_setLow _ _ _ h0)
    · exact h0

theorem State.wf_reclaimDrain (f : Nat) (h : s.toMemory.wf = true) : (s.reclaimDrain f).toMemory.wf = true :=
  foldl_keeps (fun u : State => u.toMemory.wf = true) _ (fun _ _ hu => State.wf_reclaimLine _ _ hu) _ h

theorem State.wf_writeBack (f i : Nat) (h : s.toMemory.wf = true) : (s.writeBack f i).toMemory.wf = true := by
  simp only [State.writeBack]
  generalize List.range 32 = ls
  split
  · exact Memory.wf_mem (wf_copyRange _ _ _ _ ((Memory.wf_iff _).1 h).1) h
  · refine foldl_keeps (fun u : State => u.toMemory.wf = true) _ (fun u j hu => ?_) _ h
    split
    · exact hu
    · exact Memory.wf_mem (wf_copyRange _ _ _ _ ((Memory.wf_iff _).1 hu).1) hu

/-! ### Other devices, reset (R373, R379) -/

theorem State.wf_deviceWrite (l : Nat) (w : List (Nat × Byte)) (h : s.toMemory.wf = true) : (s.deviceWrite l w).toMemory.wf = true := by
  refine foldl_keeps (fun u : State => u.toMemory.wf = true) _ (fun u x hu => ?_) _ h
  split
  · exact Memory.wf_mem (Tbl.wf_write _ _ ((Memory.wf_iff _).1 hu).1) hu
  · exact hu

theorem State.wf_dropLine (l : Nat) (h : s.toMemory.wf = true) :
    ({ (s.modSline l fun y => { y with present := false, data := 0, dirty := false, hint := 0 }) with
        recent := (s.modSline l fun y => { y with present := false, data := 0, dirty := false, hint := 0 }).recent.filter (· != l) }
      : State).toMemory.wf = true :=
  State.wf_modSline l (fun y => { y with present := false, data := 0, dirty := false, hint := 0 }) h

theorem State.wf_snoop (l : Nat) (w : List (Nat × Byte)) (h : s.toMemory.wf = true) : (s.snoop l w).toMemory.wf = true := by
  have h0 : (((s.killMiss l).takeBack l).dropCuts l).toMemory.wf = true :=
    State.wf_dropCuts _ (State.wf_takeBack _ (State.wf_killMiss _ h))
  simp only [State.snoop]
  split
  · exact h
  · generalize ((s.killMiss l).takeBack l).dropCuts l = u at h0 ⊢
    generalize (List.range 128).map (fun i => (i, lineByte (u.current l) i)) = ws
    generalize (u.dirtyLine l && decide (2 ≤ u.cache.pool.read l)) = b
    have h1 : (if b = true then u.deviceWrite l ws else u).toMemory.wf = true := by
      split
      · exact State.wf_deviceWrite _ _ h0
      · exact h0
    exact State.wf_deviceWrite _ _ (State.wf_poolWrite _ _ (State.wf_dropLine _ h1))

theorem State.wf_reset : State.reset.toMemory.wf = true := rfl

end Sys2Proof.Machine
end

