-- ==== Sys2Proof/Laws/Registers.lean ====
section
/-!
SUPPORT. What a write of a register does to a read of one, what it leaves of its troupe, and the movement of a run (R40, R67, R69, R81).
-/
namespace Sys2Proof.Machine
variable (t : Troupe)

/-! ### Vector registers -/

@[simp] theorem Troupe.rv_zero {r : Nat} (h : 255 ≤ r) (l : Nat) : t.rv r l = 0 := by simp [Troupe.rv, h]

/-- A read of a vector register after a write of one: the written lanes change, VZ never does (R40). -/
theorem Troupe.rv_wv (r r' : Nat) (act : Mask) (f : Nat → W32) {l : Nat} (h : l < 64) :
    (t.wv r act f).rv r' l = if r' = r ∧ r < 255 ∧ inMask act l = true then f l else t.rv r' l := by
  unfold Troupe.wv
  split
  · rename_i hr
    have : ¬ r < 255 := by omega
    simp [this]
  · rename_i hr
    have hr' : r < 255 := by omega
    by_cases h2 : 255 ≤ r'
    · have : r' ≠ r := by omega
      simp [Troupe.rv, h2, this]
    · simp only [Troupe.rv, h2, if_false, Tbl.read_writeLanes_lane _ _ _ _ _ h, hr', true_and]

/-- All that a write of a vector register leaves as it was. -/
theorem Troupe.wv_frame (r : Nat) (act : Mask) (f : Nat → W32) :
    t.wv r act f = { t with v := (t.wv r act f).v, reuse := (t.wv r act f).reuse } := by
  unfold Troupe.wv
  split <;> rfl

theorem Troupe.vecFrame_trans {a b c : Troupe} (h1 : b = { a with v := b.v, reuse := b.reuse })
    (h2 : c = { b with v := c.v, reuse := c.reuse }) : c = { a with v := c.v, reuse := c.reuse } :=
  h2.trans (by rw [h1])

@[simp] theorem Troupe.rs64_wv (r : Nat) (act : Mask) (f : Nat → W32) (k : Nat) : (t.wv r act f).rs64 k = t.rs64 k := by
  unfold Troupe.wv
  split <;> rfl
@[simp] theorem Troupe.rp_wv (r : Nat) (act : Mask) (f : Nat → W32) (k : Nat) : (t.wv r act f).rp k = t.rp k := by
  unfold Troupe.wv
  split <;> rfl
@[simp] theorem Troupe.rq_wv (r : Nat) (act : Mask) (f : Nat → W32) (k : Nat) : (t.wv r act f).rq k = t.rq k := by
  unfold Troupe.wv
  split <;> rfl
@[simp] theorem Troupe.pt_wv (r : Nat) (act : Mask) (f : Nat → W32) : (t.wv r act f).pt = t.pt := by
  unfold Troupe.wv
  split <;> rfl

/-- A read of a vector register after a write of a pair. -/
theorem Troupe.rv_wpair (r r' : Nat) (act : Mask) (f : Nat → W64) {l : Nat} (h : l < 64) :
    (t.wpair r act f).rv r' l =
      if r' = r ∧ r < 255 ∧ inMask act l = true then (f l).setWidth 32
      else if r' = r + 1 ∧ r + 1 < 255 ∧ inMask act l = true then (f l).extractLsb' 32 32
      else t.rv r' l := by
  unfold Troupe.wpair
  split
  · rename_i hr
    have h1 : ¬ r < 255 := by omega
    have h2 : ¬ r + 1 < 255 := by omega
    simp [h1, h2]
  · rename_i hr
    have hr' : r < 255 := by omega
    simp only [Troupe.rv_wv _ _ _ _ _ h]
    by_cases h1 : r' = r
    · have : ¬ r' = r + 1 := by omega
      simp [h1, hr']
    · by_cases h2 : r' = r + 1 <;> simp [h1, h2]

/-- All that a write of a pair leaves as it was. -/
theorem Troupe.wpair_frame (r : Nat) (act : Mask) (f : Nat → W64) :
    t.wpair r act f = { t with v := (t.wpair r act f).v, reuse := (t.wpair r act f).reuse } := by
  unfold Troupe.wpair
  split
  · rfl
  · exact Troupe.vecFrame_trans (Troupe.wv_frame _ _ _ _) (Troupe.wv_frame _ _ _ _)

/-! ### Scalars and predicates -/

@[simp] theorem Troupe.rs64_zero {r : Nat} (h : 63 ≤ r) : t.rs64 r = 0 := by simp [Troupe.rs64, h]

@[simp] theorem Troupe.level_ws (r : Nat) (x : W64) : (t.ws r x).level = t.level := by
  unfold Troupe.ws
  split
  · rfl
  · split <;> rfl

/-- A read of a scalar after a write of one, at the same trap level; SZ never changes (R40, R81). -/
theorem Troupe.rs64_ws (r r' : Nat) (x : W64) : (t.ws r x).rs64 r' = if r' = r ∧ r < 63 then x else t.rs64 r' := by
  by_cases hr : 63 ≤ r
  · have : ¬ r < 63 := by omega
    simp [Troupe.ws, hr, this]
  · have hr2 : r < 63 := by omega
    by_cases hr' : 63 ≤ r'
    · have : ¬ r' = r := by omega
      simp [hr', this]
    · by_cases hl : t.level = 1
      · by_cases h60 : 60 ≤ r
        · by_cases h60' : 60 ≤ r'
          · simp [Troupe.ws, Troupe.rs64, hr, hr', hl, h60, h60', Tbl.read_write, hr2]
          · have : ¬ r' = r := by omega
            simp [Troupe.ws, Troupe.rs64, hr, hr', hl, h60, h60', this]
        · by_cases h60' : 60 ≤ r'
          · have : ¬ r' = r := by omega
            simp [Troupe.ws, Troupe.rs64, hr, hr', hl, h60, h60', this]
          · simp [Troupe.ws, Troupe.rs64, hr, hr', hl, h60, h60', Tbl.read_write, hr2]
      · simp [Troupe.ws, Troupe.rs64, hr, hr', hl, Tbl.read_write, hr2]

/-- All that a write of a scalar leaves as it was. -/
theorem Troupe.ws_frame (r : Nat) (x : W64) : t.ws r x = { t with s := (t.ws r x).s, s1 := (t.ws r x).s1 } := by
  unfold Troupe.ws
  split
  · rfl
  · split <;> rfl

@[simp] theorem Troupe.rp_true {r : Nat} (h : 7 ≤ r) : t.rp r = -1 := by simp [Troupe.rp, h]

/-- A read of a lane predicate after a write of one; PT never changes (R40). -/
theorem Troupe.rp_wp (r r' : Nat) (act x : Mask) :
    (t.wp r act x).rp r' = if r' = r ∧ r < 7 then (t.rp r &&& ~~~act) ||| (x &&& act) else t.rp r' := by
  by_cases hr : 7 ≤ r
  · have : ¬ r < 7 := by omega
    simp [Troupe.wp, hr, this]
  · have hr2 : r < 7 := by omega
    by_cases hr' : 7 ≤ r'
    · have : ¬ r' = r := by omega
      simp [Troupe.rp, hr', this]
    · simp [Troupe.wp, Troupe.rp, hr, hr', hr2, Tbl.read_write]

/-- All that a write of a lane predicate leaves as it was. -/
theorem Troupe.wp_frame (r : Nat) (act x : Mask) : t.wp r act x = { t with p := (t.wp r act x).p } := by
  unfold Troupe.wp
  split <;> rfl

@[simp] theorem Troupe.rq_true {r : Nat} (h : 7 ≤ r) : t.rq r = true := by simp [Troupe.rq, h]

/-- A read of a scalar predicate after a write of one; QT never changes (R40). -/
theorem Troupe.rq_wq (r r' : Nat) (x : Bool) : (t.wq r x).rq r' = if r' = r ∧ r < 7 then x else t.rq r' := by
  by_cases hr : 7 ≤ r
  · have : ¬ r < 7 := by omega
    simp [Troupe.wq, hr, this]
  · have hr2 : r < 7 := by omega
    by_cases hr' : 7 ≤ r'
    · have : ¬ r' = r := by omega
      simp [hr', this]
    · simp [Troupe.wq, Troupe.rq, hr, hr', hr2, Tbl.read_write]

theorem Troupe.wq_frame (r : Nat) (x : Bool) : t.wq r x = { t with q := (t.wq r x).q } := by
  unfold Troupe.wq
  split <;> rfl

/-! ### The PC table -/

/-- The PC of a thread after a run has been sent to `f` (R69). -/
theorem PcTable.pc_goto (p : PcTable) (m : Mask) (f : Nat → W64) {l : Nat} (h : l < 64) :
    (p.goto m f).pc l = if inMask m l = true then f l else p.pc l := Tbl.read_writeLanes_zero _ _ _ h

@[simp] theorem PcTable.state_goto (p : PcTable) (m : Mask) (f : Nat → W64) (l : Nat) :
    (p.goto m f).state l = p.state l := rfl

theorem PcTable.state_put (p : PcTable) (m : Mask) (x : TState) {l : Nat} (h : l < 64) :
    (p.put m x).state l = if inMask m l = true then x else p.state l := by
  unfold PcTable.put PcTable.state
  exact Tbl.read_writeLanes_zero p.tst m (fun _ => x) h

@[simp] theorem PcTable.pc_put (p : PcTable) (m : Mask) (x : TState) (l : Nat) : (p.put m x).pc l = p.pc l := rfl

section
variable (run : Mask) (pc : W64)
@[simp] theorem Troupe.rv_advance (r l : Nat) : (t.advance run pc).rv r l = t.rv r l := rfl
@[simp] theorem Troupe.rpair_advance (r l : Nat) : (t.advance run pc).rpair r l = t.rpair r l := rfl
@[simp] theorem Troupe.rs64_advance (r : Nat) : (t.advance run pc).rs64 r = t.rs64 r := rfl
@[simp] theorem Troupe.rp_advance (r : Nat) : (t.advance run pc).rp r = t.rp r := rfl
@[simp] theorem Troupe.rq_advance (r : Nat) : (t.advance run pc).rq r = t.rq r := rfl
@[simp] theorem Troupe.rs_advance : (t.advance run pc).rs = t.rs := rfl
@[simp] theorem Troupe.level_advance : (t.advance run pc).level = t.level := rfl
theorem Troupe.advance_frame : t.advance run pc = { t with pt := (t.advance run pc).pt } := rfl
/-- The PC of a thread after its run has issued a word at `pc` (R69). -/
theorem Troupe.pc_advance {l : Nat} (h : l < 64) :
    (t.advance run pc).pt.pc l = if inMask run l = true then pc + 16 else t.pt.pc l := PcTable.pc_goto _ _ _ h
end

theorem foldl_keep {β γ : Type} (g : β → γ → β) (hg : ∀ a x, g a x = a) (ls : List γ) (a : β) : ls.foldl g a = a := by
  induction ls generalizing a with
  | nil => rfl
  | cons x xs ih => rw [List.foldl_cons, hg]; exact ih a

/-- No generator steps when a word draws nothing (R29). -/
theorem drawLanes_zero (act : Mask) : drawLanes 0 act t = ([], t) := by
  unfold drawLanes
  generalize lanes = ls
  simp only [List.range_zero, List.foldl_nil, ite_self]
  rw [foldl_keep _ (fun _ _ => rfl)]

end Sys2Proof.Machine
end

