-- ==== Sys2Proof/Laws/Issue.lean ====
section
/-!
SUPPORT. What the shared meanings of lane-class and uniform words answer (R44 to R47, R69), each said once.
-/
namespace Sys2Proof.Machine
variable (s : State)

/-- A lane-class word that changes only its troupe answers its retired state. -/
theorem laneStep_next (f : Fields) (g : Mask → Troupe → Troupe) :
    laneStep f s g = .next (s.retire fun t =>
      if s.curT.active f.g s.cur.run = 0 then t else g (s.curT.active f.g s.cur.run) t) := rfl

/-- A uniform word that changes only its troupe answers its retired state. -/
theorem uniformStep_next (f : Fields) (g : Troupe → Troupe) :
    uniformStep f s g = .next (s.retire fun t => if s.curT.enabled f.g then g t else t) := rfl

/-- A lane-class arithmetic word whose B operand is known at issue and that draws nothing. -/
theorem laneExec_next (i : Instr) (f : Fields) (o : OpdType) (body : Body) (h : f.kind ≠ 3) :
    laneExec i f o 0 body s = .next (s.retire fun t =>
      if s.curT.active f.g s.cur.run = 0 then t else body (s.curT.active f.g s.cur.run) (laneB o f s.curT) [] t) := by
  unfold laneExec
  simp only [ite_self, h, if_false]
  split
  · rfl
  · simp only [drawLanes_zero]

/-- A lane-class arithmetic word whose B operand is known at issue: each acting lane draws when the word rounds under RS. -/
theorem laneExec_draws (i : Instr) (f : Fields) (o : OpdType) (n : Nat) (body : Body) (h : f.kind ≠ 3) :
    laneExec i f o n body s = .next (s.retire fun t =>
      if s.curT.active f.g s.cur.run = 0 then t
      else
        let r := drawLanes (if f.rm = 4 then n else 0) (s.curT.active f.g s.cur.run) t
        body (s.curT.active f.g s.cur.run) (laneB o f s.curT) r.1 r.2) := by
  unfold laneExec
  simp only [h, if_false]
  split <;> rfl

/-- A uniform arithmetic word whose B operand is known at issue. -/
theorem scalarExec_next (i : Instr) (f : Fields) (o : OpdType) (body : Body) (h : f.kind ≠ 3) :
    scalarExec i f o body s = .next (s.retire fun t =>
      if s.curT.enabled f.g then body s.cur.run (fun _ => scalarB o f s.curT) [] t else t) := by
  unfold scalarExec
  simp only [h, if_false]
  split
  · rename_i he
    have : s.curT.enabled f.g = false := by simpa using he
    simp only [this, Bool.false_eq_true, if_false]
    rfl
  · rename_i he
    have : s.curT.enabled f.g = true := by simpa using he
    simp only [this, if_true]

/-- A retired state differs from the one before in its troupe alone. -/
theorem State.retire_frame (g : Troupe → Troupe) : s.retire g = { s with troupes := (s.retire g).troupes } := rfl

/-- Memory is no part of a troupe. -/
theorem State.byteAt_troupes (m : Tbl Troupe) (pa : Nat) : ({ s with troupes := m } : State).byteAt pa = s.byteAt pa := rfl

end Sys2Proof.Machine
end

