-- ==== Sys2Proof/Laws/Memory.lean ====
section
/-!
SUPPORT. What the bytes of memory depend on, and what the operations on lines do to them (R281 to R284, R344).
-/
namespace Sys2Proof.Machine

/-! ### The frame of a span -/

theorem minList_mem {l : List Nat} {n : Nat} (h : minList l = some n) : n ∈ l ∧ ∀ m ∈ l, n ≤ m := by
  induction l generalizing n with
  | nil => simp [minList] at h
  | cons x xs ih =>
    simp only [minList] at h
    split at h
    · rename_i y hy
      obtain ⟨h1, h2⟩ := ih hy
      simp only [Option.some.injEq] at h
      subst h
      refine ⟨?_, ?_⟩
      · rcases Nat.le_total x y with hxy | hxy
        · simp [Nat.min_eq_left hxy]
        · simp [Nat.min_eq_right hxy, h1]
      · intro m hm
        rcases List.mem_cons.1 hm with rfl | hm
        · omega
        · have := h2 m hm
          omega
    · rename_i hy
      simp only [Option.some.injEq] at h
      subst h
      cases xs with
      | nil => simp
      | cons z zs => simp only [minList] at hy; split at hy <;> simp at hy

theorem minList_eq_some {l : List Nat} {n : Nat} : minList l = some n ↔ n ∈ l ∧ ∀ m ∈ l, n ≤ m := by
  refine ⟨minList_mem, fun ⟨h1, h2⟩ => ?_⟩
  cases h : minList l with
  | none => cases l with
    | nil => simp at h1
    | cons x xs => simp only [minList] at h; split at h <;> simp at h
  | some y =>
    obtain ⟨h3, h4⟩ := minList_mem h
    have := h2 y h3
    have := h4 n h1
    congr 1
    omega

theorem Tbl.read_default {α : Type} [Inhabited α] {m : Tbl α} {k : Nat} (h : k ∉ m.map (·.1)) : m.read k = default := by
  induction m with
  | nil => rfl
  | cons x xs ih =>
    obtain ⟨a, b⟩ := x
    simp only [List.map_cons, List.mem_cons, not_or] at h
    simp only [Tbl.read]
    rw [if_neg (fun e => h.1 e.symm), ih h.2]

/-- The frame of a span is the lowest that backs it (R344). -/
theorem State.frameOf_eq_some (s : State) (pa f : Nat) :
    s.frameOf pa = some f ↔ s.backs f pa = true ∧ ∀ g, s.backs g pa = true → f ≤ g := by
  have key : ∀ g, s.backs g pa = true → g ∈ s.cache.frames.map (·.1) := by
    intro g hg
    by_cases h : g ∈ s.cache.frames.map (·.1)
    · exact h
    · have : s.frame g = default := Tbl.read_default h
      simp [State.backs, this] at hg
      exact absurd rfl hg.1
  unfold State.frameOf
  rw [minList_eq_some]
  simp only [List.mem_filter]
  constructor
  · rintro ⟨⟨_, h1⟩, h2⟩
    exact ⟨h1, fun g hg => h2 g ⟨key g hg, hg⟩⟩
  · rintro ⟨h1, h2⟩
    exact ⟨⟨key f h1, h1⟩, fun m hm => h2 m hm.2⟩

theorem State.frameOf_congr {s t : State} (pa : Nat)
    (h : ∀ f, (t.frame f).fstate = (s.frame f).fstate ∧ (t.frame f).span = (s.frame f).span) : t.frameOf pa = s.frameOf pa := by
  have hb : ∀ f, t.backs f pa = s.backs f pa := fun f => by simp [State.backs, (h f).1, (h f).2]
  apply Option.ext
  intro f
  simp only [State.frameOf_eq_some, hb]

/-! ### What a byte depends on -/

/-- Two states whose memories hold the same bytes at every level, in the same frames. -/
structure SameStore (s t : State) : Prop where
  frame : ∀ f, (t.frame f).fstate = (s.frame f).fstate ∧ (t.frame f).span = (s.frame f).span ∧
    (t.frame f).resmask = (s.frame f).resmask ∧ (t.frame f).shared = (s.frame f).shared
  pool : t.cache.pool = s.cache.pool
  gddr : t.cache.gddr = s.cache.gddr
  mem : t.mem = s.mem
  line : ∀ l, (t.sline l).present = (s.sline l).present ∧ (t.sline l).data = (s.sline l).data ∧ (t.sline l).owner = (s.sline l).owner
  l1 : ∀ c l, ((t.core c).l1.read l).valid = ((s.core c).l1.read l).valid ∧ ((t.core c).l1.read l).data = ((s.core c).l1.read l).data

theorem SameStore.refl (s : State) : SameStore s s := ⟨fun _ => ⟨rfl, rfl, rfl, rfl⟩, rfl, rfl, rfl, fun _ => ⟨rfl, rfl, rfl⟩, fun _ _ => ⟨rfl, rfl⟩⟩

theorem SameStore.trans {s t u : State} (h : SameStore s t) (h' : SameStore t u) : SameStore s u :=
  ⟨fun f => ⟨(h'.frame f).1.trans (h.frame f).1, (h'.frame f).2.1.trans (h.frame f).2.1, (h'.frame f).2.2.1.trans (h.frame f).2.2.1,
      (h'.frame f).2.2.2.trans (h.frame f).2.2.2⟩,
    h'.pool.trans h.pool, h'.gddr.trans h.gddr, h'.mem.trans h.mem,
    fun l => ⟨(h'.line l).1.trans (h.line l).1, (h'.line l).2.1.trans (h.line l).2.1, (h'.line l).2.2.trans (h.line l).2.2⟩,
    fun c l => ⟨(h'.l1 c l).1.trans (h.l1 c l).1, (h'.l1 c l).2.trans (h.l1 c l).2⟩⟩

theorem SameStore.lowByte {s t : State} (hf : ∀ f, (t.frame f).fstate = (s.frame f).fstate ∧ (t.frame f).span = (s.frame f).span ∧
      (t.frame f).resmask = (s.frame f).resmask ∧ (t.frame f).shared = (s.frame f).shared)
    (hp : t.cache.pool = s.cache.pool) (hg : t.cache.gddr = s.cache.gddr) (hm : t.mem = s.mem) (pa : Nat) : t.lowByte pa = s.lowByte pa := by
  have h1 : t.frameOf pa = s.frameOf pa := State.frameOf_congr pa fun f => ⟨(hf f).1, (hf f).2.1⟩
  have h2 : ∀ f, t.inFrame f pa = s.inFrame f pa := fun f => by
    simp only [State.inFrame, (hf f).2.2.1, (hf f).2.2.2, hp]
  simp only [State.lowByte, h1, h2, hg, hm]

/-- What the level below the slices holds. -/
structure SameLow (s t : State) : Prop where
  frame : ∀ f, (t.frame f).fstate = (s.frame f).fstate ∧ (t.frame f).span = (s.frame f).span ∧
    (t.frame f).resmask = (s.frame f).resmask ∧ (t.frame f).shared = (s.frame f).shared
  pool : t.cache.pool = s.cache.pool
  gddr : t.cache.gddr = s.cache.gddr
  mem : t.mem = s.mem

theorem SameLow.refl (s : State) : SameLow s s := ⟨fun _ => ⟨rfl, rfl, rfl, rfl⟩, rfl, rfl, rfl⟩

theorem SameLow.trans {s t u : State} (h : SameLow s t) (h' : SameLow t u) : SameLow s u :=
  ⟨fun f => ⟨(h'.frame f).1.trans (h.frame f).1, (h'.frame f).2.1.trans (h.frame f).2.1, (h'.frame f).2.2.1.trans (h.frame f).2.2.1,
      (h'.frame f).2.2.2.trans (h.frame f).2.2.2⟩,
    h'.pool.trans h.pool, h'.gddr.trans h.gddr, h'.mem.trans h.mem⟩

theorem SameStore.low {s t : State} (h : SameStore s t) : SameLow s t := ⟨h.frame, h.pool, h.gddr, h.mem⟩

theorem SameLow.lowLine {s t : State} (h : SameLow s t) (l : Nat) : t.lowLine l = s.lowLine l := by
  unfold State.lowLine
  congr 1
  funext i
  exact SameStore.lowByte h.frame h.pool h.gddr h.mem _

/-- A line depends on its home slice, its owner's L1 copy and the level below. -/
theorem State.current_congr {s t : State} (l : Nat) (h : SameLow s t)
    (hl : (t.sline l).present = (s.sline l).present ∧ (t.sline l).data = (s.sline l).data ∧ (t.sline l).owner = (s.sline l).owner)
    (h1 : ∀ c, ((t.core c).l1.read l).valid = ((s.core c).l1.read l).valid ∧ ((t.core c).l1.read l).data = ((s.core c).l1.read l).data) :
    t.current l = s.current l := by
  have ho : t.owner l = s.owner l := by simp only [State.owner, hl.2.2]
  unfold State.current
  rw [ho]
  cases s.owner l with
  | none => simp only [hl.1, hl.2.1, h.lowLine]
  | some c => simp only [(h1 c).1, (h1 c).2, hl.1, hl.2.1, h.lowLine]

/-- Every line is as it was. -/
theorem SameStore.current {s t : State} (h : SameStore s t) (l : Nat) : t.current l = s.current l :=
  State.current_congr l h.low (h.line l) fun c => h.l1 c l

/-- Every byte of memory is as it was. -/
theorem SameStore.byteAt {s t : State} (h : SameStore s t) (pa : Nat) : t.byteAt pa = s.byteAt pa := by
  simp only [State.byteAt, h.current]

/-! ### Changes that leave every byte -/

/-- A change of a frame that keeps what backs its span. -/
theorem State.sameStore_modFrame (s : State) (k : Nat) (g : Frame → Frame)
    (h : ∀ x, (g x).fstate = x.fstate ∧ (g x).span = x.span ∧ (g x).resmask = x.resmask ∧ (g x).shared = x.shared) :
    SameStore s (s.modFrame k g) := by
  refine ⟨fun f => ?_, rfl, rfl, rfl, fun _ => ⟨rfl, rfl, rfl⟩, fun _ _ => ⟨rfl, rfl⟩⟩
  have : (s.modFrame k g).frame f = if f = k then g (s.frame k) else s.frame f := Tbl.read_modify ..
  rw [this]
  split
  · rename_i e; subst e; exact h _
  · exact ⟨rfl, rfl, rfl, rfl⟩

theorem State.sameStore_markDirty (s : State) (l : Nat) : SameStore s (s.markDirty l) := by
  unfold State.markDirty
  split
  · exact s.sameStore_modFrame _ _ fun _ => ⟨rfl, rfl, rfl, rfl⟩
  · exact .refl s

theorem State.sameStore_touchFrame (s : State) (l : Nat) : SameStore s (s.touchFrame l) := by
  unfold State.touchFrame
  split
  · exact s.sameStore_modFrame _ _ fun _ => ⟨rfl, rfl, rfl, rfl⟩
  · exact .refl s

/-! ### A line replaced at its home (R284) -/

theorem State.sline_modSline (s : State) (l l' : Nat) (g : SLine → SLine) :
    (s.modSline l g).sline l' = if l' = l then g (s.sline l) else s.sline l' := Tbl.read_modify ..

theorem State.core_modCore (s : State) (c c' : Nat) (g : Core → Core) :
    (s.modCore c g).core c' = if c' = c then g (s.core c) else s.core c' := Tbl.read_write ..

theorem State.sameLow_modSline (s : State) (l : Nat) (g : SLine → SLine) : SameLow s (s.modSline l g) :=
  ⟨fun _ => ⟨rfl, rfl, rfl, rfl⟩, rfl, rfl, rfl⟩

theorem State.sameLow_modCore (s : State) (c : Nat) (g : Core → Core) : SameLow s (s.modCore c g) :=
  ⟨fun _ => ⟨rfl, rfl, rfl, rfl⟩, rfl, rfl, rfl⟩

/-- Slices and L1 copies of every line but `l` are as they were, and so is the level below. -/
structure OnlyLine (l : Nat) (s t : State) : Prop where
  low : SameLow s t
  line : ∀ l', l' ≠ l → t.sline l' = s.sline l'
  l1 : ∀ c l', l' ≠ l → (t.core c).l1.read l' = (s.core c).l1.read l'

theorem OnlyLine.current {l : Nat} {s t : State} (h : OnlyLine l s t) {l' : Nat} (hl : l' ≠ l) : t.current l' = s.current l' :=
  State.current_congr l' h.low (by simp [h.line l' hl]) fun c => by simp [h.l1 c l' hl]

theorem OnlyLine.trans {l : Nat} {s t u : State} (h : OnlyLine l s t) (h' : OnlyLine l t u) : OnlyLine l s u :=
  ⟨h.low.trans h'.low, fun l' e => (h'.line l' e).trans (h.line l' e), fun c l' e => (h'.l1 c l' e).trans (h.l1 c l' e)⟩

theorem State.onlyLine_modSline (s : State) (l : Nat) (g : SLine → SLine) : OnlyLine l s (s.modSline l g) :=
  ⟨s.sameLow_modSline l g, fun l' h => by rw [State.sline_modSline, if_neg h], fun _ _ _ => rfl⟩

theorem State.slines_modFrame (s : State) (k : Nat) (g : Frame → Frame) (l : Nat) : (s.modFrame k g).sline l = s.sline l := rfl

theorem State.onlyLine_markDirty (s : State) (l l' : Nat) : OnlyLine l (s) (s.markDirty l') := by
  refine ⟨(s.sameStore_markDirty l').low, fun _ _ => ?_, fun _ _ _ => ?_⟩ <;> unfold State.markDirty <;> split <;> rfl

theorem State.onlyLine_touchFrame (s : State) (l l' : Nat) : OnlyLine l (s) (s.touchFrame l') := by
  refine ⟨(s.sameStore_touchFrame l').low, fun _ _ => ?_, fun _ _ _ => ?_⟩ <;> unfold State.touchFrame <;> split <;> rfl

theorem State.onlyLine_l1 (s : State) (c l : Nat) (y : L1Line) :
    OnlyLine l s (s.modCore c fun k => { k with l1 := k.l1.write l y }) := by
  refine ⟨s.sameLow_modCore c _, fun _ _ => rfl, fun c' l' h => ?_⟩
  rw [State.core_modCore]
  split
  · rename_i e
    subst e
    exact Tbl.read_write_other _ _ h
  · rfl

theorem State.onlyLine_recall (s : State) (l : Nat) : OnlyLine l s (s.recall l) := by
  unfold State.recall
  split
  · exact ⟨.refl s, fun _ _ => rfl, fun _ _ _ => rfl⟩
  · rename_i c hc
    dsimp only
    refine OnlyLine.trans ?_ (State.onlyLine_modSline _ _ _)
    split
    · exact ((s.onlyLine_l1 c l _).trans (State.onlyLine_modSline _ _ _)).trans (State.onlyLine_markDirty _ _ _)
    · exact s.onlyLine_l1 c l _

/-- A line has no owner after its recall. -/
theorem State.owner_recall (s : State) (l : Nat) : ((s.recall l).sline l).owner = 0 := by
  unfold State.recall
  split
  · rename_i h
    unfold State.owner at h
    simp only at h
    split at h
    · assumption
    · simp at h
  · rw [State.sline_modSline, if_pos rfl]

theorem State.sline_markDirty (s : State) (l l' : Nat) : (s.markDirty l).sline l' = s.sline l' := by
  unfold State.markDirty
  split <;> rfl

theorem State.sline_touchFrame (s : State) (l l' : Nat) : (s.touchFrame l).sline l' = s.sline l' := by
  unfold State.touchFrame
  split <;> rfl

/-- A write at the home: its line is replaced, every other line is as it was. -/
theorem State.current_writeHome (s : State) (l l' : Nat) (f : LineData → LineData) :
    (s.writeHome l f).current l' = if l' = l then f ((s.recall l).current l) else s.current l' := by
  have step : ∀ u : State, OnlyLine l u (if (u.sline l).present then u else u.touchFrame l) := fun u => by
    split
    · exact ⟨.refl u, fun _ _ => rfl, fun _ _ _ => rfl⟩
    · exact u.onlyLine_touchFrame l l
  have own : ∀ u : State, ((if (u.sline l).present then u else u.touchFrame l).sline l).owner = (u.sline l).owner := fun u => by
    split
    · rfl
    · rw [State.sline_touchFrame]
  split
  · rename_i e
    subst e
    unfold State.writeHome
    dsimp only
    rw [(State.sameStore_markDirty _ _).current]
    unfold State.current State.owner
    simp only [State.sline_modSline, if_pos, own, State.owner_recall]
  · rename_i e
    unfold State.writeHome
    dsimp only
    rw [(State.sameStore_markDirty _ _).current]
    exact (((s.onlyLine_recall l).trans (step _)).trans (State.onlyLine_modSline _ _ _)).current e

/-- A recall leaves every line as it was where the owner's clean copy equals what lies below it. -/
theorem State.current_recall (s : State) (l l' : Nat) (h : ∀ c, s.owner l = some c → ((s.core c).l1.read l).valid = true →
      ((s.core c).l1.read l).dirty = false →
      ((s.core c).l1.read l).data = if (s.sline l).present then (s.sline l).data else s.lowLine l) :
    (s.recall l).current l' = s.current l' := by
  by_cases e : l' = l
  · subst e
    cases hc : s.owner l' with
    | none => simp only [State.recall, hc]
    | some c =>
      have h0 := State.owner_recall s l'
      have hlow := (s.onlyLine_recall l').low.lowLine l'
      have e1 : (s.recall l').current l' = if ((s.recall l').sline l').present then ((s.recall l').sline l').data else s.lowLine l' := by
        rw [State.current]
        simp only [State.owner, h0, if_true, hlow]
      rw [e1]
      unfold State.recall
      simp only [hc, State.current]
      cases hv : ((s.core c).l1.read l').valid <;> cases hd : ((s.core c).l1.read l').dirty <;>
        simp [State.sline_markDirty] <;> first | (rw [h c hc hv hd]; rfl) | rfl
  · exact (s.onlyLine_recall l).current e

/-! ### Translation changes no byte (R321, R324) -/

theorem State.sameStore_modDie (s : State) (d : Nat) (g : Die → Die) : SameStore s (s.modDie d g) :=
  ⟨fun _ => ⟨rfl, rfl, rfl, rfl⟩, rfl, rfl, rfl, fun _ => ⟨rfl, rfl, rfl⟩, fun _ _ => ⟨rfl, rfl⟩⟩

theorem State.sameStore_lastLevel (s : State) (a : Agent) (ctx : Nat) (va : W64) : SameStore s (s.lastLevel a ctx va).2 := by
  simp only [State.lastLevel]
  split
  · exact .refl s
  · split
    · split
      · exact s.sameStore_modDie _ _
      · exact .refl s
    · split
      · split
        · exact s.sameStore_modDie _ _
        · exact .refl s
      · split
        · exact s.sameStore_modDie _ _
        · exact .refl s

theorem State.sameStore_putFirst (s : State) (a : Agent) (fetch : Bool) (e : TlbEntry) : SameStore s (s.putFirst a fetch e) := by
  unfold State.putFirst
  split
  · exact .refl s
  · refine ⟨fun _ => ⟨rfl, rfl, rfl, rfl⟩, rfl, rfl, rfl, fun _ => ⟨rfl, rfl, rfl⟩, fun c' l => ?_⟩
    rw [State.core_modCore]
    split
    · rename_i h
      subst h
      cases fetch <;> exact ⟨rfl, rfl⟩
    · exact ⟨rfl, rfl⟩

theorem State.sameStore_putSmall (s : State) (a : Agent) (fetch : Bool) (e : TlbEntry) : SameStore s (s.putSmall a fetch e) := by
  cases a with
  | die d => exact .refl s
  | core c =>
    refine (s.sameStore_putFirst (.core c) fetch e).trans ?_
    exact ⟨fun _ => ⟨rfl, rfl, rfl, rfl⟩, rfl, rfl, rfl, fun _ => ⟨rfl, rfl, rfl⟩, fun _ _ => ⟨rfl, rfl⟩⟩

theorem State.sameStore_installed (s : State) (a : Agent) (e : TlbEntry) : SameStore s (s.installed a e) := by
  unfold State.installed
  split
  · exact .refl s
  · split
    · exact .refl s
    · exact s.sameStore_modFrame _ _ fun _ => ⟨rfl, rfl, rfl, rfl⟩

theorem State.sameStore_translate (s : State) (a : Agent) (fetch : Bool) (ctx : Nat) (va : W64) :
    SameStore s (s.translate a fetch ctx va).2 := by
  unfold State.translate
  dsimp only
  split
  · exact .refl s
  · split
    · exact .refl s
    · split
      · exact (s.sameStore_putFirst _ _ _).trans (State.sameStore_installed _ _ _)
      · have h := s.sameStore_lastLevel a ctx va
        split
        · rename_i e u hu
          rw [hu] at h
          split
          · exact h.trans ((u.sameStore_putSmall _ _ _).trans (State.sameStore_installed _ _ _))
          · exact h
        · exact h

/-- Translating an address and checking its rights changes no byte of memory. -/
theorem State.sameStore_access (s : State) (a : Agent) (ctx : Nat) (va : W64) (k : AccKind) : SameStore s (s.access a ctx va k).2 := by
  unfold State.access
  have h := s.sameStore_translate a (k = .fetch) ctx va
  split <;> (rename_i hu; rw [hu] at h)
  · dsimp only
    split <;> exact h
  · exact h
  · exact h

/-! ### Bytes of a line -/

theorem lineByte_eq (d : LineData) (i : Nat) : (lineByte d i).toNat = d.toNat / 256 ^ i % 256 := by
  simp [lineByte, BitVec.extractLsb', Nat.shiftRight_eq_div_pow, Nat.pow_mul]

end Sys2Proof.Machine
end

