-- ==== Sys2Proof/Tests/Slice0.lean ====
section
/-!
SUPPORT. Tests: words written out from the encoding tables of R37, R58 and R59 and decoded; for each statement a state and operands that
meet its hypotheses; terms that WellFormed refuses; and values that the spec states or that follow from its formulas by hand.
-/
open Sys2Proof Sys2Proof.Machine Sys2Proof.Claims
namespace Sys2Proof.Tests

set_option Elab.async false

/-! ### Words of every family, from R37's places of the fields -/

/-- The decoder reads the word with these halves as the instruction. -/
def reads (hi lo : Nat) (i : Instr) : Bool := decodeTableWord 128 (hi * 2 ^ 64 + lo) == some i

theorem test_decode_lane_control_1 :
    (reads 0x0000030000000000 0x0000000400FF8000 (.nop { g := 3, wm := 0x801 }) &&
    reads 0x0010030000000000 0x0000031801029000 (.bra { g := 3, x := 0x3, st := 1, yl := true, wm := 0x002, sa := 0, sb := 5, ru := 1 }) &&
    reads 0x002003000C000000 0x0000002401DFA000 (.bri { g := 3, a := 12, st := 2, wm := 0x803, sa := 11, ru := 2 }) &&
    reads 0x0030030800000000 0x00000338027FB000 (.call { g := 3, d := 8, x := 0x3, st := 3, yl := true, wm := 0x004, ru := 3 }) &&
    reads 0x004003000C000000 0x000000440282C000 (.ret { g := 3, a := 12, st := 4, wm := 0x805, sa := 0, sb := 5, ru := 4 }) &&
    reads 0x0050030000000000 0x00000058035FD000 (.exit { g := 3, st := 5, yl := true, wm := 0x006, sa := 11, ru := 5 }) &&
    reads 0x0060030000000000 0x0000006403FFE000 (.yield { g := 3, st := 6, wm := 0x807, ru := 6 }) &&
    reads 0x0070030000000000 0x000003780402F000 (.sleep { g := 3, x := 0x3, st := 7, yl := true, wm := 0x008, sa := 0, sb := 5, ru := 7 }) &&
    reads 0x0080030000000000 0x0000038404DF8000 (.trap { g := 3, x := 0x3, st := 8, wm := 0x809, sa := 11 })) = true := by
  decide +kernel

theorem test_decode_lane_control_2 :
    (reads 0x0090030000000000 0x00000098057F9000 (.tret { g := 3, st := 9, yl := true, wm := 0x00A, ru := 1 }) &&
    reads 0x00A0030000000000 0x000003A40582A000 (.bkpt { g := 3, x := 0x3, st := 10, wm := 0x80B, sa := 0, sb := 5, ru := 2 })) = true := by
  decide +kernel

theorem test_decode_lane_exchange :
    (reads 0x0800030204050600 0x000003B8065FB000 (.plop { g := 3, d := 2, a := 4, b := 5, e := 6, x := 0x3, st := 11, yl := true, wm := 0x00C, sa := 11, ru := 3 }) &&
    reads 0x0810030204000000 0x000000C406FFC000 (.vote { g := 3, d := 2, a := 4, st := 12, wm := 0x80D, ru := 4 }) &&
    reads 0x0820030200000000 0x000000D80702D000 (.elect { g := 3, d := 2, st := 13, yl := true, wm := 0x00E, sa := 0, sb := 5, ru := 5 }) &&
    reads 0x083003080C000000 0x000000E407DFE000 (.match { g := 3, d := 8, a := 12, st := 14, wm := 0x80F, sa := 11, ru := 6 }) &&
    reads 0x084003080C100000 0x000003F8087FF000 (.shfl { g := 3, d := 8, a := 12, b := 16, x := 0x3, st := 15, yl := true, wm := 0x010, ru := 7 }) &&
    reads 0x085003080C000000 0x0000030408828000 (.redux { g := 3, d := 8, a := 12, x := 0x3, wm := 0x811, sa := 0, sb := 5 }) &&
    reads 0x086003080C000000 0x00000318095F9000 (.scan { g := 3, d := 8, a := 12, x := 0x3, st := 1, yl := true, wm := 0x012, sa := 11, ru := 1 })) = true := by
  decide +kernel

theorem test_decode_lane_int32_1 :
    (reads 0x1000030800100000 0x0000002409FFA000 (.mov { g := 3, d := 8, b := 16, st := 2, wm := 0x813, ru := 2 }) &&
    reads 0x1018030800000000 0x000003380A02B000 (.movi { md := 0x80, g := 3, d := 8, x := 0x3, st := 3, yl := true, wm := 0x014, sa := 0, sb := 5, ru := 3 }) &&
    reads 0x102003080C100000 0x000000440ADFC000 (.iadd { g := 3, d := 8, a := 12, b := 16, st := 4, wm := 0x815, sa := 11, ru := 4 }) &&
    reads 0x103003080C100000 0x000000580B7FD000 (.isub { g := 3, d := 8, a := 12, b := 16, st := 5, yl := true, wm := 0x016, ru := 5 }) &&
    reads 0x104003080C100000 0x000000640B82E000 (.imul { g := 3, d := 8, a := 12, b := 16, st := 6, wm := 0x817, sa := 0, sb := 5, ru := 6 }) &&
    reads 0x105003080C100000 0x000000780C5FF000 (.imulh { g := 3, d := 8, a := 12, b := 16, st := 7, yl := true, wm := 0x018, sa := 11, ru := 7 }) &&
    reads 0x106003080C101400 0x000000840CFF8000 (.imad { g := 3, d := 8, a := 12, b := 16, e := 20, st := 8, wm := 0x819 }) &&
    reads 0x107003080C100000 0x000000980D029000 (.imin { g := 3, d := 8, a := 12, b := 16, st := 9, yl := true, wm := 0x01A, sa := 0, sb := 5, ru := 1 }) &&
    reads 0x108003080C100000 0x000000A40DDFA000 (.imax { g := 3, d := 8, a := 12, b := 16, st := 10, wm := 0x81B, sa := 11, ru := 2 })) = true := by
  decide +kernel

theorem test_decode_lane_int32_2 :
    (reads 0x1090030800100000 0x000000B80E7FB000 (.iabs { g := 3, d := 8, b := 16, st := 11, yl := true, wm := 0x01C, ru := 3 }) &&
    reads 0x10A0030800100000 0x000000C40E82C000 (.ineg { g := 3, d := 8, b := 16, st := 12, wm := 0x81D, sa := 0, sb := 5, ru := 4 }) &&
    reads 0x10B003020C101400 0x000000D80F5FD000 (.isetp { g := 3, d := 2, a := 12, b := 16, e := 20, st := 13, yl := true, wm := 0x01E, sa := 11, ru := 5 }) &&
    reads 0x10C0030204050600 0x000000E40FFFE000 (.sel { g := 3, d := 2, a := 4, b := 5, e := 6, st := 14, wm := 0x81F, ru := 6 }) &&
    reads 0x10D003080C100000 0x000000F81002F000 (.shl { g := 3, d := 8, a := 12, b := 16, st := 15, yl := true, wm := 0x020, sa := 0, sb := 5, ru := 7 }) &&
    reads 0x10E003080C100000 0x0000000410DF8000 (.shr { g := 3, d := 8, a := 12, b := 16, wm := 0x821, sa := 11 }) &&
    reads 0x10F003080C100000 0x00000018117F9000 (.sar { g := 3, d := 8, a := 12, b := 16, st := 1, yl := true, wm := 0x022, ru := 1 }) &&
    reads 0x110003080C101400 0x000000241182A000 (.shf { g := 3, d := 8, a := 12, b := 16, e := 20, st := 2, wm := 0x823, sa := 0, sb := 5, ru := 2 }) &&
    reads 0x111003080C101400 0x00000338125FB000 (.bitf3 { g := 3, d := 8, a := 12, b := 16, e := 20, x := 0x3, st := 3, yl := true, wm := 0x024, sa := 11, ru := 3 })) = true := by
  decide +kernel

theorem test_decode_lane_int32_3 :
    (reads 0x1120030800100000 0x0000004412FFC000 (.popc { g := 3, d := 8, b := 16, st := 4, wm := 0x825, ru := 4 }) &&
    reads 0x1130030800100000 0x000000581302D000 (.clz { g := 3, d := 8, b := 16, st := 5, yl := true, wm := 0x026, sa := 0, sb := 5, ru := 5 }) &&
    reads 0x1140030800100000 0x0000006413DFE000 (.ctz { g := 3, d := 8, b := 16, st := 6, wm := 0x827, sa := 11, ru := 6 }) &&
    reads 0x1150030800100000 0x00000078147FF000 (.brev { g := 3, d := 8, b := 16, st := 7, yl := true, wm := 0x028, ru := 7 }) &&
    reads 0x116003080C100000 0x0000008414828000 (.bfe { g := 3, d := 8, a := 12, b := 16, st := 8, wm := 0x829, sa := 0, sb := 5 }) &&
    reads 0x117003080C101400 0x00000098155F9000 (.bfi { g := 3, d := 8, a := 12, b := 16, e := 20, st := 9, yl := true, wm := 0x02A, sa := 11, ru := 1 }) &&
    reads 0x118003080C101400 0x000000A415FFA000 (.prmt { g := 3, d := 8, a := 12, b := 16, e := 20, st := 10, wm := 0x82B, ru := 2 }) &&
    reads 0x119003080C101400 0x000000B81602B000 (.idp4 { g := 3, d := 8, a := 12, b := 16, e := 20, st := 11, yl := true, wm := 0x02C, sa := 0, sb := 5, ru := 3 })) = true := by
  decide +kernel

theorem test_decode_lane_int64 :
    (reads 0x180003080C100000 0x000000C416DFC000 (.iadd64 { g := 3, d := 8, a := 12, b := 16, st := 12, wm := 0x82D, sa := 11, ru := 4 }) &&
    reads 0x181003080C100000 0x000000D8177FD000 (.isub64 { g := 3, d := 8, a := 12, b := 16, st := 13, yl := true, wm := 0x02E, ru := 5 }) &&
    reads 0x182003080C101400 0x000000E41782E000 (.imadw { g := 3, d := 8, a := 12, b := 16, e := 20, st := 14, wm := 0x82F, sa := 0, sb := 5, ru := 6 }) &&
    reads 0x183003080C101400 0x000000F8185FF000 (.imad64 { g := 3, d := 8, a := 12, b := 16, e := 20, st := 15, yl := true, wm := 0x030, sa := 11, ru := 7 }) &&
    reads 0x184003020C101400 0x0000000418FF8000 (.isetp64 { g := 3, d := 2, a := 12, b := 16, e := 20, wm := 0x831 }) &&
    reads 0x185003080C100000 0x0000001819029000 (.shl64 { g := 3, d := 8, a := 12, b := 16, st := 1, yl := true, wm := 0x032, sa := 0, sb := 5, ru := 1 }) &&
    reads 0x186003080C100000 0x0000002419DFA000 (.shr64 { g := 3, d := 8, a := 12, b := 16, st := 2, wm := 0x833, sa := 11, ru := 2 }) &&
    reads 0x187003080C100000 0x000000381A7FB000 (.sar64 { g := 3, d := 8, a := 12, b := 16, st := 3, yl := true, wm := 0x034, ru := 3 })) = true := by
  decide +kernel

theorem test_decode_lane_float32 :
    (reads 0x200003080C100000 0x000000441A82C000 (.fadd { g := 3, d := 8, a := 12, b := 16, st := 4, wm := 0x835, sa := 0, sb := 5, ru := 4 }) &&
    reads 0x201003080C100000 0x000000581B5FD000 (.fmul { g := 3, d := 8, a := 12, b := 16, st := 5, yl := true, wm := 0x036, sa := 11, ru := 5 }) &&
    reads 0x202003080C101400 0x000000641BFFE000 (.ffma { g := 3, d := 8, a := 12, b := 16, e := 20, st := 6, wm := 0x837, ru := 6 }) &&
    reads 0x203003080C100000 0x000000781C02F000 (.fmin { g := 3, d := 8, a := 12, b := 16, st := 7, yl := true, wm := 0x038, sa := 0, sb := 5, ru := 7 }) &&
    reads 0x204003080C100000 0x000000841CDF8000 (.fmax { g := 3, d := 8, a := 12, b := 16, st := 8, wm := 0x839, sa := 11 }) &&
    reads 0x205003020C101400 0x000000981D7F9000 (.fsetp { g := 3, d := 2, a := 12, b := 16, e := 20, st := 9, yl := true, wm := 0x03A, ru := 1 }) &&
    reads 0x2060030800100000 0x000000A41D82A000 (.frnd { g := 3, d := 8, b := 16, st := 10, wm := 0x83B, sa := 0, sb := 5, ru := 2 }) &&
    reads 0x207003020C000000 0x000003B81E5FB000 (.fclass { g := 3, d := 2, a := 12, x := 0x3, st := 11, yl := true, wm := 0x03C, sa := 11, ru := 3 })) = true := by
  decide +kernel

theorem test_decode_lane_float64_1 :
    (reads 0x280003080C100000 0x000000C41EFFC000 (.dadd { g := 3, d := 8, a := 12, b := 16, st := 12, wm := 0x83D, ru := 4 }) &&
    reads 0x281003080C100000 0x000000D81F02D000 (.dmul { g := 3, d := 8, a := 12, b := 16, st := 13, yl := true, wm := 0x03E, sa := 0, sb := 5, ru := 5 }) &&
    reads 0x282003080C101400 0x000000E41FDFE000 (.dfma { g := 3, d := 8, a := 12, b := 16, e := 20, st := 14, wm := 0x83F, sa := 11, ru := 6 }) &&
    reads 0x283003080C100000 0x000000F8207FF000 (.dmin { g := 3, d := 8, a := 12, b := 16, st := 15, yl := true, wm := 0x040, ru := 7 }) &&
    reads 0x284003080C100000 0x0000000420828000 (.dmax { g := 3, d := 8, a := 12, b := 16, wm := 0x841, sa := 0, sb := 5 }) &&
    reads 0x285003020C101400 0x00000018215F9000 (.dsetp { g := 3, d := 2, a := 12, b := 16, e := 20, st := 1, yl := true, wm := 0x042, sa := 11, ru := 1 }) &&
    reads 0x286003080C100000 0x0000002421FFA000 (.hadd2 { g := 3, d := 8, a := 12, b := 16, st := 2, wm := 0x843, ru := 2 }) &&
    reads 0x287003080C100000 0x000000382202B000 (.hmul2 { g := 3, d := 8, a := 12, b := 16, st := 3, yl := true, wm := 0x044, sa := 0, sb := 5, ru := 3 }) &&
    reads 0x288003080C101400 0x0000004422DFC000 (.hfma2 { g := 3, d := 8, a := 12, b := 16, e := 20, st := 4, wm := 0x845, sa := 11, ru := 4 })) = true := by
  decide +kernel

theorem test_decode_lane_float64_2 :
    (reads 0x289003080C100000 0x00000058237FD000 (.hmin2 { g := 3, d := 8, a := 12, b := 16, st := 5, yl := true, wm := 0x046, ru := 5 }) &&
    reads 0x28A003080C100000 0x000000642382E000 (.hmax2 { g := 3, d := 8, a := 12, b := 16, st := 6, wm := 0x847, sa := 0, sb := 5, ru := 6 }) &&
    reads 0x28B003020C101400 0x00000078245FF000 (.hsetp2 { g := 3, d := 2, a := 12, b := 16, e := 20, st := 7, yl := true, wm := 0x048, sa := 11, ru := 7 })) = true := by
  decide +kernel

theorem test_decode_lane_convert_1 :
    (reads 0x3000030800100000 0x0000008424FF8000 (.frcp { g := 3, d := 8, b := 16, st := 8, wm := 0x849 }) &&
    reads 0x3010030800100000 0x0000009825029000 (.frsq { g := 3, d := 8, b := 16, st := 9, yl := true, wm := 0x04A, sa := 0, sb := 5, ru := 1 }) &&
    reads 0x3020030800100000 0x000000A425DFA000 (.fsqrt { g := 3, d := 8, b := 16, st := 10, wm := 0x84B, sa := 11, ru := 2 }) &&
    reads 0x3030030800100000 0x000000B8267FB000 (.fex2 { g := 3, d := 8, b := 16, st := 11, yl := true, wm := 0x04C, ru := 3 }) &&
    reads 0x3040030800100000 0x000000C42682C000 (.flg2 { g := 3, d := 8, b := 16, st := 12, wm := 0x84D, sa := 0, sb := 5, ru := 4 }) &&
    reads 0x3050030800100000 0x000000D8275FD000 (.fsin { g := 3, d := 8, b := 16, st := 13, yl := true, wm := 0x04E, sa := 11, ru := 5 }) &&
    reads 0x3060030800100000 0x000000E427FFE000 (.fcos { g := 3, d := 8, b := 16, st := 14, wm := 0x84F, ru := 6 }) &&
    reads 0x3070030800100000 0x000000F82802F000 (.drcp { g := 3, d := 8, b := 16, st := 15, yl := true, wm := 0x050, sa := 0, sb := 5, ru := 7 }) &&
    reads 0x3080030800100000 0x0000030428DF8000 (.cvt { g := 3, d := 8, b := 16, x := 0x3, wm := 0x851, sa := 11 })) = true := by
  decide +kernel

theorem test_decode_lane_convert_2 :
    (reads 0x309403090C050000 0x00011A18297F9000 (.qblk { md := 0x40, g := 3, d := 9, a := 12, b := 5, x := 0x11A, st := 1, yl := true, wm := 0x052, ru := 1 }) &&
    reads 0x30A4030C09050000 0x00001C242982A000 (.dqblk { md := 0x40, g := 3, d := 12, a := 9, b := 5, x := 0x1C, st := 2, wm := 0x853, sa := 0, sb := 5, ru := 2 })) = true := by
  decide +kernel

theorem test_decode_lane_memory_1 :
    (reads 0x380803080C100000 0x000003382A5FB000 (.ld { md := 0x80, g := 3, d := 8, a := 12, b := 16, x := 0x3, st := 3, yl := true, wm := 0x054, sa := 11, ru := 3 }) &&
    reads 0x381803000C101400 0x000003442AFFC000 (.st { md := 0x80, g := 3, a := 12, b := 16, e := 20, x := 0x3, st := 4, wm := 0x855, ru := 4 }) &&
    reads 0x382803080C100000 0x000003582B02D000 (.lds { md := 0x80, g := 3, d := 8, a := 12, b := 16, x := 0x3, st := 5, yl := true, wm := 0x056, sa := 0, sb := 5, ru := 5 }) &&
    reads 0x383803000C101400 0x000003642BDFE000 (.sts { md := 0x80, g := 3, a := 12, b := 16, e := 20, x := 0x3, st := 6, wm := 0x857, sa := 11, ru := 6 }) &&
    reads 0x384003080C100000 0x000003782C7FF000 (.gath { g := 3, d := 8, a := 12, b := 16, x := 0x3, st := 7, yl := true, wm := 0x058, ru := 7 }) &&
    reads 0x385003000C101400 0x000003842C828000 (.scat { g := 3, a := 12, b := 16, e := 20, x := 0x3, st := 8, wm := 0x859, sa := 0, sb := 5 }) &&
    reads 0x386803000C100000 0x000003982D5F9000 (.pref { md := 0x80, g := 3, a := 12, b := 16, x := 0x3, st := 9, yl := true, wm := 0x05A, sa := 11, ru := 1 }) &&
    reads 0x387803000C100000 0x000003A42DFFA000 (.cctl { md := 0x80, g := 3, a := 12, b := 16, x := 0x3, st := 10, wm := 0x85B, ru := 2 }) &&
    reads 0x3880130000000000 0x000000B82E02B000 (.fence { md := 0x01, g := 3, st := 11, yl := true, wm := 0x05C, sa := 0, sb := 5, ru := 3 })) = true := by
  decide +kernel

theorem test_decode_lane_memory_2 :
    (reads 0x389003000C000000 0x000003C42EDFC000 (.icinv { g := 3, a := 12, x := 0x3, st := 12, wm := 0x85D, sa := 11, ru := 4 }) &&
    reads 0x38A0030000000000 0x000000D82F7FD000 (.ifence { g := 3, st := 13, yl := true, wm := 0x05E, ru := 5 })) = true := by
  decide +kernel

theorem test_decode_lane_atomic :
    (reads 0x400003080C100000 0x000003E42F82E000 (.atom { g := 3, d := 8, a := 12, b := 16, x := 0x3, st := 14, wm := 0x85F, sa := 0, sb := 5, ru := 6 }) &&
    reads 0x401003080C100000 0x000003F8305FF000 (.atoms { g := 3, d := 8, a := 12, b := 16, x := 0x3, st := 15, yl := true, wm := 0x060, sa := 11, ru := 7 }) &&
    reads 0x402003000C100000 0x0000030430FF8000 (.red { g := 3, a := 12, b := 16, x := 0x3, wm := 0x861 }) &&
    reads 0x403003080C101400 0x0000201831029000 (.dcas { g := 3, d := 8, a := 12, b := 16, e := 20, x := 0x20, st := 1, yl := true, wm := 0x062, sa := 0, sb := 5, ru := 1 }) &&
    reads 0x404003080C101400 0x0000002431DFA000 (.amov { g := 3, d := 8, a := 12, b := 16, e := 20, st := 2, wm := 0x863, sa := 11, ru := 2 }) &&
    reads 0x405003080C000000 0x00000038327FB000 (.mcas { g := 3, d := 8, a := 12, st := 3, yl := true, wm := 0x064, ru := 3 })) = true := by
  decide +kernel

theorem test_decode_lane_copy_queue :
    (reads 0x480003000C101400 0x000000443282C000 (.cpl { g := 3, a := 12, b := 16, e := 20, st := 4, wm := 0x865, sa := 0, sb := 5, ru := 4 }) &&
    reads 0x4810430204000600 0x00000058335FD000 (.qpop { md := 0x04, g := 3, d := 2, a := 4, e := 6, st := 5, yl := true, wm := 0x066, sa := 11, ru := 5 }) &&
    reads 0x482003080C100000 0x0000006433FFE000 (.accrd { g := 3, d := 8, a := 12, b := 16, st := 6, wm := 0x867, ru := 6 }) &&
    reads 0x483003000C101400 0x000000783402F000 (.accwr { g := 3, a := 12, b := 16, e := 20, st := 7, yl := true, wm := 0x068, sa := 0, sb := 5, ru := 7 })) = true := by
  decide +kernel

theorem test_decode_lane_geometry :
    (reads 0x600003080C101400 0x0000008434DF8000 (.cutsel { g := 3, d := 8, a := 12, b := 16, e := 20, st := 8, wm := 0x869, sa := 11 }) &&
    reads 0x601003080C101400 0x00000098357F9000 (.rayt { g := 3, d := 8, a := 12, b := 16, e := 20, st := 9, yl := true, wm := 0x06A, ru := 1 }) &&
    reads 0x602003080C101400 0x000000A43582A000 (.rayr { g := 3, d := 8, a := 12, b := 16, e := 20, st := 10, wm := 0x86B, sa := 0, sb := 5, ru := 2 }) &&
    reads 0x603003080C100000 0x000000B8365FB000 (.rast { g := 3, d := 8, a := 12, b := 16, st := 11, yl := true, wm := 0x06C, sa := 11, ru := 3 }) &&
    reads 0x604003080C101400 0x000000C436FFC000 (.tex { g := 3, d := 8, a := 12, b := 16, e := 20, st := 12, wm := 0x86D, ru := 4 }) &&
    reads 0x605003080C101400 0x000000D83702D000 (.texg { g := 3, d := 8, a := 12, b := 16, e := 20, st := 13, yl := true, wm := 0x06E, sa := 0, sb := 5, ru := 5 }) &&
    reads 0x606003080C100000 0x000000E437DFE000 (.texq { g := 3, d := 8, a := 12, b := 16, st := 14, wm := 0x86F, sa := 11, ru := 6 })) = true := by
  decide +kernel

theorem test_decode_uniform_scalar_1 :
    (reads 0x8000030800100000 0x000000F8387FF000 (.smov { g := 3, d := 8, b := 16, st := 15, yl := true, wm := 0x070, ru := 7 }) &&
    reads 0x8018030800000000 0x0000030438828000 (.smovi { md := 0x80, g := 3, d := 8, x := 0x3, wm := 0x871, sa := 0, sb := 5 }) &&
    reads 0x802003080C100000 0x00000018395F9000 (.sadd { g := 3, d := 8, a := 12, b := 16, st := 1, yl := true, wm := 0x072, sa := 11, ru := 1 }) &&
    reads 0x803003080C100000 0x0000002439FFA000 (.ssub { g := 3, d := 8, a := 12, b := 16, st := 2, wm := 0x873, ru := 2 }) &&
    reads 0x804003080C100000 0x000000383A02B000 (.smul { g := 3, d := 8, a := 12, b := 16, st := 3, yl := true, wm := 0x074, sa := 0, sb := 5, ru := 3 }) &&
    reads 0x805003080C101400 0x000000443ADFC000 (.smad { g := 3, d := 8, a := 12, b := 16, e := 20, st := 4, wm := 0x875, sa := 11, ru := 4 }) &&
    reads 0x806003080C100000 0x000000583B7FD000 (.smin { g := 3, d := 8, a := 12, b := 16, st := 5, yl := true, wm := 0x076, ru := 5 }) &&
    reads 0x807003080C100000 0x000000643B82E000 (.smax { g := 3, d := 8, a := 12, b := 16, st := 6, wm := 0x877, sa := 0, sb := 5, ru := 6 }) &&
    reads 0x808003080C101400 0x000003783C5FF000 (.sbitf3 { g := 3, d := 8, a := 12, b := 16, e := 20, x := 0x3, st := 7, yl := true, wm := 0x078, sa := 11, ru := 7 })) = true := by
  decide +kernel

theorem test_decode_uniform_scalar_2 :
    (reads 0x809003080C100000 0x000000843CFF8000 (.sshl { g := 3, d := 8, a := 12, b := 16, st := 8, wm := 0x879 }) &&
    reads 0x80A003080C100000 0x000000983D029000 (.sshr { g := 3, d := 8, a := 12, b := 16, st := 9, yl := true, wm := 0x07A, sa := 0, sb := 5, ru := 1 }) &&
    reads 0x80B003080C100000 0x000000A43DDFA000 (.ssar { g := 3, d := 8, a := 12, b := 16, st := 10, wm := 0x87B, sa := 11, ru := 2 }) &&
    reads 0x80C003020C101400 0x000000B83E7FB000 (.ssetp { g := 3, d := 2, a := 12, b := 16, e := 20, st := 11, yl := true, wm := 0x07C, ru := 3 }) &&
    reads 0x80D0030204050600 0x000000C43E82C000 (.ssel { g := 3, d := 2, a := 4, b := 5, e := 6, st := 12, wm := 0x87D, sa := 0, sb := 5, ru := 4 }) &&
    reads 0x80E0030204050600 0x000003D83F5FD000 (.sqlop { g := 3, d := 2, a := 4, b := 5, e := 6, x := 0x3, st := 13, yl := true, wm := 0x07E, sa := 11, ru := 5 }) &&
    reads 0x80F003080C000000 0x000003E43FFFE000 (.sv2s { g := 3, d := 8, a := 12, x := 0x3, st := 14, wm := 0x87F, ru := 6 }) &&
    reads 0x810803080C000000 0x000003F84002F000 (.sld { md := 0x80, g := 3, d := 8, a := 12, x := 0x3, st := 15, yl := true, wm := 0x080, sa := 0, sb := 5, ru := 7 }) &&
    reads 0x811803080C000000 0x0000200440DF8000 (.sldc { md := 0x80, g := 3, d := 8, a := 12, x := 0x20, wm := 0x881, sa := 11 })) = true := by
  decide +kernel

theorem test_decode_uniform_async_1 :
    (reads 0x880003000C101400 0x00000318417F9000 (.cpt { g := 3, a := 12, b := 16, e := 20, x := 0x3, st := 1, yl := true, wm := 0x082, ru := 1 }) &&
    reads 0x881003000C101400 0x000000244182A000 (.cps { g := 3, a := 12, b := 16, e := 20, st := 2, wm := 0x883, sa := 0, sb := 5, ru := 2 }) &&
    reads 0x882003000C001400 0x00000038425FB000 (.layex { g := 3, a := 12, e := 20, st := 3, yl := true, wm := 0x084, sa := 11, ru := 3 }) &&
    reads 0x883003080C100000 0x0000004442FFC000 (.tsadd { g := 3, d := 8, a := 12, b := 16, st := 4, wm := 0x885, ru := 4 }) &&
    reads 0x884023020C100000 0x000003584302D000 (.tswait { md := 0x02, g := 3, d := 2, a := 12, b := 16, x := 0x3, st := 5, yl := true, wm := 0x086, sa := 0, sb := 5, ru := 5 }) &&
    reads 0x885003080C000000 0x0000006443DFE000 (.tsread { g := 3, d := 8, a := 12, st := 6, wm := 0x887, sa := 11, ru := 6 }) &&
    reads 0x886003000C000000 0x00000378447FF000 (.bar { g := 3, a := 12, x := 0x3, st := 7, yl := true, wm := 0x088, ru := 7 }) &&
    reads 0x887003000C000000 0x0000008444828000 (.bara { g := 3, a := 12, st := 8, wm := 0x889, sa := 0, sb := 5 }) &&
    reads 0x8880030000000000 0x00000398455F9000 (.waitoc { g := 3, x := 0x3, st := 9, yl := true, wm := 0x08A, sa := 11, ru := 1 })) = true := by
  decide +kernel

theorem test_decode_uniform_async_2 :
    reads 0x889003000C100000 0x000000A445FFA000 (.qpush { g := 3, a := 12, b := 16, st := 10, wm := 0x88B, ru := 2 }) = true := by
  decide +kernel

theorem test_decode_uniform_matrix_1 :
    (reads 0x9000030200000000 0x000000B84602B000 (.mxacq { g := 3, d := 2, st := 11, yl := true, wm := 0x08C, sa := 0, sb := 5, ru := 3 }) &&
    reads 0x9010030000000000 0x000000C446DFC000 (.mxrel { g := 3, st := 12, wm := 0x88D, sa := 11, ru := 4 }) &&
    reads 0x9020430000000000 0x000003D8477FD000 (.mxfmt { md := 0x04, g := 3, x := 0x3, st := 13, yl := true, wm := 0x08E, ru := 5 }) &&
    reads 0x903043000C100000 0x000003E44782E000 (.mxlw { md := 0x04, g := 3, a := 12, b := 16, x := 0x3, st := 14, wm := 0x88F, sa := 0, sb := 5, ru := 6 }) &&
    reads 0x904003000C101400 0x000003F8485FF000 (.mxmul { g := 3, a := 12, b := 16, e := 20, x := 0x3, st := 15, yl := true, wm := 0x090, sa := 11, ru := 7 }) &&
    reads 0x905003000C001400 0x0000030448FF8000 (.mxchn { g := 3, a := 12, e := 20, x := 0x3, wm := 0x891 }) &&
    reads 0x9060030200000000 0x0000031849029000 (.accalloc { g := 3, d := 2, x := 0x3, st := 1, yl := true, wm := 0x092, sa := 0, sb := 5, ru := 1 }) &&
    reads 0x9070030000000000 0x0000032449DFA000 (.accfree { g := 3, x := 0x3, st := 2, wm := 0x893, sa := 11, ru := 2 }) &&
    reads 0x908003000C000000 0x000003384A7FB000 (.accz { g := 3, a := 12, x := 0x3, st := 3, yl := true, wm := 0x094, ru := 3 })) = true := by
  decide +kernel

theorem test_decode_uniform_matrix_2 :
    (reads 0x909003000C100000 0x000003444A82C000 (.accld { g := 3, a := 12, b := 16, x := 0x3, st := 4, wm := 0x895, sa := 0, sb := 5, ru := 4 }) &&
    reads 0x90A003000C101400 0x000003584B5FD000 (.accst { g := 3, a := 12, b := 16, e := 20, x := 0x3, st := 5, yl := true, wm := 0x096, sa := 11, ru := 5 })) = true := by
  decide +kernel

theorem test_decode_uniform_launch_system :
    (reads 0x980003000C000000 0x000000644BFFE000 (.show { g := 3, a := 12, st := 6, wm := 0x897, ru := 6 }) &&
    reads 0x9810030800000000 0x000000784C02F000 (.showq { g := 3, d := 8, st := 7, yl := true, wm := 0x098, sa := 0, sb := 5, ru := 7 }) &&
    reads 0xA000030800000000 0x000003844CDF8000 (.sysr { g := 3, d := 8, x := 0x3, st := 8, wm := 0x899, sa := 11 }) &&
    reads 0xA01003000C000000 0x000003984D7F9000 (.sysw { g := 3, a := 12, x := 0x3, st := 9, yl := true, wm := 0x09A, ru := 1 }) &&
    reads 0xA020030800000000 0x000003A44D82A000 (.perf { g := 3, d := 8, x := 0x3, st := 10, wm := 0x89B, sa := 0, sb := 5, ru := 2 }) &&
    reads 0xA030030800000000 0x000003B84E5FB000 (.snap { g := 3, d := 8, x := 0x3, st := 11, yl := true, wm := 0x09C, sa := 11, ru := 3 }) &&
    reads 0xA04003000C000000 0x000020C44EFFC000 (.tlbi { g := 3, a := 12, x := 0x20, st := 12, wm := 0x89D, ru := 4 })) = true := by
  decide +kernel

/-! ### States for the tests -/

/-- Slot 0 of core 0 issues a word for lanes 0 and 63: one troupe of company 0, in context 0, with every register zero. -/
def here0 : State := { State.reset with
  troupes := [(0, { (default : Troupe) with resident := true, place := 1, nregs := 248 })]
  companies := [(0, { (default : Co) with st := .resident, troupes := 1, nregs := 248, scratch := 2048, slots := [0], calliopeDone := true, depth := 1 })]
  contexts := [(0, { (default : Ctx) with desc := some { (default : CtxDesc) with valid := true, tlbiok := true } })]
  cur := { t := 0, run := 0x8000000000000001, pc := 0x10000, word := 0, seq := 0 } }

/-- The same, with the troupe changed; and with a trap handler. -/
def hereWith (f : Troupe → Troupe) : State := here0.modTr 0 f

def handlerDesc : CtxDesc := { (default : CtxDesc) with valid := true, trvec := 0x20000 }

def handled : State := here0.modCtx 0 fun x => { x with desc := some handlerDesc }

/-- Operand fields under no guard, and under a guard that no lane passes. -/
def fs : Fields := { d := 4, a := 8, b := 12, e := 16 }

def off : Fields := { fs with g := 15 }

/-- Names the result of a meaning that goes on, for a look at one part of it. -/
def after {α : Type} (o : Out) (d : α) (f : State → α) : α := match o with | .next t => f t | _ => d

def isFault {α : Type} : Acc α → Bool
  | .fault _ => true
  | _ => false

def isWait {α : Type} : Acc α → Bool
  | .wait => true
  | _ => false

/-- How an access ends: it is answered, it waits, or it faults. -/
def endOf {α : Type} : Acc α → Nat
  | .ok _ => 0
  | .wait => 1
  | .fault _ => 2

/-- A line as it stands, locked, or with its data lost. -/
def spoiled (n line : Nat) (s : State) : State :=
  if n = 1 then s.modSline line fun x => { x with lock := 9 }
  else if n = 2 then { s.modSline line (fun x => { x with dirty := true }) with lineErr := [(line, true)] }
  else s

/-- An access has been answered, with a result that passes a test. -/
def okWith {α : Type} (p : α → Bool) : Acc α → Bool
  | .ok x => p x
  | _ => false

def isOk {α : Type} (a : Acc α) : Bool := okWith (fun _ => true) a

/-- No store of slot 0 or of another waits, as the list of operations shows. -/
def storeless (o : MemOp) : Bool := match o.ins with | .st _ | .scat _ => false | _ => true

theorem noStores_of {s : State} (h : (s.troupes.all fun e => e.2.ops.all storeless) = true) : NoStores s := by
  intro e he o ho
  have h := List.all_eq_true.1 (List.all_eq_true.1 h e he) o ho
  unfold storeless at h
  split <;> simp_all

def line (b : List Nat) : SLine := { (default : SLine) with present := true, data := BitVec.ofNat 1024 (leNat b) }

/-- The package with registers changed. -/
def withRegs (r : List (Nat × W64)) (s : State) : State := r.foldl (fun (s : State) e => s.setReg e.1 e.2) s

/-! ### Hypotheses that hold somewhere: the words -/

theorem witness_GuardMeaning : (63 : Nat) < 64 ∧ fs.g = 7 := by decide

/-- An acting word of fixed latency, at either level; a troupe inside its ST; one that waits for a flag; one whose next word reads a
pending register; one whose next word names the register of an operation in flight. -/
theorem witness_IssueHolds : ((here0.tr 0).acts (.movi fs) (-1) = true ∧ latency (.movi fs) ≠ 0) ∧
    (∀ t ∈ ([{ here0.tr 0 with holdUntil := here0.clock + 1 }, { here0.tr 0 with f := [(11, 1)] },
        { here0.tr 0 with lates := [{ seq := 0, regs := atLevel 0 (Instr.movi fs).writes, flags := [], due := here0.clock + 1 }] },
        { here0.tr 0 with ops := [{ (default : MemOp) with ins := .ld fs }] }] : List Troupe),
      ∀ o ∈ t.ops, o.park = none) ∧
    ({ here0.tr 0 with f := [(11, 1)] } : Troupe).flagWait (0x800 : BitVec 12) = true ∧ (here0.tr 0).holdUntil ≤ here0.clock ∧
    meets (namesAt (.movi fs) 0) (atLevel 0 (Instr.movi fs).writes) = true ∧
    meets (namesAt (.movi fs) 0) (atLevel 0 (Instr.ld fs).writes) = true ∧
    meets (namesAt (.smovi { fs with d := 60 }) 1) (atLevel 1 (Instr.smovi { fs with d := 60 }).writes) = true ∧
    meets (namesAt (.smovi { fs with d := 60 }) 1) (atLevel 0 (Instr.smovi { fs with d := 60 }).writes) = false := by decide +kernel

/-- The pair of R55 with `st=1`: FFMA V4 issues in cycle 0; FADD, which reads V4, is in ST in cycle 1, waits in 2 and 3, and issues in 4. -/
theorem test_fixed_latency :
    let ffma : Instr := .ffma { fs with md := 0x40, d := 4, a := 1, e := 2, b := 3, st := 1 }
    let fadd : Instr := .fadd { fs with d := 6, a := 4, b := 7 }
    let s := here0.beginIssue 0 { run := -1, pc := 0x10000, forced := false } 0 (some ffma)
    ((List.range 4).map fun n => ({ s with clock := s.clock + 1 + n } : State).holdReason 0 fadd (-1)) = [some 0, some 1, some 1, none] := by
  decide +kernel

theorem witness_IntegerResults32 : fs.kind ≠ 3 ∧ ∀ i ∈ ([.mov fs, .movi fs, .iadd fs, .isub fs, .imul fs, .imulh fs, .imad fs, .imin fs,
    .imax fs, .iabs fs, .ineg fs, .sel fs, .shl fs, .shr fs, .sar fs, .shf fs, .bitf3 fs, .popc fs, .clz fs, .ctz fs, .brev fs, .bfe fs,
    .bfi fs, .prmt fs, .idp4 fs] : List Instr), (int32 i here0).map (·.1) = some fs := by decide +kernel

theorem witness_IntegerResults64 : fs.kind ≠ 3 ∧ ∀ i ∈ ([.iadd64 fs, .isub64 fs, .imadw fs, .imad64 fs, .shl64 fs, .shr64 fs,
    .sar64 fs] : List Instr), (int64 i here0).map (·.1) = some fs := by decide +kernel

theorem witness_CompareResults : fs.kind ≠ 3 ∧ ∀ i ∈ ([.isetp fs, .isetp64 fs, .fsetp fs, .dsetp fs, .fclass fs] : List Instr),
    (toPred i here0).map (·.1) = some fs := by decide +kernel

theorem witness_FloatResults32 : fs.kind ≠ 3 ∧ ∀ i ∈ ([.fadd fs, .fmul fs, .ffma fs, .fmin fs, .fmax fs, .frnd fs, .hadd2 fs, .hmul2 fs,
    .hfma2 fs, .hmin2 fs, .hmax2 fs, .frcp fs, .frsq fs, .fsqrt fs, .fex2 fs, .flg2 fs, .fsin fs, .fcos fs] : List Instr),
    (float32 i here0).map (·.1) = some fs := by decide +kernel

theorem witness_FloatResults64 : fs.kind ≠ 3 ∧ ∀ i ∈ ([.dadd fs, .dmul fs, .dfma fs, .dmin fs, .dmax fs, .drcp fs] : List Instr),
    (float64 i here0).map (·.1) = some fs := by decide +kernel

theorem witness_VoteResult : act here0 off = 0 ∧ ∀ n ∈ ([0, 1, 2, 3] : List Nat),
    let f : Fields := { fs with md := BitVec.ofNat 8 n }
    act here0 f ≠ 0 ∧ f.var = n := by decide +kernel

theorem witness_ExchangeResults : act here0 off = 0 ∧ act here0 fs ≠ 0 ∧ wide fs = false ∧ wide { fs with x := 0x40 } = true := by
  decide +kernel

theorem witness_ScalarResults : fs.kind ≠ 3 ∧ enabled here0 fs = true ∧ enabled here0 off = false ∧ ∀ i ∈ ([.smov fs, .smovi fs, .sadd fs,
    .ssub fs, .smul fs, .smad fs, .smin fs, .smax fs, .sbitf3 fs, .sshl fs, .sshr fs, .ssar fs, .ssel fs, .sv2s fs] : List Instr),
    (scalar i here0).map (·.1) = some fs := by decide +kernel

theorem witness_ScalarPredicates : fs.kind ≠ 3 ∧ ∀ i ∈ ([.ssetp fs, .sqlop fs] : List Instr), (toQ i here0).map (·.1) = some fs := by
  decide +kernel

theorem witness_ConvertResult : fs.kind ≠ 3 ∧ fmtBits (({ fs with x := 1 } : Fields).x.toNat % 32) = 64 ∧ fmtBits (fs.x.toNat % 32) ≠ 64 := by
  decide +kernel

theorem witness_BlockResults : let f : Fields := { fs with x := 0x1E }
    act here0 f ≠ 0 ∧ 0x18 ≤ f.x.toNat % 32 ∧ f.x.toNat % 32 ≤ 0x1E ∧ bfpSkips (blkVals (hereWith
      fun t => { t with v := t.v.write 512 0x3F800000 }) f) = false ∧ ({ f with d := 251 } : Fields).d.toNat ≤ 251 := by
  decide +kernel

theorem witness_BranchResult : let f : Fields := { fs with x := 0xFFFFFFFF }
    (∀ i ∈ ([.bra f, .bri f, .call f, .ret f] : List Instr), (branch i here0).map (·.1) = some f) ∧ Quiet here0 ∧
    (∀ l, l < 64 → inMask (act here0 f) l → goodTarget (direct here0 f l) ∧ goodTarget (pa here0 f l)) := by
  refine ⟨by decide +kernel, by unfold Quiet; decide +kernel, fun l hl _ => ?_⟩
  unfold goodTarget
  revert l; decide +kernel

/-- Lane 0's target is odd, so that the lowest bad lane is 0. -/
theorem witness_BranchTraps : let s := hereWith fun t => { t with v := t.v.write 512 1 }
    (branch (.bri fs) s).map (·.1) = some fs ∧ inMask (act s fs) 0 ∧ ¬ goodTarget (pa s fs 0) := by
  unfold goodTarget
  decide +kernel

/-- Both lanes of the run act, and the others have exited: a troupe that ends; the same with another troupe of the company left, with the
calliope left, and with a record in use. -/
def lastTwo : State := hereWith fun t => { t with pt := { t.pt with tst := (List.range' 1 62).map fun l => (l, .exited) } }

theorem witness_ExitResult : ¬ AllGone here0 fs ∧ NoFatal here0 ∧ AllGone lastTwo fs ∧ NoFatal lastTwo ∧ lastTwo.curT.ops = [] ∧ Quiet lastTwo ∧
    lastTwo.curT.resident = true ∧ lastTwo.curT.ended = false ∧ (ourCo lastTwo).st = .resident ∧ (ourCo lastTwo).calliopeDone = true ∧
    (∀ x ∈ (ourCo lastTwo).slots, isCalliope x = true ∨ x = lastTwo.cur.t ∨ (lastTwo.tr x).ended = true) ∧
    (let s := lastTwo.modCo 0 fun c => { c with slots := [0, 1] }
     AllGone s fs ∧ ∃ x ∈ (ourCo s).slots, isCalliope x = false ∧ x ≠ s.cur.t ∧ (s.tr x).ended = false) ∧
    (let s := lastTwo.modCo 0 fun c => { c with calliopeDone := false }
     AllGone s fs ∧ (ourCo s).calliopeDone = false ∧ isCalliope s.cur.t = false) ∧
    (let s := lastTwo.modTr 0 fun t => { t with ops := [{ (default : MemOp) with recs := [0] }] }
     AllGone s fs ∧ NoFatal s ∧ ∃ o ∈ s.curT.ops, o.recs ≠ []) := by
  unfold AllGone NoFatal Quiet ourCo
  refine ⟨?_, ?_, ?_, ?_, ?_, ?_, ?_, ?_, ?_, ?_, ?_, ⟨?_, 1, ?_⟩, ?_, ?_, ?_, ?_⟩
  all_goals decide +kernel

theorem handled_ok : Handled handled := ⟨by decide +kernel, by decide +kernel, by decide +kernel, handlerDesc, by decide +kernel, by decide +kernel⟩

theorem witness_TrapEntered : Handled handled ∧ Quiet handled := ⟨handled_ok, by unfold Quiet; decide +kernel⟩

theorem witness_TrapElsewhere : (isCalliope here0.cur.t = false ∧ Quiet here0 ∧ (here0.ctx (here0.ctxOf here0.cur.t)).endReason = 0 ∧
      (here0.ctx (here0.ctxOf here0.cur.t)).dead = false) ∧ (here0.modTr 0 fun t => { t with level := 1 }).curT.level = 1 ∧
    (here0.curT.level = 0 ∧ here0.trapHost = false ∧ handler here0 = 0) ∧ (here0.setReg 0 0x20).trapHost = true := by
  unfold Quiet
  decide +kernel

theorem witness_TrapWords : act here0 off = 0 ∧ act here0 fs ≠ 0 ∧ here0.curT.level ≤ 1 ∧
    (here0.ctx (here0.ctxOf here0.cur.t)).debug = false := by decide +kernel

theorem witness_BreakpointHalts : let s := here0.modCtx 0 fun x => { x with debug := true, arm := true }
    let c := s.ctx (s.ctxOf s.cur.t)
    act s fs ≠ 0 ∧ s.curT.level = 0 ∧ c.debug = true ∧ c.arm = true ∧ c.stopring = false ∧ s.curT.halted = false ∧
      s.curT.resident = true ∧ s.curT.ended = false := by decide +kernel

theorem witness_TretResult : let s := here0.modTr 0 fun t => { t with level := 1 }
    act s fs ≠ 0 ∧ s.curT.level = 1 ∧ act s off = 0 := by decide +kernel

theorem witness_TretAtLevelZero : act here0 fs ≠ 0 ∧ here0.curT.level = 0 := by decide +kernel

theorem witness_AccessIssue : act here0 off = 0 ∧ act here0 fs ≠ 0 ∧ fs.kind = 0 ∧ storeDraws { fs with md := 1, x := 0x40000000 } true = true ∧
    ∀ i ∈ ([.ld fs, .st fs, .lds fs, .sts fs] : List Instr), (laneWord i).map (·.1) = some fs := by decide +kernel

/-- A layout word of 1-byte elements, all of whose extents are one. -/
theorem witness_LayoutIssue : let f : Fields := { fs with md := 0xC0 }
    laneWord (.lds f) = some (f, false, true) ∧ f.kind = 3 ∧ act here0 f ≠ 0 ∧
      layoutBad f (here0.curT.layWord f.a.toNat) = false := by decide +kernel

theorem witness_GatherIssue : ({ fs with md := 0x40 } : Fields).kind = 1 ∧ act here0 fs ≠ 0 ∧ act here0 off = 0 ∧ inMask (act here0 fs) 63 = true := by
  decide +kernel

theorem witness_ScalarLoadIssue : enabled here0 fs = true ∧ enabled here0 off = false := by decide +kernel

theorem witness_ConstantBankIssue : let f : Fields := { fs with md := 0xC0, x := 8 }
    f.kind = 3 ∧ act here0 f ≠ 0 ∧ enabled here0 f = true ∧
    (∀ i ∈ ([.iadd f, .iadd64 f, .isetp f, .fadd f, .dadd f, .hsetp2 f] : List Instr), (bankWord i here0).map (·.1) = some f) ∧
    (∀ i ∈ ([.sadd f, .ssetp f] : List Instr), (bankUniform i here0).map (·.1) = some f) := by decide +kernel

theorem witness_CacheWords : act here0 fs ≠ 0 ∧ act here0 off = 0 ∧ ({ fs with md := 5 } : Fields).var = 5 ∧
    ({ fs with md := 1 } : Fields).md.getLsbD 0 = true ∧ enabled here0 fs = true ∧ NoStores here0 :=
  ⟨by decide +kernel, by decide +kernel, by decide +kernel, by decide +kernel, by decide +kernel, noStores_of (by decide +kernel)⟩

/-- Every lane of a fresh troupe has address zero, which is aligned; of a locked word, two registers that differ by 16. -/
theorem witness_AtomicIssue : (∀ i ∈ ([.atom fs, .atoms fs, .red fs] : List Instr), (atomWord i).map (·.1) = some fs) ∧
    act here0 fs ≠ 0 ∧ LanesAligned here0 fs (atomEa here0 fs false) (atomBytes fs) ∧ LanesAligned here0 fs (atomEa here0 fs true) (atomBytes fs) := by
  unfold LanesAligned
  decide +kernel

/-- Each acting lane has the addresses 0 and 16. -/
def twoAddrs : State :=
  hereWith fun t => { t with v := (t.v.write 1024 16).write 1087 16 }

theorem witness_LockedIssue : let f : Fields := fs
    (∀ i ∈ ([.dcas f, .amov f, .mcas f] : List Instr), (lockWord i).map (·.1) = some f) ∧ act twoAddrs f ≠ 0 ∧ popCount (act twoAddrs f) ≤ 32 ∧
    (∀ l, l < 64 → inMask (act twoAddrs f) l → (twoAddrs.curT.rpair f.a.toNat l).toNat % 8 = 0 ∧
      (twoAddrs.curT.rpair f.e.toNat l).toNat % 8 = 0 ∧ twoAddrs.curT.rpair f.a.toNat l ≠ twoAddrs.curT.rpair f.e.toNat l) := by
  decide +kernel

/-- Lane 63 alone is misaligned; all 64 lanes act in a DCAS; 32 lanes name one address twice. -/
theorem witness_AtomicTraps : (let s := here0.modTr 0 fun t => { t with v := t.v.write (512 + 63) 1 }
      Lowest s fs (fun l => (atomEa s fs false l).toNat % atomBytes fs ≠ 0) 63 ∧
      Lowest s fs (fun l => (s.curT.rpair fs.a.toNat l).toNat % 16 ≠ 0 ∨ (false = true ∧ (s.curT.rpair fs.e.toNat l).toNat % 16 ≠ 0)) 63) ∧
    32 < popCount (act { here0 with cur := { here0.cur with run := -1 } } fs) ∧
    Lowest here0 fs (fun l => here0.curT.rpair fs.a.toNat l = here0.curT.rpair fs.e.toNat l) 0 := by
  unfold Lowest
  decide +kernel

theorem witness_LaneCopyIssue : act here0 fs ≠ 0 ∧ LanesAligned here0 fs (fun l => here0.curT.rpair fs.a.toNat l) 4 ∧
    LanesAligned here0 fs (fun l => (here0.curT.rv fs.b.toNat l).setWidth 64) 4 ∧ (here0.curT.rs64 fs.e.toNat).toNat % 8 = 0 ∧
    (let s := here0.modTr 0 fun t => { t with s := t.s.write 16 4, v := t.v.write (768 + 63) 2 }
     (s.curT.rs64 fs.e.toNat).toNat % 8 ≠ 0 ∧ Lowest s fs (fun l => (s.curT.rpair fs.a.toNat l).toNat % 4 ≠ 0 ∨
       ((s.curT.rv fs.b.toNat l).setWidth 64 : W64).toNat % 4 ≠ 0) 63) := by
  unfold LanesAligned Lowest
  decide +kernel

theorem witness_EngineCommandIssue : (∀ i ∈ ([.cpt fs, .cps fs, .layex fs] : List Instr), (engineWord i here0).map (·.1) = some fs ∧
    engineOk i here0) ∧ enabled here0 fs = true := by
  refine ⟨fun i hi => ?_, by decide +kernel⟩
  simp only [List.mem_cons, List.not_mem_nil, or_false] at hi
  rcases hi with rfl | rfl | rfl <;> exact ⟨by decide +kernel, by unfold engineOk; decide +kernel⟩

theorem witness_EngineCommandTraps : let s := here0.modTr 0 fun t => { t with s := t.s.write 8 4 }
    ¬ engineOk (.cpt fs) s ∧ ¬ engineOk (.layex fs) s ∧ ¬ engineOk (.cps fs) (here0.modTr 0 fun t => { t with s := t.s.write 16 0x10000000000 }) := by
  unfold engineOk
  decide +kernel

/-- Turnstile addresses and amounts on both sides of each check. -/
theorem witness_TurnstileIssue : enabled here0 fs = true ∧ enabled here0 off = false ∧ (tsAddr false (here0.curT.rs64 8)).toNat % 8 = 0 ∧
    (here0.curT.rs64 12).toNat < 2 ^ 32 ∧
    (let s := here0.modTr 0 fun t => { t with s := (t.s.write 8 4).write 12 0x100000000 }
     (tsAddr false (s.curT.rs64 8)).toNat % 8 ≠ 0 ∧ (tsAddr true (s.curT.rs64 8)).toNat % 8 ≠ 0 ∧ 2 ^ 32 ≤ (s.curT.rs64 12).toNat) := by
  decide +kernel

theorem witness_QueueIssue : (tsAddr true (here0.curT.rs64 8)).toNat % 64 = 0 ∧ act here0 fs ≠ 0 ∧ enabled here0 fs = true ∧
    (tsAddr true ((here0.modTr 0 fun t => { t with s := t.s.write 8 32 }).curT.rs64 8)).toNat % 64 ≠ 0 := by decide +kernel

/-- A paired company led from core 0, which holds both arrays and six banks on core 0 and one on core 1. -/
def armed : State :=
  { here0 with
    cores := [(0, { (default : Core) with array := freshArray 1 1, bankOwner := [(0, 1), (1, 1), (2, 1), (3, 1), (4, 1), (6, 1)] }),
      (1, { (default : Core) with array := freshArray 1 1, bankOwner := [(5, 1)] })]
    companies := [(0, { (default : Co) with st := .resident, troupes := 1, paired := true, scratch := 2048, slots := [0], calliopeDone := true, banks := [3, 0, 1, 2, 4, 6], fbanks := [5] })] }

theorem witness_AcquireArray : enabled here0 off = false ∧ enabled here0 fs = true ∧
    (let f : Fields := { fs with md := 1 }
     f.md.getLsbD 0 = true ∧ fromLeader armed ∧ ¬ fromLeader here0) ∧ holdsArray armed 1 := by
  unfold fromLeader holdsArray
  decide +kernel

theorem matrix_ok : ∀ i ∈ ([.mxrel { fs with md := 1 }, .mxfmt { fs with md := 0x20 }, .mxlw fs, .mxmul { fs with md := 2, x := 0x7F },
    .mxchn { fs with md := 0, x := 0 }, .accz { fs with x := 0x7F }, .accld fs, .accst fs] : List Instr),
    (matrixWord i armed).isSome = true ∧ enabled armed i.fields = true := by decide +kernel

theorem witness_MatrixIssue : matrixOk (.mxrel { fs with md := 1 }) armed ∧ matrixOk (.mxmul { fs with md := 3, x := 0x7F }) armed ∧
    matrixOk (.mxchn { fs with x := 0x7F }) (armed.modTr 0 fun t => { t with s := t.s.write 16 512 }) ∧ matrixOk (.mxfmt fs) armed ∧
    matrixOk (.mxlw fs) armed ∧ matrixOk (.accz { fs with x := 0x2FF }) armed ∧ matrixOk (.accld fs) armed ∧ matrixOk (.accst fs) armed := by
  refine ⟨?_, ?_, ?_, ?_, ?_, ?_, ?_, ?_⟩ <;> dsimp only [matrixOk, holdsFor, fromLeader, holdsArray, rowsHeld] <;> decide +kernel

/-- One row past the banks, no array, and a misaligned address. -/
theorem witness_MatrixTraps : ¬ matrixOk (.accz { fs with x := 0x300 }) armed ∧ ¬ matrixOk (.mxrel fs) here0 ∧
    ¬ matrixOk (.accst fs) (armed.modTr 0 fun t => { t with s := t.s.write 16 4 }) := by
  refine ⟨?_, ?_, ?_⟩ <;> dsimp only [matrixOk, holdsFor, fromLeader, holdsArray, rowsHeld] <;> decide +kernel

theorem witness_ElementIssue : act armed fs ≠ 0 ∧ (∀ l, l < 64 → inMask (act armed fs) l →
      (armed.curT.rs64 fs.a.toNat + (armed.curT.rv fs.b.toNat l).setWidth 64).toNat + 1 ≤ 4096 * (coBanks armed (here armed)).length) ∧
    Lowest here0 fs (fun l => 4096 * (coBanks here0 (here here0)).length <
      (here0.curT.rs64 fs.a.toNat + (here0.curT.rv fs.b.toNat l).setWidth 64).toNat + 1) 0 := by
  unfold Lowest
  decide +kernel

theorem witness_AllocateBanks : (armed.core (here armed)).waiters = [] ∧ armed.heldBanks (here armed) armed.curT.company = 6 ∧
    fs.md.getLsbD 0 = false ∧ here armed = (ourCo armed).core ∧ 10 ≤ (armed.freeBanks (here armed)).length ∧
    16 < armed.heldBanks (here armed) armed.curT.company + ({ fs with x := 11 } : Fields).x.toNat % 32 := by decide +kernel

theorem witness_FreeBanks : enabled armed fs = true ∧ here armed = (ourCo armed).core ∧
    ({ fs with x := 6 } : Fields).x.toNat % 32 ≤ (ourCo armed).banks.length ∧
    (ourCo armed).banks.length < ({ fs with x := 7 } : Fields).x.toNat % 32 := by decide +kernel

theorem witness_GeometryWords : act here0 fs ≠ 0 ∧ act here0 off = 0 ∧
    (∀ i ∈ ([.cutsel fs, .rayt fs, .rayr fs, .rast fs, .tex fs, .texg fs, .texq fs] : List Instr),
      (geometryWord i here0).map (·.1) = some fs ∧ ((geometryWord i here0).map (·.2)).elim false (fun us => us.all fun x => x.1.toNat % x.2.1 == 0) = true) ∧
    toRing (.cutsel fs) = true ∧ toRing (.tex fs) = false := by decide +kernel

/-- The second operand of CUTSEL alone is misaligned. -/
theorem witness_GeometryTraps : let s := hereWith fun t => { t with s := t.s.write 12 64 }
    geometryWord (.cutsel fs) s = some (fs, [((0 : W64), 64, 0x30)] ++ ((64 : W64), 128, 0x31) :: [((0 : W64), 256, 0x32)]) ∧
      (64 : W64).toNat % 128 ≠ 0 ∧ (0 : W64).toNat % 64 = 0 := by decide +kernel

theorem witness_SystemRead : enabled here0 fs = true ∧ readable 0xFFF8 ∧ readable 0x4FF ∧ readable 0x0A ∧ readable 0x20 ∧
    ownRegister here0 0x0A = some 0 := by unfold readable; decide +kernel

theorem witness_SystemWrite : let s := hereWith fun t => { t with level := 1 }
    s.curT.level ≠ 0 ∧ s.curT.firstRec ((s.curT.rs64 fs.a.toNat).toNat % 4) = none ∧ ({ fs with x := 9 } : Fields).x = 9 ∧
      ({ fs with x := 0x12 } : Fields).x = 0x12 ∧ ({ fs with x := 0x21 } : Fields).x = 0x21 := by decide +kernel

theorem witness_SystemTraps : ¬ readable 0x0B ∧ (0x0B : Nat) ≠ 0x21 ∧ ¬ writable 0x0A ∧ readable 0x0A ∧ writable 0x12 ∧
    here0.curT.level = 0 := by unfold readable writable; decide +kernel

theorem witness_PerfResult : enabled here0 fs = true ∧ ({ fs with x := 0x16 } : Fields).x.toNat ≤ 0x16 ∧
    0x16 < ({ fs with x := 0x17 } : Fields).x.toNat := by decide +kernel

theorem witness_SnapResult : enabled here0 fs = true ∧ (here0.ctx (here0.ctxOf here0.cur.t)).debug = false ∧
    (let s := here0.modCtx 0 fun x => { x with debug := true }
     (s.ctx (s.ctxOf s.cur.t)).debug = true ∧ s.snap.lock = false) := by decide +kernel

theorem witness_TlbiResult : (∃ d, (here0.ctx (here0.ctxOf here0.cur.t)).desc = some d ∧ d.tlbiok = true) ∧
    canonical (here0.curT.rs64 fs.a.toNat) = true ∧
    (handled.ctx (handled.ctxOf handled.cur.t)).desc = some handlerDesc ∧ handlerDesc.tlbiok = false ∧
    2 ≤ ({ fs with md := 3 } : Fields).md.toNat % 4 ∧ ({ fs with md := 1 } : Fields).md.toNat % 4 < 2 := by
  refine ⟨⟨{ (default : CtxDesc) with valid := true, tlbiok := true }, by decide +kernel, by decide +kernel⟩, by decide +kernel⟩

theorem witness_ShowWords : enabled here0 fs = true ∧ (here0.curT.rs64 fs.a.toNat).toNat % 256 = 0 ∧ (ourCo here0).depth ≠ 10 ∧
    (ourCo (here0.modCo 0 fun x => { x with depth := 10 })).depth = 10 ∧
    ((hereWith fun t => { t with s := t.s.write 8 128 }).curT.rs64 fs.a.toNat).toNat % 256 ≠ 0 := by decide +kernel

/-! ### Hypotheses that hold somewhere: operations in flight -/

theorem answers {α β : Type} {x : α × β} {a : α} (h : x.1 = a) : ∃ u, x = (a, u) := ⟨x.2, Prod.ext h rfl⟩

/-- The translation of the 64 KiB at 0x10000 to the same place in frame 0, which holds all sixteen granules of its span. -/
def entry : TlbEntry :=
  { ctx := 0, cgen := 0, va := 0x10000, size := 16, pa := 0x10000, r := true, w := true, x := true, mt := 0, graph := false, frame := 1, fgen := 0, group := 0 }

/-- A package with one window of its own, that translation in die 0, and line 512 in its slice, with byte 0 one. -/
def mapped : State := { here0 with
  bar2 := [(0x9000, 0x80000400#64), (0x90B8, 1500#64), (0xB008, 0xFFFFFFFFF0000#64), (0xB010, 4097#64), (0x10000, 512#64)]
  dies := [(0, { (default : Die) with tlb := [entry] })]
  slices := [(512, { (default : SLine) with present := true, data := 1 })]
  cache := { here0.cache with frames := [(0, { (default : Frame) with fstate := 1, span := 1, resmask := 0xFFFF })] } }

/-- An operation of slot 0 in flight, in that package. -/
def op (i : Instr) : MemOp := { (default : MemOp) with ins := i, act := 0x8000000000000001, run := 0x8000000000000001, size := 4, elems := 1 }

def flying (o : MemOp) : State := mapped.modTr 0 fun t => { t with ops := [o] }

theorem test_access : (mapped.access (.core 0) 0 0x10000 .read).1 = .ok (entry, 0x10000) := by decide +kernel

/-- A turnstile operation at 0x10000, and one at scratchpad offset 0. -/
def tsOp (i : Instr) : MemOp := { op i with single := true, size := 8, addr := [(0, 0x10000)] }

def barOp (i : Instr) : MemOp := { op i with single := true, size := 8 }

theorem alive0 (s : State) (h : (s.tr 0).pt.state 63 ≠ .exited) : Alive s 0 := ⟨63, by decide, h⟩

/-- A queue of one entry of one register, at scratchpad offset 0, and an operation on it. -/
def queued (i : Instr) (pushed : Byte) : MemOp × State :=
  let o := { op i with uni := [0] }
  (o, { flying o with cores := [(0, { (default : Core) with scratch := (if pushed = 0 then [] else [(0, pushed)]) ++ [(9, 1), (12, 1), (14, 1)] })] })

def head (pushed : Nat) : QHead := { pushed := pushed, popped := 0, data := 256, depth := 1, eregs := 1 }

theorem witness_TurnstileAnswers_tsadd : let o := tsOp (.tsadd fs); let s := flying o
    s.op 0 0 = some o ∧ s.tsTurn 0 o = true ∧ (tsaddAnswer s 0 o fs).1 = .ok 1 ∧ Alive (tsaddAnswer s 0 o fs).2 0 ∧
      o.given = [] ∧ o.level = 0 ∧ fs.d.toNat < 63 :=
  ⟨by decide +kernel, by decide +kernel, by decide +kernel, alive0 _ (by decide +kernel), by decide +kernel⟩

/-- A TSADD at an address that is not canonical, and one whose line is locked. -/
theorem witness_TurnstileAnswers_tsadd_not : let o := { tsOp (.tsadd fs) with addr := [(0, 0x100000000000000)] }
    ((flying o).tsTurn 0 o = true ∧ isFault (tsaddAnswer (flying o) 0 o fs).1 = true) ∧
    (let o := tsOp (.tsadd fs); let s : State := { flying o with slices := [(512, { (default : SLine) with present := true, lock := 9 })] }
     s.tsTurn 0 o = true ∧ (tsaddAnswer s 0 o fs).1 = .wait) := by decide +kernel

theorem witness_TurnstileAnswers_tsread : let o := tsOp (.tsread fs); let s := flying o
    s.op 0 0 = some o ∧ s.tsTurn 0 o = true ∧ (s.tsRead 0 o).1 = .ok 1 ∧ Alive ((s.tsRead 0 o).2.watchTs 0 o false) 0 :=
  ⟨by decide +kernel, by decide +kernel, by decide +kernel, alive0 _ (by decide +kernel)⟩

theorem witness_TurnstileAnswers_cpl : let o := { op (.cpl fs) with act := 0, target := 0x10000 }; let s := flying o
    s.op 0 0 = some o ∧ o.park = none ∧ o.allDone = true ∧ o.target ≠ 0 ∧
      (s.tsAddGlobal (.die (dieOf (coreOf 0))) { s.accessor 0 o with core := none } ⟨0, o.seq, 0⟩ 9 o.target
        (if o.readYet then o.count else o.cplTotal)).1 = .ok 1 := by decide +kernel

theorem witness_TurnstileAnswers_bar : let f : Fields := { fs with x := 1 }; let o := barOp (.bar f); let s := { flying o with clock := 2 }
    s.op 0 0 = some o ∧ o.added = false ∧ s.tsTurn 0 o = true ∧ o.stamp + 2 + windowDelay (o.addr.read 0) ≤ s.clock ∧
      (barAnswer s 0 o).1 = .ok 0 ∧
    (let o := barOp (.bara f)
     (flying o).op 0 0 = some o ∧ (flying o).tsTurn 0 o = true ∧ (barAnswer (flying o) 0 o).1 = .ok 0) ∧
    (let o := { barOp (.bar f) with added := true, leaveAt := 2, target := 1 }
     o.park = none ∧ o.poll ≤ s.clock ∧ o.leaveAt ≠ 0 ∧ o.leaveAt ≤ s.clock ∧ ¬ (o.level = 0 ∧ (s.tr 0).level = 1)) ∧
    (let o := { barOp (.bar f) with added := true }
     ((flying o).tsRead 0 o).1 = .ok 0 ∧ (flying o).watchTells 0 o = true ∧ o.target.toNat ≤ 0 ∧ o.leaveAt = 0 ∧ o.poll = 0) ∧
    (let o := { barOp (.bar f) with added := true, target := 1, poll := 2 }
     (s.tsRead 0 o).1 = .ok 0 ∧ 0 < o.target.toNat ∧ o.leaveAt = 0 ∧ o.poll ≠ 0 ∧ o.poll ≤ s.clock) := by decide +kernel

/-- A waiter whose turnstile holds 1, at its first read, told by its watch entry, and by a poll: its target reached or missed, with its
time out or not; one that has been satisfied leaves. -/
theorem witness_WaitEvents : let f : Fields := fs
    (∀ o ∈ ([{ tsOp (.tswait f) with target := 1 }, { tsOp (.tswait f) with target := 2, deadline := some 1 },
        { tsOp (.tswait f) with target := 2, deadline := some 2 }] : List MemOp), let s := { flying o with clock := 1 }
      waits s 0 0 o ∧ readDue s 0 o ∧ (s.tsRead 0 o).1 = .ok 1 ∧ (s.tsRead 0 o).2.clock = 1) ∧
    (let o := { tsOp (.tswait f) with target := 1, readYet := true }; let s := flying o
     waits s 0 0 o ∧ readDue s 0 o ∧ (s.tsRead 0 o).1 = .ok 1 ∧ o.lag = 0) ∧
    (let o := { barOp (.tswait { f with md := 1 }) with readYet := true }; let s := flying o
     waits s 0 0 o ∧ readDue s 0 o ∧ (s.tsRead 0 o).1 = .ok 0 ∧ o.lag = 2) ∧
    (∀ o ∈ ([{ tsOp (.tswait f) with target := 1, poll := 1, readYet := true },
        { tsOp (.tswait f) with target := 2, poll := 1, readYet := true, deadline := some 1 }] : List MemOp), let s := { flying o with clock := 1 }
      waits s 0 0 o ∧ o.poll ≠ 0 ∧ o.poll ≤ s.clock ∧ (s.tsRead 0 o).1 = .ok 1) ∧
    (let o := { tsOp (.tswait f) with leaveAt := 1 }; let s := { flying o with clock := 1 }
     s.op 0 0 = some o ∧ o.leaveAt ≠ 0 ∧ o.park = none ∧ o.leaveAt ≤ s.clock ∧ o.given = [] ∧ f.d.toNat < 7) := by
  unfold waits readDue
  decide +kernel

theorem witness_WaitEvents_alive : Alive (flying (tsOp (.tswait fs))) 0 := alive0 _ (by decide +kernel)

theorem witness_WaitEvents_waitoc : let f : Fields := { x := 1 }; let w : IWord := packWord 0x888 f
    let s := State.reset.placeWord w; let p : Pick := { run := -1, pc := 0x10000, forced := false }
    s.onPort 0 = true ∧ (s.nextWord 0).1 = .word p w (.waitoc f) ∧
      after (exec (.waitoc f) (s.beginIssue 0 p w (some (.waitoc f)))) false (fun _ => true) = true := by decide +kernel

theorem witness_QueueEvents_push : let f : Fields := fs; let x := queued (.qpush f) 0; let h := head 0
    x.2.op 0 0 = some x.1 ∧ queueReady x.2 0 x.1 1 h ∧ (h.pushed + 2 ^ 32 - h.popped) % 2 ^ 32 ≠ h.depth ∧
      x.2.wordsFault 0 true (entryWords h 0 1 (-1) false) = none ∧
      h.data + 256 * h.eregs * h.depth ≤ 2 ^ 19 ∧ x.1.qAddr + 64 ≤ h.data := by
  unfold queueReady
  decide +kernel

theorem witness_QueueEvents_pop : let f : Fields := fs; let x := queued (.qpop f) 1; let y := queued (.qpop { f with md := 4 }) 0
    (x.2.op 0 0 = some x.1 ∧ queueReady x.2 0 x.1 1 (head 1) ∧ (head 1).pushed ≠ (head 1).popped ∧
      x.2.wordsFault 0 false (entryWords (head 1) 0 1 x.1.act true) = none ∧ inMask x.1.act 63 = true ∧
      x.2.scratchNat 0 0 ((head 1).word 0 0 63) 4 = .ok 0) ∧
    (y.2.op 0 0 = some y.1 ∧ queueReady y.2 0 y.1 1 (head 0) ∧ ({ f with md := 4 } : Fields).md.getLsbD 2 = true) := by
  unfold queueReady
  decide +kernel

/-! ### Hypotheses that hold somewhere: caches, homes and locks -/

/-- An access of 4 bytes at 0x10000 by lanes 0 and 63, and a core 0 whose L1 has the line, owned and dirty or clean. -/
def accOp (i : Instr) : MemOp := { op i with addr := [(0, 0x10000), (63, 0x10000)] }

def withL1 (s : State) (own : Bool) : State :=
  { s with cores := [(0, { (default : Core) with l1 := [(512, { (default : L1Line) with valid := true, owned := own, dirty := own, data := 7 })] })]
           slices := [(512, { (default : SLine) with present := true, data := 1, owner := if own then 1 else 0 })] }

/-- The state and the answer of an access of slot 0 at 0x10000, with its translation. -/
def asked0 (s : State) (kind : AccKind) : Acc (TlbEntry × Nat) × State := s.carried (.core 0) 0 ⟨0, 0, 0⟩ 0x10000 kind

/-- Line 512 at its home as given, with no L1 copy of it. -/
def homed (x : SLine) (s : State) : State := { s with slices := [(512, x)] }

def present1 : SLine := { (default : SLine) with present := true, data := 1 }

theorem witness_lineReady : (∀ i ∈ ([.ld fs, .st fs] : List Instr), let o := accOp i
      lineReady (withL1 (flying o) true) 0 0 512 o ∧ isScratchOp o.ins = false ∧ lineVa o 512 = 0x10000) ∧
    (∀ i ∈ ([.lds fs, .sts fs] : List Instr), let o := op i; let s := flying o
      lineReady s 0 0 0 o ∧ isScratchOp o.ins = true ∧ s.scratchTurn 0 o = true ∧
        (∀ x ∈ o.pieces 0, (match s.scratchByte 0 o (writesMem i) x with | .ok _ => true | _ => false) = true) ∧
        s.scratchNat 0 0 0 4 = .ok 0 ∧ 63 ∈ o.keys) := by
  unfold lineReady
  decide +kernel

/-- A load that hits a clean copy; one whose line is at its home, is locked, has lost its data, or has come with a fill. -/
theorem witness_AccessEvents_load : let o := accOp (.ld fs)
    (let a := asked0 (withL1 (flying o) false) .read
     Translated (withL1 (flying o) false) 0 o 512 .read entry 0x10000 a.2 ∧ goodCopy a.2 0 o 512) ∧
    (∀ x ∈ ([(present1, 0), ({ present1 with lock := 9 }, 1), ({ present1 with dirty := true }, 2)] : List (SLine × Nat)),
      let s : State := { homed x.1 (flying o) with lineErr := if x.2 = 2 then [(512, true)] else [] }; let a := asked0 s .read
      let r := (a.2.arrive ⟨0, 0, 0⟩ 0x10000 entry 0x10000 .read (hintOf o.ins)).1
      Translated s 0 o 512 .read entry 0x10000 a.2 ∧ ¬ goodCopy a.2 0 o 512 ∧
        (match r with | .ok none => 0 | .wait => 1 | .fault _ => 2 | .ok (some _) => 3) = x.2) ∧
    (let s : State := { flying o with flights := [{ who := ⟨0, 0, 0⟩, line := 512, entry := entry, took := some 7 }] }
     let a := asked0 s .read
     Translated s 0 o 512 .read entry 0x10000 a.2 ∧ (a.2.arrive ⟨0, 0, 0⟩ 0x10000 entry 0x10000 .read 0).1 = .ok (some 7)) ∧
    (let o := { o with addr := [(0, 0x100000000000000), (63, 0x100000000000000)] }
     (o.pieces 0x2000000000000).head? = some (0, 0) ∧ isFault ((flying o).carried (.core 0) 0 ⟨0, 0, 0⟩ (o.byteVa 0 0) .read).1 = true) := by
  unfold Translated goodCopy
  refine ⟨⟨⟨(0, 0), ?_⟩, ?_⟩, ?_, ⟨⟨(0, 0), ?_⟩, ?_⟩, ?_⟩
  · decide +kernel
  · decide +kernel
  · intro x hx
    simp only [List.mem_cons, List.not_mem_nil, or_false] at hx
    rcases hx with rfl | rfl | rfl <;> exact ⟨⟨(0, 0), by decide +kernel⟩, by decide +kernel⟩
  · decide +kernel
  · decide +kernel
  · decide +kernel

/-- A store to a line that its core owns, to one that it must ask for, and one with .NL1 at the home. -/
theorem witness_AccessEvents_store : (let o := accOp (.st fs); let s := withL1 (flying o) true; let a := asked0 s .write
      writesMem o.ins = true ∧ hintOf o.ins ≠ 3 ∧ Translated s 0 o 512 .write entry 0x10000 a.2 ∧ ((a.2.core 0).l1.read 512).owned = true ∧
        a.2.lost 512 = false) ∧
    (let o := accOp (.st fs); let s := flying o; let a := asked0 s .write
     Translated s 0 o 512 .write entry 0x10000 a.2 ∧ ((a.2.core 0).l1.read 512).owned = false ∧ a.2.homeCheck entry 0x10000 .write = .ok 0x10000) ∧
    (let o := accOp (.st { fs with x := 0x0C000000 }); let s := flying o; let a := asked0 s .write
     hintOf o.ins = 3 ∧ Translated s 0 o 512 .write entry 0x10000 a.2 ∧ (a.2.arrive ⟨0, 0, 0⟩ 0x10000 entry 0x10000 .write 3).1 = .ok none) := by
  unfold Translated
  refine ⟨⟨?_, ?_, ⟨(0, 0), ?_⟩, ?_⟩, ⟨⟨(0, 0), ?_⟩, ?_⟩, ⟨?_, ⟨(0, 0), ?_⟩, ?_⟩⟩ <;> decide +kernel

theorem witness_CacheEvents_tokens : (let o := accOp (.st fs); let s := { flying o with cores := [(0, { (default : Core) with want := [512] })] }
      let a := asked0 s .write
      512 ∈ (s.core 0).want ∧ (s.waiting 0 512).head? = some (0, 0, 512) ∧ s.op 0 0 = some o ∧ a.1 = .ok (entry, 0x10000) ∧
        (a.2.arrive ⟨0, 0, 0⟩ (BitVec.ofNat 64 (128 * 512)) entry 0x10000 .write (hintOf o.ins)).1 = .ok none) ∧
    (let s := withL1 mapped true
     s.owner 512 = some 0 ∧ ((s.core 0).l1.read 512).valid = true ∧ ((s.core 0).l1.read 512).dirty = true) ∧
    (let s := withL1 mapped false
     ((s.core 0).l1.read 512).valid = true ∧ ((s.core 0).l1.read 512).owned = false ∧ s.owner 512 ≠ some 0) := by decide +kernel

theorem witness_NoStores : NoStores mapped ∧ NoStores (flying (accOp (.atom fs))) := ⟨noStores_of (by decide +kernel), noStores_of (by decide +kernel)⟩

/-- A miss entry at the end of its window, one that an invalidation met, a fill of a line that is here by now, one that can be made, and one
whose granule has gone. -/
theorem witness_CacheEvents_fills : let m : Miss := { (default : Miss) with line := 513, joined := [⟨0, 0, 0⟩] }
    (let s := { mapped with misses := [m], clock := 64 }
     s.missOf 513 = some m ∧ m.opened + 64 ≤ s.clock) ∧
    (let s : State := { mapped with misses := [{ m with killed := true }]
                                    flights := [{ who := ⟨0, 0, 0⟩, line := 513, entry := entry, took := none }] }
     s.missOf 513 = some { m with killed := true } ∧ ∀ f ∈ s.flights, f.who ∈ m.joined ∧ f.phys = 513) ∧
    (mapped.held 512 = true ∧ ({ mapped with misses := [{ m with line := 512 }] } : State).missOf 512 = some { m with line := 512 }) ∧
    (mapped.held 513 = false ∧ mapped.fillOk m = true) ∧ (mapped.fillOk { m with frame := 1, fgen := 1 } = false) := by
  decide +kernel

theorem witness_CacheEvents_devices : ({ mapped with cache := { mapped.cache with pool := [(512, 3)] } } : State).cache.pool.read 512 = 3 ∧
    (mapped.sline 512).lock = 0 ∧ mapped.reclaimBusy 512 = false ∧
    (mapped.setReg 0xB010 4098).window 0x10000 = some (2, mapped.caps.pkg) ∧ (mapped.setReg 0xB010 3).window 0x10000 = some (3, 0) := by
  decide +kernel

/-- A lane of an atomic at its home, one whose line is locked, one of a word of another package, and one that faults. -/
theorem witness_AtomicEvents : let o := accOp (.atom fs)
    (let s := flying o; let a := s.carried (.core 0) 0 ⟨0, 0, 1⟩ 0x10000 .both
     atomReady s 0 0 0 o fs ∧ isScratchOp o.ins = false ∧ a.1 = .ok (entry, 0x10000) ∧
       (∀ y ∈ a.2.earlier 0 o, a.2.conflict 0 o y 512 512 = .none) ∧ entry.mt ≠ 2 ∧
       (a.2.arrive ⟨0, 0, 1⟩ 0x10000 entry 0x10000 .both (fs.x.toNat / 2 ^ 20 % 4 % 3)).1 = .ok none) ∧
    (let s := homed { present1 with lock := 9 } (flying o); let a := s.carried (.core 0) 0 ⟨0, 0, 1⟩ 0x10000 .both
     atomReady s 0 0 0 o fs ∧ a.1 = .ok (entry, 0x10000) ∧ (a.2.arrive ⟨0, 0, 1⟩ 0x10000 entry 0x10000 .both 0).1 = .wait) ∧
    (let e : TlbEntry := { entry with mt := 2, frame := 0 }
     let s : State := { flying o with flights := [{ who := ⟨0, 0, 1⟩, line := 512, entry := e, took := none }] }
     let a := s.carried (.core 0) 0 ⟨0, 0, 1⟩ 0x10000 .both
     atomReady s 0 0 0 o fs ∧ a.1 = .ok (e, 0x10000) ∧ a.2.staleOf e = 0 ∧ a.2.peerDown 0x10000 = false ∧
       (∀ y ∈ a.2.earlier 0 o, a.2.conflict 0 o y 512 512 = .none)) ∧
    (let o := { o with addr := [(0, 0x100000000000000)] }; let s := flying o
     atomReady s 0 0 0 o fs ∧ isFault (s.carried (.core 0) 0 ⟨0, 0, 1⟩ 0x100000000000000 .both).1 = true) := by
  unfold atomReady
  decide +kernel

theorem witness_AtomicEvents_scratch : let o := op (.atoms fs); let s := flying o
    atomReady s 0 0 0 o fs ∧ isScratchOp o.ins = true ∧ s.scratchTurn 0 o = true ∧
      s.scratchNat 0 0 0 4 = .ok 0 ∧ s.scratchOk 0 0 0 4 = .ok () ∧ (atomWrites fs o 0 0).isSome = true ∧
      atomWrites { fs with md := 7 } o 0 1 = none := by
  unfold atomReady
  decide +kernel

theorem witness_OperationEnds : Alive (flying (op (.ld fs))) 0 ∧ (op (.ld fs)).acq = false ∧
    (let o := { op (.ld fs) with acq := true }; let s := withL1 (flying o) true
     o.acq = true ∧ s.owner 512 = some 0 ∧ ((s.core 0).l1.read 512).owned = true) :=
  ⟨alive0 _ (by decide +kernel), by decide +kernel, by decide +kernel⟩

/-- AMOV of lane 63 on lines 512 and 513, in a phase of its locking. -/
def lockOp (y : LockLane) : MemOp :=
  { op (.amov fs) with act := 0x8000000000000000, size := 8, addr := [(63, 0x10000), (127, 0x10080)], locks := [(63, y)] }

def lane (p : LockPhase) : LockLane := { (default : LockLane) with phase := p, lines := [512, 513], words := [0x10000, 0x10080] }

def lockq (s : State) (q : List Nat) : State := s.modSline 512 fun x => { x with lockq := q }

/-! ### Hypotheses that hold somewhere: engines -/

/-- A command at the head of engine 0, and line 512 with given contents. -/
def cmd (i : Instr) (uni : List W64) : EngCmd := { (default : EngCmd) with ins := i, uni := uni }

def engined (x : EngCmd) (data : LineData) : State :=
  { mapped with engines := [(0, [x])], slices := [(512, { (default : SLine) with present := true, data := data })] }

/-- A tensor descriptor of one byte, and a .REFMT block of one FP32 element at 0x10000. -/
def oneByte : LineData := BitVec.ofNat 1024 (0x10000 + 2 ^ 64 + 2 ^ 96 + 2 ^ 128)

def oneElement : LineData := BitVec.ofNat 1024 (0x10000 + 0x10000 * 2 ^ 64 + 2 ^ 128 + 2 ^ 160 + 2 ^ 192)

theorem has_of {s : State} {e : Nat} {x : EngCmd} (h : s.engActive e = some x ∧ s.engUnpark e x = (s, x)) : EngineHas s e s x := ⟨x, h.1, h.2⟩

theorem witness_LockEvents_request : (let o := lockOp (lane .locking); let s := flying o
      s.lockLane 0 0 63 = some o ∧ (o.locks.read 63).phase = .locking ∧ (o.locks.read 63).next = some 512 ∧ lockKey 0 63 ∉ (s.sline 512).lockq) ∧
    (let o := lockOp (default : LockLane); let s := flying o; let u := s.lockStart 0 o 63
     s.lockLane 0 0 63 = some o ∧ (o.locks.read 63).phase = .start ∧ (s.co (s.tr 0).company).st ≠ .saving ∧
       (u.op 0 0).map (fun o => (o.locks.read 63).phase) = some .locking) := by decide +kernel

/-- The first waiter of a line that is here; of a pool line that its host has not granted; and a lane whose line's frame is gone. -/
theorem witness_LockEvents_grant : let o := lockOp (lane .locking); let s := lockq (flying o) [64]
    s.lockLane 0 0 63 = some o ∧ o.asked s 0 63 = some 512 ∧ s.lockBroken 0 (o.locks.read 63) 512 = false ∧ (s.sline 512).lock = 0 ∧
      (s.sline 512).lockq.head? = some (lockKey 0 63) ∧ s.missOf 512 = none ∧ s.dirBusy (128 * 512) = false ∧ s.held 512 = true ∧
      s.needsOwn { (default : TlbEntry) with mt := 0 } (128 * 512) = false ∧
      (let p := s.setReg 0xB010 4098
       o.asked p 0 63 = some 512 ∧ (o.locks.read 63).mayWrite 512 = true ∧ p.needsOwn { (default : TlbEntry) with mt := 0 } (128 * 512) = true ∧
         p.cache.pool.read 512 ≠ 2 ∧ p.lockBroken 0 (o.locks.read 63) 512 = false ∧ p.held 512 = true ∧ p.missOf 512 = none ∧
         p.dirBusy (128 * 512) = false) ∧
      (let y := { lane .locking with cgen := 1 }; let o := lockOp y; let s := lockq (flying o) [64]
       o.asked s 0 63 = some 512 ∧ s.lockBroken 0 y 512 = true) := by decide +kernel

theorem witness_LockEvents_time : (let o := lockOp { lane .locking with retries := 15 }; let s := { lockq (flying o) [9, 64] with clock := 4097 }
      o.asked s 0 63 = some 512 ∧ (o.locks.read 63).since + 4096 < s.clock ∧ (o.locks.read 63).retries < 16) ∧
    (let o := lockOp { lane .locking with retries := 16 }; let s := { lockq (flying o) [9, 64] with clock := 4097 }
     o.asked s 0 63 = some 512 ∧ (o.locks.read 63).since + 4096 < s.clock ∧ 16 ≤ (o.locks.read 63).retries) ∧
    (let o := lockOp { lane .backoff with wake := 5 }; let s := { flying o with clock := 5 }
     s.lockLane 0 0 63 = some o ∧ (o.locks.read 63).phase = .backoff ∧ (o.locks.read 63).wake ≤ s.clock) := by decide +kernel

/-- The act of AMOV on two words that are apart. -/
theorem witness_LockEvents_act : let y := lane .locking; let o := lockOp y; let s := flying o
    s.lockLane 0 0 63 = some o ∧ (∀ i, i < y.words.length → s.lost (y.words.getD i 0 / 128) = false) ∧
      (∀ i, i < 2 → ∀ j, j < 2 → y.words.getD i 0 % 8 = 0 ∧ (i ≠ j → y.words.getD i 0 ≠ y.words.getD j 0)) ∧
      (lockEffect o.ins 0 0 y.blk (y.words.map fun pa => s.peekNat pa 8)).1.map (·.1) = [1, 0] := by decide +kernel

theorem witness_DeliveredValues : let o := op (.ld fs)
    o.given = [] ∧ o.ins.layout.d = .vec ∧ (op (.ld { fs with md := 6 })).ins.layout.d = .pair ∧ fs.d.toNat < 63 ∧
      (op (.gath fs)).ins.layout.d ≠ .pair ∧ (op (.gath fs)).ins.layout.d ≠ .quad ∧ (Instr.atom fs).layout.d = .vec ∧
      o.level = (default : Troupe).level ∧ (bankBody (.iadd { fs with md := 0xC0 })).isSome = true := by decide +kernel

/-- The lanes of a copy on a line of memory, from it and into it; a lane that faults; a line that is locked; and a page out of range. -/
theorem witness_LaneCopyEvent : (∀ f ∈ ([fs, { fs with md := 4 }] : List Fields), let o := accOp (.cpl f); let s := flying o
      let kind := if f.md.getLsbD 2 then AccKind.write else .read
      let r := s.reach (.die 0) 0 ⟨0, 0, 1⟩ 0x10000 kind (f.md.toNat / 32 % 4 % 3)
      s.op 0 0 = some o ∧ cplLanesOn o 512 = [0, 63] ∧ 512 ∉ o.stuck ∧ r.1 = .ok (0x10000, none) ∧
        (State.cplLanes 0 (f.md.getLsbD 2) 512 none (cplLanesOn o 512) o
          (if f.md.getLsbD 2 then r.2.takeBack 512 else r.2.readHome 512) none).2.2 = none) ∧
    (let o := { accOp (.cpl fs) with cmp := [(63, 0x7FFFC)] }; let s := flying o
     let r := s.reach (.die 0) 0 ⟨0, 0, 1⟩ 0x10000 .read 0
     let z := State.cplLanes 0 false 512 none (cplLanesOn o 512) o (r.2.readHome 512) none
     r.1 = .ok (0x10000, none) ∧ z.2.2.isSome = true ∧ z.1.park = none) ∧
    (let o := accOp (.cpl fs); let s : State := { flying o with slices := [(512, { (default : SLine) with present := true, lock := 9 })] }
     cplLanesOn o 512 ≠ [] ∧ isWait (s.reach (.die 0) 0 ⟨0, 0, 1⟩ 0x10000 .read 0).1 = true) ∧
    (let o := { accOp (.cpl fs) with addr := [(0, 0x100000000000000)] }
     cplLanesOn o 0x2000000000000 = [0] ∧ isFault ((flying o).reach (.die 0) 0 ⟨0, 0, 1⟩ 0x100000000000000 .read 0).1 = true) := by decide +kernel

theorem witness_LaneCopyEvent_scratch : let o := accOp (.cpl fs); let s := flying o
    o.drop.read 63 = 0 ∧ s.scratchOk 0 0 (o.cmp.read 63) o.size = .ok () := by decide +kernel

/-- A command that has not started: a copy, one of no bytes, one with a good descriptor, and one with a good block. -/
theorem witness_EngineSteps_start : (∀ n ∈ ([0, 1] : List Nat), let x := cmd (.cps fs) [0x10000, 0x10000, BitVec.ofNat 64 n, 0]
      EngineHas (engined x 0) 0 (engined x 0) x ∧ isEngine x.ins = true ∧ x.started = false ∧ x.units = n) ∧
    (let x := cmd (.cpt fs) [0x10000, 0, 0, 0, 0, 0, 0]; let s := engined x oneByte
     EngineHas s 0 s x ∧ (engRead s 0 x (x.u 0) 64 0).1 = .ok ((List.range 64).map fun i => (lineByte oneByte i).toNat) ∧
       descOk x ((List.range 64).map fun i => (lineByte oneByte i).toNat) = true) ∧
    (let x := cmd (.layex fs) [0x10000, 0]; let s := engined x oneElement; let b := (List.range 128).map fun i => (lineByte oneElement i).toNat
     EngineHas s 0 s x ∧ (engRead s 0 x (x.u 0) 128 0).1 = .ok b ∧ blockOk { x with blk := b, rs := 1 } = true) := by
  refine ⟨fun n hn => ⟨has_of ?_, ?_⟩, ⟨has_of ?_, ?_⟩, ⟨has_of ?_, ?_⟩⟩
  · revert n; decide +kernel
  · revert n; decide +kernel
  · decide +kernel
  · decide +kernel
  · decide +kernel
  · decide +kernel

/-- Elements of a copy from memory into scratchpad and back; and a copy whose units are done. -/
theorem witness_EngineSteps_cpt : (∀ m ∈ ([0, 1] : List (BitVec 8)), let x := { cmd (.cpt { fs with md := m }) [0x10000, 0, 0, 0, 0, 0, 0] with
      started := true, blk := (List.range 64).map fun i => (lineByte oneByte i).toNat }
    let s := engined x oneByte
    EngineHas s 0 s x ∧ x.adding = 0 ∧ x.done ≠ x.units ∧ localFault x.element.1 (m == 0) = none ∧
      s.scratchOk x.company (coreOf x.t) x.element.1 x.esz = .ok () ∧ x.element.2.2 = true ∧
      (engRead s 0 x x.element.2.1 x.esz x.hint).1 = .ok [0] ∧ s.scratchNat x.company (coreOf x.t) x.element.1 x.esz = .ok 0 ∧
      (engWrite s 0 x x.element.2.1 (leBytes x.esz 0) x.hint).1 = .ok ()) ∧
    (let x := { cmd (.cpt fs) [0x10000, 0, 0, 0, 0, 0, 0] with
       started := true, done := 1, blk := (List.range 64).map fun i => (lineByte oneByte i).toNat }
     EngineHas (engined x oneByte) 0 (engined x oneByte) x ∧ x.adding = 0 ∧ x.done = x.units) := by
  refine ⟨fun m hm => ⟨has_of ?_, ?_⟩, has_of ?_, ?_⟩
  · revert m; decide +kernel
  · revert m; decide +kernel
  · decide +kernel
  · decide +kernel

theorem witness_EngineSteps_cps : let x := { cmd (.cps fs) [0x1007F, 0x10000, 1, 0x10000] with started := true }; let s := engined x 5
    let y := { x with adding := 2 }
    EngineHas s 0 s x ∧ x.adding = 0 ∧ x.done ≠ x.units ∧ (engRead s 0 x 0x10000 1 x.hint).1 = .ok [5] ∧
      (engWrite (engRead s 0 x 0x10000 1 x.hint).2 0 x 0x1007F [5] x.hint).1 = .ok () ∧
      EngineHas (engined y 5) 0 (engined y 5) y ∧
      ((engined y 5).tsAddGlobal (.die 0) ((engined y 5).engAccessor y) y.asker 9 y.ts 1).1 = .ok 5 :=
  ⟨has_of (by decide +kernel), by decide +kernel, by decide +kernel, by decide +kernel, by decide +kernel, has_of (by decide +kernel),
    by decide +kernel⟩

theorem witness_EngineSteps_refmt : let b := (List.range 128).map fun i => (lineByte oneElement i).toNat
    let x := { cmd (.layex fs) [0x10000, 0] with started := true, blk := b }; let s := engined x oneElement
    EngineHas s 0 s x ∧ x.lop = 0 ∧ x.done ≠ x.units ∧ (engRead s 0 x (x.strided x.src x.sstr) (fmtBytes x.sfmt) 0).1 = .ok [0, 0, 1, 0] ∧
      (engWrite (engRead s 0 x 0x10000 4 0).2 0 x (x.strided x.dst x.dstr) [0, 0, 1, 0] 0).1 = .ok () :=
  ⟨has_of (by decide +kernel), by decide +kernel⟩

/-- The block of .EXPAND and .PACK for `n` lines and a stream of `m` bytes at 0x10000. -/
def streamBlock (n m : Nat) : List Nat := leBytes 8 0x10000 ++ leBytes 8 0x10000 ++ leBytes 64 0 ++ leBytes 8 n ++ leBytes 8 m ++ leBytes 32 0

/-- A line of zeros: its record is the one byte 1 (R275). Streams that are used up, too short, and too long for their lines. -/
theorem witness_EngineSteps_expand : (let x := { cmd (.layex { fs with md := 1 }) [0x10000, 0] with started := true, blk := streamBlock 2 2 }
      let s := engined x 1
      EngineHas s 0 s x ∧ x.lop = 1 ∧ x.done ≠ x.units ∧ x.pos + 1 ≤ x.sbytes ∧ recordLen 1 = 1 ∧ (engRead s 0 x 0x10000 1 0).1 = .ok [1] ∧
        (engWrite (engRead s 0 x 0x10000 1 0).2 0 x 0x10000 (decodeRecord 1 [1]) 0).1 = .ok ()) ∧
    (let x := { cmd (.layex { fs with md := 1 }) [0x10000, 0] with started := true, blk := streamBlock 2 2 }; let s := engined x 5
     EngineHas s 0 s x ∧ (engRead s 0 x 0x10000 1 0).1 = .ok [5]) ∧
    (∀ p ∈ ([1, 2] : List Nat),
     let x := { cmd (.layex { fs with md := 1 }) [0x10000, 0] with started := true, blk := streamBlock 2 2, done := 2, pos := p }
     EngineHas (engined x 1) 0 (engined x 1) x ∧ x.adding = 0 ∧ x.done = x.units ∧ x.closing = 0 ∧ (x.pos = x.sbytes ↔ p = 2)) := by
  refine ⟨⟨has_of ?_, ?_⟩, ⟨has_of ?_, ?_⟩, fun p hp => ⟨has_of ?_, ?_⟩⟩
  · decide +kernel
  · decide +kernel
  · decide +kernel
  · decide +kernel
  · revert p; decide +kernel
  · revert p; decide +kernel

theorem witness_EngineSteps_pack : (∀ m ∈ ([0, 2] : List Nat),
      let y := { cmd (.layex { fs with md := 2 }) [0x10000, 0] with started := true, blk := streamBlock 2 m }; let t := engined y 0
      let r := engRead t 0 y 0x10000 128 0
      EngineHas t 0 t y ∧ y.lop = 2 ∧ y.done ≠ y.units ∧ r.1 = .ok (List.replicate 128 0) ∧ encodeRecord (List.replicate 128 0) = [1] ∧
        (y.pos + 1 ≤ y.sbytes ↔ m = 2) ∧ (engWrite r.2 0 y 0x10000 [1] 0).1 = .ok ()) ∧
    (∀ ts ∈ ([0, 0x10040] : List Nat),
      let y := { cmd (.layex { fs with md := 2 }) [0x10000, BitVec.ofNat 64 ts] with started := true, blk := streamBlock 2 2, done := 2, pos := 2 }
      let t := engined y 0
      EngineHas t 0 t y ∧ y.adding = 0 ∧ y.done = y.units ∧ y.ts = BitVec.ofNat 64 ts ∧ ¬ (y.ts ≠ 0 ∧ y.added = 128 * y.units) ∧
        (engWrite t 0 y (y.u 0 + 0x60) (leBytes 8 y.pos) 0).1 = .ok ()) ∧
    (let y := { cmd (.layex { fs with md := 2 }) [0x10000, 0x10040] with started := true, blk := streamBlock 2 2, done := 2, pos := 2, added := 256 }
     EngineHas (engined y 0) 0 (engined y 0) y ∧ y.ts ≠ 0 ∧ y.added = 128 * y.units) := by
  refine ⟨fun m hm => ⟨has_of ?_, ?_⟩, fun ts hs => ⟨has_of ?_, ?_⟩, has_of ?_, ?_⟩
  · revert m; decide +kernel
  · revert m; decide +kernel
  · revert ts; decide +kernel
  · revert ts; decide +kernel
  · decide +kernel
  · decide +kernel

/-- A command that comes back from its record (R77). -/
theorem witness_EngineSteps_replayed : let x := { cmd (.cps fs) [0x10000, 0x10000, 1, 0] with
      park := some { (default : Park) with state := .ready } }; let s := engined x 0
    ∃ u y, EngineHas s 0 u y ∧ y.park = none := by
  refine ⟨_, _, ⟨{ cmd (.cps fs) [0x10000, 0x10000, 1, 0] with park := some { (default : Park) with state := .ready } }, ?_, rfl⟩, ?_⟩ <;> decide +kernel

theorem witness_EngineFatalEvents : let p : Park := { (default : Park) with state := .fatal }
    let x := { cmd (.cps fs) [0x10000, 0x10000, 1, 0x10000] with park := some p }; let y := { x with park := none, closing := 2 }
    (engined x 0).engCmd 0 0 0 = some x ∧ x.closing = 0 ∧ x.total = some 1 ∧ x.ts ≠ 0 ∧
      (engined y 9).engCmd 0 0 0 = some y ∧ ((engined y 9).tsAddGlobal (.die 0) ((engined y 9).engAccessor y) y.asker 9 y.ts 1).1 = .ok 9 := by
  decide +kernel

/-! ### Hypotheses that hold somewhere: matrix queues -/

/-- A matrix command at the head of core 0's queue, with banks 3, 0, 1, 2, 4 and 6. -/
def mxCmd (i : Instr) (uni : List W64) : MxCmd := { (default : MxCmd) with ins := i, uni := uni, banks := [3, 0, 1, 2, 4, 6] }

def mxState (x : MxCmd) : State := armed.modCore 0 fun c => { c with queue := [x] }

/-- The loads of a matrix command are answered. -/
theorem witness_MatrixStateEvents : (let f : Fields := { fs with md := 2 }; let x := mxCmd (.mxlw f) [0, 0]; let s := mxState x
      MxHas s 0 x ∧ (s.core 0).rowErr = false ∧ rowBytes (lwTile f 0).fmt = 256 ∧
      readAll (fun i => s.mxBytes x 0 (i * 0) 256) (List.range 32) = .ok (List.replicate 32 (List.replicate 256 0)) ∧
      readAll (fun _ => s.mxBytes x 0 0 (scaleCount (lwTile f 0).fmt (lwTile f 0).bc (lwTile f 0).scf)) (List.range 32) = .ok (List.replicate 32 [])) ∧
    (∀ i ∈ ([.mxfmt fs, .mxrel fs, .accfree fs] : List Instr), MxHas (mxState (mxCmd i [])) 0 (mxCmd i [])) ∧
    ((mxState (mxCmd (.accfree fs) [])).core 0).waiters = [] := by
  unfold MxHas
  decide +kernel

/-- Layout words of 2-byte and of 1-byte units. -/
def mulCmd (f : Fields) (esize : W64) : MxCmd := mxCmd (.mxmul f) [esize * 0x80000, 0, 0, 0, 0]

theorem witness_MatrixRowEvents_mul : let f : Fields := fs; let x := mulCmd f 1; let s := mxState x
    MxHas s 0 x ∧ pairReady s 0 x f ∧ matrixClass (streamOf s 0 f).fmt = some 0 ∧ ∃ v, RowEnters s 0 x f v := by
  unfold MxHas pairReady RowEnters rowsGood mulWellFormed
  exact ⟨by decide +kernel, by decide +kernel, by decide +kernel, _, by decide +kernel, by decide +kernel, List.replicate 256 0, [],
    by decide +kernel, by decide +kernel, rfl⟩

/-- A double-stop command that has come to the leader alone: its follower has not reached it. -/
theorem witness_MatrixRowEvents_waits : let f : Fields := { fs with md := 2 }
    (let x := mulCmd f 1; MxHas (mxState x) 0 x ∧ ¬ pairReady (mxState x) 0 x f) ∧
    (let x := mxCmd (.mxchn f) [0, 512]; MxHas (mxState x) 0 x ∧ ¬ pairReady (mxState x) 0 x f) := by
  unfold MxHas pairReady
  decide +kernel

/-- In BFP one event takes the rows of a command of two rows; its first leaves the command at the head. -/
def bfpState (x : MxCmd) : State := (mxState x).modCore 0 fun c => { c with
  array := { c.array with streams := c.array.streams.map fun y => { y with fmt := 0x18 } } }

def bfpFields : Fields := { fs with x := 0 }

def bfpCmd : MxCmd := mulCmd bfpFields 0

def bfpRows : Nat → State
  | 0 => bfpState bfpCmd
  | _ => (bfpState bfpCmd).enterRow 0 bfpCmd (bfpFields.md.getLsbD 1)
      (actRow (streamOf (bfpState bfpCmd) 0 bfpFields) (List.replicate 64 0) [0]) (decodeFmt 3 (streamOf (bfpState bfpCmd) 0 bfpFields).ts).toF
      ((bfpCmd.uni.getD 4 0).toNat + bfpCmd.row) (bfpFields.x.toNat % 256 + 1)

theorem witness_MatrixRowEvents_bfp : let s := bfpState bfpCmd
    MxHas s 0 bfpCmd ∧ pairReady s 0 bfpCmd bfpFields ∧ matrixClass (streamOf s 0 bfpFields).fmt = some 3 ∧ bfpRows 0 = s ∧
      ∀ j, j < 8 → (∃ y, StillHead (bfpRows j) 0 bfpCmd y ∧ RowEnters (bfpRows j) 0 y bfpFields (bfpRows (j + 1))) ∨
        ((∀ y, ¬ StillHead (bfpRows j) 0 bfpCmd y) ∧ bfpRows (j + 1) = bfpRows j) := by
  have gone : (bfpRows 1).mxHead 0 = none := by decide +kernel
  refine ⟨by unfold MxHas; decide +kernel, by unfold pairReady; decide +kernel, by decide +kernel, rfl, fun j _ => ?_⟩
  cases j with
  | zero =>
    refine .inl ⟨bfpCmd, ⟨by unfold MxHas; decide +kernel, rfl, rfl⟩, ?_⟩
    unfold RowEnters rowsGood mulWellFormed
    exact ⟨by decide +kernel, by decide +kernel, List.replicate 64 0, [0], by decide +kernel, by decide +kernel, by simp only [bfpRows]⟩
  | succ j => exact .inr ⟨fun y hy => (by cases gone.symm.trans hy.1), rfl⟩

/-- Rows in error, a malformed layout word, a scratchpad address past the end, and an element in error. -/
def rowBad (s : State) : State := s.modCore 0 fun c => { c with rowsBad := [0] }

theorem witness_MatrixErrorEvents : (let x := mxCmd (.mxlw fs) [0, 0]; let s := rowBad (mxState x)
      MxHas s 0 x ∧ (s.core 0).rowErr = true ∧ x.addsTs = false) ∧
    (let x := mulCmd fs 1; let s := rowBad (mxState x)
     MxHas s 0 x ∧ pairReady s 0 x fs ∧ matrixClass (streamOf s 0 fs).fmt ≠ some 3 ∧ ¬ rowsGood s 0 fs) ∧
    (let x := mulCmd fs 0; let s := mxState x; MxHas s 0 x ∧ pairReady s 0 x fs ∧ rowsGood s 0 fs ∧ ¬ mulWellFormed s 0 x fs) ∧
    (let x := { mulCmd fs 1 with uni := [0xFF000, 0, 0, 0, 0] }; let s := mxState x
     MxHas s 0 x ∧ pairReady s 0 x fs ∧ rowsGood s 0 fs ∧ mulWellFormed s 0 x fs ∧ isFault (mulElems s 0 x fs) = true) ∧
    (let x := mxCmd (.mxchn fs) [0, 512]; let s := mxState x
     MxHas s 0 x ∧ pairReady s 0 x fs ∧ rowsGood s 0 fs ∧ s.accBad 0 x.banks (chainElems s 0 x fs) = none ∧ ¬ rowsGood (rowBad s) 0 fs ∧
       (let b := s.modCore 0 fun c => { c with accErr := [(accKey x.banks 0, true)] }
        MxHas b 0 x ∧ rowsGood b 0 fs ∧ (b.accBad 0 x.banks (chainElems b 0 x fs)).isSome = true)) := by
  unfold MxHas pairReady rowsGood mulWellFormed
  decide +kernel

theorem witness_AccumulatorEvents : (let x := mxCmd (.accz fs) [767]; MxHas (mxState x) 0 x) ∧
    (let x := mxCmd (.accld fs) [0, 0]; MxHas (mxState x) 0 x ∧ (mxState x).mxBytes x 0 0 128 = .ok (List.replicate 128 0)) ∧
    (let x := mxCmd (.accld fs) [0x80000, 0]; MxHas (mxState x) 0 x ∧ isFault ((mxState x).mxBytes x 0 0x80000 128) = true) ∧
    (let x := mxCmd (.accst fs) [0, 0, 0]; let s := { mxState x with companies := [(0, { ourCo armed with scratch := 2048 })] }
     MxHas s 0 x ∧ s.accBad 0 x.banks (rowElems 0) = none ∧ s.scratchOk 0 0 0 128 = .ok () ∧
       isFault (s.scratchOk 0 0 2048 128) = true ∧
       (let b := s.modCore 0 fun c => { c with accErr := [(accKey x.banks 0, true)] }
        MxHas b 0 x ∧ (b.accBad 0 x.banks (rowElems 0)).isSome = true)) := by
  unfold MxHas
  decide +kernel

/-- An add that a home answers, one whose line is locked, and one at an address that faults. -/
theorem witness_AccumulatorEvents_add : ∀ n ∈ ([0, 1, 2] : List Nat),
    let a : AccAdd := { cmd := { mxCmd (.accst fs) [0, 0, if n = 2 then 0x100000000000000 else 0x10000] with row := 1 }, park := none }; let x := a.cmd
    let s := { mapped with slices := [(512, { (default : SLine) with present := true, data := 1, lock := if n = 1 then 9 else 0 })] }.modCore 0
      fun c => { c with adds := [a] }
    let who : Accessor := { ctx := 0, pc := x.pc, seq := x.seq, troupe := some 0, core := some 0 }
    let r := (s.tsAddGlobal (.core 0) who ⟨0, 0, 0⟩ 8 x.target.1 (128 * x.rows)).1
    (s.core 0).adds.find? (fun y => match y.park with | none => true | some p => p.state != .pending) = some a ∧ a.park = none ∧
      x.target.2 = false ∧ (match r with | .ok _ => 0 | .wait => 1 | .fault _ => 2) = n := by
  decide +kernel

theorem witness_AccumulatorEvents_lanes : let o := { op (.accrd fs) with blk1 := [3] }; let x := mxCmd (.accrd fs) [0]
    let s := (mxState x).modTr 0 fun t => { t with ops := [o] }
    MxHas s 0 x ∧ s.op x.t x.seq = some o ∧ (∀ l, l < 64 → s.accBad 0 o.blk1 (o.laneElems l) = none) ∧ o.elems ≤ 4 ∧
      inMask o.act 63 = true ∧ o.keyDone 63 = false := by
  unfold MxHas
  decide +kernel

/-! ### Hypotheses that hold somewhere: geometry and textures -/

/-- A graph of one node and one cluster of one triangle (R222 to R226): header, node, table entry and record. -/
def graphBytes : List Nat := leBytes 8 0x10080 ++ leBytes 8 0x10100 ++ leBytes 8 0x10180 ++ leBytes 8 0x10200 ++ leBytes 4 1 ++ leBytes 4 1 ++
  leBytes 4 0 ++ [1] ++ leBytes 19 0

def nodeBytes : List Nat := leBytes 12 0 ++ leBytes 4 0x40000000 ++ leBytes 20 0 ++ leBytes 4 0x7F800000 ++ leBytes 3 0 ++ [1] ++ leBytes 20 0

def clusterBytes : List Nat := [1, 3, 1, 1, 1, 0, 3, 0] ++ leBytes 12 0 ++ leBytes 4 0x3F800000 ++ leBytes 4 0x3F800000 ++ leBytes 4 0x3F800000 ++
  leBytes 16 136 ++ leBytes 16 (3 + 2 ^ 9 + 2 * 2 ^ 16)

/-- A complete cut of `n` clusters of that graph (R233); a ray from (0.25, 0.25, -1) along z (R239); a texture of one FP32 texel (R247). -/
def cutBytes (n : Nat) : List Nat := leBytes 4 1 ++ leBytes 4 1 ++ leBytes 8 0x10500 ++ leBytes 4 n ++ leBytes 4 0 ++ leBytes 4 8 ++ leBytes 4 0 ++
  leBytes 8 0x10000 ++ leBytes 24 0 ++ leBytes 4 0

def rayBytes : List Nat := leBytes 4 0x3E800000 ++ leBytes 4 0x3E800000 ++ leBytes 4 0xBF800000 ++ leBytes 4 0 ++ leBytes 8 0 ++ leBytes 4 0x3F800000 ++
  leBytes 4 0x41200000

def texBytes : List Nat := leBytes 8 0x10580 ++ leBytes 4 0 ++ [1, 0, 0, 0] ++ leBytes 48 0

/-- That graph at 0x10000, a cut of `n` clusters at 0x10300, the ray at 0x10400, the texture at 0x10480. -/
def scene (n : Nat) (o : MemOp) : State := { flying o with
  slices := [(512, line graphBytes), (513, line nodeBytes), (514, line []), (515, line (leBytes 8 (4 * 2 ^ 40))), (516, line clusterBytes),
    (518, line (cutBytes n)), (520, line rayBytes), (521, line texBytes), (522, line []), (523, line (leBytes 4 0x40000000))] }

/-- A CUTSEL of the scene in a pass, at the head of its ring's tightrope. -/
def cutOp (pass : Nat) : MemOp := { op (.cutsel fs) with
  act := 1, single := true, size := 1, uni := [0x10000, 0x10100, 0x10300], blk1 := graphBytes, pass := pass, thr := [(0, 1), (1, 1), (2, 0x10500)] }

def cutState (o : MemOp) : State := { scene 1 o with rings := [(0, { (default : Ring) with tight := [(0, 0)] })] }

/-- Items of the first pass, whose words can be written, must wait, or cannot be written; and of the second, which reads them. -/
theorem witness_TightropeEvents_items : ∀ n ∈ ([0, 1, 2] : List Nat),
    (let o := cutOp 1; let s := spoiled n 522 (cutState o); let u := s.cutAdmit 0
     TightHead s 0 u 0 0 o ∧ o.pass ≠ 5 ∧ (graphOf o.blk1).any (fun g =>
       let i := u.cutItem 0 o { g with hdr := o.uni.headD 0 }
       match i.1 with | .ok x => endOf (i.2.geoWrites 0 o x.writes).1 == n | _ => false) = true) ∧
    (let o := cutOp 2; let s := spoiled n 522 (cutState o); let u := s.cutAdmit 0
     TightHead s 0 u 0 0 o ∧ (graphOf o.blk1).any (fun g => endOf (u.cutItem 0 o { g with hdr := o.uni.headD 0 }).1 == n) = true) := by
  unfold TightHead
  decide +kernel

/-- The command at the end of its last pass, where only the header is left to write; and a discarded one. -/
theorem witness_TightropeEvents_end : (let o := { cutOp 4 with count := 1, cursor := 1 }; let s := cutState o; let u := s.cutAdmit 0
      TightHead s 0 u 0 0 o ∧ 4 ≤ o.pass ∧ o.cutTree ≤ o.cursor ∧ o.keys = [0] ∧
      (u.geoWrites 0 o [(o.cutBuf 0x10, leBytes 4 o.count ++ leBytes 4 o.misses ++ leBytes 4 o.cutFlags ++
        leBytes 4 o.cutTree ++ leBytes 8 (o.uni.headD 0).toNat ++ leBytes 24 0)]).1 = .ok ()) ∧
    (let o := cutOp 5; let s := cutState o; let u := s.cutAdmit 0
     TightHead s 0 u 0 0 o ∧ (u.geoWrites 0 o [(o.cutBuf 0x18, leBytes 4 0)]).1 = .ok ()) := by
  unfold TightHead
  decide +kernel

/-- RAYT of an empty cut, of one whose one triangle the ray meets, and of a cut that must be waited for or is lost. -/
def raytOp : MemOp := { op (.rayt fs) with act := 1, size := 1, uni := [0x10300, 0x10400] }

theorem witness_RayEvents_rayt : nextLane (scene 0 raytOp) 0 0 raytOp 0 ∧
    ((scene 0 raytOp).readCut 0 raytOp 0x10300).1 = .ok { cap := 1, misscap := 1, count := 0, tree := 0, graph := 0x10000 } ∧
    ((scene 0 raytOp).geoRead 0 raytOp (raytOp.rayAddr 0) 32).1 = .ok rayBytes ∧
    okWith (fun c => c.isSome) ((scene 1 raytOp).raytLane 0 raytOp 0).1 = true ∧
    (∀ n ∈ ([1, 2] : List Nat), let s := spoiled n 520 (scene 1 raytOp); nextLane s 0 0 raytOp 0 ∧ endOf (s.raytLane 0 raytOp 0).1 = n) := by
  unfold nextLane
  decide +kernel

/-- The parts of a lane that meets the triangle: the cut, the ray, the graph, the leaves, the clusters and the candidate. -/
theorem witness_RayEvents_hit : let s := scene 1 raytOp; let cut := s.readCut 0 raytOp 0x10300; let ray := cut.2.geoRead 0 raytOp (raytOp.rayAddr 0) 32
    let gr := ray.2.readGraph 0 raytOp 0x10000; let h : CutHead := { cap := 1, misscap := 1, count := 1, tree := 0, graph := 0x10000 }
    let r := rayOf rayBytes; let js := State.treeReach 0 raytOp 0x10300 h r 32 [0] gr.2
    nextLane s 0 0 raytOp 0 ∧ cut.1 = .ok h ∧ h.count ≠ 0 ∧ ray.1 = .ok rayBytes ∧ js.1 = .ok [0] ∧ okWith (fun g =>
      let cs := State.leafPass 0 raytOp 0x10300 g r [0] js.2; let kept := cs.2.keptCand 0 raytOp g r 0
      okWith (· == [0]) cs.1 && okWith (·.isNone) kept.1 && okWith (·.isSome) (State.rayClusters 0 g r 0 raytOp [0] none kept.2).1) gr.1 = true := by
  unfold nextLane
  decide +kernel

theorem witness_RayEvents_rayr : let o := { op (.rayr fs) with act := 3, size := 1, uni := [0x10000, 0x10400], cmp := [(65, 1)] }
    (let s := scene 1 o; let r := (s.readGraph 0 o 0x10000)
     nextLane s 0 0 o 0 ∧ isOk r.1 = true ∧ (r.2.geoRead 0 o (o.rayAddr 0) 32).1 = .ok rayBytes ∧ o.cmp.read 64 < 1 ∧ 1 ≤ o.cmp.read 65 ∧
      okWith (fun g => g.clusters == 1 && isOk ((r.2.geoRead 0 o (o.rayAddr 0) 32).2.readCluster 0 o g 0).1) r.1 = true) ∧
    (∀ n ∈ ([1, 2] : List Nat), let s := spoiled n 520 (scene 1 o); nextLane s 0 0 o 0 ∧ endOf (s.rayrLane 0 o 0).1 = n) := by
  unfold nextLane
  decide +kernel

/-- A rasteriser past the end of its cut, at its one cluster, and where the cut must be waited for or is lost. -/
theorem witness_RasterEvents : let o := { op (.rast fs) with
      act := 1, single := true, size := 1, uni := [0x10300, 0x10480], pass := 1, blk1 := leBytes 64 0 ++ [8, 0, 8, 0] ++ leBytes 60 0 }
    let at' := fun (s : State) => { s with rings := [(0, { (default : Ring) with rast := [(0, 0)] })] }
    let t := fun (n : Nat) => (at' (scene n o)).rastAdmit 0
    ((t 0).ring 0).rast.head? = some (0, 0) ∧ (t 0).op 0 0 = some o ∧ ((t 0).rastCluster 0 o).1 = .ok none ∧ ((t 1).rastCluster 0 o).1 = .ok (some 0) ∧
    (∀ n ∈ ([1, 2] : List Nat), let u := (at' (spoiled n 516 (scene 1 o))).rastAdmit 0
      (u.ring 0).rast.head? = some (0, 0) ∧ u.op 0 0 = some o ∧ endOf (u.rastCluster 0 o).1 = n) := by
  decide +kernel

def texOp : MemOp := { op (.tex fs) with act := 1, size := 1, uni := [0x10480] }

/-- The descriptor is read, malformed, waited for, or lost. -/
theorem witness_TextureEvents_descriptor : (let s := scene 1 texOp
      s.op 0 0 = some texOp ∧ s.geoTurn 0 texOp = true ∧ texOp.pass = 0 ∧ (s.geoRead 0 texOp 0x10480 64).1 = .ok (texBytes.take 64) ∧
        (texOf (texBytes.take 64)).isSome = true) ∧
    (let o := { texOp with uni := [0x10400] }; (scene 1 o).geoTurn 0 o = true ∧ ((scene 1 o).geoRead 0 o 0x10400 64).1 = .ok (rayBytes ++ leBytes 32 0) ∧
      texOf (rayBytes ++ leBytes 32 0) = none) ∧
    (∀ n ∈ ([1, 2] : List Nat), let s := spoiled n 521 (scene 1 texOp)
      s.op 0 0 = some texOp ∧ s.geoTurn 0 texOp = true ∧ endOf (s.geoRead 0 texOp 0x10480 64).1 = n) := by decide +kernel

/-- A lane whose coordinates pass, whose texels must be waited for or are lost, or whose coordinates fail; and a query. -/
theorem witness_TextureEvents_lane : let p := { texOp with pass := 1, blk1 := texBytes.take 64, dat := [] }
    (∀ n ∈ ([0, 1, 2] : List Nat), let s := spoiled n 523 (scene 1 p)
      s.op 0 0 = some p ∧ s.geoTurn 0 p = true ∧ p.nextLane = some 0 ∧ p.pass ≠ 0 ∧
      ((texOf p.blk1).any fun t => (p.texPlan t 0).any fun q => (match (State.fetchTaps 0 p t 0 q.taps s).1 with
        | .ok r => if r.bad.isNone then 0 else 2 | .wait => 1 | .fault _ => 3) == n) = true) ∧
    ((texOf p.blk1).any fun t => (({ p with dat := [(0, 0x7F800000)] } : MemOp).texPlan t 0).isNone) = true ∧
    (let o := { p with ins := .texq fs }; (scene 1 o).op 0 0 = some o ∧ (scene 1 o).geoTurn 0 o = true ∧ o.nextLane = some 0) := by
  decide +kernel

/-! ### Hypotheses that hold somewhere: troupes and the scheduler -/

def ready : Park := { (default : Park) with state := .ready }

/-- A company of one troupe that is being saved at 0x10000, where its image of 8,448 bytes fits. -/
def saving (trap : Nat) : State := mapped.modCo 0 fun x => { x with
  st := .saving, nregs := 8, scratch := 0, save := 0x10000, savestride := 0x4000, hostTrap := trap }

/-- A company of no troupe that has been saved at 0x10000: its image is the 256 bytes of the header (R172). -/
def imageBytes : List Nat := [1, 0] ++ leBytes 46 0 ++ leBytes 8 256 ++ leBytes 72 0

def savedNone : State := { (mapped.modCo 0 fun x => { x with
    st := .saved, nregs := 8, scratch := 0, troupes := 0, slots := [], image := 0x10000 }) with
  troupes := [], slices := [(512, line imageBytes), (513, line [])] }

/-- A deferred trap of level 0 in a troupe with threads and in one without; one of level 1; a ready record; a held fetch that is ready. -/
theorem witness_TroupeEvents_traps : (let d : DTrap := { (default : DTrap) with cause := 6 }; let s := mapped.modTr 0 fun t => { t with dtraps := [d] }
      s.trapDue 0 = true ∧ (s.tr 0).nextTrap = some d ∧ d.level ≠ 1 ∧ (s.tr 0).allExited = false ∧
      (let s := s.modTr 0 fun t => { t with pt := { t.pt with tst := Tbl.writeLanes [] 0 (-1) (fun _ => .exited) lanes } }
       s.trapDue 0 = true ∧ (s.tr 0).nextTrap = some d ∧ (s.tr 0).allExited = true)) ∧
    (let d : DTrap := { (default : DTrap) with cause := 6, level := 1 }; let s := mapped.modTr 0 fun t => { t with dtraps := [d], level := 1 }
     s.trapDue 0 = true ∧ (s.tr 0).nextTrap = some d) ∧
    (let o := { accOp (.ld fs) with park := some ready }; let s := flying o
     (s.tr 0).readyOp = some o ∧ o.seq = 0 ∧ s.replayDue 0 = true) ∧
    (let h : FetchHold := { pc := 0x10000, park := ready }
     ((mapped.modTr 0 fun t => { t with holds := [h] }).tr 0).holds = [h] ∧ h.park.state = .ready) ∧
    (mapped.tr 0).resident = true := by decide +kernel

/-- A save that goes on: a company that has not settled, one without a save area, and areas that must be waited for, are lost, or are there. -/
theorem witness_SaveGoesOn : (∀ n ∈ ([0, 1, 2] : List Nat), ∀ trap ∈ ([0, 4] : List Nat), let s := spoiled n 512 (saving trap)
      let c := s.co 0; let x := (s.stopOps 0).stopCmds 0
      c.st = .saving ∧ c.stuck = false ∧ (s.ctx c.ctx).endReason = 0 ∧ x.settled 0 = true ∧ c.save ≠ 0 ∧
        endOf (x.schedReach c.ctx c.save (x.imageSize 0)).1 = n) ∧
    (let s := (saving 0).modTr 0 fun t => { t with ops := [lockOp (lane .locking)] }; ((s.stopOps 0).stopCmds 0).settled 0 = false) ∧
    (let s := (saving 0).modCo 0 fun c => { c with save := 0 }
     ((s.stopOps 0).stopCmds 0).settled 0 = true ∧ (s.co 0).save = 0) := by decide +kernel

/-- A company that traps for the host alone, and with a company that holds the other half of a window set. -/
theorem witness_TroupeEvents_hostTrap : (let s := saving 4
      (s.tr 0).resident = true ∧ (s.co 0).st = .saving ∧ (s.co 0).hostTrap ≠ 0 ∧ SavedBeside s 0 = []) ∧
    (let s := { saving 4 with companies := (saving 4).companies ++ [(1, { (default : Co) with st := .resident, save := 0x20000 })] }.modCore 0 fun c => { c with window := 1 }
     SavedBeside s 0 = [1]) := by decide +kernel

/-- A place whose troupe is long-stalled; one whose tenure is over at CLOCK 1024; and one whose tenure is not. -/
theorem witness_TroupeEvents_places : let two := fun (f : Troupe → Troupe) (clock : Nat) => ({ mapped.modTr 0 f with clock := clock } : State)
    let s := fun (f : Troupe → Troupe) (clock : Nat) => { two f clock with troupes := (two f clock).troupes ++ [(1, { (default : Troupe) with resident := true })] }
    let stalled := fun (t : Troupe) => { t with pt := { t.pt with tst := Tbl.writeLanes [] 0 (-1) (fun _ => .wait) lanes } }
    (let s := s stalled 5
     (s.setOf 0 true).find? (fun j => (s.tr j).place == 0 + 1) = some 0 ∧ s.longStalled 0 = true ∧ s.incoming 0 0 = some 1) ∧
    (let s := s (fun t => { t with ibuf := [(0x10000, packWord 0x000 { (default : Fields) with g := 7 })] }) 1024
     (s.setOf 0 true).find? (fun j => (s.tr j).place == 0 + 1) = some 0 ∧ s.longStalled 0 = false ∧
       (s.tr 0).since + 1024 ≤ s.clock ∧ s.incoming 0 (s.prioOf 0) = some 1 ∧ (1 : Nat) ≠ 0) ∧
    (let s := s (fun t => { t with ibuf := [(0x10000, packWord 0x000 { (default : Fields) with g := 7 })] }) 1023
     (s.setOf 0 true).find? (fun j => (s.tr j).place == 0 + 1) = some 0 ∧ s.longStalled 0 = false ∧ s.clock < (s.tr 0).since + 1024) := by
  decide +kernel

theorem witness_LaunchedTroupe : (63 : Nat) < 64 ∧ (128 : Nat) ≤ 128 ∧ (2 : Nat) ≤ 2 := by decide

/-- A launch record of one company of one troupe (R362). -/
def launchBytes : List Nat := leBytes 16 0x10000 ++ leBytes 4 1 ++ leBytes 4 1 ++ leBytes 4 1 ++ [1, 0] ++ leBytes 2 8 ++ leBytes 224 0

def launch1 : Launch := (launchOf launchBytes).getD default

/-- That record at 0x10000 and the counter of published records, 1, at 0x10100; launch queue 63 is on and holds one slot. -/
def queueOn : State := { mapped with
  slices := [(512, line (launchBytes.take 128)), (513, line (launchBytes.drop 128)), (514, line (leBytes 8 1))]
  bar2 := [(0x9000, 0x80000400#64), (0x90B8, 1500#64), (0xAFC0, 0x10000#64), (0xAFC8, 1#64), (0xAFD0, 0x10100#64), (0xAFE0, 1#64),
    (0xB008, 0xFFFFFFFFF0000#64), (0xB010, 4097#64), (0x10000, 512#64)] }

/-- A show of that record, taken or started, and a child show's post. -/
def shown (started : Bool) : State := { mapped with
  shows := [(0, { (default : Show) with live := true, launch := launch1, started := started })], nextCompany := 1 }

/-- A quiet company with neither a turnstile nor an exit record; one with a turnstile, whose line is there, locked, or lost; and one whose
exit record must wait. -/
theorem witness_CompanyEvents_retire : (let s := mapped.modCo 0 fun x => { x with st := .released }
      s.companyQuiet 0 = true ∧ endOf (s.schedReach (s.co 0).ctx 0 0).1 = 0 ∧ (s.putExit 0).1 = true) ∧
    (∀ n ∈ ([0, 1, 2] : List Nat), let s := spoiled n 512 (mapped.modCo 0 fun x => { x with st := .released, donets := 0x10000 })
      let r := s.schedReach (s.co 0).ctx 0x10000 8
      s.companyQuiet 0 = true ∧ (s.co 0).donets = 0x10000 ∧ endOf r.1 = n ∧ (n ≠ 1 → (r.2.putExit 0).1 = true)) ∧
    (let s := spoiled 1 514 (mapped.modCo 0 fun x => { x with st := .released, donets := 0x10000, exitrec := 0x10100 })
     let r := s.schedReach (s.co 0).ctx 0x10000 8
     endOf r.1 = 0 ∧ (r.2.putExit 0).1 = false) := by decide +kernel

theorem witness_CompanyEvents_save : let s := mapped.modCo 0 fun x => { x with save := 0x10000 }
    s.saveSet 0 = [0] ∧ MaySave s 0 := by
  unfold MaySave
  decide +kernel

/-- The company that has been saved may return to core 0; its image is of this part's level, or of another; or it is lost. -/
theorem witness_CompanyEvents_restore : (let s := savedNone; let r := s.checkImages (s.groupOf 0)
      s.nextPlaced s.waitList none = some (.saved 0, 0) ∧ s.savedFits 0 0 = true ∧ endOf r.1 = 0 ∧ okWith id r.1 = true ∧
        (State.restoreAll r.2 0 0 (r.2.groupOf 0) r.2).isSome = true ∧ okWith (fun h => h.1.major == 1 && h.1.minor == 0) (s.readImage 0).1 = true) ∧
    (let s := { savedNone with slices := [(512, line (2 :: imageBytes.drop 1)), (513, line [])] }; let r := s.checkImages (s.groupOf 0)
     s.nextPlaced s.waitList none = some (.saved 0, 0) ∧ s.savedFits 0 0 = true ∧ okWith (fun b => !b) r.1 = true ∧
       okWith (fun h => h.1.major == 2) (s.readImage 0).1 = true) := by decide +kernel

/-- A show that has waited, in a package whose cores are all taken, and that a company of lower priority can make room for, or cannot. -/
def crowded (save : W64) : State := { mapped with
  clock := 65536, nextCompany := 1
  shows := [(0, { (default : Show) with live := true, started := true, waitSince := 0, queue := 1, launch := { launch1 with pcore := 0, prio := 1, scratch := 524288 } })]
  bar2 := [(0, 0x10#64), (0x9000, 0x80000400#64), (0xA020, 4#64), (0xB008, 0xFFFFFFFFF0000#64), (0xB010, 4097#64)]
  companies := [(0, { ((mapped.co 0) : Co) with save := save, savestride := 1000000 })] }

theorem witness_CompanyEvents_wait : ∀ n ∈ ([0, 0x10000] : List Nat), let s := crowded (BitVec.ofNat 64 n)
    (s.waitCores (.show 0)) = [0] ∧ WaitsFor s 0 (.show 0) ∧ s.waitSeat (.show 0) = none ∧
      ((Without s).enough (.show 0) [] ((Without s).leavers (s.waitPrio (.show 0))) = if n = 0 then none else some [0]) := by
  intro n hn
  refine ⟨?_, .inl ⟨0, rfl, rfl, ?_⟩, ?_, ?_⟩ <;> (revert n; decide +kernel)

theorem witness_CompanyEvents_late : ∀ n : Nat, (crowded (BitVec.ofNat 64 n)).waitClock (.show 0) + 65536 ≤ (crowded (BitVec.ofNat 64 n)).clock := by
  intro n
  rw [show (crowded (BitVec.ofNat 64 n)).waitClock (.show 0) = 0 from rfl, show (crowded (BitVec.ofNat 64 n)).clock = 65536 from rfl]

/-- The next record of queue 63: there is none, it is there, must be waited for, is lost, or is malformed; and it is taken. -/
theorem witness_ShowEvents_take : let s := queueOn; let c := s.qCtx 63
    let a := s.schedRead c (s.qVa 63 0x10) 8; let b := a.2.schedRead c 0x10000 256; let l := b.2.launchable c
    MayTake s 63 ∧ a.1 = .ok (leBytes 8 1) ∧ (s.qreg 63 0x28).toNat < 1 ∧ a.2.qVa 63 0 = 0x10000 ∧ b.1 = .ok launchBytes ∧
      (launchOf launchBytes).isSome = true ∧ okWith id l.1 = true ∧ launch1.pcore = 0 ∧ (l.2.schedAdd (l.2.qCtx 63) (l.2.qVa 63 0x18) 1).1 = true ∧
    (∀ n ∈ ([1, 2] : List Nat), let s := spoiled n 512 queueOn; let a := s.schedRead c (s.qVa 63 0x10) 8
      MayTake s 63 ∧ a.1 = .ok (leBytes 8 1) ∧ endOf (a.2.schedRead c 0x10000 256).1 = n) ∧
    (let s := { queueOn with slices := [(512, line []), (513, line []), (514, line (leBytes 8 1))] }
     let a := s.schedRead c (s.qVa 63 0x10) 8; let b := a.2.schedRead c 0x10000 256
     MayTake s 63 ∧ a.1 = .ok (leBytes 8 1) ∧ b.1 = .ok (leBytes 256 0) ∧ launchOf (leBytes 256 0) = none) ∧
    (let s := { queueOn with slices := [(514, line (leBytes 8 0))] }
     MayTake s 63 ∧ (s.schedRead c (s.qVa 63 0x10) 8).1 = .ok (leBytes 8 0)) := by
  unfold MayTake
  decide +kernel

/-- A context whose descriptor is not valid refuses a launch, and one whose descriptor must be read waits. -/
theorem witness_ShowEvents_launchable : (let s := queueOn.modCtx 0 fun x => { x with desc := some default }; okWith (fun b => !b) (s.launchable 0).1 = true) ∧
    (let s := spoiled 1 516 ((queueOn.modCtx 0 fun x => { x with desc := none, stale := true }).setReg 8 0x10200)
     endOf (s.launchable 0).1 = 1) := by decide +kernel

theorem witness_ShowEvents_refused : ((queueOn.schedAdd (queueOn.qCtx 63) (queueOn.qVa 63 0x18) 1)).1 = true := by decide +kernel

/-- A show of that record, taken or started, and a child show's post, whose record is there, malformed, waited for, or lost. -/
theorem witness_ShowEvents_shows : (let s := shown false
      (s.sh 0).live = true ∧ (s.sh 0).started = false ∧ s.ctxLive (s.sh 0).ctx = true ∧ (s.depsMet (s.sh 0).ctx (s.sh 0).launch.deps).1 = true) ∧
    (let s := shown true
     TurnOf s (.show 0) ∧ 0 ∈ s.waitCores (.show 0) ∧ (s.seat 0 (s.sh 0).launch.need).isSome = true) := by
  unfold TurnOf
  exact ⟨by decide +kernel, ⟨0, by decide +kernel⟩, by decide +kernel⟩

theorem witness_ShowEvents_depends : let l : Launch := { launch1 with deps := [(0x10100, 2)] }
    let s := { queueOn with shows := [(0, { (default : Show) with live := true, launch := l })] }
    (s.sh 0).live = true ∧ (s.sh 0).started = false ∧ s.ctxLive (s.sh 0).ctx = true ∧ (s.depsMet 0 l.deps).1 = false := by decide +kernel

theorem witness_ShowEvents_posts : let post : Post := { (default : Post) with addr := 0x10000 }
    (∀ n ∈ ([0, 1, 2] : List Nat), let s := spoiled n 512 { queueOn with posts := [post] }
      s.posts.find? (fun p => (s.co p.parent).st != .saved) = some post ∧ endOf (s.schedRead (s.co 0).ctx 0x10000 256).1 = n) ∧
    (queueOn.schedRead 0 0x10000 256).1 = .ok launchBytes ∧ (launchOf launchBytes).isSome = true ∧
    (({ queueOn with slices := [(512, line []), (513, line [])] } : State).schedRead 0 0x10000 256).1 = .ok (leBytes 256 0) ∧
      launchOf (leBytes 256 0) = none := by decide +kernel

theorem witness_ShowEvents_queues : (63 : Nat) < 64 ∧ mapped.power.up = true ∧ mapped.qSuspended 63 = false ∧
    ((2 : W64).getLsbD 1 = true) ∧ ((1 : W64).getLsbD 1 = false) ∧ queueOn.qEnabled 63 = true := by decide +kernel

/-- An image at 0x10000 of a company that is known, of another level, that must be waited for, or that is lost. -/
theorem witness_ShowEvents_hrestore : (let s := savedNone; let b := imageBytes ++ leBytes 128 0; let r := s.schedRead 0 0x10000 256
      s.power.up = true ∧ restoreCtx s 0x10000 = 0 ∧ r.1 = .ok b ∧ (headOf b).major = 1 ∧ (headOf b).minor = 0 ∧ (r.2.companies.find? fun e =>
        e.2.st == .saved && e.2.ctx == 0 && e.2.recaddr == (headOf b).recaddr && e.2.index == (headOf b).index).isSome = true) ∧
    (let s := { savedNone with slices := [(512, line (2 :: imageBytes.drop 1)), (513, line [])] }
     okWith (fun b => (headOf b).major == 2) (s.schedRead 0 0x10000 256).1 = true) ∧
    (∀ n ∈ ([1, 2] : List Nat), let s := spoiled n 512 savedNone; restoreCtx s 0x10000 = 0 ∧ endOf (s.schedRead 0 0x10000 256).1 = n) := by
  decide +kernel

/-- One of a company that this package does not know, whose launch record, at 0x10100, is read. -/
theorem witness_ShowEvents_adopt : let b := [1, 0] ++ leBytes 30 0 ++ leBytes 8 0x10100 ++ leBytes 216 0
    let s := { queueOn with companies := [], slices := [(512, line (b.take 128)), (513, line (b.drop 128)), (514, line (launchBytes.take 128)), (515, line (launchBytes.drop 128))] }
    let r := s.schedRead 0 0x10000 256
    r.1 = .ok b ∧ (headOf b).major = 1 ∧ (headOf b).minor = 0 ∧ (headOf b).recaddr = 0x10100 ∧ r.2.companies = [] ∧
      (r.2.schedRead 0 0x10100 256).1 = .ok launchBytes := by decide +kernel

theorem witness_ShowEvents_showq : ∀ n ∈ ([0, 1] : List Nat), let f : Fields := fs; let o := op (.showq f)
    let s := (flying o).modCo 0 fun c => { c with children := n }
    s.op 0 0 = some o ∧ o.park = none ∧ (s.co (s.tr 0).company).children = n := by decide +kernel

/-! ### Hypotheses that hold somewhere: the page cache and the host -/

/-- The package with frame 0 as given, at CLOCK 2000. -/
def framed (x : Frame) : State := { mapped with clock := 2000, cache := { mapped.cache with frames := [(0, x)] } }

def frame1 : Frame := { (default : Frame) with fstate := 1, span := 1 }

def fill (granule : Nat) : FillReq := { granule := granule, ctx := 0, graph := false, va := 0, item := 0 }

def fceOf (batch fills waiting : List FillReq) : State :=
  let s := framed frame1
  { s with cache := { s.cache with fce := { s.cache.fce with batch := batch, fills := fills, waiting := waiting } } }

theorem witness_FillEvents_requests : (withRegs [(0, 1)] (fceOf [] [] [])).faultsvc = true ∧
    (let s := fceOf [fill 15] [fill 31] [fill 30]
     s.faultsvc = false ∧ (∃ x ∈ s.cache.fce.batch, x.granule = (0xFFFF : Nat) / 4096) ∧
       (∀ x ∈ s.cache.fce.batch, x.granule ≠ (0x10000 : Nat) / 4096) ∧
       (∀ x ∈ s.cache.fce.fills ++ s.cache.fce.waiting, x.granule ≠ 16) ∧ s.taking (16 / 16) = false ∧
       ∃ x ∈ s.cache.fce.fills, x.granule = 31) := by
  decide +kernel

theorem witness_FillEvents_batches : ¬ BatchDue (fceOf [] [] []) ∧
    (let s := fceOf [fill 15] [] []; BatchDue s ∧ ∀ x ∈ s.cache.fce.batch, x.item = 0 ∧ x.graph = false) ∧
    (let s := { fceOf (List.replicate 64 (fill 15)) [] [] with clock := 1999 }; BatchDue s ∧ ¬ s.cache.fce.opened + 2000 ≤ s.clock) ∧
    InOrder [fill 15, { fill 15 with pred := true }, fill 16] := by
  unfold BatchDue InOrder goesBefore
  decide +kernel

theorem witness_FillEvents_fills : (let s := { fceOf [] [] [fill 33] with cache := { (fceOf [] [] [fill 33]).cache with
      frames := [(0, { frame1 with newspan := 3 })] } }
      s.cache.fce.waiting = [fill 33] ∧ (s.spanFrame (33 / 16)).any (fun x => x.2.newspan != 0) = true) ∧
    (let r := { fill 31 with item := 2 ^ 31, more := [0] }; let s := fceOf [] [r] []
     s.cache.fce.fills = [r] ∧ (∀ i ∈ r.item :: r.more, i % 2 ^ 32 ≤ 2 ^ 31) ∧ s.frameOf (4096 * 31) = some 0 ∧
       (s.frame 0).fstate = 1 ∧ (s.frame 0).resmask.getLsbD (31 % 16) = false ∧ s.mem.wf = true ∧ s.cache.gddr.wf = true) := by
  decide +kernel

theorem witness_PageEvents_carousel : (let s := framed frame1
      s.victimHost = false ∧ 3 < 4 ∧ (s.die 3).handAt ≤ s.clock ∧ (s.die 3).cold.length < s.cqLow) ∧
    (withRegs [(0, 2)] mapped).victimHost = true := by decide +kernel

/-- A frame that is wanted for span 5: it may be taken, with no error or with one; an access in flight, or a lock, holds it back. -/
theorem witness_PageEvents_reclaim : (∀ errs ∈ ([[], [512]] : List (List Nat)), let s := framed { frame1 with newspan := 6, errs := errs }
      (s.frame 0).fstate = 1 ∧ (s.frame 0).newspan ≠ 0 ∧ (s.frame 0).pinned = false ∧ (s.frame 0).error = false ∧
        s.frameHold 0 = false ∧ s.frameLocked 0 = false ∧ ((s.reclaimStart 0).reclaimDrain 0 |>.frame 0).errs = errs) ∧
    (let s := framed { frame1 with newspan := 6, pinned := true }
     (s.frame 0).fstate = 1 ∧ (s.frame 0).newspan ≠ 0 ∧ (s.frame 0).pinned = true ∧ s.cache.fce.waiting = []) ∧
    (let s := { framed { frame1 with newspan := 6 } with flights := [{ (default : Flight) with entry := { entry with frame := 1, fgen := 1 } }] }
     (s.frame 0).newspan ≠ 0 ∧ (s.frame 0).pinned = false ∧ (s.frame 0).error = false ∧ s.frameHold 0 = true) ∧
    (let s := spoiled 1 512 (framed { frame1 with newspan := 6 })
     (s.frame 0).newspan ≠ 0 ∧ (s.frame 0).pinned = false ∧ (s.frame 0).error = false ∧ s.frameHold 0 = false ∧ s.frameLocked 0 = true) := by
  decide +kernel

theorem witness_PageEvents_stages : (∀ m ∈ ([0, 0xFFFF] : List Nat), let s := framed { frame1 with fstate := 2, stage := 2, dirtymask := BitVec.ofNat 16 m }
      (s.frame 0).fstate = 2 ∧ (s.frame 0).stage = 2 ∧ (s.frame 0).shared = false ∧ s.mem.wf = true ∧ s.cache.gddr.wf = true ∧
        ∀ i, i < 16 → (s.frame 0).dirtymask.getLsbD i = (m != 0)) ∧
    (∀ n ∈ ([0, 1] : List Nat), let s := framed { frame1 with fstate := 2, stage := 3, newspan := n }
      (s.frame 0).fstate = 2 ∧ (s.frame 0).stage = 3 ∧ (s.frame 0).newspan = n) := by decide +kernel

theorem witness_FrameControlEvents : (let s := { framed frame1 with slices := [(512, { (default : SLine) with present := true, dirty := true })] }
      LosesData s 512 ∧ s.frameOf (128 * 512) = some 0 ∧ s.held 512 = true) ∧
    (let s := { framed { frame1 with resmask := 1, dirtymask := 1 } with slices := [] }
     LosesData s 512 ∧ s.frameOf (128 * 512) = some 0 ∧ s.held 512 = false) ∧
    ¬ LosesData (framed frame1) 512 ∧ ((mapped.modCore 0 fun x => { x with rowsBad := [33] }).core 0).rowsBad.length < 2 ∧
    (∀ n ∈ ([0, 1] : List Nat), let s := { framed frame1 with
        flights := List.replicate n { (default : Flight) with entry := { entry with frame := 1, fgen := 1 } } }
      s.power.up = true ∧ 2097151 < 2097152 ∧ (s.frame 0).fstate = 1 ∧ (s.frame 0).newspan = 0 ∧ (s.frame 0).pinned = false ∧
        (s.frame 0).error = false ∧ s.frameHold 0 = (n == 1)) ∧
    (let s := framed { frame1 with errs := [512] }
     s.power.up = true ∧ (s.frame 0).fstate ≠ 0 ∧ (s.frame 0).errs ≠ [] ∧ 512 * (s.frame 0).span ≤ 1023 ∧ 1023 < 512 * (s.frame 0).span + 512) := by
  unfold LosesData
  decide +kernel

theorem witness_ThermalEvents : mapped.powerCap = 1500 ∧ (95 ≤ 95 ∨ mapped.powerCap < 0) ∧ (95 ≤ 94 ∨ mapped.powerCap < 1501) ∧
    94 < 95 ∧ 1500 ≤ mapped.powerCap ∧ 110 ≤ 110 ∧ mapped.power.raiseAt = 0 ∧ mapped.power.mhz ≠ 0 ∧
    (let s := (mapped.reading 94 1500); s.clock + 1 < s.power.raiseAt ∧
      s.power.raiseAt ≤ ({ s with clock := s.clock + 10000000 } : State).clock + 1) := by decide +kernel

/-- The last port advertises block compression; a report of 30,048 bytes is due at 0x10000. -/
def hosted : State := { mapped with
  caps := { mapped.caps with compress := [(true, 1)] }, attest := { mapped.attest with busy := true, dest := 0x10000 } }

theorem witness_HostWrites_parts : (false, 1) ∉ hosted.caps.compress ∧ (true, 1) ∈ hosted.caps.compress ∧
    (let s : State := { hosted with companies := [] }
     (∀ i, i < 8 → (s.core (8 * ringOf 7 + i)).spare = false) ∧ ∀ e ∈ s.companies, 7 ∉ e.2.cores) ∧
    ((hosted.retireCore 7 []).core (8 * ringOf 0 + 7)).spare = true ∧
    (∀ r ∈ ([0, 31] : List Nat), let x := { (hosted.core 7) with rowsBad := [5], rowMap := [(5, 33)] }; let bad := x.physRow r
      let all := if bad ∈ x.rowsBad then x.rowsBad else x.rowsBad ++ [bad]
      x.array.holder = 0 ∧ x.rowsBad.length < 2 ∧ r < 32 ∧
        ([32, 33].find? fun x' => !all.contains x' && !(List.range 32).any fun i => x.physRow i == x') = some 33) ∧
    ((hosted.die (255 / 64)).freeSlice = some 64 ∧ ∀ l ∈ hosted.linesOfSlice (homeSlice (128 * 512)), (hosted.sline l).lock = 0) ∧
    hosted.linesOfSlice (homeSlice (128 * 512)) = [512] ∧
    (let s := spoiled 1 512 hosted; ∃ l ∈ s.linesOfSlice (homeSlice (128 * 512)), (s.sline l).lock ≠ 0) ∧
    ((hosted.modDie 3 fun d => { d with retired := [64, 65] }).die 3).freeSlice = none ∧ hosted.caps.remapped.read 0 < 64 ∧
    64 ≤ ({ hosted.caps with remapped := [(5, 64)] } : CapList).remapped.read 5 := by
  decide +kernel

theorem witness_HostWrites_registers : hosted.power.up = true ∧ ((0x9000 : Nat) ≠ 0x38 ∧ regMask 0x9000 ≠ 0) ∧ regMask 0x9FF8 = 0 ∧
    mapped.attest.busy = false := by decide +kernel

/-- The report's lines are held, or its first one is locked, lost or in no window. -/
theorem witness_HostWrites_report :
    let held : State := { hosted with slices := (List.range 235).map fun i => (512 + i, line []) }
    hosted.attest.busy = true ∧ okWith id (State.physWrites ⟨2 ^ 43, 1, 0⟩ held.reportLines held).1 = true ∧
    (∀ n ∈ ([1, 2] : List Nat), let s := spoiled n 512 held; let r := State.physWrites ⟨2 ^ 43, 1, 0⟩ s.reportLines s
      endOf r.1 = n % 2 ∧ (n ≠ 1 → okWith (fun b => !b) r.1 = true)) ∧
    (let s := { hosted with attest := { hosted.attest with dest := 2 ^ 52 } }; s.attest.busy = true ∧ s.window s.attest.dest = none) := by
  decide +kernel

/-! ### Hypotheses that hold somewhere: translation, the fault queue, contexts and peers -/

def descAt (root : W64) : CtxDesc := { (default : CtxDesc) with root := root, pasid := 3, valid := true }

/-- Tables of three levels at 0x10000, which map the 1 GiB at 0 to itself; nothing is translated yet. -/
def walked : State := { mapped with
  dies := [], contexts := [(0, { (default : Ctx) with desc := some (descAt 0x10000) })]
  slices := [(512, line (leBytes 8 0x11001)), (544, line (leBytes 8 0x12001)), (576, line (leBytes 8 0x1F))] }

/-- A load whose fault of a class, at virtual address 0x1FFF0, waits for the host. -/
def parkOf (cls : Nat) : Park := { (default : Park) with cls := cls, state := .pending, addr := 0x1FFF0, detail := 2, pa := 0x2F000 }

def parked (cls : Nat) : State := flying { accOp (.ld fs) with park := some (parkOf cls) }

/-- A group of page requests that holds its record. -/
def group0 : Prg := { (default : Prg) with pasid := 3, idx := 511, members := [(0, 0)], pages := [31] }

/-- A walk, or an ATS request, of page 0x3FFFF of context 0 is in flight on die 0. -/
def asking (ats : Bool) (old : Nat) (s : State) : State := s.modDie 0 fun d => { d with
  walks := [{ ctx := 0, page := 0x3FFFF, found := none, ats := ats, old := old }] }

def site0 : WalkSite := ⟨0, 0⟩

def missed : W64 := 0x3FFFFFFF

/-- A walk that ends with a translation, that must wait for a line, and that meets a lost one. -/
theorem witness_TranslationEvents_walk : ∀ n ∈ ([0, 1, 2] : List Nat), let s := spoiled n 544 (asking false 0 walked)
    (∃ w, InFlightWalk s site0 0x3FFFFFFF w ∧ w.ats = false) ∧ endOf (s.walkNow 0 0 0x3FFFFFFF).1 = n ∧ missed.toNat % 2 ^ 57 = 0x3FFFFFFF := by
  intro n hn
  refine ⟨⟨{ ctx := 0, page := 0x3FFFF, found := none, ats := false, old := 0 }, ?_, rfl⟩, ?_⟩ <;> (revert n; try unfold InFlightWalk) <;> decide +kernel

theorem witness_TranslationEvents_ats : (∀ old ∈ ([0, 1] : List Nat), let s := asking true old walked
      InFlightWalk s site0 0x3FFFFFFF { ctx := 0, page := 0x3FFFF, found := none, ats := true, old := old }) ∧
    (walked.die 0).walkOf 0 0x3FFFFFFF = none ∧
    (∀ n ∈ ([12, 30] : List Nat), let g : AtsGrant := { (default : AtsGrant) with size := n, pa := 2 ^ n, write := true }
      g.untranslatedOnly = false ∧ g.error = false ∧ (g.read = true ∨ g.write = true) ∧ 12 ≤ g.size ∧ g.size ≤ 30 ∧ g.pa % 2 ^ g.size = 0 ∧
        g.pa < 2 ^ 52) ∧
    (let g : AtsGrant := { (default : AtsGrant) with size := 31, read := true }
     g.untranslatedOnly = false ∧ g.error = false ∧ g.read = true ∧ 30 < g.size) ∧
    (let g : AtsGrant := { (default : AtsGrant) with untranslatedOnly := true }; g.untranslatedOnly = true) ∧
    (let w : Walk := { ctx := 0, page := 0x3FFFF, found := none, ats := false, old := 0 }
     w ∈ (((asking false 0 walked).foundFault 0 0 0x3FFFF { cls := 1 }).die 0).walks ∨
       ∃ x ∈ (((asking false 0 walked).foundFault 0 0 0x3FFFF { cls := 1 }).die 0).walks, x.ctx = 0 ∧ x.page = 0x3FFFF) ∧
    31 < 32 ∧ (∀ i ∈ walked.invals, i.itag ≠ 31) ∧ canonical missed = true ∧ 0 ∈ walked.pasidContexts 3 := by
  unfold InFlightWalk
  decide +kernel

/-- A load whose fault of a class, at virtual address 0x1FFF0, waits for the host, which serves faults. -/
def asks (cls : Nat) (s : State) : State := s.modTr 0 fun t => { t with
  ops := [{ accOp (.ld fs) with park := some { parkOf cls with host := true } }] }

/-- A record is on its way to a queue of 64 records at 0x20000 whose turnstile stands at 0x20FF8 or nowhere. -/
def recorded (ts : W64) : State := { withRegs [(0x10, 0x20000), (0x18, 4096), (0x30, ts)] mapped with
  fq := { mapped.fq with buffer := [List.replicate 64 0] }
  slices := [(1024, line []), (1055, line [])] }

/-- The record's line, and its turnstile's, can be written, must be waited for, or is lost. -/
theorem witness_FaultQueueEvents_flush : (recorded 0).fq.buffer = List.replicate 64 0 :: [] ∧ (recorded 0).frqFull = false ∧
    (∀ n ∈ ([0, 1, 2] : List Nat), let r := (spoiled n 1024 (recorded 0)).frqReach 0x20000
      endOf r.1 = n % 2 ∧ (n ≠ 1 → okWith (fun b => b == (n == 0)) r.1 = true)) ∧
    (∀ n ∈ ([0, 1, 2] : List Nat), let a := (spoiled n 1055 (recorded 0x20FF8)).frqReach 0x20000; let r := a.2.frqReach 0x20FF8
      okWith id a.1 = true ∧ endOf r.1 = n % 2 ∧ (n ≠ 1 → okWith (fun b => b == (n == 0)) r.1 = true)) ∧
    (withRegs [(0x28, 64)] (recorded 0)).frqFull = true := by decide +kernel

theorem witness_FaultQueueEvents_opens : ∀ c ∈ ([1, 2] : List Nat), let s := asks c (withRegs [(0, 1), (0x10000, 512)] mapped)
    MayAsk s 0 0 0 { parkOf c with host := true } ∧ joinable s 0 31 = none ∧ s.fq.prgs.length < 512 ∧ s.prgLoad < (s.reg 0x10000).toNat := by
  unfold MayAsk
  decide +kernel

theorem witness_FaultQueueEvents_full : let s := asks 1 (withRegs [(0, 1), (0x10000, 0)] mapped)
    MayAsk s 0 0 0 { parkOf 1 with host := true } ∧ joinable s 0 31 = none ∧ (s.reg 0x10000).toNat ≤ s.prgLoad := by
  unfold MayAsk
  decide +kernel

/-- A group of the fault's span that another fault has opened, for the same page or another. -/
def groupAt (page : Nat) : Prg := { (default : Prg) with pasid := 3, idx := 511, members := [(64, 0)], pages := [page], span := 1 }

def grouped (page : Nat) : State :=
  let s := asks 1 (withRegs [(0, 1), (0x10000, 512)] mapped)
  { s with fq := { s.fq with prgs := [groupAt page], prgWindow := 2000, prgCount := 1 } }

theorem witness_FaultQueueEvents_joins : ∀ page ∈ ([31, 30] : List Nat), let u := grouped page
    MayAsk u 0 0 0 { parkOf 1 with host := true } ∧ joinable u 0 31 = some (groupAt page) ∧ u.prgLoad < (u.reg 0x10000).toNat := by
  unfold MayAsk
  decide +kernel

theorem witness_FaultQueueEvents_answers : (∀ g ∈ mapped.fq.prgs, ¬ (g.pasid = 0 ∧ g.idx = 0)) ∧
    LiveGroup { mapped with fq := { mapped.fq with prgs := [group0] } } group0 ∧
    (let g := { group0 with dead := true }; let s := { mapped with fq := { mapped.fq with prgs := [g] } }
     (s.fq.prgs.find? fun x => x.pasid == g.pasid && x.idx == g.idx) = some g ∧ ¬ LiveGroup s g) ∧
    (let s := withRegs [(0x40, 0x10000)] (parked 1)
     s.power.up = true ∧ (s.op 0 0).any (fun o => o.park == some (parkOf 1)) = true ∧ (parkOf 1).state = .pending ∧
       s.resumes 0 16 (s.ctxOf 0) (parkOf 1) = true) ∧
    (0x1FFFFFFFF : W64).toNat % 2 ^ 32 / 4096 ≠ 0 ∧ (4096 : W64).toNat % 2 ^ 32 / 4096 ≠ 0 ∧ (0xFFF : W64).toNat % 2 ^ 32 / 4096 = 0 := by
  unfold LiveGroup
  decide +kernel

/-- An access in flight carries the generation that the context's advance would reach, or none does. -/
def carried1 (n : Nat) (s : State) : State := { s with flights := List.replicate n { (default : Flight) with entry := { entry with cgen := 1 } } }

theorem witness_ContextEvents : (∀ n ∈ ([0, 1] : List Nat), let s := carried1 n mapped
      s.power.up = true ∧ (s.ctx 0).endReason = 0 ∧ (s.ctx 0).dead = false ∧ s.genHold 0 = (n == 1)) ∧
    (∀ n ∈ ([0, 1] : List Nat), let s := carried1 n (mapped.modCtx 0 fun x => { x with endReason := 4, dead := true })
      (s.ctx 0).endReason ≠ 0 ∧ s.genHold 0 = (n == 1)) ∧
    (let s := (withRegs [(8, 0x10200)] { mapped with slices := [(516, line (leBytes 64 0))] }).modCtx 0 fun x => { x with stale := true }
     endOf (s.readDesc 0).1 = 0) := by decide +kernel

/-- The lines of 0x10000 to 0x107FF are homed here; those from 0x20000 to 0x2FFFF in package 1. -/
def peered : State := withRegs [(0xB008, 0x10000), (0xB020, 0x20000), (0xB028, 0x20000), (0xB030, 0x1009)] { mapped with
  caps := { mapped.caps with domain := 1 } }

def dirIs (st : DirState) (owner : Nat) (s : State) : State :=
  { s with fabric := { s.fabric with dir := [(32, { (default : DirEntry) with state := st, owner := owner })] } }

/-- The same, with the lines in a pool that the host shares. -/
def pooled : State := (withRegs [(0xB010, 4098)] peered).modSline 512 fun y => { y with present := true }

theorem witness_InboundEvents_requests : (let s := { peered with fabric := { peered.fabric with replies := [(tagKey 1 0xFFFFFF, .value 0)] } }
      isTagged .ownership = true ∧ s.fabric.replies.read (tagKey 1 0xFFFFFF) ≠ .none) ∧
    (peered.fabric.replies.read (tagKey 1 0) = .none ∧
      peered.inboundFault 0x20000 .ownership = some 4 ∧ peered.inboundFault 0x10000 .malformed = some 7 ∧
      ({ peered with lineErr := [(512, true)] } : State).inboundFault 0x10000 .read = some 6) := by decide +kernel

theorem serves_of {s : State} {o n pa : Nat} {op : RemoteOp} (h1 : s.fabric.replies.read (tagKey o n) = .none) (h2 : s.inboundFault pa op = none)
    (h3 : (s.sline (pa / 128)).lock = 0) (h4 : (s.fabric.dir.read (pa / 2048)).state = .o → (s.fabric.dir.read (pa / 2048)).owner = o)
    (h5 : (s.window pa).any (fun w => w.1 == 2) = false ∨ (s.refill (pa / 128)).cache.pool.read (pa / 128) = 2) : Serves s o n pa op :=
  ⟨fun _ => h1, h2, h3, h4, fun _ ⟨h, hw⟩ => h5.elim (fun e => by rw [hw] at e; simp at e) id⟩

/-- A read, ownership, a write back by the owner and a write by another, an atomic, an add, and ownership in a shared pool. -/
theorem witness_InboundEvents_serves :
    (∀ op ∈ ([.read, .ownership, .write [(0, 1)], .atomic 0 0 1 0, .tsadd 1] : List RemoteOp), Serves peered 1 0 0x10000 op ∧
      (peered.fabric.dir.read (0x10000 / 2048)).state ≠ .o ∧ ((peered.refill (0x10000 / 128)).dirServe 1 (0x10000 / 2048) op).isSome = true) ∧
    (Serves (dirIs .o 1 peered) 1 0 0x10000 (.write [(127, 1)]) ∧ ((dirIs .o 1 peered).fabric.dir.read (0x10000 / 2048)).state = .o) ∧
    (let s := { pooled with cache := { pooled.cache with pool := [(512, 2)] } }
     Serves s 1 0 0x10000 .ownership ∧ (s.window 0x10000).map (·.1) = some 2) := by
  refine ⟨fun op h => ⟨serves_of ?_ ?_ ?_ ?_ ?_, ?_, ?_⟩, ⟨serves_of ?_ ?_ ?_ ?_ ?_, ?_⟩, ?_⟩
  · decide +kernel
  · revert op h; decide +kernel
  · decide +kernel
  · decide +kernel
  · decide +kernel
  · decide +kernel
  · revert op h; decide +kernel
  · decide +kernel
  · decide +kernel
  · decide +kernel
  · decide +kernel
  · decide +kernel
  · decide +kernel
  · exact ⟨serves_of (by decide +kernel) (by decide +kernel) (by decide +kernel) (by decide +kernel) (by decide +kernel), by decide +kernel⟩

theorem witness_InboundEvents_regions : (peered.homedHere (2048 * 32) = true ∧ RegionOpen peered 32 ∧ 1 ≠ peered.caps.pkg ∧
      ((dirOf peered 32).state ≠ .u ∨ peered.fabric.dir.length < 1048576) ∧ (dirOf peered 32).state ≠ .o) ∧
    (let s := dirIs .o 1 peered
     s.homedHere (2048 * 32) = true ∧ RegionOpen s 32 ∧ (dirOf s 32).state ≠ .u) ∧
    (peered.homedAway (2048 * 64) = true ∧ RegionOpen peered 64) := by
  unfold RegionOpen
  decide +kernel

theorem witness_InboundEvents_recall : NoStores peered := noStores_of (by decide +kernel)

/-- A tag of a load of slot 0, for what it asks; sent at 0, with CLOCK at 2 ms. -/
def tagOf (what : Nat) : Tag := { (default : Tag) with num := 0xFFFFFF, target := 1, what := what, pa := 0x20000 }

def asked (what : Nat) : State := { peered with clock := 2000000, fabric := { peered.fabric with tags := [tagOf what] } }

theorem witness_ReplyEvents : ∀ n ∈ ([0, 1, 2, 3] : List Nat), let s := asked n; let g := tagOf n
    Open s g ∧ g.what = n ∧ g.killed = false ∧ g.sent + 500 * s.power.mhz ≤ s.clock ∧ g.first + 2000 * s.power.mhz ≤ s.clock := by
  unfold Open
  decide +kernel

theorem witness_ReplyEvents_killed : let g := { tagOf 1 with killed := true }
    let s := { asked 1 with fabric := { (asked 1).fabric with tags := [g] } }; Open s g ∧ g.what = 1 ∧ g.killed = true := by
  unfold Open
  decide +kernel

theorem witness_ReplyEvents_block : blockMalformed (List.replicate 64 0) = true ∧ blockMalformed (List.replicate 128 0) = false ∧
    blockMalformed (1 :: List.replicate 63 0) = false := by decide +kernel

theorem witness_RemoteRecordEvents : (let o := { accOp (.ld fs) with park := some (parkOf 5) }
     let s := { parked 5 with clock := 65536, bar2 := peered.bar2, caps := peered.caps }
     s.window (4096 * 47) = some (1, 1) ∧ 0 < 2 ^ 40 ∧ 0 < 2 ^ 32 ∧
     s.op 0 0 = some o ∧ o.park = some (parkOf 5) ∧ (parkOf 5).state = .pending ∧ (parkOf 5).cls = 5 ∧ (parkOf 5).detail = 2 ∧
       (parkOf 5).pa / 4096 = 47 ∧ (parkOf 5).since + 65536 ≤ s.clock) ∧
    (∀ g ∈ (asked 0).fabric.tags, g.target ≠ 127) := by decide +kernel

/-! ### Hypotheses that hold somewhere: the debugger, the step and the decoder -/

/-- Context 0 is held by the debugger. -/
def debugged (halted : Bool) : State := (mapped.modCtx 0 fun x => { x with debug := true }).modTr 0 fun t => { t with
  halted := halted, pt := { t.pt with tst := if halted then Tbl.writeLanes [] 0 (-1) (fun _ => .halted) lanes else [] } }

theorem witness_HaltEvents : (let s := debugged false
      (s.ctx 0).debug = true ∧ (s.ctx 0).endReason = 0 ∧ (s.ctx 0).dead = false ∧ s.debugs 0 = true ∧ (s.tr 0).halted = false ∧
        (s.tr 0).ended = false) ∧
    (let s := debugged true
     s.debugs 0 = true ∧ (s.tr 0).halted = true ∧ Editable s 0 ∧ (s.tr 0).pt.inState .halted ≠ 0 ∧ (s.tr 0).resident = true ∧ s.ctxOf 0 = 0) ∧
    (let x : Stop := { ctx := 0, core := 0, arrives := 2000, hit := 1996 }
     let s := { debugged false with clock := 2000, stops := [x] }
     x ∈ s.stops ∧ x.ctx = 0 ∧ x.arrives ≤ s.clock ∧ s.debugs 0 = true ∧ s.ctxOf 0 = 0 ∧ coreOf 0 = x.core ∧ (s.tr 0).ended = false) := by
  unfold Editable
  decide +kernel

theorem witness_DebugEvents : (let s := debugged true
      (s.ctx (bitsOf (0x0000FFFF : W64).toNat 31 16)).debug = true ∧ (s.ctx (bitsOf (0xFFFF0000 : W64).toNat 31 16)).debug = false ∧
        s.snap.lock = false ∧ s.snap.latchAt = 0 ∧ Editable s 0 ∧ 247 < (s.tr 0).nregs ∧ 63 < 64 ∧
        ((0xFF80000000000000 : W64).toNat % 16 = 0 ∧ canonical 0xFF00000000000000 = true) ∧ 0 ∈ s.ctxTroupes (s.ctxOf 0)) ∧
    (let s := (debugged true).modCo 0 fun x => { x with scratch := 512 }
     Editable s 0 ∧ 511 < (s.co (s.tr 0).company).scratch ∧ (s.co (s.tr 0).company).scratch ≤ 512) ∧
    (let s := { mapped with clock := 33, snap := { mapped.snap with latchAt := 32 } }
     s.snap.latchAt ≠ 0 ∧ s.snap.latchAt < s.clock) ∧
    ((debugged false).tr 0).halted = false := by
  unfold Editable
  decide +kernel

/-- A line of an edit is reached, must be waited for, or is lost; and its translation must be waited for. -/
theorem witness_DebugEvents_memory : (∀ n ∈ ([0, 1, 2] : List Nat), let s := spoiled n 512 (debugged true); let w : Asker := ⟨2 ^ 45, 0, 0⟩
      let r := s.carried (.die 0) 0 w 0x10000 .read
      endOf (s.editLine 0 0x10000 [5]).1 = n ∧ okWith (fun x => x == (entry, 0x10000)) r.1 = true ∧
        endOf (r.2.arrive w 0x10000 entry 0x10000 .write 0).1 = n) ∧
    (let s := { debugged true with dies := [] }
     endOf (s.editLine 0 0x10000 [5]).1 = 1 ∧ endOf (s.carried (.die 0) 0 ⟨2 ^ 45, 0, 0⟩ 0x10000 .read).1 = 1) := by decide +kernel

/-- MOVI.W V8, 1 as the first word of a troupe; and a word with a bit of Z set. -/
def moviWord : IWord := halves 0x1018070800000000 0x00000100007F8000

def placed : State := State.reset.placeWord moviWord

def badZ : State := State.reset.placeWord (moviWord ||| 1)

theorem placed_turn : IssueTurn placed := by
  unfold IssueTurn
  decide +kernel

theorem witness_StepRunsDecoded : IssueTurn placed ∧ (State.chooseIssue placed.ports placed).1 =
      some (0, .word { run := -1, pc := 0x10000, forced := false } moviWord (.movi (plain 0x80 7 8 0 0 0 1))) ∧ placed.ports = [0] ∧
    (let p : Pick := { run := -1, pc := 0x10000, forced := false }
     (placed.tr 0).pt.pick (placed.tr 0).heldThreads = some p ∧ (placed.tr 0).holds = [] ∧ (placed.fetchWord 0 p.pc).1 = .ok moviWord ∧
       decodeFor (isCalliope 0) (placed.tr 0).nregs moviWord = .ok (.movi (plain 0x80 7 8 0 0 0 1)) ∧
       (placed.fetchWord 0 p.pc).2.holdReason 0 (.movi (plain 0x80 7 8 0 0 0 1)) p.run = none) ∧
    (let r := placed.carried (.core 0) (placed.ctxOf 0) (fetcher 0 0x10000) 0x10000 .fetch
     (placed.tr 0).ibuf = [] ∧ okWith (fun x => x.2 == 0x10000) r.1 = true ∧ ((r.2.core 0).l1i.read 512).valid = true) ∧
    (let r := mapped.carried (.core 0) (mapped.ctxOf 0) (fetcher 0 0x10070) 0x10070 .fetch
     (mapped.tr 0).ibuf = [] ∧ okWith (fun x => x == (entry, 0x10070)) r.1 = true ∧ ((r.2.core 0).l1i.read 512).valid = false ∧
       r.2.flightOf (fetcher 0 0x10070) (0x10070 / 128) = none ∧ (r.2.sline 512).present = true ∧
       isOk (r.2.homeCheck entry 0x10070 .fetch) = true) :=
  ⟨placed_turn, by decide +kernel⟩

/-- An event and a word on the agenda, RESET without power, no power, an event of an agent, and a package in which nothing runs. -/
theorem witness_StepOrder : (Instr.thermalPowerOff 110).word = none ∧ (Instr.nop fs).word ≠ none ∧ Instr.reset.word = none ∧
    after (exec (.thermalPowerOff 110) mapped) false (fun t => t.power.off && t.agenda == []) = true ∧
    (State.reset.agenda = [] ∧ State.reset.power.off = false ∧ State.reset.defaultEvent = some (.carouselHandStep 0)) ∧
    (let s := { placed with troupes := [] }
     s.agenda = [] ∧ s.power.off = false ∧ s.defaultEvent = none ∧ (∀ k ∈ s.ports, (s.nextWord k).1 = .none ∧ (s.nextWord k).2 = s) ∧
       (setEvents s).find? s.changedBy = none) ∧
    (let s := placed.modTr 0 fun t => { t with place := 0 }
     s.agenda = [] ∧ s.power.off = false ∧ s.defaultEvent = none ∧ (∀ k ∈ s.ports, (s.nextWord k).1 = .none ∧ (s.nextWord k).2 = s) ∧
       (setEvents s).find? s.changedBy = some (.activeSetSwap 0)) := by
  decide +kernel

theorem witness_EncodingTraps : IssueTurn badZ ∧ (State.chooseIssue badZ.ports badZ).1 = some (0, .bad { run := -1, pc := 0x10000, forced := false }
      (moviWord ||| 1) (.illegalEncoding 1)) ∧ ofOpcode 0xFFF = none ∧ (ofOpcode (wordOp moviWord)).isSome = true ∧ wordZ (moviWord ||| 0x800) ≠ 0 ∧
    (∀ mk, ofOpcode (wordOp moviWord) = some mk → wordZ moviWord = 0 ∧ checkFields (mk (wordFields moviWord)).layout (wordFields moviWord) = none ∧
      checkAlloc (mk (wordFields moviWord)).layout (mk (wordFields moviWord)).fields 8 ≠ none ∧
      checkAlloc (mk (wordFields moviWord)).layout (mk (wordFields moviWord)).fields 9 = none ∧
      (mk (wordFields moviWord)).calliopeMay = true) ∧ (Instr.fadd fs).calliopeMay = false ∧
    (let w := halves 0x1018070800000000 0x0000010000678000
     ofOpcode (wordOp w) = some .movi ∧ wordZ w = 0 ∧ checkFields (Instr.movi (wordFields w)).layout (wordFields w) ≠ none) := by
  refine ⟨?_, ?_, by decide, by decide, by decide, ?_, by decide, rfl, by decide +kernel⟩
  · unfold IssueTurn; decide +kernel
  · decide +kernel
  · intro mk h; cases h; decide +kernel

theorem witness_DecodeEncode : ∀ i ∈ ([.nop { (default : Fields) with g := 15 }, .movi (plain 0x80 7 8 0 0 0 0xFFFFFFFF),
    .ffma { plain 0x40 2 4 1 3 2 0 with st := 15, wm := 15, sa := 15, ru := 7 }] : List Instr), i.wf = true ∧ (encode i).isSome = true := by
  decide +kernel

/-- A package that performs a store next. -/
theorem witness_MemoryFormKept : let o := { accOp (.st fs) with dat := [(0, 5), (63, 5)] }
    let s := { withL1 (flying o) true with agenda := [.laneAccessPerformed 0 0 512] }
    s.toMemory.wf = true ∧ after (step s) false (fun t => t.byteAt 0x10000 == 5 && t.toMemory.wf) = true := by decide +kernel

theorem witness_HomeWrites : (0xFFFFFFFFFFFF8 : Nat) % 8 = 0 ∧ (0x10001 : Nat) / 128 = 0x10000 / 128 ∧ (0x10001 : Nat) ≠ 0x10000 := by decide

/-! ### Values that the spec states, or that follow from its formulas by hand -/

/-- Slot 0 with registers V8 and V12 (and V16, V4) of lane 0 as given. -/
def lane0 (d a b e : W32) : State := hereWith fun t => { t with
  v := (((t.v.write 256 d).write 512 a).write 768 b).write 1024 e }

/-- What a meaning leaves in V4 of lane 0. -/
def got (i : Instr) (s : State) : W32 := after (exec i s) 0xDEAD fun t => (t.tr 0).rv 4 0

/-- R101's example: PLOP P1, P2, P3, PT, 0xC0 is AND. -/
theorem test_plop_and : ∀ x ∈ ([(0, 0, 0), (1, 0, 0), (0, 1, 0), (1, 1, 1)] : List (Nat × Nat × Nat)),
    let s := hereWith fun t => (t.wp 2 (-1) (BitVec.ofNat 64 x.1)).wp 3 (-1) (BitVec.ofNat 64 x.2.1)
    after (exec (.plop { (default : Fields) with g := 7, d := 1, a := 2, b := 7, e := 3, x := 0xC0 }) s) 2 (fun t => ((t.tr 0).rp 1).toNat % 2)
      = x.2.2 := by decide +kernel

/-- R126's example: 300.0 to E4M3 is 288, code 0x79, under RN and, from 0xACE1, under RS (R28). -/
theorem test_cvt_rn : got (.cvt { fs with g := 7, x := 0x00200004 }) (lane0 0x11223344 0 0x43960000 0) = 0x11793344 := by decide +kernel

theorem test_cvt_rs : let s := (lane0 0x11223344 0 0x43960000 0).modTr 0 fun t => t.seedLanes 0xACE1
    got (.cvt { fs with g := 7, md := 0x20, x := 0x00200004 }) s = 0x11793344 ∧
      after (exec (.cvt { fs with g := 7, md := 0x20, x := 0x00200004 }) s) 0 (fun t => (t.tr 0).rs.read 0) = 0xE270 := by decide +kernel

/-- R113 to R115 by hand: a sum wraps, the high half of (-1) * (-1) is 0 signed, and 2^32 - 2 unsigned. -/
theorem test_iadd_wraps : got (.iadd { fs with g := 7 }) (lane0 0 0xFFFFFFFF 2 0) = 1 := by decide +kernel

theorem test_imulh : got (.imulh { fs with g := 7 }) (lane0 0 0xFFFFFFFF 0xFFFFFFFF 0) = 0 := by decide +kernel

/-- R26, R109 by hand: 1 + 2^-24 is a tie, to even; a fused multiply-add rounds once: (1 + 2^-23)(1 - 2^-23) - 1 = -2^-46. -/
theorem test_fadd_tie : got (.fadd { fs with g := 7 }) (lane0 0 0x3F800000 0x33800000 0) = 0x3F800000 := by decide +kernel

theorem test_ffma_once : got (.ffma { fs with g := 7 }) (lane0 0 0x3F800001 0xBF800000 0x3F7FFFFE) = 0xA8800000 := by decide +kernel

/-- R95: X = -3 at PC 0x10000 goes to 0x10000 + 16 * (-3). -/
theorem test_bra_back : after (exec (.bra { (default : Fields) with g := 7, x := 0xFFFFFFFD }) here0) 0 (fun t => (t.tr 0).pt.pc 0) = 0xFFD0 := by
  decide +kernel

/-- R79, R80: TRAP 5 enters the handler at level 1 with cause 3, value 5 and the resume PC after it. -/
theorem test_trap_entry : after (exec (.trap { (default : Fields) with g := 7, x := 5 }) handled) default (fun t =>
    ((t.tr 0).pt.pc 0, (t.tr 0).level, (t.tr 0).trcause.toNat % 256, (t.tr 0).trval, (t.tr 0).trpc)) = (0x20000, 1, 3, 5, 0x10010) := by
  decide +kernel

/-- R239, R240 by hand: the ray from (0.25, 0.25, -1) along z meets the triangle (0,0,0), (1,0,0), (0,1,0) at t = 1, u = v = 0.25. -/
theorem test_ray : okWith (fun c => c.any fun x => x.hit.t == 0x3F800000 && x.hit.u == 0x3E800000 && x.hit.v == 0x3E800000)
    ((scene 1 { op (.rayt fs) with act := 1, size := 1, uni := [0x10300, 0x10400] }).raytLane 0
      { op (.rayt fs) with act := 1, size := 1, uni := [0x10300, 0x10400] } 0).1 = true := by decide +kernel

/-- R142: memory has one canonical form, and one that is not is seen. -/
theorem test_memory_wf : State.reset.toMemory.wf = true ∧ ({ State.reset with mem := [(1, 1), (0, 1)] } : State).toMemory.wf = false ∧
    ({ State.reset with mem := [(0, 0)] } : State).toMemory.wf = false := by decide +kernel

/-! ### Ill-formed terms -/

/-- Each check of WellFormed refuses a term, the unit just past its last one. -/
theorem test_wf_units : (∀ i ∈ ([.fetchRetry 32768, .turnstileAdd 32768 0, .laneAccessPerformed 32768 0 0, .homeAtomic 0 0 64, .homeAtomic 32768 0 0,
    .activeSetSwap 512, .tenureExpiry 512 0, .tenureExpiry 0 8, .tokenGrant 512 0, .tokenGrant 0 (2 ^ 45), .tokenRecall (2 ^ 45),
    .copyCommandStart 36, .tightropeCommand 64, .companyPlace 0 512, .stopBroadcastArrival 4096 0, .stopBroadcastArrival 0 512,
    .carouselHandStep 4, .launchRecordTake 64, .contextEnd 4096, .translationWalk ⟨4, 0⟩ 0, .translationWalk ⟨0, 4096⟩ 0,
    .dataLostError (.scratch 0 131072), .dataLostError (.acc 0 65536), .dataLostError (.row 0 34)] : List Instr), i.wf = false) := by decide

theorem test_wf_scopes : ∀ i ∈ ([.hjelmHalt (.troupe 32768), .hjelmRelease (.ring 4096 0), .hjelmHalt (.ring 0 64), .hjelmEdit (.vreg 0 255 0 0),
    .hjelmEdit (.vreg 0 0 64 0), .hjelmEdit (.vreg 32768 0 0 0), .hjelmEdit (.sreg 0 63 0), .hjelmEdit (.pred 0 7 0), .hjelmEdit (.qpred 0 7 0),
    .hjelmEdit (.pc 0 64 0), .hjelmEdit (.memory 4096 0 []), .hjelmEdit (.scratch 32768 0 []), .spareReplace (.core 512 []), .spareReplace (.core 0 [.vreg 0 255 0]),
    .spareReplace (.core 0 [.qpred 0 7]), .spareReplace (.row 0 32),
    .spareReplace (.row 512 0), .spareReplace (.slice 256)] : List Instr), i.wf = false := by decide

theorem test_wf_units_last : ∀ i ∈ ([.fetchRetry 32767, .homeAtomic 32767 0 63, .activeSetSwap 511, .tenureExpiry 511 7, .tokenGrant 511 (2 ^ 45 - 1),
    .copyCommandStart 35, .tightropeCommand 63, .stopBroadcastArrival 4095 511, .carouselHandStep 3, .launchRecordTake 63, .contextEnd 4095,
    .translationWalk ⟨3, 4095⟩ 0, .hjelmHalt (.troupe 32767), .hjelmHalt (.ring 4095 63), .hjelmEdit (.vreg 0 254 63 0), .hjelmEdit (.sreg 0 62 0),
    .hjelmEdit (.qpred 0 6 0), .spareReplace (.core 511 [.sreg 32767 62]), .spareReplace (.row 511 31), .spareReplace (.slice 255),
    .dataLostError (.acc 511 65535)] : List Instr), i.wf = true := by decide

/-- Checks 4 to 9 of R56, with their details: a flag of 12, a KIND or a field that has no meaning, registers past the last, a misaligned pair,
one whose high half would be VZ, and X out of range. -/
theorem test_wf_fields : ∀ x ∈ ([(.movi { (default : Fields) with md := 0x80, sa := 12 }, 2), (.movi { (default : Fields) with md := 0x80, sb := 14 }, 2),
    (.smov { (default : Fields) with md := 0x40 }, 3), (.qblk (default : Fields), 3), (.movi { (default : Fields) with md := 0x80, a := 1 }, 4),
    (.nop { (default : Fields) with x := 1 }, 4), (.smov { (default : Fields) with d := 64 }, 5), (.plop { (default : Fields) with d := 8 }, 5),
    (.iadd64 { (default : Fields) with d := 1 }, 6), (.iadd64 { (default : Fields) with d := 254 }, 6),
    (.qblk { (default : Fields) with md := 0x40, x := 0x17 }, 7)] : List (Instr × Nat)),
    x.1.wf = false ∧ checkFields x.1.layout x.1.fields = some x.2 := by decide

end Sys2Proof.Tests
end

section
/-!
PROOF. Heat, and what RESET keeps of the maps of cores and dies (R372, R373). The statement on heat holds. RESET keeps the maps of a
package whose tables are canonical; the statement on the host's events quantifies over every table, also over one that lists a core
twice, and there it fails.
-/
namespace Sys2Proof

variable {α : Type} [Inhabited α] [DecidableEq α]

/-- A key at or below the bound of a canonical tail is not listed in it. -/
theorem Tbl.read_eq_default_of_wfFrom {m : Tbl α} {b k : Nat} (h : Tbl.wfFrom (some b) m = true) (hk : k ≤ b) :
    m.read k = default := by
  induction m generalizing b with
  | nil => rfl
  | cons e m ih =>
    obtain ⟨j, v⟩ := e
    simp only [Tbl.wfFrom, Bool.and_eq_true, decide_eq_true_eq] at h
    obtain ⟨⟨hj, -⟩, hm⟩ := h
    have hne : ¬ j = k := by omega
    rw [Tbl.read, if_neg hne]
    exact ih hm (by omega)

theorem Tbl.mapAll_cons (f : Nat → α → α) (j : Nat) (v : α) (m : Tbl α) :
    Tbl.mapAll ((j, v) :: m) f = if f j v = default then Tbl.mapAll m f else (j, f j v) :: Tbl.mapAll m f := by
  by_cases hv : f j v = default <;> simp [Tbl.mapAll, hv]

theorem Tbl.read_mapAll_of_wfFrom (f : Nat → α → α) {m : Tbl α} {b : Option Nat} {k : Nat} (h : Tbl.wfFrom b m = true)
    (hf : f k default = default) : (m.mapAll f).read k = f k (m.read k) := by
  induction m generalizing b with
  | nil => exact hf.symm
  | cons e m ih =>
    obtain ⟨j, v⟩ := e
    simp only [Tbl.wfFrom, Bool.and_eq_true] at h
    have hm := ih h.2
    by_cases hj : j = k
    · subst hj
      have hrest : Tbl.read m j = default := Tbl.read_eq_default_of_wfFrom h.2 le_rfl
      by_cases hv : f j v = default
      · rw [Tbl.mapAll_cons, if_pos hv, hm, hrest, hf, Tbl.read, if_pos rfl, hv]
      · rw [Tbl.mapAll_cons, if_neg hv, Tbl.read, if_pos rfl, Tbl.read, if_pos rfl]
    · rw [Tbl.read, if_neg hj, ← hm, Tbl.mapAll_cons]
      split
      · rfl
      · rw [Tbl.read, if_neg hj]

/-- Changing every listed value of a canonical table changes what each key reads, where the default stays the default. -/
theorem Tbl.read_mapAll (f : Nat → α → α) {m : Tbl α} {k : Nat} (h : m.wf = true) (hf : f k default = default) :
    (m.mapAll f).read k = f k (m.read k) :=
  Tbl.read_mapAll_of_wfFrom f h hf

end Sys2Proof

namespace Sys2Proof.Machine
open Sys2Proof Sys2Proof.Claims

/-! ### Heat (R372) -/

/-- While the cause stands, a reading leaves no CLOCK from which the clock may rise. -/
theorem State.reading_hot (s : State) {tj watts : Nat} (h : s.tooHot tj watts = true) :
    s.reading tj watts = { s with power := { s.power with tj := tj, raiseAt := 0 } } := by
  simp [State.reading, h]

/-- The first reading without the cause sets the CLOCK from which the clock may rise: 10 ms later. -/
theorem State.reading_clears (s : State) {tj watts : Nat} (h : s.tooHot tj watts = false) (hr : s.power.raiseAt = 0) :
    s.reading tj watts = { s with power := { s.power with tj := tj, raiseAt := s.clock + 10000 * s.power.mhz + 1 } } := by
  simp [State.reading, h, hr]

/-- A later reading without the cause keeps that CLOCK. -/
theorem State.reading_clear (s : State) {tj watts : Nat} (h : s.tooHot tj watts = false) (hr : s.power.raiseAt ≠ 0) :
    s.reading tj watts = { s with power := { s.power with tj := tj } } := by
  simp [State.reading, h, hr]

theorem State.cooled_iff (s : State) : s.cooled = true ↔ s.power.raiseAt ≠ 0 ∧ s.power.raiseAt ≤ s.clock + 1 := by
  simp [State.cooled]

/-- THERMAL_RECOVER in the words of the reading that it takes. -/
theorem exec_thermalRecover (s : State) (tj watts : Nat) : exec (.thermalRecover tj watts) s =
    let t := s.reading tj watts
    .next (if t.cooled then { t with power := { t.power with
      mhz := min 1000 (s.power.mhz + 50), throt := min 1000 (s.power.mhz + 50) != 1000 } } else t) := rfl

/-- R372 in full: throttle, recovery and power-off do what the statement on heat says, in every state. -/
theorem thermalEvents : ThermalEvents := by
  intro s tj watts
  refine ⟨fun hot => ?_, fun cool low => ?_, fun off => ?_⟩
  · have h : s.tooHot tj watts = true := by simpa [State.tooHot] using hot
    change execThermalThrottle tj watts s = _
    simp [execThermalThrottle, h, s.reading_hot h]
  · have h : s.tooHot tj watts = false := by simp [State.tooHot]; omega
    refine ⟨fun hr hm => ?_, fun early => ?_, fun hr due => ?_⟩
    · rw [exec_thermalRecover, s.reading_clears h hr]
      exact congrArg _ (if_neg (by rw [State.cooled_iff]; simp only; omega))
    · rw [exec_thermalRecover, s.reading_clear h (by omega)]
      exact congrArg _ (if_neg (by rw [State.cooled_iff]; simp only; omega))
    · rw [exec_thermalRecover, s.reading_clear h hr]
      have htop : (min 1000 (s.power.mhz + 50) != 1000) = decide (s.power.mhz + 50 < 1000) := by
        rw [Bool.eq_iff_iff, bne_iff_ne, decide_eq_true_iff]; omega
      rw [htop]
      exact congrArg _ (if_pos (by rw [State.cooled_iff]; exact ⟨hr, due⟩))
  · change execThermalPowerOff tj s = _
    simp [execThermalPowerOff, off]

/-! ### RESET (R373) -/

/-- RESET answers a state whose cores and dies are those before, each with its maps alone. -/
theorem exec_reset (s : State) : ∃ t, exec .reset s = .next t ∧ t.cores = s.cores.mapAll (fun _ x => x.maps) ∧
    t.dies = s.dies.mapAll fun _ x => x.maps := by
  refine ⟨_, rfl, ?_, ?_⟩ <;> split <;> rfl

/-- RESET keeps the maps of cores and dies whose tables are canonical. -/
theorem reset_keeps_maps (s : State) (hc : s.cores.wf = true) (hd : s.dies.wf = true) : Completes .reset s fun t =>
    (∀ c, (t.core c).spare = (s.core c).spare ∧ (t.core c).rowMap = (s.core c).rowMap ∧ (t.core c).rowsBad = (s.core c).rowsBad) ∧
    ∀ d, (t.die d).slices = (s.die d).slices ∧ (t.die d).retired = (s.die d).retired := by
  obtain ⟨t, ht, hcores, hdies⟩ := exec_reset s
  refine ⟨t, ht, fun c => ?_, fun d => ?_⟩
  · have h : t.core c = (s.core c).maps := by
      rw [State.core, hcores]; exact Tbl.read_mapAll _ hc rfl
    rw [h]; exact ⟨rfl, rfl, rfl⟩
  · have h : t.die d = (s.die d).maps := by
      rw [State.die, hdies]; exact Tbl.read_mapAll _ hd rfl
    rw [h]; exact ⟨rfl, rfl⟩

/-- A core whose place its ring's spare has taken. -/
def spareCore : Core := { (default : Core) with spare := true }

/-- The package after reset, but core 0 is listed twice: first as an unused core, then as one that a spare stands for. -/
def twiceListed : State := { State.reset with cores := [(0, default), (0, spareCore)] }

/-- The first entry of core 0 is the one that is read. -/
theorem twiceListed_spare : (twiceListed.core 0).spare = false := rfl

/-- The first entry's maps are the default, which leaves the table; the second entry is then read. -/
theorem twiceListed_mapAll_maps : twiceListed.cores.mapAll (fun _ x => x.maps) = [(0, spareCore)] := by decide +kernel

/-- Refutes O45: its clause on RESET. Of the two entries of core 0 in `twiceListed`, the first, with no spare, is read before RESET and
drops out of the table at RESET, so that the second, with a spare, is read after it. Where no key is listed twice RESET keeps the maps
(`reset_keeps_maps`). -/
theorem not_hostEvents : ¬ Obligations.HostEvents := by
  unfold Obligations.HostEvents
  rintro ⟨-, hwrites⟩
  obtain ⟨⟨t, ht, -, -, -, -, -, -, -, -, -, -, -, hmaps, -⟩, -⟩ := hwrites twiceListed
  obtain ⟨t', ht', hcores, -⟩ := exec_reset twiceListed
  obtain rfl : t = t' := Host.Outcome.next.inj (ht.symm.trans ht')
  have hspare : (t.core 0).spare = true := by rw [State.core, hcores, twiceListed_mapAll_maps]; rfl
  have hkept : (t.core 0).spare = (twiceListed.core 0).spare := (hmaps 0).1
  rw [hspare, twiceListed_spare] at hkept
  cases hkept

end Sys2Proof.Machine
end

section
/-!
PROOF. What a word that retires leaves alone (R69), and the words and states that follow from it at once: SYSR and SYSW (R89 to R92,
R105), and a troupe as its launch leaves it (R65).
-/
namespace Sys2Proof

/-- Every lane is in the set of all lanes. -/
theorem inMask_all {l : Nat} (h : l < 64) : inMask (-1) l = true := by
  have hall : (-1 : Mask) = BitVec.allOnes 64 := by decide
  rw [hall, inMask, BitVec.getLsbD_allOnes, decide_eq_true h]

/-- A write of all lanes of one group of 64 keys. -/
theorem Tbl.read_writeLanes_all {α : Type} [Inhabited α] [DecidableEq α] (m : Tbl α) (r r' : Nat) (g : Nat → α) {l : Nat} (h : l < 64) :
    (Tbl.writeLanes m (64 * r) (-1) g lanes).read (64 * r' + l) = if r' = r then g l else m.read (64 * r' + l) := by
  simp only [Tbl.read_writeLanes_lane _ _ _ _ _ h, inMask_all h, and_true]

end Sys2Proof

namespace Sys2Proof.Machine
open Sys2Proof Sys2Proof.Claims

/-! ### Words that change their troupe alone (R47, R69) -/

theorem enabled_eq (s : State) (f : Fields) : enabled s f = s.curT.enabled f.g := by
  simp [enabled, Troupe.enabled]

/-- A state in which the run has advanced, and nothing else of the PC table has changed, has been run on. -/
theorem ranOn_of_pt {s t : State} (h : t.curT.pt = (s.curT.advance s.cur.run s.cur.pc).pt) : RanOn s t :=
  ⟨by rw [h]; rfl, fun l hl => by rw [h]; exact Troupe.pc_advance _ _ _ hl⟩

theorem issued_retire (s : State) {g : Troupe → Troupe} (h : ∀ t, (g t).pt = t.pt) : Issued s (s.retire g) :=
  ⟨⟨rfl, fun _ hj => s.tr_retire_other g hj⟩, fun pa => s.byteAt_troupes _ pa, ranOn_of_pt (by rw [State.curT_retire, h])⟩

theorem untouched_retire_id (s : State) : Untouched s (s.retire id) := by
  rw [Untouched, State.curT_retire]; rfl

/-- A word that retires and changes no register has no effect beyond R69. -/
theorem noEffect_of_retire {i : Instr} {s : State} (h : exec i s = .next (s.retire id)) : NoEffect i s :=
  ⟨_, h, issued_retire s fun _ => rfl, untouched_retire_id s⟩

@[simp] theorem Troupe.pt_ws (t : Troupe) (r : Nat) (x : W64) : (t.ws r x).pt = t.pt := by
  rw [t.ws_frame r x]

theorem scalarResult_retire_ws (s : State) (d : Nat) (v : W64) : ScalarResult s (s.retire fun t => t.ws d v) d v := by
  refine ⟨fun r => ?_, ?_⟩ <;> rw [State.curT_retire]
  · rw [Troupe.rs64_ws, Troupe.rs64_advance]
    exact if_congr (and_congr_right fun h => by rw [h]) rfl rfl
  · rw [Troupe.pt_ws]
    exact Troupe.ws_frame _ d v

/-! ### SYSR and SYSW (R89 to R92, R105) -/

/-- The numbers that R89 lists are those that can be read, and ENCORECTL's. -/
theorem sysListed_iff (n : Nat) : sysListed n = true ↔ readable n ∨ n = 0x21 := by
  simp only [sysListed, readable, Bool.or_eq_true, Bool.and_eq_true, decide_eq_true_eq, beq_iff_eq]
  omega

theorem sysListed_of_writable {n : Nat} (h : writable n) : sysListed n = true := by
  rw [sysListed_iff]; unfold writable at h; unfold readable; omega

/-- A register that the troupe's own state holds reads as that state says. -/
theorem sysRead_of_ownRegister {s : State} {n : Nat} {w : W64} (h : ownRegister s n = some w) : s.sysRead s.cur.t n = w := by
  unfold ownRegister at h
  split at h <;> cases h <;> rfl

section
variable {s : State} {f : Fields}

theorem exec_sysr_disabled (he : s.curT.enabled f.g = false) : exec (.sysr f) s = .next (s.retire id) := by
  change execSysr f s = _
  simp [execSysr, he]

theorem exec_sysr_readable (he : s.curT.enabled f.g = true) (hr : readable f.x.toNat) :
    exec (.sysr f) s = .next (s.retire fun t => t.ws f.d.toNat (s.sysRead s.cur.t f.x.toNat)) := by
  have hl : sysListed f.x.toNat = true := (sysListed_iff _).2 (.inl hr)
  have hn : f.x.toNat ≠ 0x21 := by unfold readable at hr; omega
  change execSysr f s = _
  simp [execSysr, Fields.xn, he, hl, hn]

theorem exec_sysr_unlisted (he : s.curT.enabled f.g = true) (hl : sysListed f.x.toNat = false) :
    exec (.sysr f) s = .next (s.trapWord 8 1 (BitVec.ofNat 64 f.x.toNat)) := by
  change execSysr f s = _
  simp [execSysr, Fields.xn, he, hl]

theorem exec_sysr_encorectl (he : s.curT.enabled f.g = true) (hn : f.x.toNat = 0x21) :
    exec (.sysr f) s = .next (s.trapWord 8 2 (BitVec.ofNat 64 f.x.toNat)) := by
  have hl : sysListed f.x.toNat = true := (sysListed_iff _).2 (.inr hn)
  change execSysr f s = _
  rw [hn] at hl
  simp [execSysr, Fields.xn, he, hl, hn]

theorem exec_sysw_disabled (he : s.curT.enabled f.g = false) : exec (.sysw f) s = .next (s.retire id) := by
  change execSysw f s = _
  simp [execSysw, he]

theorem exec_sysw_unlisted (he : s.curT.enabled f.g = true) (hl : sysListed f.x.toNat = false) :
    exec (.sysw f) s = .next (s.trapWord 8 1 (BitVec.ofNat 64 f.x.toNat)) := by
  change execSysw f s = _
  simp [execSysw, Fields.xn, he, hl]

theorem exec_sysw_readOnly (he : s.curT.enabled f.g = true) (hr : readable f.x.toNat) (hw : ¬ writable f.x.toNat) :
    exec (.sysw f) s = .next (s.trapWord 8 2 (BitVec.ofNat 64 f.x.toNat)) := by
  have hl : sysListed f.x.toNat = true := (sysListed_iff _).2 (.inl hr)
  simp only [writable, not_or] at hw
  change execSysw f s = _
  simp [execSysw, Fields.xn, he, hl, hw]

theorem exec_sysw_levelZero (he : s.curT.enabled f.g = true) (hn : f.x.toNat = 0x12 ∨ f.x.toNat = 0x21)
    (h0 : s.curT.level = 0) : exec (.sysw f) s = .next (s.trapWord 8 3 (BitVec.ofNat 64 f.x.toNat)) := by
  have hl : sysListed f.x.toNat = true := sysListed_of_writable (.inr hn)
  change execSysw f s = _
  rcases hn with hn | hn <;> rw [hn] at hl <;> simp [execSysw, Fields.xn, he, hl, hn, h0]

theorem exec_sysw_rndseed (he : s.curT.enabled f.g = true) (hx : f.x = 9) :
    exec (.sysw f) s = .next (s.retire fun t => t.seedLanes ((s.curT.rs64 f.a.toNat).setWidth 16)) := by
  change execSysw f s = _
  simp [execSysw, Fields.xn, he, hx, sysListed]

theorem exec_sysw_trpc (he : s.curT.enabled f.g = true) (hx : f.x = 0x12) (h1 : s.curT.level ≠ 0) :
    exec (.sysw f) s = .next (s.retire fun t => { t with trpc := s.curT.rs64 f.a.toNat }) := by
  change execSysw f s = _
  simp [execSysw, Fields.xn, he, hx, sysListed, h1]

theorem exec_sysw_encorectl (he : s.curT.enabled f.g = true) (hx : f.x = 0x21) (h1 : s.curT.level ≠ 0) :
    exec (.sysw f) s = .next ((s.retire id).encoreCtl s.cur.t (s.curT.rs64 f.a.toNat).toNat) := by
  change execSysw f s = _
  simp [execSysw, Fields.xn, he, hx, sysListed, h1]

end

/-- ENCORECTL that names no record changes nothing (R91). -/
theorem State.encoreCtl_none (s : State) (k v : Nat) (h : (s.tr k).firstRec (v % 4) = none) : s.encoreCtl k v = s := by
  simp only [State.encoreCtl, h]

theorem systemRead : SystemRead := by
  intro s f
  refine ⟨fun he => noEffect_of_retire (exec_sysr_disabled (enabled_eq s f ▸ he)), fun he hr => ?_⟩
  exact ⟨_, exec_sysr_readable (enabled_eq s f ▸ he) hr, issued_retire s fun t => t.pt_ws _ _, _,
    scalarResult_retire_ws s _ _, fun w hw => sysRead_of_ownRegister hw⟩

/-- The generator of a lane after its troupe has been seeded (R28). -/
theorem Troupe.rs_seedLanes (t : Troupe) (x : BitVec 16) {l : Nat} (h : l < 64) : (t.seedLanes x).rs.read l = lfsrSeed x l := by
  rw [Troupe.seedLanes, Tbl.read_writeLanes_zero _ _ _ h, if_pos (inMask_all h)]

theorem Troupe.seedLanes_frame (t : Troupe) (x : BitVec 16) :
    t.seedLanes x = { t with seed := x, rs := (t.seedLanes x).rs } := by
  simp only [Troupe.seedLanes]

@[simp] theorem Troupe.pt_seedLanes (t : Troupe) (x : BitVec 16) : (t.seedLanes x).pt = t.pt := rfl
@[simp] theorem Troupe.seed_seedLanes (t : Troupe) (x : BitVec 16) : (t.seedLanes x).seed = x := rfl

theorem systemWrite : SystemWrite := by
  intro s f v
  refine ⟨fun he => noEffect_of_retire (exec_sysw_disabled (enabled_eq s f ▸ he)), fun he => ?_⟩
  rw [enabled_eq] at he
  refine ⟨fun hx => ?_, fun hx h1 => ?_, fun hx h1 hrec => ?_⟩
  · refine ⟨_, exec_sysw_rndseed he hx, issued_retire s fun t => t.pt_seedLanes _, ?_⟩
    rw [State.curT_retire, Troupe.seed_seedLanes, Troupe.pt_seedLanes]
    exact ⟨rfl, fun l hl => Troupe.rs_seedLanes _ _ hl, Troupe.seedLanes_frame _ _⟩
  · refine ⟨_, exec_sysw_trpc he hx h1, issued_retire s fun _ => rfl, ?_⟩
    rw [State.curT_retire]; rfl
  · have hsame : (s.retire id).encoreCtl s.cur.t v.toNat = s.retire id :=
      State.encoreCtl_none _ _ _ (by rw [State.tr_retire_self]; exact hrec)
    exact noEffect_of_retire ((exec_sysw_encorectl he hx h1).trans (congrArg _ hsame))

theorem systemTraps : SystemTraps := by
  intro s f he n num
  rw [enabled_eq] at he
  refine ⟨fun hr hn => ?_, fun hn => exec_sysr_encorectl he hn, fun hr hw => exec_sysw_readOnly he hr hw,
    fun hn h0 => exec_sysw_levelZero he hn h0⟩
  have hl : sysListed n = false := by
    rw [← Bool.not_eq_true, sysListed_iff]
    exact fun h => h.elim hr hn
  exact ⟨exec_sysr_unlisted he hl, exec_sysw_unlisted he hl⟩

/-- Settles O29: SYSR and SYSW by the numbers of R89, each listed number's read, write and trap. -/
theorem systemRegisterWords : Obligations.SystemRegisterWords :=
  ⟨systemRead, systemWrite, systemTraps⟩

/-! ### A launched troupe (R28, R65) -/

theorem Troupe.pc_launched (index company n ci : Nat) (entry param : W64) {l : Nat} (h : l < 64) :
    (Troupe.launched index company n entry param ci).pt.pc l = entry := by
  simp only [Troupe.launched, Troupe.seedLanes, PcTable.pc]
  rw [Tbl.read_writeLanes_zero _ _ _ h, if_pos (inMask_all h)]

/-- The vector registers of a launched troupe: indexes in V0 and V1, zero in every other. -/
theorem Troupe.read_v_launched (index company n ci : Nat) (entry param : W64) (r : Nat) {l : Nat} (h : l < 64) :
    (Troupe.launched index company n entry param ci).v.read (64 * r + l) =
      if r = 1 then BitVec.ofNat 32 (64 * index + l) else if r = 0 then BitVec.ofNat 32 l else 0 := by
  simp only [Troupe.launched, Troupe.seedLanes, Tbl.read_writeLanes_all _ _ _ _ h, id]
  rfl

theorem Troupe.s_launched (index company n ci : Nat) (entry param : W64) :
    (Troupe.launched index company n entry param ci).s = (Tbl.write [] 0 param).write 1 (BitVec.ofNat 64 ci) := by
  simp only [Troupe.launched, Troupe.seedLanes]

/-- Settles O42: each register file and table of a launched troupe read off the writes that make it. -/
theorem launchedTroupe : Obligations.LaunchedTroupe := by
  unfold Obligations.LaunchedTroupe
  intro index company n ci entry param t
  have hv := fun r l (hl : l < 64) => Troupe.read_v_launched index company n ci entry param r hl
  have hs : t.s = _ := Troupe.s_launched index company n ci entry param
  refine ⟨fun l hl => ⟨rfl, Troupe.pc_launched _ _ _ _ _ _ hl, ?_, ?_⟩, fun i hi => ?_, ?_, ?_, fun i hi => ?_,
    rfl, rfl, rfl, rfl, rfl, rfl, rfl, rfl, rfl, rfl, rfl, rfl, rfl, rfl, rfl, ?_⟩
  · have h := hv 0 l hl
    rwa [Nat.mul_zero, Nat.zero_add, if_neg (by decide), if_pos rfl] at h
  · exact hv 1 l hl
  · have h := hv (i / 64) (i % 64) (Nat.mod_lt _ (by decide))
    rwa [Nat.div_add_mod, if_neg (by omega), if_neg (by omega)] at h
  · rw [hs, Tbl.read_write_other _ _ (by decide), Tbl.read_write_self]
  · rw [hs, Tbl.read_write_self]
  · rw [hs, Tbl.read_write_other _ _ (by omega), Tbl.read_write_other _ _ (by omega)]
    rfl
  · simp only [t, Troupe.launched, Troupe.seedLanes]

end Sys2Proof.Machine
end

section
/-!
PROOF. Instructions that go on after issue (R69, R74, R76): the draws of a word under RS (R28, R29), the flags that it raises (R51), the
operation that joins its troupe's; and with these the gathers, the scalar loads and the constant-bank operands (R46, R131, R143, R150,
R151, R186).
-/
namespace Sys2Proof.Machine
open Sys2Proof Sys2Proof.Claims

/-! ### Draws (R28, R29) -/

theorem steps_succ (n : Nat) (x : BitVec 16) : steps (n + 1) x = lfsrStep (steps n x) := by
  induction n generalizing x with
  | zero => rfl
  | succ n ih => rw [steps, ih]; rfl

/-- The draws of one lane: `n` steps of its generator, draw `j` kept at `l + 64 j`. -/
def drawLane (n : Nat) (a : Tbl Nat × Tbl (BitVec 16)) (l : Nat) : Tbl Nat × Tbl (BitVec 16) :=
  (List.range n).foldl (fun (a : Tbl Nat × Tbl (BitVec 16)) j =>
    (a.1.write (l + 64 * j) (lfsrStep (a.2.read l)).toNat, a.2.write l (lfsrStep (a.2.read l)))) a

/-- The draws of the lanes of `act` among the listed ones, one lane after another. -/
def drawList (n : Nat) (act : Mask) (ls : List Nat) (a : Tbl Nat × Tbl (BitVec 16)) : Tbl Nat × Tbl (BitVec 16) :=
  ls.foldl (fun a l => if inMask act l then drawLane n a l else a) a

theorem drawLanes_eq_drawList (n : Nat) (act : Mask) (t : Troupe) :
    drawLanes n act t = ((drawList n act lanes ([], t.rs)).1, { t with rs := (drawList n act lanes ([], t.rs)).2 }) := rfl

theorem drawLane_succ (n : Nat) (a : Tbl Nat × Tbl (BitVec 16)) (l : Nat) :
    drawLane (n + 1) a l = ((drawLane n a l).1.write (l + 64 * n) (lfsrStep ((drawLane n a l).2.read l)).toNat,
      (drawLane n a l).2.write l (lfsrStep ((drawLane n a l).2.read l))) := by
  simp only [drawLane, List.range_succ, List.foldl_append, List.foldl_cons, List.foldl_nil]

theorem read_rs_drawLane (n : Nat) (a : Tbl Nat × Tbl (BitVec 16)) (l k : Nat) :
    (drawLane n a l).2.read k = if k = l then steps n (a.2.read l) else a.2.read k := by
  induction n with
  | zero =>
    by_cases h : k = l
    · subst h; simp [drawLane, steps]
    · simp [drawLane, h]
  | succ n ih =>
    rw [drawLane_succ, Tbl.read_write]
    by_cases h : k = l
    · subst h
      rw [if_pos rfl, if_pos rfl, ih, if_pos rfl, steps_succ]
    · rw [if_neg h, if_neg h, ih, if_neg h]

theorem read_draws_drawLane (n : Nat) (a : Tbl Nat × Tbl (BitVec 16)) {l k : Nat} (hl : l < 64) (hk : k < 64) (j : Nat) :
    (drawLane n a l).1.read (k + 64 * j) =
      if k = l ∧ j < n then (steps (j + 1) (a.2.read l)).toNat else a.1.read (k + 64 * j) := by
  induction n with
  | zero => simp [drawLane]
  | succ n ih =>
    rw [drawLane_succ, Tbl.read_write, ih, read_rs_drawLane, if_pos rfl, ← steps_succ]
    by_cases h : k = l ∧ j = n
    · obtain ⟨rfl, rfl⟩ := h
      rw [if_pos rfl, if_pos ⟨rfl, Nat.lt_succ_self _⟩]
    · have hne : ¬ k + 64 * j = l + 64 * n := by omega
      rw [if_neg hne]
      exact if_congr (by omega) rfl rfl

theorem read_rs_drawList (n : Nat) (act : Mask) {ls : List Nat} (hls : ls.Nodup) (a : Tbl Nat × Tbl (BitVec 16)) (k : Nat) :
    (drawList n act ls a).2.read k = if k ∈ ls ∧ inMask act k = true then steps n (a.2.read k) else a.2.read k := by
  induction ls generalizing a with
  | nil => simp [drawList]
  | cons l ls ih =>
    obtain ⟨hl, hls⟩ := List.nodup_cons.1 hls
    rw [drawList, List.foldl_cons, ← drawList, ih hls]
    by_cases ha : inMask act l = true
    · rw [if_pos ha, read_rs_drawLane]
      by_cases hk : k = l
      · subst hk; simp [hl, ha]
      · simp [hk]
    · rw [if_neg ha]
      by_cases hk : k = l
      · subst hk; simp [ha]
      · simp [hk]

theorem read_draws_drawList (n : Nat) (act : Mask) {ls : List Nat} (hls : ls.Nodup) (h64 : ∀ l ∈ ls, l < 64)
    (a : Tbl Nat × Tbl (BitVec 16)) {k : Nat} (hk : k < 64) (j : Nat) :
    (drawList n act ls a).1.read (k + 64 * j) =
      if k ∈ ls ∧ inMask act k = true ∧ j < n then (steps (j + 1) (a.2.read k)).toNat else a.1.read (k + 64 * j) := by
  induction ls generalizing a with
  | nil => simp [drawList]
  | cons l ls ih =>
    obtain ⟨hl, hls⟩ := List.nodup_cons.1 hls
    rw [drawList, List.foldl_cons, ← drawList, ih hls fun x hx => h64 x (List.mem_cons_of_mem _ hx)]
    by_cases ha : inMask act l = true
    · rw [if_pos ha, read_rs_drawLane, read_draws_drawLane _ _ (h64 l (List.mem_cons_self ..)) hk]
      by_cases he : k = l
      · subst he; simp [hl, ha]
      · simp [he]
    · rw [if_neg ha]
      by_cases he : k = l
      · subst he; simp [hl, ha]
      · simp [he]

theorem nodup_lanes : lanes.Nodup := List.nodup_range
theorem mem_lanes {l : Nat} : l ∈ lanes ↔ l < 64 := List.mem_range

/-- The generators of the lanes of `act` have stepped `n` times, the others not at all. -/
theorem rs_drawLanes (n : Nat) (act : Mask) (t : Troupe) {l : Nat} (h : l < 64) :
    (drawLanes n act t).2.rs.read l = if inMask act l = true then steps n (t.rs.read l) else t.rs.read l := by
  rw [drawLanes_eq_drawList, read_rs_drawList n act nodup_lanes]
  exact if_congr (by simp [mem_lanes, h]) rfl rfl

/-- Draw `j` of a lane of `act` is its generator after `j + 1` steps. -/
theorem draws_drawLanes {n : Nat} {act : Mask} (t : Troupe) {l j : Nat} (h : l < 64) (ha : inMask act l = true) (hj : j < n) :
    (drawLanes n act t).1.read (l + 64 * j) = (steps (j + 1) (t.rs.read l)).toNat := by
  rw [drawLanes_eq_drawList, read_draws_drawList n act nodup_lanes (fun _ => mem_lanes.1) _ h, if_pos ⟨mem_lanes.2 h, ha, hj⟩]

/-! ### Flags and operations (R51, R73) -/

theorem Troupe.raise_frame (t : Troupe) (ks : List Nat) : t.raise ks = { t with f := (t.raise ks).f } := by
  induction ks generalizing t with
  | nil => rfl
  | cons k ks ih => exact ih { t with f := t.f.write k (t.f.read k + 1) }

theorem Troupe.f_raise (t : Troupe) (ks : List Nat) (k : Nat) : (t.raise ks).f.read k = t.f.read k + ks.count k := by
  induction ks generalizing t with
  | nil => rfl
  | cons x ks ih =>
    rw [Troupe.raise, ih, Tbl.read_write, List.count_cons]
    by_cases h : k = x
    · subst h; simp; omega
    · have : ¬ x = k := fun e => h e.symm
      simp [h, this]

theorem count_ite_singleton (p : Prop) [Decidable p] (a k : Nat) :
    (if p then [a] else []).count k = if p ∧ a = k then 1 else 0 := by
  by_cases hp : p <;> simp [hp, List.count_singleton]

/-- A word raises each flag that SA or SB names once (R51). -/
theorem Fields.count_flags (f : Fields) (k : Nat) :
    (Fields.flags f).count k = if (f.sa.toNat = k ∧ k < 12) ∨ (f.sb.toNat = k ∧ k < 12) then 1 else 0 := by
  rw [Fields.flags, List.count_append, count_ite_singleton, count_ite_singleton]
  split_ifs <;> omega

/-- An operation as it joins its troupe's, with its flags and records. -/
theorem Troupe.launch_frame (t : Troupe) (o : MemOp) (f : Fields) (result : Bool) (n : Nat) :
    t.launch o f result n = { t with
      f := (t.raise (if result then Fields.flags f else [])).f
      ops := t.ops ++ [{ o with flags := if result then Fields.flags f else [], recs := t.freeRecs.take n }] } := by
  rw [Troupe.launch, Troupe.raise_frame]

/-- A new operation says of its launch site what the issue says. -/
theorem ours_newOp (s : State) (i : Instr) (m : Mask) : Ours s i (s.newOp i m) :=
  ⟨rfl, rfl, rfl, rfl, rfl, rfl, rfl, rfl, rfl, rfl, rfl⟩

/-- What the launch of an operation leaves of the troupe of a run that has advanced (R51, R69, R73). -/
theorem Troupe.launch_advance (t : Troupe) (run : Mask) (pc : W64) (rs : Tbl (BitVec 16)) (o : MemOp) (f : Fields) (result : Bool)
    (n : Nat) : ∃ F fl rc, (∀ k, F.read k = t.f.read k +
        if result = true ∧ ((f.sa.toNat = k ∧ k < 12) ∨ (f.sb.toNat = k ∧ k < 12)) then 1 else 0) ∧
      ({ t.advance run pc with rs := rs } : Troupe).launch o f result n =
        { t with pt := (t.advance run pc).pt, rs := rs, f := F, ops := t.ops ++ [{ o with flags := fl, recs := rc }] } := by
  refine ⟨_, _, _, fun k => ?_, Troupe.launch_frame _ o f result n⟩
  rw [Troupe.f_raise]
  refine congrArg (t.f.read k + ·) ?_
  cases result
  · rfl
  · simpa using Fields.count_flags f k

/-- The word is in flight where its troupe has taken the operation, the generators and a counter, and nothing else has changed. -/
theorem inFlight_of_launch {i : Instr} {f : Fields} {result : Bool} {c : Option Nat} {n nrecs : Nat} {s t : State} {P : MemOp → Prop}
    {o : MemOp} {rs : Tbl (BitVec 16)} {oc : Tbl Nat}
    (hmem : t = { s with troupes := t.troupes }) (hother : ∀ j, j ≠ s.cur.t → t.tr j = s.tr j)
    (hself : t.curT = { ({ s.curT.advance s.cur.run s.cur.pc with rs := rs } : Troupe).launch o f result nrecs with oc := oc })
    (hours : Ours s i o) (hP : ∀ fl rc, P { o with flags := fl, recs := rc })
    (hoc : ∀ k, oc.read k = s.curT.oc.read k + if c = some k then 1 else 0)
    (hrs : ∀ l, l < 64 → rs.read l = if inMask (act s f) l then steps n (s.curT.rs.read l) else s.curT.rs.read l) :
    InFlight i f result false c n s P t := by
  obtain ⟨F, fl, rc, hF, hlaunch⟩ := s.curT.launch_advance s.cur.run s.cur.pc rs o f result nrecs
  rw [hlaunch] at hself
  dsimp only at hself
  have hpc : ∀ l, l < 64 → t.curT.pt.pc l = if inMask s.cur.run l then s.cur.pc + 16 else s.curT.pt.pc l :=
    fun l hl => by rw [hself]; exact Troupe.pc_advance _ _ _ hl
  have hst : ∀ l, t.curT.pt.state l = s.curT.pt.state l := fun l => by rw [hself]; rfl
  refine ⟨hother, fun pa => ?_, fun k => ?_, fun k => ?_, fun l hl => ⟨hpc l hl, ?_, ?_⟩, ?_,
    { o with flags := fl, recs := rc }, hours, hP fl rc, ?_⟩
  · rw [hmem]; exact s.byteAt_troupes _ pa
  · rw [hself]; exact hF k
  · rw [hself]; exact hoc k
  · rw [hst]; simp
  · rw [hself]; exact hrs l hl
  · rw [hself]; rfl
  · rw [hself]

section
variable {i : Instr} {f : Fields} {result : Bool} {n nrecs : Nat} {s : State} {P : MemOp → Prop} {o : MemOp} {rs : Tbl (BitVec 16)}

/-- A word that issues an operation, and nothing else, is in flight. -/
theorem joins_of_launch (h : exec i s = .next (s.launchWith rs o f result nrecs none)) (hours : Ours s i o)
    (hP : ∀ fl rc, P { o with flags := fl, recs := rc })
    (hrs : ∀ l, l < 64 → rs.read l = if inMask (act s f) l then steps n (s.curT.rs.read l) else s.curT.rs.read l) :
    Joins i f result false none n s P :=
  ⟨_, h, rfl, inFlight_of_launch (nrecs := nrecs) (oc := s.curT.oc) rfl (fun _ hj => s.tr_retire_other _ hj)
    ((s.curT_retire _).trans (by rw [Troupe.launch_frame]; rfl)) hours hP (fun _ => by simp) hrs⟩

/-- A word that issues an operation and raises an outstanding counter is in flight (R186). -/
theorem joins_of_launch_counted {c : Nat}
    (h : exec i s = .next ((s.launchWith rs o f result nrecs none).modTr s.cur.t fun t => { t with oc := t.oc.write c (t.oc.read c + 1) }))
    (hours : Ours s i o) (hP : ∀ fl rc, P { o with flags := fl, recs := rc })
    (hrs : ∀ l, l < 64 → rs.read l = if inMask (act s f) l then steps n (s.curT.rs.read l) else s.curT.rs.read l) :
    Joins i f result false (some c) n s P := by
  refine ⟨_, h, rfl, inFlight_of_launch (nrecs := nrecs) (oc := s.curT.oc.write c (s.curT.oc.read c + 1)) rfl (fun j hj => ?_) ?_
    hours hP (fun k => ?_) hrs⟩
  · exact (State.tr_modTr_other _ _ hj).trans (s.tr_retire_other _ hj)
  · refine (State.tr_modTr_self _ _ _).trans ?_
    rw [State.launchWith, State.tr_retire_self, Troupe.launch_frame]
    rfl
  · rw [Tbl.read_write]
    by_cases hk : k = c
    · subst hk; simp
    · have : ¬ c = k := fun e => hk e.symm
      simp [hk, this]

end

end Sys2Proof.Machine
end

section
/-!
PROOF. Gathers and scatters (R143, R150, R151), scalar loads (R131) and operands in the constant bank (R29, R46) at issue.
-/
namespace Sys2Proof.Machine
open Sys2Proof Sys2Proof.Claims

/-! ### Addresses (R13, R143, R150) -/

/-- A number of `n` bits read as a signed one is its two's complement value (R13). -/
theorem signedOf_toNat {n : Nat} (h : n ≠ 0) (x : BitVec n) : signedOf n x.toNat = x.toInt := by
  obtain ⟨m, rfl⟩ := Nat.exists_eq_succ_of_ne_zero h
  have hpow : 2 ^ (m + 1) = 2 * 2 ^ m := Nat.pow_succ'
  rw [signedOf, BitVec.toInt_eq_toNat_cond, Nat.mod_eq_of_lt x.isLt]
  simp only [Nat.succ_eq_add_one, ne_eq, h, not_false_eq_true, true_and, Nat.add_sub_cancel]
  split_ifs <;> omega

theorem ofInt_signedOf {n : Nat} (h : n ≠ 0) (x : BitVec n) : BitVec.ofInt 64 (signedOf n x.toNat) = x.signExtend 64 := by
  rw [signedOf_toNat h]; rfl

theorem nibbleAddr_eq (f : Fields) (sum : W64) : nibbleAddr (isNibble f) sum = (byteOfSum f sum, halfOfSum f sum) := by
  unfold nibbleAddr byteOfSum halfOfSum
  cases isNibble f <;> simp

/-- The address of an element of GATH or SCAT is the sum of R150, in bytes or half bytes. -/
theorem gatherAddr_eq (s : State) (f : Fields) (l j : Nat) :
    gatherAddr f s.curT l j = (byteOfSum f (gatherEa s f l j), halfOfSum f (gatherEa s f l j)) := by
  have hofs : BitVec.ofInt 64 (signedOf 16 (f.xn % 65536)) = offset f 16 := by
    rw [offset, ← ofInt_signedOf (by decide)]
    rw [BitVec.toNat_setWidth]; rfl
  rw [gatherAddr, ofInt_signedOf (by decide), hofs, nibbleAddr_eq]
  rfl

/-- What a table of lanes and elements holds for an element of a lane of the set. -/
theorem read_elemTable {α : Type} [Inhabited α] [DecidableEq α] {act : Mask} {n : Nat} (g : Nat → Nat → α) {l j : Nat}
    (hl : l < 64) (ha : inMask act l = true) (hj : j < n) : (elemTable act n g).read (l + 64 * j) = g l j := by
  induction n with
  | zero => omega
  | succ n ih =>
    have hsucc : elemTable act (n + 1) g = Tbl.writeLanes (elemTable act n g) (64 * n) act (fun l => g l n) lanes := by
      simp only [elemTable, List.range_succ, List.foldl_append, List.foldl_cons, List.foldl_nil]
    rw [hsucc, Nat.add_comm l, Tbl.read_writeLanes_lane _ _ _ _ _ hl]
    by_cases hjn : j = n
    · subst hjn; rw [if_pos ⟨rfl, ha⟩]
    · rw [if_neg (fun h => hjn h.1), Nat.add_comm, ih (by omega)]

/-! ### GATH and SCAT (R150, R151, R186) -/

/-- The draws of a lane of SCAT: one an element under RS (R145). -/
def gatherDraws (f : Fields) (store : Bool) : Nat := if storeDraws f store then f.kind + 1 else 0

/-- The operation of a GATH or SCAT as the model builds it, but for the bytes that a later element of a SCAT overwrites. -/
def gatherBase (i : Instr) (f : Fields) (store : Bool) (s : State) : MemOp :=
  { s.newOp i (act s f) with
    size := accessBytes f
    elems := f.kind + 1
    uni := [s.curT.rs64 f.a.toNat]
    cmp := elemTable (act s f) (f.kind + 1) fun l j => (s.curT.rv (f.b.toNat + j) l).toNat
    addr := elemTable (act s f) (f.kind + 1) fun l j => (gatherAddr f s.curT l j).1
    nib := elemTable (act s f) (f.kind + 1) fun l j => (gatherAddr f s.curT l j).2
    dat := if store then elemTable (act s f) (f.kind + 1) fun l j => storeValue f
        ((drawLanes (gatherDraws f store) (act s f) s.curT).1.read (l + 64 * j)) (laneData f s.curT (f.e.toNat + j) l)
      else []
    rel := store && bitsOf f.xn 25 24 == 1
    acq := !store && bitsOf f.xn 25 24 == 1 }

theorem gatherExec_idle {i : Instr} {f : Fields} {store : Bool} {n : Nat} {s : State} (h : act s f = 0) :
    gatherExec i f store n s = .next (s.retire id) := if_pos h

/-- With an active lane GATH and SCAT issue their operation and raise the .GATH counter. -/
theorem gatherExec_acting {i : Instr} {f : Fields} {store : Bool} {n : Nat} {s : State} (h : act s f ≠ 0) :
    ∃ d, gatherExec i f store n s = .next ((s.launchWith (drawLanes (gatherDraws f store) (act s f) s.curT).2.rs
      { gatherBase i f store s with drop := d } f (!store) n none).modTr s.cur.t fun t => { t with oc := t.oc.write 2 (t.oc.read 2 + 1) }) := by
  cases store
  · exact ⟨_, if_neg h⟩
  · exact ⟨_, if_neg h⟩

/-- The draw that an element of a SCAT rounds with; none where it does not round under RS (R29, R145). -/
theorem draws_gather (s : State) (f : Fields) (store : Bool) {l j : Nat} (hj : j ≤ f.kind) (hl : l < 64) (ha : inMask (act s f) l = true) :
    (drawLanes (gatherDraws f store) (act s f) s.curT).1.read (l + 64 * j) =
      if storeDraws f store then (steps (j + 1) (s.curT.rs.read l)).toNat else 0 := by
  unfold gatherDraws
  by_cases h : storeDraws f store = true
  · rw [if_pos h, if_pos h, draws_drawLanes _ hl ha (by omega)]
  · rw [if_neg h, if_neg h, drawLanes_zero]; rfl

theorem gatherIssue : GatherIssue := by
  intro i s f store hi
  have hexec : ∃ n, exec i s = gatherExec i f store n s := by
    rcases hi with ⟨rfl, rfl⟩ | ⟨rfl, rfl⟩ <;> exact ⟨_, rfl⟩
  obtain ⟨n, hexec⟩ := hexec
  refine ⟨fun h => noEffect_of_retire (hexec.trans (gatherExec_idle h)), fun h => ?_⟩
  obtain ⟨d, hissue⟩ := gatherExec_acting (i := i) (store := store) (n := n) h
  refine joins_of_launch_counted (hexec.trans hissue) (ours_newOp s i _) (fun fl rc => ⟨rfl, rfl, rfl, fun j l hj hl ha => ?_⟩)
    fun l hl => rs_drawLanes _ _ _ hl
  have hj' : j < f.kind + 1 := by omega
  refine ⟨(read_elemTable _ hl ha hj').trans ?_, (read_elemTable _ hl ha hj').trans ?_, fun hs => ?_⟩
  · rw [gatherAddr_eq]
  · rw [gatherAddr_eq]
  · subst hs
    exact (read_elemTable _ hl ha hj').trans (by rw [draws_gather s f true hj hl ha])

/-! ### SLD and SLDC (R46, R131) -/

/-- The bytes that a scalar load reads, by VAR (R131). -/
def scalarLoadBytes : Nat → Nat
  | 0 => 8
  | 1 | 2 => 1
  | 3 | 4 => 2
  | _ => 4

theorem scalarLoadBytes_eq (v : Nat) : scalarLoadBytes v = if v = 0 then 8 else if v ≤ 2 then 1 else if v ≤ 4 then 2 else 4 := by
  match v with
  | 0 | 1 | 2 | 3 | 4 => rfl
  | v + 5 => rw [if_neg (by omega), if_neg (by omega), if_neg (by omega)]; rfl

theorem act_steps_zero (s : State) (f : Fields) (l : Nat) :
    s.curT.rs.read l = if inMask (act s f) l then steps 0 (s.curT.rs.read l) else s.curT.rs.read l := (ite_self _).symm

theorem scalarLoadExec_disabled {i : Instr} {f : Fields} {a : W64} {s : State} (he : s.curT.enabled f.g = false) :
    scalarLoadExec i f a s = .next (s.retire id) := by
  simp [scalarLoadExec, he]

theorem scalarLoadExec_enabled {i : Instr} {f : Fields} {a : W64} {s : State} (he : s.curT.enabled f.g = true) :
    scalarLoadExec i f a s = .next (s.launchWith s.curT.rs
      { s.newOp i s.cur.run with uni := [a], addr := Tbl.write [] 0 a, size := scalarLoadBytes f.var, single := true } f true 1 none) := by
  unfold scalarLoadExec
  rw [if_neg (by simp [he])]
  generalize f.var = v
  rcases v with _ | _ | _ | _ | _ | v <;> rfl

theorem execSldc_eq (f : Fields) (s : State) : exec (.sldc f) s = scalarLoadExec (.sldc f) f
    (s.bankAddr (((s.curT.rs64 f.a.toNat).toNat + f.x.toNat) % 2 ^ 16 / scalarLoadBytes f.var * scalarLoadBytes f.var)) s := by
  change execSldc f s = _
  unfold execSldc
  generalize f.var = v
  rcases v with _ | _ | _ | _ | _ | v <;> rfl

/-- A scalar load at an address is in flight. -/
theorem joins_scalarLoad {i : Instr} {f : Fields} {a : W64} {s : State} (h : exec i s = scalarLoadExec i f a s)
    (he : s.curT.enabled f.g = true) :
    Joins i f true false none 0 s fun o => o.single = true ∧ o.size = scalarLoadBytes f.var ∧ o.addr.read 0 = a :=
  joins_of_launch (h.trans (scalarLoadExec_enabled he)) (ours_newOp s i _) (fun _ _ => ⟨rfl, rfl, Tbl.read_write_self _ _ _⟩)
    fun l _ => act_steps_zero s f l

theorem scalarLoadIssue : ScalarLoadIssue := by
  intro s f n bank
  have hn : n = scalarLoadBytes f.var := (scalarLoadBytes_eq f.var).symm
  refine ⟨fun he => ?_, fun he => ?_⟩ <;> rw [enabled_eq] at he
  · exact ⟨noEffect_of_retire (scalarLoadExec_disabled he), noEffect_of_retire ((execSldc_eq f s).trans (scalarLoadExec_disabled he))⟩
  · simp only [bank, hn]
    exact ⟨joins_scalarLoad rfl he, joins_scalarLoad (execSldc_eq f s) he⟩

/-! ### Operands in the constant bank (R29, R46) -/

/-- The operation of a word whose operand lies in the constant bank. -/
def bankOp (i : Instr) (f : Fields) (o : OpdType) (draws : Nat) (m : Mask) (s : State) : MemOp :=
  { (s.newOp i m).capture s.curT with
    uni := [BitVec.ofNat 64 f.xn], addr := Tbl.write [] 0 (s.bankAddr f.xn), size := o.bytes, single := true
    draws := (drawLanes draws m s.curT).1 }

theorem bankExec_eq (i : Instr) (f : Fields) (o : OpdType) (draws : Nat) (m : Mask) (s : State) :
    bankExec i f o draws m s =
      .next (s.launchWith (drawLanes draws m s.curT).2.rs (bankOp i f o draws m s) f true 1 none) := rfl

/-- A lane-class word with its operand in the constant bank is in flight where a lane acts. -/
theorem joins_laneBank {i : Instr} {f : Fields} {o : OpdType} {d : Nat} {body : Body} {s : State}
    (h : exec i s = laneExec i f o d body s) (hk : f.kind = 3) (ha : act s f ≠ 0) :
    Joins i f true false none (if f.rm = 4 then d else 0) s fun op => op.single = true ∧ op.act = act s f ∧ op.size = o.bytes ∧
      op.addr.read 0 = (s.co s.curT.company).param + BitVec.ofNat 64 f.x.toNat := by
  have hissue : exec i s = bankExec i f o (if f.rm = 4 then d else 0) (act s f) s := by
    rw [h]; exact (if_neg ha).trans (if_pos hk)
  exact joins_of_launch (hissue.trans (bankExec_eq ..)) (ours_newOp s i _)
    (fun _ _ => ⟨rfl, rfl, rfl, Tbl.read_write_self _ _ _⟩) fun l hl => rs_drawLanes _ _ _ hl

theorem noEffect_laneExec {i : Instr} {f : Fields} {o : OpdType} {d : Nat} {body : Body} {s : State}
    (h : exec i s = laneExec i f o d body s) (ha : act s f = 0) : NoEffect i s :=
  noEffect_of_retire (h.trans (if_pos ha))

/-- A uniform word with its operand in the constant bank is in flight where it executes. -/
theorem joins_scalarBank {i : Instr} {f : Fields} {o : OpdType} {body : Body} {s : State}
    (h : exec i s = scalarExec i f o body s) (hk : f.kind = 3) (he : s.curT.enabled f.g = true) :
    Joins i f true false none 0 s fun op => op.single = true ∧ op.size = o.bytes ∧
      op.addr.read 0 = (s.co s.curT.company).param + BitVec.ofNat 64 f.x.toNat := by
  have hissue : exec i s = bankExec i f o 0 s.cur.run s := by
    rw [h]; exact (if_neg (by simp [he])).trans (if_pos hk)
  refine joins_of_launch (hissue.trans (bankExec_eq ..)) (ours_newOp s i _)
    (fun _ _ => ⟨rfl, rfl, Tbl.read_write_self _ _ _⟩) fun l _ => ?_
  rw [drawLanes_zero]; exact act_steps_zero s f l

theorem noEffect_scalarExec {i : Instr} {f : Fields} {o : OpdType} {body : Body} {s : State}
    (h : exec i s = scalarExec i f o body s) (he : s.curT.enabled f.g = false) : NoEffect i s :=
  noEffect_of_retire (h.trans (if_pos (by simp [he])))

/-! The lane-class words of R44, group by group, share `laneExec`; the B operand is a 32-bit value, a 64-bit integer, an amount or an
FP64 value. -/

section
variable {i : Instr} {s : State} {f : Fields}

theorem exec_of_int32 {v : Nat → W32} (h : int32 i s = some (f, v)) : ∃ body, exec i s = laneExec i f .b32 0 body s := by
  unfold int32 at h
  split at h <;> cases h <;> exact ⟨_, rfl⟩

theorem exec_of_float32 {n : Nat} {v : Nat → W32} (h : float32 i s = some (f, n, v)) :
    ∃ body, exec i s = laneExec i f .b32 n body s := by
  unfold float32 at h
  split at h <;> cases h <;> exact ⟨_, rfl⟩

theorem exec_of_float64 {n : Nat} {v : Nat → W64} (h : float64 i s = some (f, n, v)) :
    ∃ body, exec i s = laneExec i f .f64 n body s := by
  unfold float64 at h
  split at h <;> cases h <;> exact ⟨_, rfl⟩

/-- A word of R46 is a lane-class word whose operand has the bytes that the statement names. -/
theorem exec_of_bankWord {n d : Nat} (h : bankWord i s = some (f, n, d)) :
    ∃ o body, exec i s = laneExec i f o d body s ∧ o.bytes = n := by
  unfold bankWord at h
  split at h
  case h_1 hi => cases h; obtain ⟨body, hb⟩ := exec_of_int32 hi; exact ⟨_, body, hb, rfl⟩
  case h_2 hi _ => unfold int64 at hi; split at hi <;> cases hi <;> cases h <;> exact ⟨_, _, rfl, rfl⟩
  case h_3 hi _ _ => unfold toPred at hi; split at hi <;> cases hi <;> cases h <;> exact ⟨_, _, rfl, rfl⟩
  case h_4 hi _ _ _ => cases h; obtain ⟨body, hb⟩ := exec_of_float32 hi; exact ⟨_, body, hb, rfl⟩
  case h_5 hi _ _ _ _ => cases h; obtain ⟨body, hb⟩ := exec_of_float64 hi; exact ⟨_, body, hb, rfl⟩
  case h_6 => cases h; exact ⟨_, _, rfl, rfl⟩
  case h_7 => cases h

/-- A uniform word of R46 is a uniform arithmetic word whose operand has the bytes that the statement names. -/
theorem exec_of_bankUniform {n : Nat} (h : bankUniform i s = some (f, n)) :
    ∃ o body, exec i s = scalarExec i f o body s ∧ o.bytes = n := by
  unfold bankUniform at h
  split at h
  case h_1 => cases h
  case h_2 hsv2s =>
    split at h
    case h_1 hi =>
      unfold scalar at hi
      split at hi <;> cases hi
      -- SV2S is none of these words
      case h_14 => exact absurd rfl (hsv2s _)
      all_goals (cases h; exact ⟨_, _, rfl, rfl⟩)
    case h_2 hi _ => unfold toQ at hi; split at hi <;> cases hi <;> cases h <;> exact ⟨_, _, rfl, rfl⟩
    case h_3 => cases h

end

theorem constantBankIssue : ConstantBankIssue := by
  refine ⟨fun i s f n d hi hk => ?_, fun i s f n hi hk => ?_⟩
  · obtain ⟨o, body, hexec, rfl⟩ := exec_of_bankWord hi
    exact ⟨noEffect_laneExec hexec, joins_laneBank hexec hk⟩
  · obtain ⟨o, body, hexec, rfl⟩ := exec_of_bankUniform hi
    rw [enabled_eq]
    exact ⟨noEffect_scalarExec hexec, joins_scalarBank hexec hk⟩

/-- Settles O17: each word issues one operation, with what it captured, by the rule of its kind. -/
theorem gatherWords : Obligations.GatherWords :=
  ⟨gatherIssue, scalarLoadIssue, constantBankIssue⟩

end Sys2Proof.Machine
end

section
/-!
PROOF. The matrix queues (R198 to R209, R212 to R215): what the end of a command leaves of its core, the test of ACCALLOC's waiters on a core
that has none, and the steps of each command at the head of its queue.
-/
namespace Sys2Proof

theorem Tbl.read_foldl_write_zero (bs : List Nat) (m : Tbl Nat) (b : Nat) :
    (bs.foldl (fun (m : Tbl Nat) b => m.write b 0) m).read b = if b ∈ bs then 0 else m.read b := by
  induction bs generalizing m with
  | nil => simp
  | cons a bs ih =>
    rw [List.foldl_cons, ih, Tbl.read_write]
    by_cases hb : b = a <;> simp [hb]

end Sys2Proof

namespace Sys2Proof.Machine
open Sys2Proof Sys2Proof.Claims

/-! ### A command leaves its queue (R203, R209) -/

/-- A core that differs from another in its matrix queue alone, which has lost commands and gained none. -/
def QueueCut (a b : Core) : Prop := b = { a with queue := b.queue } ∧ ∀ y ∈ b.queue, y ∈ a.queue

theorem QueueCut.refl (a : Core) : QueueCut a a := ⟨rfl, fun _ h => h⟩

theorem QueueCut.trans {a b d : Core} (h : QueueCut a b) (h' : QueueCut b d) : QueueCut a d :=
  ⟨h'.1.trans (by rw [h.1]), fun y hy => h.2 y (h'.2 y hy)⟩

theorem QueueCut.array {a b : Core} (h : QueueCut a b) : b.array = a.array := by rw [h.1]
theorem QueueCut.bankOwner {a b : Core} (h : QueueCut a b) : b.bankOwner = a.bankOwner := by rw [h.1]
theorem QueueCut.waiters {a b : Core} (h : QueueCut a b) : b.waiters = a.waiters := by rw [h.1]

theorem outOf_of_queueCut {c : Nat} {x : MxCmd} {s t : State} (h : OutOf c x s) (hq : QueueCut (s.core c) (t.core c)) : OutOf c x t :=
  fun y hy => h y (hq.2 y hy)

theorem MxCmd.is_iff (x y : MxCmd) : x.is y = true ↔ x.t = y.t ∧ x.seq = y.seq := by
  simp [MxCmd.is]

section
variable (s : State) (c : Nat) (x : MxCmd)

theorem core_mxLower (d : Nat) : (s.mxLower x).core d = s.core d := by
  unfold State.mxLower; dsimp only; split <;> rfl

theorem core_mxDrop (d : Nat) : (s.mxDrop c x).core d =
    if d = c then { s.core c with queue := (s.core c).queue.filter fun z => !z.is x } else s.core d := s.core_modCore ..

theorem queueCut_mxDrop (d : Nat) : QueueCut (s.core d) ((s.mxDrop c x).core d) := by
  rw [core_mxDrop]
  split
  · next h => subst h; exact ⟨rfl, fun y hy => (List.mem_filter.1 hy).1⟩
  · exact .refl _

theorem outOf_mxDrop : OutOf c x (s.mxDrop c x) := by
  intro y hy
  rw [core_mxDrop, if_pos rfl] at hy
  have hn := (List.mem_filter.1 hy).2
  rw [← MxCmd.is_iff]
  simpa using hn

/-- What a command's retirement on a core leaves of every core: its queue, without the command or as it was. -/
theorem queueCut_mxRetire (d : Nat) : QueueCut (s.core d) ((s.mxRetire c x).core d) := by
  unfold State.mxRetire
  dsimp only
  split
  · exact queueCut_mxDrop ..
  · rw [core_mxLower]
    exact (queueCut_mxDrop ..).trans (queueCut_mxDrop ..)

theorem outOf_mxRetire : OutOf c x (s.mxRetire c x) := by
  unfold State.mxRetire
  dsimp only
  split
  · exact outOf_mxDrop s c x
  · refine outOf_of_queueCut (outOf_mxDrop s c x) ?_
    rw [core_mxLower]
    exact queueCut_mxDrop ..

theorem outOf_mxLeave : OutOf c x (s.mxLeave c x) := by
  intro y hy
  rw [State.mxLeave, State.core_modCore_self] at hy
  exact outOf_mxDrop s c x y hy

theorem queueCut_endDrop (d : Nat) : QueueCut (s.core d) ((((s.mxDrop c x).mxDrop (c + 1) x).mxLower x).core d) := by
  rw [core_mxLower]
  exact (queueCut_mxDrop ..).trans (queueCut_mxDrop ..)

/-- An error takes its command out of its queue (R209). -/
theorem outOf_mxEnd (g : FaultInfo) : OutOf c x (s.mxEnd c x g) := by
  unfold State.mxEnd
  extract_lets u v
  split
  · exact outOf_mxLeave v c x
  · refine outOf_of_queueCut (outOf_mxDrop v c x) ?_
    rw [core_mxLower]
    exact queueCut_mxDrop ..

/-- An MXLW that ends in an error leaves a tile that is not valid (R209). -/
theorem valid_mxEnd_mxlw {f : Fields} (g : FaultInfo) (hi : x.ins = .mxlw f) (ha : x.addsTs = false) :
    ((s.mxEnd c x g).core c).array.valid = false := by
  simp only [State.mxEnd, hi, ha, Bool.false_eq_true, if_false]
  rw [(queueCut_endDrop _ c x c).array, State.core_modCore_self]

end

/-! ### ACCALLOC's waiters (R207) -/

/-- A fold keeps what every step over a member of the list keeps. -/
theorem foldl_keeps_mem {α β : Type} (P : β → Prop) (g : β → α → β) {l : List α} (hg : ∀ b, ∀ a ∈ l, P b → P (g b a))
    {b : β} (h : P b) : P (l.foldl g b) := by
  induction l generalizing b with
  | nil => exact h
  | cons a l ih =>
    exact ih (fun b a' ha' => hg b a' (List.mem_cons_of_mem _ ha')) (hg b a (List.mem_cons_self ..) h)

theorem Core.map_no_waiters {x : Core} (h : x.waiters = []) (g : AccWaiter → AccWaiter) : { x with waiters := x.waiters.map g } = x := by
  rw [h, List.map_nil, ← h]

theorem State.core_modCo (s : State) (k c : Nat) (g : Co → Co) : (s.modCo k g).core c = s.core c := rfl

/-- The banks that a company is given are those of one core. -/
theorem core_giveBanks_other (s : State) {c d : Nat} (k n : Nat) (h : c ≠ d) : (s.giveBanks d k n).core c = s.core c := by
  unfold State.giveBanks
  extract_lets bs u
  rw [State.core_modCo]
  exact State.core_modCore_other _ _ h

section
variable {s : State} {c : Nat} (h : (s.core c).waiters = [])
include h

/-- A core without waiters is as it was after a decision on a waiter. -/
theorem core_settleWaiter (w : AccWaiter) (v : Nat) : (s.settleWaiter w v).core c = s.core c := by
  refine foldl_keeps (fun u : State => u.core c = s.core c) _ (fun u d hu => ?_) _ rfl
  rw [State.core_modCore]
  split
  · next hd =>
    subst hd
    rw [hu]
    exact Core.map_no_waiters h _
  · exact hu

theorem oldest_no_waiters : s.oldest c = none := by
  rw [State.oldest, h]; rfl

theorem core_refuseNewest (d : Nat) : (s.refuseNewest d).core c = s.core c := by
  unfold State.refuseNewest
  split
  · rfl
  · split
    · rfl
    · split
      · exact core_settleWaiter h _ _
      · rfl

/-- A grant gives banks only of cores on which the waiter is the oldest, and so of none that has no waiter. -/
theorem core_grantOldest (d : Nat) : (s.grantOldest d).core c = s.core c := by
  unfold State.grantOldest
  split
  · rfl
  · next w _ =>
    extract_lets cs
    split
    · next hall =>
      have hgive : (cs.foldl (fun (s : State) x => s.giveBanks x w.company w.k) s).core c = s.core c := by
        refine foldl_keeps_mem (fun u : State => u.core c = s.core c) _ (fun u x hx hu => ?_) rfl
        have hw : s.oldest x = some w := by
          have := List.all_eq_true.1 hall x hx
          simp only [Bool.and_eq_true, beq_iff_eq] at this
          exact this.1
        have hne : c ≠ x := by
          rintro rfl
          rw [oldest_no_waiters h] at hw
          cases hw
        exact (core_giveBanks_other u w.company w.k hne).trans hu
      exact (core_settleWaiter (by rw [hgive]; exact h) _ _).trans hgive
    · rfl

theorem core_accTest (d : Nat) : (s.accTest d).core c = s.core c := by
  have turns : ∀ n (u : State), u.core c = s.core c → (State.accTurns d n u).core c = s.core c := by
    intro n
    induction n with
    | zero => exact fun _ hu => hu
    | succ n ih =>
      intro u hu
      rw [State.accTurns]
      split
      · exact hu
      · refine ih _ (foldl_keeps (fun u : State => u.core c = s.core c) _ (fun u x hu => ?_) _ hu)
        have hg : (u.grantOldest x).core c = s.core c := (core_grantOldest (by rw [hu]; exact h) x).trans hu
        exact (core_refuseNewest (by rw [hg]; exact h) x).trans hg
  exact turns 192 s rfl

end

end Sys2Proof.Machine
end

section
/-!
PROOF. The events of the matrix queues (R35, R196 to R201, R205 to R209, R212 to R215): each command's step at the head of its queue, and the
errors that end it.
-/
namespace Sys2Proof.Machine
open Sys2Proof Sys2Proof.Claims

/-! ### Commands that set the state of the array and the banks (R198, R207, R212 to R214) -/

/-- The weights and scales of an MXLW stand in the array (R198). -/
def mxlwLatched (s : State) (c : Nat) (x : MxCmd) (f : Fields) (w sc : List (List Nat)) : State :=
  s.modCore c fun y => { y with array := { y.array with
    tile := lwTile f (x.uni.getD 1 0), valid := true, weights := columnTable 256 w, scales := columnTable 64 sc } }

/-- The stream that an MXFMT sets (R213). -/
def mxfmtStream (x : MxCmd) (f : Fields) : MxStream :=
  { fmt := f.md.toNat % 32, bc := f.x.toNat / 4 % 8, scf := f.x.toNat / 32 % 4, rm := f.x.toNat / 256 % 8
    ts := if f.x.getLsbD 7 then (x.uni.getD 0 0).toNat % 65536 else 0x3F80 }

/-- The banks that an ACCFREE names have no owner, and no longer wait to be freed (R207). -/
def accfreeReturned (s : State) (c : Nat) (x : MxCmd) : State :=
  (s.modCore c fun y => { y with bankOwner := x.banks.foldl (fun (m : Tbl Nat) b => m.write b 0) y.bankOwner }).modCo x.company fun k =>
    if c = k.core then { k with freeing := k.freeing.filter fun b => !x.banks.contains b }
    else { k with ffreeing := k.ffreeing.filter fun b => !x.banks.contains b }

section
variable {s : State} {c : Nat} {x : MxCmd} {f : Fields} (hh : MxHas s c x)
include hh

theorem exec_mxlwExecute_latches {w sc : List (List Nat)} (hi : x.ins = .mxlw f) (hr : (s.core c).rowErr = false)
    (hw : readAll (fun i => s.mxBytes x c ((x.uni.getD 0 0).toNat % 2 ^ 32 + i * (f.x.toNat / 2 ^ 8 % 2 ^ 16))
      (rowBytes (lwTile f (x.uni.getD 1 0)).fmt)) (List.range 32) = .ok w)
    (hsc : readAll (fun i => s.mxBytes x c ((x.uni.getD 1 0).toNat % 2 ^ 32 + i * scaleCount (lwTile f (x.uni.getD 1 0)).fmt
      (lwTile f (x.uni.getD 1 0)).bc (lwTile f (x.uni.getD 1 0)).scf) (scaleCount (lwTile f (x.uni.getD 1 0)).fmt
      (lwTile f (x.uni.getD 1 0)).bc (lwTile f (x.uni.getD 1 0)).scf)) (List.range 32) = .ok sc) :
    exec (.mxlwExecute c) s = .next ((mxlwLatched s c x f w sc).mxRetire c x) := by
  have hstride : bitsOf f.xn 23 8 = f.x.toNat / 2 ^ 8 % 2 ^ 16 := rfl
  rw [MxHas] at hh
  change execMxlwExecute c s = _
  simp only [execMxlwExecute, hh, hi, hr, hstride, hw, hsc, Bool.false_eq_true, if_false]
  rfl

theorem exec_mxlwExecute_rowErr (hi : x.ins = .mxlw f) (hr : (s.core c).rowErr = true) :
    exec (.mxlwExecute c) s = .next (s.mxEndOpen c x 6) := by
  rw [MxHas] at hh
  change execMxlwExecute c s = _
  simp only [execMxlwExecute, hh, hi, hr, if_true]

theorem exec_mxfmtExecute (hi : x.ins = .mxfmt f) : exec (.mxfmtExecute c) s = .next ((s.modCore c fun y =>
    { y with array := { y.array with streams := y.array.streams.set (f.x.toNat % 4) (mxfmtStream x f) } }).mxRetire c x) := by
  rw [MxHas] at hh
  change execMxfmtExecute c s = _
  simp only [execMxfmtExecute, hh, hi]
  rfl

theorem exec_mxrelExecute (hi : x.ins = .mxrel f) : exec (.mxrelExecute c) s = .next ((s.modCore c fun y =>
    { y with array := { y.array with holder := 0 } }).mxRetire c x) := by
  rw [MxHas] at hh
  change execMxrelExecute c s = _
  simp only [execMxrelExecute, hh, hi]

theorem exec_accfreeExecute (hi : x.ins = .accfree f) :
    exec (.accfreeExecute c) s = .next (((accfreeReturned s c x).mxRetire c x).accTest c) := by
  rw [MxHas] at hh
  change execAccfreeExecute c s = _
  simp only [execAccfreeExecute, hh, hi]
  rfl

end

/-- An ACCFREE on a core without waiters returns its banks, and its command leaves the queue (R207). -/
theorem accfree_returns {s : State} {c : Nat} (x : MxCmd) (hw : (s.core c).waiters = []) :
    let t := ((accfreeReturned s c x).mxRetire c x).accTest c
    OutOf c x t ∧ ∀ b ∈ x.banks, (t.core c).bankOwner.read b = 0 := by
  intro t
  have hcore : (accfreeReturned s c x).core c =
      { s.core c with bankOwner := x.banks.foldl (fun (m : Tbl Nat) b => m.write b 0) (s.core c).bankOwner } := by
    rw [accfreeReturned, State.core_modCo, State.core_modCore_self]
  have hq := queueCut_mxRetire (accfreeReturned s c x) c x c
  have ht : t.core c = ((accfreeReturned s c x).mxRetire c x).core c :=
    core_accTest (by rw [hq.waiters, hcore]; exact hw) c
  refine ⟨fun y hy => outOf_mxRetire (accfreeReturned s c x) c x y (ht ▸ hy), fun b hb => ?_⟩
  rw [ht, hq.bankOwner, hcore]
  exact (Tbl.read_foldl_write_zero _ _ b).trans (if_pos hb)

theorem matrixStateEvents : MatrixStateEvents := by
  intro s c x hh
  refine ⟨?_, fun f hi => ?_, fun f hi => ?_, fun f hi hw => ?_⟩
  · intro f w sc hi hr tile m hw hsc
    refine ⟨_, exec_mxlwExecute_latches hh hi hr hw hsc, outOf_mxRetire _ _ _, ?_⟩
    rw [(queueCut_mxRetire _ c x c).array, mxlwLatched, State.core_modCore_self]
    exact ⟨rfl, rfl, rfl, rfl⟩
  · refine ⟨_, exec_mxfmtExecute hh hi, outOf_mxRetire _ _ _, ?_⟩
    rw [(queueCut_mxRetire _ c x c).array, State.core_modCore_self]
    rfl
  · refine ⟨_, exec_mxrelExecute hh hi, outOf_mxRetire _ _ _, ?_⟩
    rw [(queueCut_mxRetire _ c x c).array, State.core_modCore_self]
  · exact ⟨_, exec_accfreeExecute hh hi, accfree_returns x hw⟩

/-! ### A row of MXMUL (R199, R201, R215) -/

section
variable {s : State} {c : Nat} {x : MxCmd} {f : Fields}

theorem bitOf_mdn (f : Fields) (k : Nat) : bitOf f.mdn k = f.md.getLsbD k := rfl

/-- Rows of the arrays that a command uses are in error, as the model tests it. -/
theorem not_rowsGood_iff :
    ¬ rowsGood s c f ↔ ((s.core c).rowErr || (bitOf f.mdn 1 && (s.core (c + 1)).rowErr)) = true := by
  simp only [rowsGood, bitOf_mdn, Bool.or_eq_true, Bool.and_eq_true, not_and_or, Bool.not_eq_false, Classical.not_imp]

theorem not_mulWellFormed_iff : ¬ mulWellFormed s c x f ↔
    ((mulLayout x).malformed || 2 ^ (mulLayout x).esize != mulUnit (streamOf s c f)) = true := by
  simp only [mulWellFormed, Bool.or_eq_true, bne_iff_ne, not_and_or, Bool.not_eq_false, ne_eq]

/-- What becomes of a row of MXMUL, by its elements and its scales as they were read. -/
def mulOutcome (s : State) (c : Nat) (x : MxCmd) (f : Fields) (elems scales : Acc (List Nat)) : State :=
  match elems, scales with
  | .ok b, .ok codes => s.enterRow c x (f.md.getLsbD 1) (actRow (streamOf s c f) b codes) (decodeFmt 3 (streamOf s c f).ts).toF
      ((x.uni.getD 4 0).toNat + x.row) (f.x.toNat % 256 + 1)
  | .fault g, _ => s.mxEnd c x g
  | _, .fault g => s.mxEnd c x g
  | _, _ => s

theorem mulRow_of_rowErr (hg : ¬ rowsGood s c f) : s.mulRow c x f = s.mxEndOpen c x 6 :=
  if_pos (not_rowsGood_iff.1 hg)

theorem mulRow_of_malformed (hg : rowsGood s c f) (hw : ¬ mulWellFormed s c x f) : s.mulRow c x f = s.mxEndOpen c x 7 :=
  (if_neg (fun h => not_rowsGood_iff.2 h hg)).trans (if_pos (not_mulWellFormed_iff.1 hw))

theorem mulRow_of_wellFormed (hg : rowsGood s c f) (hw : mulWellFormed s c x f) :
    s.mulRow c x f = mulOutcome s c x f (mulElems s c x f) (mulScales s c x (streamOf s c f)) :=
  (if_neg (fun h => not_rowsGood_iff.2 h hg)).trans (if_neg (fun h => not_mulWellFormed_iff.2 h hw))

theorem mulRow_of_rowEnters {v : State} (h : RowEnters s c x f v) : s.mulRow c x f = v := by
  obtain ⟨hg, hw, b, codes, hb, hcodes, rfl⟩ := h
  rw [mulRow_of_wellFormed hg hw, hb, hcodes]
  rfl

/-- A fault of the reads of a row ends its command (R209). -/
theorem mulRow_of_fault {g : FaultInfo} (hg : rowsGood s c f) (hw : mulWellFormed s c x f)
    (h : mulElems s c x f = .fault g ∨ ∃ b, mulElems s c x f = .ok b ∧ mulScales s c x (streamOf s c f) = .fault g) :
    s.mulRow c x f = s.mxEnd c x g := by
  rw [mulRow_of_wellFormed hg hw]
  rcases h with h | ⟨b, hb, h⟩
  · rw [h]
    cases mulScales s c x (streamOf s c f) <;> rfl
  · rw [hb, h]
    rfl

theorem follower_waits_iff : ¬ pairReady s c x f ↔ (bitOf f.mdn 1 && !s.followerReady c x) = true := by
  simp only [pairReady, bitOf_mdn, Bool.and_eq_true, Bool.not_eq_true', Bool.not_eq_true, Classical.not_imp]

/-- One row of the group that an MXMUL_ROW takes: the command's next row, while the command is at the head (R201). -/
def mulTurn (c : Nat) (x : MxCmd) (f : Fields) (s : State) : State :=
  match s.mxHead c with
  | some y => if y.is x then s.mulRow c y f else s
  | none => s

theorem mulTurn_stillHead {y : MxCmd} (h : StillHead s c x y) : mulTurn c x f s = s.mulRow c y f := by
  obtain ⟨hh, ht, hseq⟩ := h
  rw [MxHas] at hh
  rw [mulTurn, hh]
  exact if_pos ((MxCmd.is_iff y x).2 ⟨ht, hseq⟩)

theorem mulTurn_gone (h : ∀ y, ¬ StillHead s c x y) : mulTurn c x f s = s := by
  unfold mulTurn
  split
  · next y hy => exact if_neg (fun his => h y ⟨hy, (MxCmd.is_iff y x).1 his⟩)
  · rfl

theorem exec_mxmulRow_waits (hh : MxHas s c x) (hi : x.ins = .mxmul f) (hp : ¬ pairReady s c x f) : exec (.mxmulRow c) s = .next s := by
  rw [MxHas] at hh
  change execMxmulRow c s = _
  simp only [execMxmulRow, hh, hi]
  exact if_pos (follower_waits_iff.1 hp)

theorem exec_mxmulRow_turns (hh : MxHas s c x) (hi : x.ins = .mxmul f) (hp : pairReady s c x f) :
    exec (.mxmulRow c) s = .next ((List.range (if matrixClass (streamOf s c f).fmt = some 3 then 8 else 1)).foldl
      (fun s _ => mulTurn c x f s) s) := by
  rw [MxHas] at hh
  change execMxmulRow c s = _
  simp only [execMxmulRow, hh, hi]
  exact if_neg (fun h => follower_waits_iff.2 h hp)

/-- Out of BFP one event takes one row. -/
theorem exec_mxmulRow_one (hh : MxHas s c x) (hi : x.ins = .mxmul f) (hp : pairReady s c x f)
    (hcls : matrixClass (streamOf s c f).fmt ≠ some 3) : exec (.mxmulRow c) s = .next (s.mulRow c x f) := by
  rw [exec_mxmulRow_turns hh hi hp, if_neg hcls]
  exact congrArg _ (mulTurn_stillHead ⟨hh, rfl, rfl⟩)

theorem foldl_range_eq {α : Type} (g : α → α) (u : Nat → α) (n : Nat) (h : ∀ j, j < n → g (u j) = u (j + 1)) :
    (List.range n).foldl (fun a _ => g a) (u 0) = u n := by
  induction n with
  | zero => rfl
  | succ n ih =>
    rw [List.range_succ, List.foldl_append, ih fun j hj => h j (by omega)]
    exact h n (by omega)

/-! ### A row of MXCHN (R208, R215) -/

theorem exec_mxchnRow_waits (hh : MxHas s c x) (hi : x.ins = .mxchn f) (hp : ¬ pairReady s c x f) : exec (.mxchnRow c) s = .next s := by
  rw [MxHas] at hh
  change execMxchnRow c s = _
  simp only [execMxchnRow, hh, hi]
  exact if_pos (follower_waits_iff.1 hp)

theorem exec_mxchnRow_rowErr (hh : MxHas s c x) (hi : x.ins = .mxchn f) (hp : pairReady s c x f) (hg : ¬ rowsGood s c f) :
    exec (.mxchnRow c) s = .next (s.mxEndOpen c x 6) := by
  rw [MxHas] at hh
  change execMxchnRow c s = _
  simp only [execMxchnRow, hh, hi]
  exact (if_neg (fun h => follower_waits_iff.2 h hp)).trans (if_pos (not_rowsGood_iff.1 hg))

/-- What becomes of a row of MXCHN, by the first of its source elements that is in error. -/
def chainOutcome (s : State) (c : Nat) (x : MxCmd) (f : Fields) (bad : Option FaultInfo) : State :=
  match bad with
  | some g => s.mxEnd c x g
  | none =>
    let r := downConvert (streamOf s c f) ((chainElems s c x f).map fun e => fp32.decode (s.accGet c x.banks e).toNat) (s.core c).array.rs
    (s.modCore c fun y => { y with array := { y.array with rs := r.2 } }).enterRow c x (f.md.getLsbD 1)
      r.1 (decodeFmt 3 (streamOf s c f).ts).toF ((x.uni.getD 1 0).toNat + x.row) (f.x.toNat % 128 + 1)

theorem exec_mxchnRow_outcome (hh : MxHas s c x) (hi : x.ins = .mxchn f) (hp : pairReady s c x f) (hg : rowsGood s c f) :
    exec (.mxchnRow c) s = .next (chainOutcome s c x f (s.accBad c x.banks (chainElems s c x f))) := by
  rw [MxHas] at hh
  change execMxchnRow c s = _
  simp only [execMxchnRow, hh, hi]
  refine (if_neg (fun h => follower_waits_iff.2 h hp)).trans ((if_neg (fun h => not_rowsGood_iff.2 h hg)).trans ?_)
  unfold chainOutcome
  split
  · next g hg' =>
    have : s.accBad c x.banks (chainElems s c x f) = some g := hg'
    rw [this]
  · next hn =>
    have : s.accBad c x.banks (chainElems s c x f) = none := hn
    rw [this]
    rfl

end

/-! ### The statements -/

theorem matrixRowEvents : MatrixRowEvents := by
  intro s c x f hh
  refine ⟨exec_mxmulRow_waits hh, fun v hi hp hcls hv => ?_, fun u hi hp hcls h0 hu => ?_, exec_mxchnRow_waits hh,
    fun hi hp hg hgood => ?_⟩
  · rw [exec_mxmulRow_one hh hi hp hcls, mulRow_of_rowEnters hv]
  · have hturn : ∀ j, j < 8 → mulTurn c x f (u j) = u (j + 1) := fun j hj => by
      rcases hu j hj with ⟨y, hy, hrow⟩ | ⟨hgone, hsame⟩
      · rw [mulTurn_stillHead hy, mulRow_of_rowEnters hrow]
      · rw [mulTurn_gone hgone, hsame]
    rw [exec_mxmulRow_turns hh hi hp, if_pos hcls, ← foldl_range_eq (mulTurn c x f) u 8 hturn, h0]
  · rw [exec_mxchnRow_outcome hh hi hp hg, hgood]
    rfl

theorem matrixErrorEvents : MatrixErrorEvents := by
  intro s c x f
  refine ⟨fun g => ⟨outOf_mxEnd s c x g, valid_mxEnd_mxlw s c x g⟩, fun hh => ⟨exec_mxlwExecute_rowErr hh, exec_mxchnRow_rowErr hh,
    fun g hi hp hg hbad => ?_, fun hi hp hcls => ?_⟩⟩
  · rw [exec_mxchnRow_outcome hh hi hp hg, hbad]
    rfl
  · rw [exec_mxmulRow_one hh hi hp hcls]
    refine ⟨fun hg => by rw [mulRow_of_rowErr hg], fun hg hw => by rw [mulRow_of_malformed hg hw], fun g hg hw hfault => ?_⟩
    rw [mulRow_of_fault hg hw hfault]

/-- Settles O38: the commands that set state, the rows of MXMUL and MXCHN, and the errors that end a command. -/
theorem matrixEvents : Obligations.MatrixEvents :=
  ⟨matrixStateEvents, matrixRowEvents, matrixErrorEvents⟩

end Sys2Proof.Machine
end

section
/-!
PROOF. The instruction word: its fields, its opcode, its encoding and decoding (R37, R58, R59), the checks of R56 in their order, and the
traps that they raise (R57).
-/
namespace Sys2Proof

/-! ### The fields of an encoded word (R37) -/

/-- A packed word with its width as the sum of the widths of its fields, the form that the library's lemmas on `++` read. -/
theorem packWord_eq_cast (op : BitVec 12) (f : Fields) : packWord op f =
    (op ++ f.md ++ f.g ++ f.d ++ f.a ++ f.b ++ f.e ++ f.x ++ f.st ++ BitVec.ofBool f.yl ++ f.wm ++ f.sa ++ f.sb ++ f.ru
      ++ (0#12)).cast rfl := rfl

@[simp] theorem wordOp_packWord (op : BitVec 12) (f : Fields) : wordOp (packWord op f) = op.toNat := by
  simp only [wordOp, packWord_eq_cast, BitVec.extractLsb'_cast, BitVec.extractLsb'_append_eq_of_le, Nat.reduceLeDiff,
    Nat.reduceSub, BitVec.extractLsb'_eq_self]

@[simp] theorem wordZ_packWord (op : BitVec 12) (f : Fields) : wordZ (packWord op f) = 0 := by
  simp only [wordZ, packWord_eq_cast, BitVec.extractLsb'_cast, BitVec.extractLsb'_append_eq_right]
  rfl

@[simp] theorem wordFields_packWord (op : BitVec 12) (f : Fields) : wordFields (packWord op f) = f := by
  simp only [wordFields, packWord_eq_cast, BitVec.extractLsb'_cast, BitVec.extractLsb'_append_eq_of_le,
    BitVec.extractLsb'_append_eq_right, BitVec.getLsbD_cast, BitVec.getLsbD_append, BitVec.getLsbD_ofBool,
    Nat.reduceLeDiff, Nat.reduceSub, Nat.reduceLT, if_false, if_true, decide_true, Bool.true_and]

/-! ### The opcode map (R58, R59) -/

/-- The opcode of a word names, in the map, the instruction whose word it is. -/
theorem ofOpcode_of_word {i : Instr} {op : BitVec 12} {f : Fields} (h : i.word = some (op, f)) :
    ∃ mk, ofOpcode op.toNat = some mk ∧ mk f = i := by
  cases i <;> cases h <;> exact ⟨_, rfl, rfl⟩

/-- A well-formed word passes checks 4 to 9 of R56. -/
theorem checkFields_of_wf {i : Instr} {op : BitVec 12} {f : Fields} (h : i.word = some (op, f)) (hwf : i.wf = true) :
    checkFields i.layout f = none := by
  cases i <;> cases h <;> exact eq_of_beq hwf

/-- What has an encoding is a word, packed from its opcode and fields. -/
theorem word_of_encode {i : Instr} {w : IWord} (h : encode i = some w) : ∃ op f, i.word = some (op, f) ∧ packWord op f = w := by
  unfold encode at h
  split at h
  · rename_i op f hword
    exact ⟨op, f, hword, Option.some.inj h⟩
  · cases h

/-- Settles O58: the fields of a packed word are those that were packed, and its opcode names its instruction. -/
theorem decodeEncode : Obligations.DecodeEncode := by
  unfold Obligations.DecodeEncode
  intro i w hwf henc
  obtain ⟨op, f, hword, rfl⟩ := word_of_encode henc
  obtain ⟨mk, hop, hmk⟩ := ofOpcode_of_word hword
  simp [decode, hop, hmk, checkFields_of_wf hword hwf]

/-- Settles O57: each word is the encoding of the well-formed instruction that the spec says it is. -/
theorem decodeWords : Obligations.DecodeWords := by
  unfold Obligations.DecodeWords
  and_intros <;> exact decodeEncode _ _ (by decide) (by rfl)

/-! ### The checks of a word in their order (R56) -/

section
variable {w : IWord} {mk : Fields → Instr} (hop : ofOpcode (wordOp w) = some mk)
include hop

/-- A calliope is refused what it may not run (R191). -/
theorem decodeFor_calliope (n : Nat) (h : (mk (wordFields w)).calliopeMay = false) :
    decodeFor true n w = .error (.illegalInstruction 1) := by
  simp [decodeFor, hop, h]

theorem decode_of_z (h : wordZ w ≠ 0) : decode w = .error (.illegalEncoding 1) := by
  simp [decode, hop, h]

theorem decode_of_checkFields {d : Nat} (hz : wordZ w = 0) (h : checkFields (mk (wordFields w)).layout (wordFields w) = some d) :
    decode w = .error (.illegalEncoding d) := by
  simp [decode, hop, hz, h]

theorem decode_of_passed (hz : wordZ w = 0) (h : checkFields (mk (wordFields w)).layout (wordFields w) = none) :
    decode w = .ok (mk (wordFields w)) := by
  simp [decode, hop, hz, h]

variable {cal : Bool} (hmay : (cal && !(mk (wordFields w)).calliopeMay) = false)
include hmay

theorem decodeFor_of_decode_error (n : Nat) {e : EncTrap} (h : decode w = .error e) : decodeFor cal n w = .error e := by
  simp [decodeFor, hop, hmay, h]

theorem decodeFor_of_checkAlloc {n d : Nat} {i : Instr} (h : decode w = .ok i) (ha : checkAlloc i.layout i.fields n = some d) :
    decodeFor cal n w = .error (.illegalEncoding d) := by
  simp [decodeFor, hop, hmay, h, ha]

theorem decodeFor_of_decode {n : Nat} {i : Instr} (h : decode w = .ok i) (ha : checkAlloc i.layout i.fields n = none) :
    decodeFor cal n w = .ok i := by
  simp [decodeFor, hop, hmay, h, ha]

end

theorem decodeFor_unmapped {w : IWord} (cal : Bool) (n : Nat) (h : ofOpcode (wordOp w) = none) :
    decodeFor cal n w = .error (.illegalInstruction 0) := by
  simp [decodeFor, h]

end Sys2Proof

namespace Sys2Proof.Machine
open Sys2Proof Sys2Proof.Claims

/-! ### The traps of a word that fails (R57) -/

/-- On an issue cycle the step is the issue. -/
theorem step_of_issueTurn {s : State} (h : IssueTurn s) : step s = s.issueCycle := by
  obtain ⟨hagenda, hoff, hevent⟩ := h
  simp [step, hagenda, hoff, hevent]

/-- What the ports choose is the next word of its troupe. -/
theorem nextWord_of_chooseIssue {ks : List Nat} {s u : State} {k : Nat} {n : Next}
    (h : State.chooseIssue ks s = (some (k, n), u)) : ∃ v : State, v.nextWord k = (n, u) := by
  induction ks generalizing s with
  | nil => cases h
  | cons j ks ih =>
    unfold State.chooseIssue at h
    split at h
    · exact ih h
    · exact ih h
    · rename_i hn
      cases h
      exact ⟨_, hn⟩

/-- The next word of a troupe is a bad one only where the troupe's decoder refuses it. -/
theorem decodeFor_of_bad {v u : State} {k : Nat} {p : Pick} {w : IWord} {e : EncTrap} (h : v.nextWord k = (.bad p w e, u)) :
    decodeFor (isCalliope k) (v.tr k).nregs w = .error e := by
  unfold State.nextWord at h
  dsimp only at h
  -- no run, a run that a fetch fault holds, and a fetch that waits or faults give no bad word
  split at h
  · split at h <;> cases h
  split at h
  · cases h
  split at h
  · cases h
  · cases h
  -- the decoder has refused the word, or has passed it
  split at h
  · rename_i hrefused
    split at h
    · cases h
    · cases h
      exact hrefused
  split at h
  · cases h
  split at h
  · split at h
    · cases h
    · split at h <;> cases h
  · cases h

/-- Settles O55: a bad word is what the decoder refuses, and the decoder refuses for the first check that fails. -/
theorem encodingTraps : Obligations.EncodingTraps := by
  unfold Obligations.EncodingTraps
  refine ⟨fun s u k p w e hturn hchoose => ?_, fun w cal n => ⟨decodeFor_unmapped cal n, fun mk hop => ?_⟩⟩
  · obtain ⟨v, hv⟩ := nextWord_of_chooseIssue hchoose
    refine ⟨?_, v, decodeFor_of_bad hv⟩
    rw [step_of_issueTurn hturn, State.issueCycle, hchoose]
    rfl
  · refine ⟨?_, fun hmay => ?_⟩
    · rintro rfl h
      exact decodeFor_calliope hop n h
    · have hruns : (cal && !(mk (wordFields w)).calliopeMay) = false := by rcases hmay with h | h <;> simp [h]
      refine ⟨fun hz => decodeFor_of_decode_error hop hruns n (decode_of_z hop hz),
        fun d hz hd => decodeFor_of_decode_error hop hruns n (decode_of_checkFields hop hz hd), fun hz hd => ?_⟩
      have hdec := decode_of_passed hop hz hd
      exact ⟨fun d => decodeFor_of_checkAlloc hop hruns hdec, decodeFor_of_decode hop hruns hdec⟩

end Sys2Proof.Machine
end

section
/-!
PROOF. The guard (R47), what an issue leaves of its troupe and what then holds its next word (R48, R49, R51, R52, R54), and the return from a
trap (R82, R100).
-/
namespace Sys2Proof.Machine
open Sys2Proof Sys2Proof.Claims

/-! ### The guard (R47) -/

/-- A lane is active where it is in the run and the guard predicate's bit, inverted by G bit 3, is one. -/
theorem Troupe.inMask_active (t : Troupe) (g : BitVec 4) (run : Mask) {l : Nat} (hl : l < 64) :
    inMask (t.active g run) l = (inMask run l && (inMask (t.rp (g.toNat % 8)) l ^^ g.getLsbD 3)) := by
  cases hg : g.getLsbD 3
  · simp only [Troupe.active, inMask, hg, BitVec.getLsbD_and, Bool.false_eq_true, if_false, Bool.xor_false]
  · simp only [Troupe.active, inMask, hg, BitVec.getLsbD_and, BitVec.getLsbD_not, hl, decide_true, Bool.true_and, if_true,
      Bool.xor_true]

/-- G = 7 names PT, uninverted. -/
theorem Troupe.active_unguarded (t : Troupe) (run : Mask) : t.active 7 run = run := by
  have hpt : t.rp ((7 : BitVec 4).toNat % 8) = BitVec.allOnes 64 := t.rp_true (Nat.le_refl 7)
  rw [Troupe.active, hpt]
  exact BitVec.and_allOnes

theorem guardMeaning : GuardMeaning :=
  fun s f _ hl => ⟨s.curT.inMask_active f.g s.cur.run hl, fun hg => hg ▸ s.curT.active_unguarded s.cur.run, (enabled_eq s f).symm⟩

/-! ### What an issue leaves of its troupe (R49, R51, R54) -/

/-- A loss record and the record after it change memory and the trace registers of a die (R267). -/
theorem State.tracePut_twice_frame (s : State) (d : Nat) (loss b : List Nat) (g : Die → Die) :
    ∃ m x, ((s.tracePut d loss).modDie d g).tracePut d b = { s with mem := m, dies := x } := by
  obtain ⟨m, x, h⟩ := s.tracePut_frame d loss
  rw [h]
  exact State.tracePut_frame _ d b

/-- A trace record changes memory and the trace registers of a die. -/
theorem State.traceRec_frame (s : State) (k type flags seq pc d1 d2 : Nat) :
    ∃ m x, s.traceRec k type flags seq pc d1 d2 = { s with mem := m, dies := x } := by
  simp only [State.traceRec]
  split
  · exact ⟨_, _, rfl⟩
  split
  · exact ⟨_, _, rfl⟩
  split
  · exact ⟨_, _, rfl⟩
  split
  · exact s.tracePut_frame _ _
  · exact s.tracePut_twice_frame _ _ _ _

@[simp] theorem State.clock_traceRec (s : State) (k type flags seq pc d1 d2 : Nat) :
    (s.traceRec k type flags seq pc d1 d2).clock = s.clock := by
  obtain ⟨m, x, h⟩ := s.traceRec_frame k type flags seq pc d1 d2
  rw [h]

@[simp] theorem State.clock_usePort (s : State) (k : Nat) : (s.usePort k).clock = s.clock := by
  simp only [State.usePort, State.modTr_clock]
  split <;> rfl

section
variable (s : State) (k : Nat) (p : Pick) (w : IWord) (i : Instr)

theorem State.clock_beginIssue : (s.beginIssue k p w (some i)).clock = s.clock := by
  simp only [State.beginIssue, State.clock_traceRec, State.setTr_clock, State.clock_usePort]

/-- An issue uses the cycle, sets the end of its ST, and leaves its results of fixed latency pending. -/
theorem State.tr_beginIssue : let t := (s.beginIssue k p w (some i)).tr k
    t.issuedAt = s.clock + 1 ∧ t.holdUntil = s.clock + 1 + i.fields.st.toNat ∧ t.lates = (s.tr k).lates ++
      if (s.tr k).acts i p.run then lateOf i (s.tr k).level (s.tr k).issueseq.toNat s.clock else [] := by
  have h : (s.beginIssue k p w (some i)).tr k = _ := (State.tr_traceRec _ _ _ _ _ _ _ _ _).trans (State.tr_setTr_self _ _ _)
  rw [h]
  exact ⟨rfl, rfl, rfl⟩

end

/-- A word of fixed latency leaves the registers that it writes pending for its latency (R48, R54). -/
theorem mem_lateOf {i : Instr} (h : latency i ≠ 0) (level seq clock : Nat) :
    ∃ e ∈ lateOf i level seq clock, e.regs = atLevel level i.writes ∧ e.due = clock + latency i := by
  rw [lateOf, if_neg h]
  exact ⟨_, List.mem_singleton_self _, rfl, rfl⟩

/-! ### Holds (R48, R49, R52) -/

section
variable {s : State} {k : Nat} {i : Instr} {run : Mask}

/-- A word is held when any reason is among its holds. -/
theorem State.holdReason_ne_none {r : Nat} (h : r ∈ s.allHolds k i run) : s.holdReason k i run ≠ none := by
  rw [State.holdReason, Ne, List.head?_eq_none_iff]
  exact List.ne_nil_of_mem h

/-- A result that is pending, or still to be written by an operation in flight, holds a word that names its register: reason 1. -/
theorem State.one_mem_allHolds (h : ((s.tr k).ops.any fun o => interlocked i (s.tr k).level o) || (s.tr k).lateFor i s.clock) :
    1 ∈ s.allHolds k i run := by
  unfold State.allHolds
  exact List.mem_append_right _ (by simp only [h, if_true]; exact List.mem_singleton_self _)

variable (hpark : ∀ o ∈ (s.tr k).ops, o.park = none)
include hpark

/-- With no operation parked, no word depends on one. -/
theorem State.no_parked_dependence : ((s.tr k).ops.any fun o => o.park.isSome && dependsOn i (s.tr k).level o) = false := by
  rw [List.any_eq_false]
  intro o ho
  simp [hpark o ho]

theorem State.holdReason_st (h : s.clock < (s.tr k).holdUntil) : s.holdReason k i run = some 0 := by
  simp [State.holdReason, State.allHolds, State.no_parked_dependence hpark, h]

theorem State.holdReason_flag (hst : (s.tr k).holdUntil ≤ s.clock) (h : (s.tr k).flagWait i.fields.wm = true) :
    s.holdReason k i run = some 2 := by
  simp [State.holdReason, State.allHolds, State.no_parked_dependence hpark, Nat.not_lt.2 hst, h]

end

theorem issueHolds : IssueHolds := by
  refine ⟨fun s k p w i => ?_, fun s k i run hpark => ⟨State.holdReason_st hpark, State.holdReason_flag hpark, ?_, ?_⟩⟩
  · obtain ⟨hissued, hst, hlates⟩ := s.tr_beginIssue k p w i
    refine ⟨s.clock_beginIssue k p w i, hst, hissued, fun hacts hlat => ?_⟩
    obtain ⟨e, he, hregs, hdue⟩ := mem_lateOf hlat (s.tr k).level (s.tr k).issueseq.toNat s.clock
    refine ⟨e, ?_, hregs, hdue⟩
    rw [hlates, if_pos hacts]
    exact List.mem_append_right _ he
  · intro e he hdue hmeets
    refine State.holdReason_ne_none (State.one_mem_allHolds (Bool.or_eq_true_iff.2 (.inr ?_)))
    exact List.any_eq_true.2 ⟨e, he, by simp [hdue, hmeets]⟩
  · intro o ho hmeets
    refine State.holdReason_ne_none (State.one_mem_allHolds (Bool.or_eq_true_iff.2 (.inl ?_)))
    exact List.any_eq_true.2 ⟨o, ho, hmeets⟩

/-- Settles O8: the guard lane by lane; and the holds in the order of R87, of which ST's comes first where no operation is parked. -/
theorem guardsAndHolds : Obligations.GuardsAndHolds :=
  ⟨guardMeaning, issueHolds⟩

/-! ### TRET (R82, R100) -/

section
variable {s : State} {f : Fields}

theorem exec_tret_inactive (h : act s f = 0) : exec (.tret f) s = .next (s.retire id) :=
  if_pos h

theorem exec_tret_levelZero (h : act s f ≠ 0) (h0 : s.curT.level = 0) : exec (.tret f) s = .next (s.trapWord 0x0B 1 0) :=
  (if_neg h).trans (if_pos h0)

theorem exec_tret_returns (h : act s f ≠ 0) (h0 : s.curT.level ≠ 0) :
    exec (.tret f) s = .next (s.setTr s.cur.t s.curT.leaveTrap) :=
  (if_neg h).trans (if_neg h0)

end

/-- The threads of TRMASK return to TRPC, the others to where the shadow has them. -/
theorem Troupe.pc_leaveTrap (t : Troupe) {l : Nat} (h : l < 64) :
    t.leaveTrap.pt.pc l = if inMask t.trmask l then t.trpc &&& ~~~15 else t.shadow.pc l :=
  PcTable.pc_goto _ _ _ h

theorem tretResult : TretResult := by
  intro s f hact hlevel
  have hself : (s.setTr s.cur.t s.curT.leaveTrap).curT = s.curT.leaveTrap := s.tr_setTr_self _ _
  refine ⟨_, exec_tret_returns hact (by rw [hlevel]; decide), ⟨rfl, fun j hj => s.tr_setTr_other _ hj⟩,
    fun pa => s.byteAt_troupes _ pa, ?_⟩
  rw [hself]
  exact ⟨rfl, rfl, rfl, fun l hl => s.curT.pc_leaveTrap hl, rfl⟩

theorem tretAtLevelZero : TretAtLevelZero :=
  fun _ _ => ⟨fun h => noEffect_of_retire (exec_tret_inactive h), exec_tret_levelZero⟩

/-- Settles O15: TRET at level 1 is the troupe's return from its trap; at level 0 it traps. -/
theorem trapReturn : Obligations.TrapReturn :=
  ⟨tretResult, tretAtLevelZero⟩

end Sys2Proof.Machine
end

section
/-!
PROOF. Sets of lanes: those that a test or a list of bits builds, the set of one lane, and the lowest and the highest member.
-/
namespace Sys2Proof
open Sys2Proof.Claims

/-! ### Sets of lanes -/

/-- A sum of the powers of two below `2 ^ n` that a test picks: its bound and its bits. -/
theorem testBit_sum_twoPow (f : Nat → Bool) (n : Nat) :
    let x := (List.range n).foldl (fun a l => if f l then a + 2 ^ l else a) 0
    x < 2 ^ n ∧ ∀ i, x.testBit i = (decide (i < n) && f i) := by
  induction n with
  | zero => simp
  | succ n ih =>
    simp only [List.range_succ, List.foldl_append, List.foldl_cons, List.foldl_nil] at ih ⊢
    generalize (List.range n).foldl (fun a l => if f l then a + 2 ^ l else a) 0 = x at ih ⊢
    obtain ⟨hlt, hbit⟩ := ih
    by_cases hf : f n
    · simp only [hf, if_true]
      refine ⟨by rw [Nat.pow_succ]; omega, fun i => ?_⟩
      rw [Nat.add_comm]
      rcases Nat.lt_trichotomy i n with hi | rfl | hi
      · rw [Nat.testBit_two_pow_add_gt hi, hbit, decide_eq_true hi, decide_eq_true (by omega)]
      · rw [Nat.testBit_two_pow_add_eq, hbit, hf]; simp
      · have : 2 ^ n + x < 2 ^ i := lt_of_lt_of_le (by rw [Nat.pow_succ]; omega) (Nat.pow_le_pow_right (by decide) hi)
        rw [Nat.testBit_lt_two_pow this, decide_eq_false (by omega), Bool.false_and]
    · rw [if_neg hf]
      refine ⟨by rw [Nat.pow_succ]; omega, fun i => ?_⟩
      rw [hbit]
      by_cases hi : i = n
      · subst hi; simp [hf]
      · congr 1; exact decide_eq_decide.2 (by omega)

@[simp] theorem inMask_maskOf (f : Nat → Bool) {l : Nat} (h : l < 64) : inMask (maskOf f) l = f l := by
  rw [inMask, maskOf, BitVec.getLsbD_ofNat, lanes, (testBit_sum_twoPow f 64).2, decide_eq_true h, Bool.true_and, Bool.true_and]

theorem getLsbD_ofBits (n : Nat) (g : Nat → Bool) {i : Nat} (h : i < n) : (ofBits n g).getLsbD i = g i := by
  have bits : ∀ m (w : BitVec n), ((List.range m).foldl (fun w i => if g i then w ||| BitVec.twoPow n i else w) w).getLsbD i =
      (w.getLsbD i || (decide (i < m) && g i)) := by
    intro m w
    induction m with
    | zero => simp
    | succ m ih =>
      rw [List.range_succ, List.foldl_append, List.foldl_cons, List.foldl_nil]
      have hm : (decide (i < m + 1) && g i) = ((decide (i < m) && g i) || (decide (m = i) && g m)) := by
        by_cases hi : m = i
        · subst hi; simp
        · rw [decide_eq_false hi, Bool.false_and, Bool.or_false]; congr 1; exact decide_eq_decide.2 (by omega)
      rw [hm, ← Bool.or_assoc, ← ih]
      by_cases hg : g m
      · rw [if_pos hg, BitVec.getLsbD_or, BitVec.getLsbD_twoPow, hg, Bool.and_true]
        by_cases hi : m = i
        · subst hi; simp [h]
        · simp [hi]
      · simp [hg]
  have hzero : (0 : BitVec n).getLsbD i = false := BitVec.getLsbD_zero
  rw [ofBits, bits, hzero, decide_eq_true h, Bool.true_and, Bool.false_or]

theorem maskOf_eq_ofBits (f : Nat → Bool) : maskOf f = ofBits 64 f :=
  BitVec.eq_of_getLsbD_eq fun _ hl => (inMask_maskOf f hl).trans (getLsbD_ofBits 64 f hl).symm

theorem inMask_bit64 {e : Nat} (l : Nat) (h : e < 64) : inMask (bit64 e) l = decide (l = e) := by
  rw [inMask, bit64, BitVec.getLsbD_ofNat, Nat.testBit_two_pow]
  by_cases hl : l = e
  · subst hl; simp [h]
  · simp [hl, Ne.symm hl]

theorem inMask_zero (l : Nat) : inMask 0 l = false := BitVec.getLsbD_zero (w := 64) (i := l)

theorem exists_inMask {m : Mask} (h : m ≠ 0) : ∃ l, l < 64 ∧ inMask m l = true := by
  by_contra hno
  refine h (BitVec.eq_of_getLsbD_eq fun l hl => ?_)
  exact (Bool.eq_false_iff.2 fun hb => hno ⟨l, hl, hb⟩).trans (inMask_zero l).symm

/-- What a search of an ordered list finds comes before every other member that passes. -/
theorem find?_of_pairwise {α : Type} {R : α → α → Prop} {p : α → Bool} {ls : List α} {a b : α} (hls : ls.Pairwise R)
    (h : ls.find? p = some a) (hb : b ∈ ls) (hp : p b = true) : b = a ∨ R a b := by
  obtain ⟨-, as, bs, rfl, has⟩ := List.find?_eq_some_iff_append.1 h
  rcases List.mem_append.1 hb with hb | hb
  · exact absurd hp (by simpa using has b hb)
  · rcases List.mem_cons.1 hb with rfl | hb
    · exact .inl rfl
    · exact .inr ((List.pairwise_cons.1 (List.pairwise_append.1 hls).2.1).1 b hb)

/-- `e` is the lowest, or the highest, member of a set. -/
def EndLane (high : Bool) (m : Mask) (e : Nat) : Prop :=
  e < 64 ∧ inMask m e = true ∧ ∀ k, k < 64 → inMask m k = true → if high then k ≤ e else e ≤ k

theorem endLane_lowest {m : Mask} (h : m ≠ 0) : EndLane false m (lowestLane m) := by
  obtain ⟨l, hl, hm⟩ := exists_inMask h
  obtain ⟨e, he⟩ := Option.isSome_iff_exists.1 (List.find?_isSome.2 ⟨l, List.mem_range.2 hl, hm⟩ : (lanes.find? (inMask m)).isSome)
  rw [lowestLane, he, Option.getD_some]
  refine ⟨List.mem_range.1 (List.mem_of_find?_eq_some he), List.find?_some he, fun k hk hmk => ?_⟩
  have := find?_of_pairwise List.pairwise_lt_range he (List.mem_range.2 hk) hmk
  simp only [Bool.false_eq_true, if_false]
  omega

namespace Machine

theorem endLane_highest {m : Mask} (h : m ≠ 0) : EndLane true m (highestLane m) := by
  obtain ⟨l, hl, hm⟩ := exists_inMask h
  have hmem : ∀ {k}, k < 64 → k ∈ lanes.reverse := fun hk => List.mem_reverse.2 (List.mem_range.2 hk)
  obtain ⟨e, he⟩ := Option.isSome_iff_exists.1 (List.find?_isSome.2 ⟨l, hmem hl, hm⟩ : (lanes.reverse.find? (inMask m)).isSome)
  rw [highestLane, he, Option.getD_some]
  refine ⟨List.mem_range.1 (List.mem_reverse.1 (List.mem_of_find?_eq_some he)), List.find?_some he, fun k hk hmk => ?_⟩
  have := find?_of_pairwise (List.pairwise_reverse.2 List.pairwise_lt_range) he (hmem hk) hmk
  simp only [if_true]
  omega

end Machine

/-- The lane that a set's end names is its end, and no other. -/
theorem isEnd_of_endLane {high : Bool} {m : Mask} {e l : Nat} (h : EndLane high m e) (hl : l < 64) :
    isEnd high m l = decide (l = e) := by
  obtain ⟨he, hme, hends⟩ := h
  rw [Bool.eq_iff_iff, decide_eq_true_iff]
  simp only [isEnd, Bool.and_eq_true, List.all_eq_true, List.mem_range, Bool.or_eq_true, Bool.not_eq_true', ← Bool.not_eq_true,
    ← imp_iff_not_or]
  constructor
  · rintro ⟨hm, hall⟩
    have h1 := hall e he hme
    have h2 := hends l hl hm
    cases high <;> simp at h1 h2 <;> omega
  · rintro rfl
    refine ⟨hme, fun k hk hmk => ?_⟩
    have := hends k hk hmk
    cases high <;> simpa using this

end Sys2Proof
end

section
/-!
PROOF. The words on lane predicates: PLOP, VOTE, ELECT and MATCH (R101 to R104).
-/
namespace Sys2Proof.Machine
open Sys2Proof Sys2Proof.Claims

/-! ### What a word of one result leaves of its troupe -/

@[simp] theorem Troupe.pt_wp (t : Troupe) (r : Nat) (m x : Mask) : (t.wp r m x).pt = t.pt := by rw [t.wp_frame]
@[simp] theorem Troupe.pt_wq (t : Troupe) (r : Nat) (x : Bool) : (t.wq r x).pt = t.pt := by rw [t.wq_frame]
@[simp] theorem Troupe.pt_wpair (t : Troupe) (r : Nat) (m : Mask) (g : Nat → W64) : (t.wpair r m g).pt = t.pt := by rw [t.wpair_frame]

section
variable {s t : State}

theorem predResult_of_wp {m x : Mask} {d : Nat} {v : Nat → Bool} (h : t.curT = (s.curT.advance s.cur.run s.cur.pc).wp d m x)
    (hv : ∀ l, l < 64 → inMask m l = true → inMask x l = v l) : PredResult s t m d v := by
  refine ⟨fun r l hl => ?_, ?_⟩ <;> rw [h]
  · rw [Troupe.rp_wp, Troupe.rp_advance, Troupe.rp_advance]
    by_cases hr : r = d ∧ r < 7
    · obtain ⟨rfl, hr⟩ := hr
      have hx := hv l hl
      simp only [hr, and_self, if_true, true_and, inMask, BitVec.getLsbD_or, BitVec.getLsbD_and, BitVec.getLsbD_not, hl,
        decide_true, Bool.true_and] at hx ⊢
      cases hm : m.getLsbD l
      · simp
      · simp [hx hm]
    · rw [if_neg (fun hd : r = d ∧ d < 7 => hr ⟨hd.1, hd.1 ▸ hd.2⟩),
        if_neg (fun hd : r = d ∧ r < 7 ∧ inMask m l = true => hr ⟨hd.1, hd.2.1⟩)]
  · rw [Troupe.pt_wp]
    exact Troupe.wp_frame _ d m x

theorem qResult_of_wq {d : Nat} {v : Bool} (h : t.curT = (s.curT.advance s.cur.run s.cur.pc).wq d v) : QResult s t d v := by
  refine ⟨fun r => ?_, ?_⟩ <;> rw [h]
  · rw [Troupe.rq_wq, Troupe.rq_advance]
    exact if_congr (and_congr_right fun h => by rw [h]) rfl rfl
  · rw [Troupe.pt_wq]
    exact Troupe.wq_frame _ d v

/-- A pair that a word writes, in a troupe whose PC table may have changed further. -/
theorem pairResult_of_wpair {m : Mask} {d : Nat} {g v : Nat → W64} {p : PcTable}
    (h : t.curT = { (s.curT.advance s.cur.run s.cur.pc).wpair d m g with pt := p })
    (hv : ∀ l, l < 64 → inMask m l = true → g l = v l) : PairResult s t m d v := by
  refine ⟨fun r l hl => ?_, ?_⟩ <;> rw [h]
  · refine (Troupe.rv_wpair _ d r m g hl).trans ?_
    rw [Troupe.rv_advance]
    by_cases hm : inMask m l = true
    · rw [hv l hl hm]
      simp only [hm, and_true]
      refine if_congr (and_congr_right fun h => by rw [h]) rfl (if_congr (and_congr_right fun h => by rw [h]) rfl rfl)
    · simp only [hm, Bool.false_eq_true, and_false, if_false]
  · rw [Troupe.wpair_frame]; rfl

theorem predResult_inactive {d : Nat} {v : Nat → Bool} (h : Untouched s t) : PredResult s t 0 d v := by
  unfold Untouched at h
  refine ⟨fun r l _ => ?_, ?_⟩ <;> rw [h]
  · simp only [inMask_zero, Bool.false_eq_true, and_false, if_false]; rfl

theorem pairResult_inactive {d : Nat} {v : Nat → W64} (h : Untouched s t) : PairResult s t 0 d v := by
  unfold Untouched at h
  refine ⟨fun r l _ => ?_, ?_⟩ <;> rw [h]
  · simp only [inMask_zero, Bool.false_eq_true, and_false, if_false]; rfl

end

/-- A lane-class word that leaves the PC table alone: its issue, and its troupe with and without an active lane. -/
theorem laneStep_issue {s : State} {f : Fields} {g : Mask → Troupe → Troupe} (hg : ∀ m t, (g m t).pt = t.pt) :
    ∃ t, laneStep f s g = .next t ∧ Issued s t ∧ (act s f = 0 → Untouched s t) ∧
      (act s f ≠ 0 → t.curT = g (act s f) (s.curT.advance s.cur.run s.cur.pc)) := by
  have hcur : (s.retire fun t => if s.curT.active f.g s.cur.run = 0 then t else g (s.curT.active f.g s.cur.run) t).curT =
      if act s f = 0 then s.curT.advance s.cur.run s.cur.pc else g (act s f) (s.curT.advance s.cur.run s.cur.pc) :=
    State.curT_retire ..
  refine ⟨_, laneStep_next s f g, issued_retire s fun t => ?_, fun h => ?_, fun h => hcur.trans (if_neg h)⟩
  · split
    · rfl
    · exact hg _ _
  · rw [Untouched, hcur.trans (if_pos h)]; rfl

/-! ### PLOP (R101) -/

/-- The entry of a table of three bits. -/
theorem tableBit_eq (x : W32) (a e b : Bool) : tableBit x.toNat a e b = x.getLsbD (4 * a.toNat + 2 * e.toNat + b.toNat) := by
  cases a <;> cases e <;> cases b <;> rfl

theorem plopResult : PlopResult := by
  intro s f
  obtain ⟨t, ht, hissued, hidle, hacting⟩ := laneStep_issue (s := s) (f := f) (g := plopRun f) fun m t => t.pt_wp ..
  refine ⟨t, ht, hissued, ?_⟩
  by_cases h : act s f = 0
  · rw [h]; exact predResult_inactive (hidle h)
  · exact predResult_of_wp (hacting h) fun l hl _ => (inMask_maskOf _ hl).trans (tableBit_eq ..)

/-! ### VOTE (R102) -/

theorem pt_voteRun (f : Fields) (m : Mask) (t : Troupe) : (voteRun f m t).pt = t.pt := by
  unfold voteRun
  dsimp only
  split
  · exact t.pt_wq ..
  · exact t.pt_wq ..
  · exact t.pt_wq ..
  · exact t.pt_ws ..

theorem scalarResult_of_ws {s t : State} {d : Nat} {v : W64} (h : t.curT = (s.curT.advance s.cur.run s.cur.pc).ws d v) :
    ScalarResult s t d v := by
  have := scalarResult_retire_ws s d v
  simpa only [ScalarResult, State.curT_retire, ← h] using this

theorem voteResult : VoteResult := by
  intro s f m
  obtain ⟨t, ht, hissued, hidle, hacting⟩ := laneStep_issue (s := s) (f := f) (pt_voteRun f)
  refine ⟨t, ht, hissued, hidle, fun h hv => ?_, fun h hv => ?_, fun h hv => ?_, fun h hv => ?_⟩ <;>
    have hrun := hacting h <;> simp only [voteRun, hv, Troupe.rp_advance] at hrun
  · exact qResult_of_wq hrun
  · rw [decide_not, ← beq_eq_decide]
    exact qResult_of_wq hrun
  · rw [Bool.decide_or, ← beq_eq_decide, ← beq_eq_decide]
    exact qResult_of_wq hrun
  · exact scalarResult_of_ws hrun

/-! ### ELECT (R103) -/

theorem electResult : ElectResult := by
  intro s f
  obtain ⟨t, ht, hissued, hidle, hacting⟩ := laneStep_issue (s := s) (f := f) (g := electRun f) fun m t => t.pt_wp ..
  refine ⟨t, ht, hissued, hidle, fun h => predResult_of_wp (hacting h) fun l hl _ => ?_⟩
  by_cases hv : f.var = 0
  · have hend := endLane_lowest h
    rw [if_pos hv, inMask_bit64 l hend.1, ← isEnd_of_endLane hend hl]
    simp [hv]
  · have hend := endLane_highest h
    rw [if_neg hv, inMask_bit64 l hend.1, ← isEnd_of_endLane hend hl]
    simp [hv]

/-! ### MATCH (R104) -/

theorem setWidth64_inj {a b : W32} : a.setWidth 64 = b.setWidth 64 ↔ a = b :=
  ⟨fun h => by bv_omega, congrArg _⟩

theorem matchResult : MatchResult := by
  intro s f
  obtain ⟨t, ht, hissued, hidle, hacting⟩ := laneStep_issue (s := s) (f := f) (g := matchRun f) fun m t => t.pt_wpair ..
  refine ⟨t, ht, hissued, ?_⟩
  by_cases h : act s f = 0
  · rw [h]; exact pairResult_inactive (hidle h)
  · refine pairResult_of_wpair (hacting h) fun l _ _ => (maskOf_eq_ofBits _).trans (congrArg _ (funext fun k => congrArg _ ?_))
    by_cases hv : f.var = 1
    · rw [if_pos hv, beq_eq_decide]
      exact decide_eq_decide.2 (by simp only [hv, if_true]; rfl)
    · rw [if_neg hv, beq_eq_decide]
      refine decide_eq_decide.2 ?_
      simp only [hv, if_false]
      exact setWidth64_inj

/-- Settles O5: each word writes its register in its acting lanes, by the bits that its rule gives them. -/
theorem lanePredicateWords : Obligations.LanePredicateWords :=
  ⟨plopResult, voteResult, electResult, matchResult⟩

end Sys2Proof.Machine
end

section
/-!
PROOF. NOP, SLEEP and YIELD (R94, R97, R98), and the branches (R79, R95): a branch is its targets' check, then the move of its acting lanes.
-/
namespace Sys2Proof.Machine
open Sys2Proof Sys2Proof.Claims

/-! ### NOP, SLEEP and YIELD (R94, R97, R98) -/

theorem onlyTroupe_retire (s : State) (g : Troupe → Troupe) : OnlyTroupe s.cur.t s (s.retire g) :=
  ⟨rfl, fun _ hj => s.tr_retire_other g hj⟩

theorem sameBytes_retire (s : State) (g : Troupe → Troupe) : SameBytes s (s.retire g) := fun pa => s.byteAt_troupes _ pa

theorem nopResult : NopResult := by
  intro s f
  obtain ⟨t, ht, hissued, hidle, hacting⟩ := laneStep_issue (s := s) (f := f) (g := fun _ t => t) fun _ _ => rfl
  refine ⟨t, ht, hissued, ?_⟩
  by_cases h : act s f = 0
  · exact hidle h
  · rw [Untouched, hacting h]; rfl

/-- The troupe after a lane-class word: its run has advanced, and the word has acted where a lane is active. -/
theorem curT_laneStep (s : State) (f : Fields) (g : Mask → Troupe → Troupe) :
    (s.retire fun t => if s.curT.active f.g s.cur.run = 0 then t else g (s.curT.active f.g s.cur.run) t).curT =
      if act s f = 0 then s.curT.advance s.cur.run s.cur.pc else g (act s f) (s.curT.advance s.cur.run s.cur.pc) :=
  State.curT_retire ..

/-- What SLEEP until a CLOCK does to the PC table of its troupe. -/
def sleepTroupe (wake : Nat) (m : Mask) (t : Troupe) : Troupe :=
  { t with pt := { t.pt.put m .sleep with wake := t.pt.wake.writeLanes 0 m (fun _ => wake) lanes } }

theorem exec_sleep (s : State) (f : Fields) :
    exec (.sleep f) s = laneStep f s (sleepTroupe (s.clock + max 1 (f.x.toNat % 2 ^ 24))) := by
  change execSleep f s = _
  unfold execSleep sleepTroupe
  rfl

section
variable (wake : Nat) (m : Mask) (t : Troupe)

theorem pc_sleepTroupe (l : Nat) : (sleepTroupe wake m t).pt.pc l = t.pt.pc l := rfl

theorem state_sleepTroupe {l : Nat} (h : l < 64) :
    (sleepTroupe wake m t).pt.state l = if inMask m l = true then .sleep else t.pt.state l :=
  (rfl : _ = (t.pt.put m .sleep).state l).trans (PcTable.state_put _ _ _ h)

theorem wake_sleepTroupe {l : Nat} (h : l < 64) :
    (sleepTroupe wake m t).pt.wake.read l = if inMask m l = true then wake else t.pt.wake.read l :=
  Tbl.read_writeLanes_zero _ m (fun _ => wake) h

end

theorem sleepResult : SleepResult := by
  intro s f
  refine ⟨_, (exec_sleep s f).trans (laneStep_next ..), onlyTroupe_retire s _, sameBytes_retire s _, ?_⟩
  rw [Untouched, curT_laneStep]
  by_cases h : act s f = 0
  · rw [if_pos h]
    refine ⟨rfl, fun l hl => ⟨Troupe.pc_advance _ _ _ hl, ?_⟩⟩
    simp only [h, inMask_zero, Bool.false_eq_true, if_false]
    exact ⟨rfl, rfl⟩
  · rw [if_neg h]
    refine ⟨rfl, fun l hl => ?_⟩
    rw [pc_sleepTroupe, Troupe.pc_advance _ _ _ hl, state_sleepTroupe _ _ _ hl, wake_sleepTroupe _ _ _ hl]
    exact ⟨rfl, rfl, rfl⟩

/-- Settles O9: NOP has no effect beyond its issue; SLEEP has acted on the PC table of its troupe alone. -/
theorem pauseWords : Obligations.PauseWords :=
  ⟨nopResult, sleepResult⟩

/-- What YIELD does to its troupe. -/
def yieldTroupe (m : Mask) (t : Troupe) : Troupe :=
  { t with pt := { t.pt with deferred := t.pt.deferred ||| m, w := 64 }, windows := t.windows + 1 }

theorem exec_yield (s : State) (f : Fields) : exec (.yield f) s = laneStep f s yieldTroupe := by
  change execYield f s = _
  unfold execYield yieldTroupe
  rfl

@[simp] theorem pc_yieldTroupe (m : Mask) (t : Troupe) (l : Nat) : (yieldTroupe m t).pt.pc l = t.pt.pc l := rfl

/-- Settles O10: with an active lane the deferred set and the window are all that changes beyond the issue. -/
theorem yieldResult : Obligations.YieldResult := by
  unfold Obligations.YieldResult
  intro s f
  refine ⟨Bool.or_true _, _, (exec_yield s f).trans (laneStep_next ..), onlyTroupe_retire s _, sameBytes_retire s _, fun l hl => ?_, fun h => ?_, fun h => ?_⟩
  · rw [curT_laneStep]
    split
    · exact Troupe.pc_advance _ _ _ hl
    · rw [pc_yieldTroupe, Troupe.pc_advance _ _ _ hl]
  · have hcur := (curT_laneStep s f yieldTroupe).trans (if_pos h)
    refine ⟨?_, ranOn_of_pt (by rw [hcur])⟩
    rw [Untouched, hcur]; rfl
  · rw [curT_laneStep, if_neg h]
    exact ⟨rfl, rfl⟩

/-! ### Targets (R79, R95) -/

/-- Bits 57 to 63 equal bit 56 where the top byte is all zeros or all ones. -/
theorem canonical_iff (x : W64) : canonical x = true ↔ ∀ k, 57 ≤ k → k < 64 → x.getLsbD k = x.getLsbD 56 := by
  have hbit : ∀ j, (x.toNat / 2 ^ 56).testBit j = x.getLsbD (56 + j) := fun j => by
    rw [Nat.testBit_div_two_pow, Nat.add_comm]; rfl
  simp only [canonical, Bool.or_eq_true, beq_iff_eq]
  constructor
  · rintro (h | h) k hk hk'
    · have h0 : ∀ j, x.getLsbD (56 + j) = false := fun j => by rw [← hbit, h, Nat.zero_testBit]
      rw [show k = 56 + (k - 56) by omega, h0, ← h0 0]
    · have h1 : ∀ j, j < 8 → x.getLsbD (56 + j) = true := fun j hj => by
        rw [← hbit, h, show 255 = 2 ^ 8 - 1 by rfl, Nat.testBit_two_pow_sub_one, decide_eq_true hj]
      rw [show k = 56 + (k - 56) by omega, h1 _ (by omega), ← h1 0 (by decide)]
  · intro h
    have hall : ∀ j, (x.toNat / 2 ^ 56).testBit j = (decide (j < 8) && x.getLsbD 56) := by
      intro j
      rw [hbit]
      by_cases hj : j < 8
      · rw [decide_eq_true hj, Bool.true_and]
        rcases Nat.eq_zero_or_pos j with rfl | hpos
        · rfl
        · exact h _ (by omega) (by omega)
      · rw [decide_eq_false hj, Bool.false_and, BitVec.getLsbD_of_ge _ _ (by omega)]
    cases hx : x.getLsbD 56
    · exact .inl (Nat.eq_of_testBit_eq fun j => by rw [hall, hx, Bool.and_false, Nat.zero_testBit])
    · refine .inr (Nat.eq_of_testBit_eq fun j => ?_)
      rw [hall, hx, Bool.and_true, show 255 = 2 ^ 8 - 1 by rfl, Nat.testBit_two_pow_sub_one]

/-- The model's test of a target. -/
theorem goodTarget_iff (x : W64) : goodTarget x ↔ (x.toNat % 16 != 0 || !canonical x) = false := by
  rw [goodTarget, ← canonical_iff, Bool.or_eq_false_iff, bne_eq_false_iff_eq, Bool.not_eq_false']

theorem direct_eq (s : State) (f : Fields) (l : Nat) : direct s f l = s.directTarget f := by
  rw [direct, State.directTarget, BitVec.ofInt_mul]; rfl

/-- A branch answers what the model's branch makes of its targets and its link. -/
theorem exec_of_branch {i : Instr} {s : State} {f : Fields} {tgt : Nat → W64} {link : Bool} (h : branch i s = some (f, tgt, link)) :
    ∃ kind, exec i s = .next (s.branch f tgt link kind) := by
  have hdirect : ∀ g : Fields, direct s g = fun _ => s.directTarget g := fun g => funext fun l => direct_eq s g l
  unfold Claims.branch at h
  split at h <;> cases h
  · exact ⟨0, by rw [hdirect]; rfl⟩
  · exact ⟨2, rfl⟩
  · change ∃ kind, execCall f s = _
    unfold execCall
    split
    · exact ⟨2, rfl⟩
    · exact ⟨0, by rw [hdirect]⟩
  · exact ⟨3, rfl⟩

/-! ### The move of a branch, and its trap (R79, R95) -/

/-- What a branch makes of its troupe: the link, and the move of the acting lanes. -/
def branchTroupe (s : State) (f : Fields) (tgt : Nat → W64) (link : Bool) (t : Troupe) : Troupe :=
  if act s f = 0 then t
  else { (if link then t.wpair f.d.toNat (act s f) fun _ => s.cur.pc + 16 else t) with pt := t.pt.goto (act s f) tgt }

theorem quiet_retire {s : State} {g : Troupe → Troupe} (h : Quiet s) (hg : ∀ t, (g t).company = t.company) : Quiet (s.retire g) := by
  have hc : (s.retire g).ctxOf s.cur.t = s.ctxOf s.cur.t := by
    rw [State.ctxOf, State.tr_retire_self, hg]; rfl
  exact (congrArg (fun c => (s.ctx c).debug) hc).trans h

section
variable {s : State} {f : Fields} {tgt : Nat → W64} {link : Bool} {kind : Nat}

theorem company_branchTroupe (t : Troupe) : (branchTroupe s f tgt link t).company = t.company := by
  unfold branchTroupe
  split
  · rfl
  · cases link
    · rfl
    · rw [if_pos rfl, Troupe.wpair_frame]

/-- The model's branch with good targets, and with the debug right not held. -/
theorem branch_good (hq : Quiet s) (h : ∀ l, l < 64 → inMask (act s f) l → goodTarget (tgt l)) :
    s.branch f tgt link kind = s.retire (branchTroupe s f tgt link) := by
  have hnone : (lanes.filter (inMask (s.curT.active f.g s.cur.run))).find? (fun l => (tgt l).toNat % 16 != 0 || !canonical (tgt l)) = none := by
    refine List.find?_eq_none.2 fun l hl => ?_
    rw [(goodTarget_iff _).1 (h l (List.mem_range.1 (List.mem_filter.1 hl).1) (List.mem_filter.1 hl).2)]
    exact Bool.false_ne_true
  have hretire : (s.retire fun t => if s.curT.active f.g s.cur.run = 0 then t
      else { (if link then t.wpair f.d.toNat (s.curT.active f.g s.cur.run) fun _ => s.cur.pc + 16 else t) with
        pt := (if link then t.wpair f.d.toNat (s.curT.active f.g s.cur.run) fun _ => s.cur.pc + 16 else t).pt.goto
          (s.curT.active f.g s.cur.run) tgt }) = s.retire (branchTroupe s f tgt link) := by
    cases link
    · rfl
    · simp only [if_true, Troupe.pt_wpair]; rfl
  unfold State.branch
  simp only [hnone]
  rw [hretire, State.traceRec_quiet (s.retire _) s.cur.t _ _ _ _ _ _ (quiet_retire hq company_branchTroupe), ite_self]

/-- The model's branch with a bad target: the trap of the lowest lane that has one. -/
theorem branch_bad {l : Nat} (hl : l < 64) (hm : inMask (act s f) l) (hbad : ¬ goodTarget (tgt l))
    (hlow : ∀ k, k < l → inMask (act s f) k → goodTarget (tgt k)) :
    s.branch f tgt link kind = s.trapWord 4 (if (tgt l).toNat % 16 = 0 then 2 else 1) (tgt l) := by
  have hfound : (lanes.filter (inMask (s.curT.active f.g s.cur.run))).find? (fun l => (tgt l).toNat % 16 != 0 || !canonical (tgt l)) = some l := by
    have hmem : l ∈ lanes.filter (inMask (s.curT.active f.g s.cur.run)) := List.mem_filter.2 ⟨List.mem_range.2 hl, hm⟩
    have hp : (fun l => (tgt l).toNat % 16 != 0 || !canonical (tgt l)) l = true := by
      rw [goodTarget_iff, Bool.not_eq_false] at hbad; exact hbad
    obtain ⟨e, he⟩ := Option.isSome_iff_exists.1 (List.find?_isSome (p := fun l => (tgt l).toNat % 16 != 0 || !canonical (tgt l)) |>.2 ⟨l, hmem, hp⟩)
    rcases find?_of_pairwise (List.pairwise_lt_range.filter _) he hmem hp with rfl | hlt
    · exact he
    · have hgood := hlow e hlt (List.mem_filter.1 (List.mem_of_find?_eq_some he)).2
      rw [goodTarget_iff] at hgood
      exact absurd (List.find?_some he) (by simp [hgood])
  unfold State.branch
  simp only [hfound, bne_iff_ne]
  by_cases h : (tgt l).toNat % 16 = 0 <;> simp [h]

end

theorem branchResult : BranchResult := by
  intro i s f tgt link hi hq hgood
  obtain ⟨kind, hexec⟩ := exec_of_branch hi
  rw [branch_good hq hgood] at hexec
  refine ⟨_, hexec, onlyTroupe_retire s _, sameBytes_retire s _, ?_⟩
  have hcur : (s.retire (branchTroupe s f tgt link)).curT = branchTroupe s f tgt link (s.curT.advance s.cur.run s.cur.pc) :=
    State.curT_retire ..
  by_cases h : act s f = 0
  · have hidle := hcur.trans (if_pos h)
    have huntouched : Untouched s (s.retire (branchTroupe s f tgt link)) := by rw [Untouched, hidle]; rfl
    refine ⟨?_, fun _ => huntouched, fun _ => h ▸ pairResult_inactive huntouched⟩
    rw [Branched, hidle, h]
    exact ⟨rfl, fun l hl => by rw [inMask_zero]; exact Troupe.pc_advance _ _ _ hl⟩
  · have hacting := hcur.trans (if_neg h)
    refine ⟨?_, fun hlink => ?_, fun hlink => ?_⟩
    · rw [Branched, hacting]
      refine ⟨rfl, fun l hl => (PcTable.pc_goto _ _ _ hl).trans ?_⟩
      rw [Troupe.pc_advance _ _ _ hl]
    · subst hlink
      rw [Untouched, hacting]; rfl
    · subst hlink
      exact pairResult_of_wpair hacting fun _ _ _ => rfl

theorem branchTraps : BranchTraps := by
  intro i s f tgt link l hi hl hm hbad hlow
  obtain ⟨kind, hexec⟩ := exec_of_branch hi
  rw [hexec, branch_bad hl hm hbad hlow]

/-- Settles O11: with good targets the lanes move and link; with a bad one the lowest lane that has it gives the trap. -/
theorem branchWords : Obligations.BranchWords :=
  ⟨branchResult, branchTraps⟩

end Sys2Proof.Machine
end

section
/-!
PROOF. Taking an exception (R79, R80, R83, R85, R338, R340), said once for each way that it can go, and the words that raise one: TRAP and
BKPT (R99, R260, R264).
-/
namespace Sys2Proof.Machine
open Sys2Proof Sys2Proof.Claims

/-! ### Where a trap goes (R80, R83, R85) -/

/-- A trap of the word being issued, for a troupe and with nothing to trace: at level 1 its context ends; under DUTYSPLIT.TRAP its company is
to be saved; with no handler its context ends; else it enters level 1. -/
theorem takeTrap_eq {s : State} (hc : isCalliope s.cur.t = false) (hq : Quiet s) (i : TrapInfo) : s.takeTrap s.cur.t i =
    if s.curT.level = 1 then (s.setTr s.cur.t { s.curT with holdUntil := 0, reuse := [] }).startEnd (s.ctxOf s.cur.t) 1 i.trcause
    else if s.trapHost then
      (s.setTr s.cur.t { s.curT.setTrapRegs i with pt := s.curT.pt.goto i.run fun _ => i.resume }).modCo s.curT.company fun x =>
        { x with st := .saving, hostTrap := i.trcause.toNat + 1 }
    else if handler s = 0 then (s.setTr s.cur.t (s.curT.setTrapRegs i)).startEnd (s.ctxOf s.cur.t) 4 i.trcause
    else s.setTr s.cur.t (s.curT.enterTrap i (handler s)) := by
  simp only [State.takeTrap, State.traceRec_quiet _ _ _ _ _ _ _ _ hq, hc, Bool.false_eq_true, if_false]
  rfl

/-- The PCs of the threads at the entry to a handler. -/
theorem Troupe.pc_enterTrap (t : Troupe) (i : TrapInfo) (vec : W64) {l : Nat} (h : l < 64) :
    (t.enterTrap i vec).pt.pc l = vec &&& ~~~15 := by
  simp only [Troupe.enterTrap, PcTable.pc, Tbl.read_writeLanes_zero _ _ _ h, inMask_all h, if_true, alignPc]

theorem trapEntered : TrapEntered := by
  rintro s i ⟨hc, hl, hh, d, hd, hv⟩ hq
  have hvec : handler s ≠ 0 := by rw [handler, hd]; exact hv
  have henters : s.takeTrap s.cur.t i = s.setTr s.cur.t (s.curT.enterTrap i (handler s)) := by
    rw [takeTrap_eq hc hq, if_neg (by rw [hl]; decide), if_neg (by rw [hh]; decide), if_neg hvec]
  rw [henters]
  refine ⟨⟨rfl, fun j hj => s.tr_setTr_other _ hj⟩, fun pa => s.byteAt_troupes _ pa, ?_⟩
  have hcur : (s.setTr s.cur.t (s.curT.enterTrap i (handler s))).curT = s.curT.enterTrap i (handler s) := s.tr_setTr_self _ _
  rw [Entered, hcur]
  have hpc := fun l hl => Troupe.pc_enterTrap s.curT i (handler s) (l := l) hl
  have hcause : i.trcause = BitVec.ofNat 64 (i.cause + 2 ^ 8 * i.detail + 2 ^ 16 * i.record) := by norm_num [TrapInfo.trcause]
  simp only [Troupe.enterTrap, Troupe.setTrapRegs, hcause, true_and, and_true] at hpc ⊢
  exact fun l hl => ⟨rfl, hpc l hl⟩

/-! ### The end of a context (R338, R339) -/

section
variable {s : State} {c : Nat} (h0 : (s.ctx c).endReason = 0) (hd : (s.ctx c).dead = false) (r : Nat) (x : W64)
include h0 hd

theorem startEnd_live : s.startEnd c r x = s.modCtx c fun y => { y with endReason := r, endCause := x } :=
  if_neg (by simp [h0, hd])

theorem ctx_startEnd_live : ((s.startEnd c r x).ctx c).endReason = r ∧ ((s.startEnd c r x).ctx c).endCause = x := by
  rw [startEnd_live h0 hd, State.ctx_modCtx_self]
  exact ⟨rfl, rfl⟩

end

@[simp] theorem State.curT_startEnd (s : State) (c r : Nat) (x : W64) : (s.startEnd c r x).curT = s.curT := by
  unfold State.startEnd
  split <;> rfl

theorem State.curT_modCo (s : State) (k : Nat) (g : Co → Co) : (s.modCo k g).curT = s.curT := rfl

theorem trapElsewhere : TrapElsewhere := by
  intro s i hc hq h0 hd t
  have ht : t = _ := takeTrap_eq hc hq i
  have hself : ∀ x : Troupe, (s.setTr s.cur.t x).curT = x := fun x => s.tr_setTr_self _ x
  rw [ht]
  refine ⟨fun hl => ?_, fun hl hh hv => ?_, fun hl hh => ?_⟩
  · rw [if_pos hl]
    exact ctx_startEnd_live (s := s.setTr _ _) h0 hd 1 i.trcause
  · rw [if_neg (by rw [hl]; decide), if_neg (by rw [hh]; decide), if_pos hv, State.curT_startEnd, hself]
    have hend := ctx_startEnd_live (s := s.setTr s.cur.t (s.curT.setTrapRegs i)) h0 hd 4 i.trcause
    exact ⟨hend.1, rfl, rfl, hl⟩
  · rw [if_neg (by rw [hl]; decide), if_pos hh, State.co_modCo_self, State.curT_modCo, hself]
    exact ⟨rfl, rfl, rfl, hl⟩

/-- Settles O13: a trap enters level 1, ends the context, or is left to the host, by the level, the handler and DUTYSPLIT. -/
theorem trapEntry : Obligations.TrapEntry :=
  ⟨trapEntered, trapElsewhere⟩

/-! ### TRAP and BKPT (R99, R264) -/

section
variable {s : State} {f : Fields}

theorem exec_trap_inactive (h : act s f = 0) : exec (.trap f) s = .next (s.retire id) := if_pos h

theorem exec_trap_acting (h : act s f ≠ 0) : exec (.trap f) s = .next (s.trapAfter 3 (BitVec.ofNat 64 (f.xn % 65536))) := if_neg h

theorem exec_bkpt_inactive (h : act s f = 0) : exec (.bkpt f) s = .next (s.retire id) := if_pos h

theorem exec_bkpt_traps (h : act s f ≠ 0)
    (hoff : s.curT.level = 1 ∨ (s.ctx (s.ctxOf s.cur.t)).debug = false ∨ (s.ctx (s.ctxOf s.cur.t)).arm = false) :
    exec (.bkpt f) s = .next (s.trapAfter 7 (BitVec.ofNat 64 (f.xn % 65536))) := by
  have harmed : (s.curT.level = 0 && (s.ctx (s.ctxOf s.cur.t)).debug && (s.ctx (s.ctxOf s.cur.t)).arm) = false := by
    rcases hoff with h | h | h <;> simp [h]
  exact (if_neg h).trans (if_neg (by rw [harmed]; exact Bool.false_ne_true))

/-- An armed breakpoint without STOPRING halts its troupe. -/
theorem exec_bkpt_halts (h : act s f ≠ 0) (hl : s.curT.level = 0) (hd : (s.ctx (s.ctxOf s.cur.t)).debug = true)
    (ha : (s.ctx (s.ctxOf s.cur.t)).arm = true) (hs : (s.ctx (s.ctxOf s.cur.t)).stopring = false) : exec (.bkpt f) s =
    .next (((s.retire id).haltTroupe s.cur.t 2).modTr s.cur.t fun t => { t with haltpc := s.cur.pc + 16 }) := by
  refine (if_neg h).trans ((if_pos (by simp [hl, hd, ha])).trans ?_)
  exact congrArg _ (if_neg (by simp [hs]))

end

theorem trapWords : TrapWords := by
  intro s f
  have hcode : f.xn % 65536 = f.x.toNat % 2 ^ 16 := by norm_num [Fields.xn]
  refine ⟨fun h => ⟨noEffect_of_retire (exec_trap_inactive h), noEffect_of_retire (exec_bkpt_inactive h)⟩, fun h => ?_, fun h hoff _ => ?_⟩
  · exact ⟨_, exec_trap_acting h, by rw [State.trapAfter, hcode]⟩
  · exact ⟨_, exec_bkpt_traps h hoff, by rw [State.trapAfter, hcode]⟩

/-! ### A halt (R260) -/

theorem PcTable.inMask_inState (p : PcTable) (x : TState) {l : Nat} (h : l < 64) : inMask (p.inState x) l = (p.state l == x) :=
  inMask_maskOf _ h

@[simp] theorem State.cur_traceRec (s : State) (k type flags seq pc d1 d2 : Nat) : (s.traceRec k type flags seq pc d1 d2).cur = s.cur := by
  obtain ⟨m, x, h⟩ := s.traceRec_frame k type flags seq pc d1 d2
  rw [h]

/-- What a halt makes of a troupe that is at an instruction boundary. -/
def haltedTroupe (t : Troupe) (cause : Nat) : Troupe :=
  { t with
    halted := true, haltrec := haltRec (if cause = 1 then t.skid else 0) cause t.level, haltpc := t.headPc, haltseq := t.issueseq.setWidth 64,
    pt := t.pt.put (t.pt.inState .ready) .halted, hitAt := 0, stepping := false }

section
variable {s : State} {k : Nat} (hh : (s.tr k).halted = false) (hr : (s.tr k).resident = true) (he : (s.tr k).ended = false) (cause : Nat)
include hh hr he

/-- The halt of a troupe, but for its trace record. -/
theorem haltTroupe_eq : ∃ type flags seq pc d1 d2,
    s.haltTroupe k cause = (s.setTr k (haltedTroupe (s.tr k) cause)).traceRec k type flags seq pc d1 d2 :=
  ⟨_, _, _, _, _, _, if_neg (by simp [hh, hr, he])⟩

theorem tr_haltTroupe : (s.haltTroupe k cause).tr k = haltedTroupe (s.tr k) cause := by
  obtain ⟨type, flags, seq, pc, d1, d2, h⟩ := haltTroupe_eq hh hr he cause
  rw [h, State.tr_traceRec, State.tr_setTr_self]

theorem cur_haltTroupe : (s.haltTroupe k cause).cur = s.cur := by
  obtain ⟨type, flags, seq, pc, d1, d2, h⟩ := haltTroupe_eq hh hr he cause
  rw [h, State.cur_traceRec, State.setTr_cur]

end

/-- The READY threads of a troupe that halts are HALTED; no thread moves. -/
theorem state_haltedTroupe (t : Troupe) (cause : Nat) {l : Nat} (h : l < 64) :
    (haltedTroupe t cause).pt.state l = if t.pt.state l = .ready then .halted else t.pt.state l := by
  refine (PcTable.state_put _ _ _ h).trans ?_
  rw [PcTable.inMask_inState _ _ h]
  exact if_congr beq_iff_eq rfl rfl

theorem pc_haltedTroupe (t : Troupe) (cause l : Nat) : (haltedTroupe t cause).pt.pc l = t.pt.pc l := rfl

theorem breakpointHalts : BreakpointHalts := by
  intro s f c h hl hd ha hs hh hr he
  refine ⟨_, exec_bkpt_halts h hl hd ha hs, ?_⟩
  have hcur : ((s.retire id).tr s.cur.t) = s.curT.advance s.cur.run s.cur.pc := s.tr_retire_self id
  have htr := tr_haltTroupe (s := s.retire id) (k := s.cur.t) (by rw [hcur]; exact hh) (by rw [hcur]; exact hr) (by rw [hcur]; exact he) 2
  have hsame := cur_haltTroupe (s := s.retire id) (k := s.cur.t) (by rw [hcur]; exact hh) (by rw [hcur]; exact hr) (by rw [hcur]; exact he) 2
  have hend : (((s.retire id).haltTroupe s.cur.t 2).modTr s.cur.t fun t => { t with haltpc := s.cur.pc + 16 }).curT =
      { haltedTroupe (s.curT.advance s.cur.run s.cur.pc) 2 with haltpc := s.cur.pc + 16 } := by
    rw [State.curT, State.modTr_cur, hsame, State.retire_cur, State.tr_modTr_self, htr, hcur]
  beta_reduce
  rw [hend]
  refine ⟨rfl, rfl, ?_, hl, rfl, fun l hl => ⟨?_, ?_⟩⟩
  · simp [haltedTroupe, haltRec, hl]
  · rw [pc_haltedTroupe, Troupe.pc_advance _ _ _ hl]
  · rw [state_haltedTroupe _ _ hl]
    rfl

/-- Settles O14: TRAP and BKPT by their guard, and BKPT by its arming. -/
theorem softwareTraps : Obligations.SoftwareTraps :=
  ⟨trapWords, breakpointHalts⟩

end Sys2Proof.Machine
end

section
/-!
PROOF. EXIT (R96): the end of the troupe, and of its company when it is the last (R167).
-/
namespace Sys2Proof.Machine
open Sys2Proof Sys2Proof.Claims

/-! ### Looking for the end of a troupe (R78, R96) -/

section
variable {s : State} {k : Nat}

theorem endCheck_recordInUse (h : ∃ o ∈ (s.tr k).ops, o.recs ≠ []) : s.endCheck k = s := by
  have hall : ((s.tr k).ops.all fun o => o.recs.isEmpty) = false := by
    obtain ⟨o, ho, hr⟩ := h
    exact List.all_eq_false.2 ⟨o, ho, by simpa using hr⟩
  simp [State.endCheck, hall]

/-- With no fatal record the end of a troupe is looked for, and nothing else. -/
theorem orphanCheck_noFatal (h : (s.tr k).allExited = true → ∀ o ∈ (s.tr k).ops, ∀ p, o.park = some p → p.state ≠ .fatal) :
    s.orphanCheck k = s.endCheck k := by
  unfold State.orphanCheck
  cases hx : (s.tr k).allExited
  · simp [s.endCheck_alive k hx]
  · rw [if_neg (by decide)]
    dsimp only
    generalize hdead : (s.tr k).ops.filter _ = dead
    obtain rfl : dead = [] := by
      refine hdead.symm.trans (List.filter_eq_nil_iff.2 fun o ho => ?_)
      cases hp : o.park with
      | none => simp
      | some p => simpa using h hx o ho p hp
    rfl

end

/-- What the end of a troupe leaves before its company is looked at (R96). -/
def troupeEnded (s : State) (k : Nat) : State :=
  let u := s.modTr k fun t => { t with ended := true, spotlit := false }
  if isCalliope k then u.modCo (s.tr k).company fun c => { c with calliopeDone := true } else u

/-- A troupe ends: with the debug right not held its summary is not traced. -/
theorem endCheck_ends {s : State} {k : Nat} (hq : (s.ctx (s.ctxOf k)).debug = false) (hr : (s.tr k).resident = true)
    (he : (s.tr k).ended = false) (hx : (s.tr k).allExited = true) (hrec : ∀ o ∈ (s.tr k).ops, o.recs = []) :
    s.endCheck k = (troupeEnded s k).releaseIfOver (s.tr k).company := by
  have hall : ((s.tr k).ops.all fun o => o.recs.isEmpty) = true := List.all_eq_true.2 fun o ho => by simp [hrec o ho]
  simp only [State.endCheck, hr, he, hx, hall, State.traceRec_quiet _ _ _ _ _ _ _ _ hq]
  rfl

section
variable (s : State) (k : Nat)

theorem tr_troupeEnded (j : Nat) : (troupeEnded s k).tr j = if j = k then { s.tr k with ended := true, spotlit := false } else s.tr j := by
  have h : (troupeEnded s k).tr j = (s.modTr k fun t => { t with ended := true, spotlit := false }).tr j := by
    unfold troupeEnded; dsimp only; split <;> rfl
  rw [h, State.modTr, State.tr_setTr]

theorem co_troupeEnded_self : (troupeEnded s k).co (s.tr k).company =
    { s.co (s.tr k).company with calliopeDone := (s.co (s.tr k).company).calliopeDone || isCalliope k } := by
  unfold troupeEnded
  cases h : isCalliope k
  · simp only [Bool.or_false]; rfl
  · simp only [if_true, State.co_modCo_self, Bool.or_true]; rfl

theorem co_troupeEnded_other {j : Nat} (hj : j ≠ (s.tr k).company) : (troupeEnded s k).co j = s.co j := by
  unfold troupeEnded
  dsimp only
  split
  · exact State.co_modCo_other _ _ hj
  · rfl

theorem core_troupeEnded (c : Nat) : (troupeEnded s k).core c = s.core c := by
  unfold troupeEnded; dsimp only; split <;> rfl

theorem sameStore_troupeEnded : SameStore s (troupeEnded s k) := by
  unfold troupeEnded; dsimp only; split <;> exact ⟨fun _ => ⟨rfl, rfl, rfl, rfl⟩, rfl, rfl, rfl, fun _ => ⟨rfl, rfl, rfl⟩, fun _ _ => ⟨rfl, rfl⟩⟩

end

/-! ### The release of a company (R167) -/

theorem tr_modCo (s : State) (k j : Nat) (g : Co → Co) : (s.modCo k g).tr j = s.tr j := rfl

theorem sameStore_modCo (s : State) (k : Nat) (g : Co → Co) : SameStore s (s.modCo k g) :=
  ⟨fun _ => ⟨rfl, rfl, rfl, rfl⟩, rfl, rfl, rfl, fun _ => ⟨rfl, rfl, rfl⟩, fun _ _ => ⟨rfl, rfl⟩⟩

/-- A company's slots have been emptied. -/
def slotsEmptied (s : State) (ts : List Nat) : State := ts.foldl (fun (s : State) t => (s.endAll t).setTr t default) s

theorem tr_slotsEmptied (s : State) (ts : List Nat) (j : Nat) : (slotsEmptied s ts).tr j = if j ∈ ts then default else s.tr j := by
  induction ts generalizing s with
  | nil => simp [slotsEmptied]
  | cons t ts ih =>
    refine (ih ((s.endAll t).setTr t default)).trans ?_
    rw [State.tr_setTr, State.tr_endAll]
    by_cases h : j ∈ ts <;> by_cases ht : j = t <;> simp [h, ht]

theorem slotsEmptied_frame (s : State) (ts : List Nat) : ∃ f m, slotsEmptied s ts = { s with flights := f, troupes := m } := by
  induction ts generalizing s with
  | nil => exact ⟨_, _, rfl⟩
  | cons t ts ih =>
    obtain ⟨f, m, h⟩ := ih ((s.endAll t).setTr t default)
    exact ⟨f, m, h⟩

/-- A company's window has been freed on the listed cores. -/
def windowsFreed (s : State) (k : Nat) (cs : List Nat) : State :=
  cs.foldl (fun (s : State) x => if (s.core x).window = k + 1 then s.modCore x fun y => { y with window := 0 } else s) s

/-- Freeing a window changes no L1, and nothing outside the cores. -/
theorem windowsFreed_frame (s : State) (k : Nat) (cs : List Nat) :
    ∃ m, windowsFreed s k cs = { s with cores := m } ∧ ∀ c, (m.read c).l1 = (s.core c).l1 := by
  induction cs generalizing s with
  | nil => exact ⟨_, rfl, fun _ => rfl⟩
  | cons x cs ih =>
    by_cases h : (s.core x).window = k + 1
    · obtain ⟨m, hm, hl⟩ := ih (s.modCore x fun y => { y with window := 0 })
      refine ⟨m, (congrArg (fun u => windowsFreed u k cs) (if_pos h)).trans hm, fun c => (hl c).trans ?_⟩
      by_cases hc : c = x
      · subst hc; rw [State.core_modCore_self]
      · rw [State.core_modCore_other _ _ hc]
    · obtain ⟨m, hm, hl⟩ := ih s
      exact ⟨m, (congrArg (fun u => windowsFreed u k cs) (if_neg h)).trans hm, hl⟩

/-- A release empties the company's slots and changes, of memory, nothing. -/
theorem releaseSlots_frame (s : State) (k : Nat) :
    (∀ j, (s.releaseSlots k).tr j = if j ∈ (s.co k).slots then default else s.tr j) ∧
    (∀ j, j ≠ k → (s.releaseSlots k).co j = s.co j) ∧ SameStore s (s.releaseSlots k) := by
  obtain ⟨f, m, hslots⟩ := slotsEmptied_frame s (s.co k).slots
  obtain ⟨n, hwindows, hl1⟩ := windowsFreed_frame (slotsEmptied s (s.co k).slots) k [(s.co k).core, (s.co k).core + 1]
  have hrel : ∃ g, s.releaseSlots k = (windowsFreed (slotsEmptied s (s.co k).slots) k [(s.co k).core, (s.co k).core + 1]).modCo k g :=
    ⟨_, rfl⟩
  obtain ⟨g, hrel⟩ := hrel
  rw [hrel, hwindows]
  refine ⟨fun j => tr_slotsEmptied s _ j, fun j hj => ?_, ?_⟩
  · rw [State.co_modCo_other _ _ hj, hslots]; rfl
  · have hl : ∀ c, (n.read c).l1 = (s.core c).l1 := fun c => (hl1 c).trans (by rw [hslots]; rfl)
    rw [hslots]
    refine ⟨fun _ => ⟨rfl, rfl, rfl, rfl⟩, rfl, rfl, rfl, fun _ => ⟨rfl, rfl, rfl⟩, fun c l => ?_⟩
    exact ⟨congrArg (fun x => (Tbl.read x l).valid) (hl c), congrArg (fun x => (Tbl.read x l).data) (hl c)⟩

/-! ### EXIT (R96) -/

/-- What EXIT does to the PC table of its troupe. -/
def exitTroupe (m : Mask) (t : Troupe) : Troupe := { t with pt := t.pt.put m .exited }

theorem pc_exitTroupe (m : Mask) (t : Troupe) (l : Nat) : (exitTroupe m t).pt.pc l = t.pt.pc l := rfl

theorem state_exitTroupe (m : Mask) (t : Troupe) {l : Nat} (h : l < 64) :
    (exitTroupe m t).pt.state l = if inMask m l = true then .exited else t.pt.state l := PcTable.state_put _ _ _ h

theorem exec_exit (s : State) (f : Fields) :
    exec (.exit f) s = .next ((s.retire (exitTroupe (act s f))).orphanCheck s.cur.t) := rfl

theorem tr_exit (s : State) (f : Fields) :
    (s.retire (exitTroupe (act s f))).tr s.cur.t = exitTroupe (act s f) (s.curT.advance s.cur.run s.cur.pc) := s.tr_retire_self _

theorem exits_exitTroupe (s : State) (f : Fields) : Exits s f (exitTroupe (act s f) (s.curT.advance s.cur.run s.cur.pc)) :=
  fun _ hl => ⟨(pc_exitTroupe ..).trans (Troupe.pc_advance _ _ _ hl), state_exitTroupe _ _ hl⟩

theorem allExited_iff (t : Troupe) : t.allExited = true ↔ ∀ l, l < 64 → t.pt.state l = .exited := by
  simp [Troupe.allExited, lanes]

theorem allExited_exit (s : State) (f : Fields) :
    (exitTroupe (act s f) (s.curT.advance s.cur.run s.cur.pc)).allExited = true ↔ AllGone s f := by
  rw [allExited_iff]
  refine forall₂_congr fun l hl => ?_
  rw [(exits_exitTroupe s f l hl).2]
  by_cases h : inMask (act s f) l = true
  · simp [h]
  · simp [h]

/-- EXIT in a troupe without a fatal record looks for the end of its troupe. -/
theorem exec_exit_noFatal {s : State} {f : Fields} (h : AllGone s f → NoFatal s) :
    exec (.exit f) s = .next ((s.retire (exitTroupe (act s f))).endCheck s.cur.t) := by
  rw [exec_exit, orphanCheck_noFatal]
  rw [tr_exit]
  exact fun hx => h ((allExited_exit s f).1 hx)

/-- The state in which EXIT has ended its troupe, before its company is looked at. -/
def exitEnded (s : State) (f : Fields) : State := troupeEnded (s.retire (exitTroupe (act s f))) s.cur.t

section
variable {s : State} {f : Fields}

theorem endCheck_exit_stays (h : ¬ AllGone s f ∨ ∃ o ∈ s.curT.ops, o.recs ≠ []) :
    (s.retire (exitTroupe (act s f))).endCheck s.cur.t = s.retire (exitTroupe (act s f)) := by
  rcases h with h | h
  · refine State.endCheck_alive _ _ ?_
    rw [tr_exit, ← Bool.not_eq_true, allExited_exit]
    exact h
  · refine endCheck_recordInUse ?_
    rw [tr_exit]
    exact h

/-- The last of a troupe's threads has exited, and its records are free: the troupe ends. -/
theorem endCheck_exit_ends (hgone : AllGone s f) (hrec : ∀ o ∈ s.curT.ops, o.recs = []) (hq : Quiet s) (hr : s.curT.resident = true)
    (he : s.curT.ended = false) : (s.retire (exitTroupe (act s f))).endCheck s.cur.t =
      (exitEnded s f).releaseIfOver s.curT.company := by
  have hquiet : Quiet (s.retire (exitTroupe (act s f))) := quiet_retire hq fun _ => rfl
  refine (endCheck_ends (k := s.cur.t) hquiet ?_ ?_ ?_ ?_).trans ?_ <;> rw [tr_exit]
  · exact hr
  · exact he
  · exact (allExited_exit s f).2 hgone
  · exact hrec
  · rfl

end

/-- The company of an ended troupe is over when it is resident, and every other troupe and the calliope have ended. -/
theorem companyOver_iff (s : State) (k : Nat) : (troupeEnded s k).companyOver (s.tr k).company = true ↔
    (s.co (s.tr k).company).st = .resident ∧ ((s.co (s.tr k).company).calliopeDone = true ∨ isCalliope k = true) ∧
      ∀ x ∈ (s.co (s.tr k).company).slots, isCalliope x = true ∨ x = k ∨ (s.tr x).ended = true := by
  simp only [State.companyOver, co_troupeEnded_self, Bool.and_eq_true, beq_iff_eq, List.all_eq_true, Bool.or_eq_true, and_assoc,
    tr_troupeEnded]
  refine and_congr_right fun _ => and_congr_right fun _ => forall₂_congr fun x _ => or_congr_right ?_
  by_cases h : x = k <;> simp [h]

section
variable (s : State) (f : Fields)

theorem company_exit : ((s.retire (exitTroupe (act s f))).tr s.cur.t).company = s.curT.company := by rw [tr_exit]; rfl

theorem tr_exitEnded_self : (exitEnded s f).tr s.cur.t =
    { exitTroupe (act s f) (s.curT.advance s.cur.run s.cur.pc) with ended := true, spotlit := false } := by
  rw [exitEnded, tr_troupeEnded, if_pos rfl, tr_exit]

theorem tr_exitEnded_other {j : Nat} (hj : j ≠ s.cur.t) : (exitEnded s f).tr j = s.tr j := by
  rw [exitEnded, tr_troupeEnded, if_neg hj]
  exact s.tr_retire_other _ hj

theorem co_exitEnded_self : (exitEnded s f).co s.curT.company =
    { ourCo s with calliopeDone := (ourCo s).calliopeDone || isCalliope s.cur.t } := by
  have h := co_troupeEnded_self (s.retire (exitTroupe (act s f))) s.cur.t
  rwa [company_exit] at h

theorem co_exitEnded_other {j : Nat} (hj : j ≠ s.curT.company) : (exitEnded s f).co j = s.co j :=
  co_troupeEnded_other _ _ (by rwa [company_exit])

theorem cur_exitEnded : (exitEnded s f).cur = s.cur := by
  unfold exitEnded troupeEnded; dsimp only; split <;> rfl

theorem curT_exitEnded : (exitEnded s f).curT =
    { exitTroupe (act s f) (s.curT.advance s.cur.run s.cur.pc) with ended := true, spotlit := false } := by
  rw [State.curT, cur_exitEnded, tr_exitEnded_self]

theorem sameStore_exitEnded : SameStore s (exitEnded s f) :=
  SameStore.trans (t := s.retire (exitTroupe (act s f)))
    ⟨fun _ => ⟨rfl, rfl, rfl, rfl⟩, rfl, rfl, rfl, fun _ => ⟨rfl, rfl, rfl⟩, fun _ _ => ⟨rfl, rfl⟩⟩ (sameStore_troupeEnded _ _)

theorem companyOver_exit : (exitEnded s f).companyOver s.curT.company = true ↔
    (ourCo s).st = .resident ∧ ((ourCo s).calliopeDone = true ∨ isCalliope s.cur.t = true) ∧
      ∀ x ∈ (ourCo s).slots, isCalliope x = true ∨ x = s.cur.t ∨ (s.tr x).ended = true := by
  have h := companyOver_iff (s.retire (exitTroupe (act s f))) s.cur.t
  rw [company_exit] at h
  refine h.trans (and_congr_right fun _ => and_congr_right fun _ => forall₂_congr fun x _ => or_congr_right ?_)
  by_cases hx : x = s.cur.t
  · simp [hx]
  · rw [s.tr_retire_other _ hx]

end

/-- Settles O12: EXIT moves its run and its lanes' states; the end that it may bring is the troupe's, or the company's as well. -/
theorem exitResult : Obligations.ExitResult := by
  unfold Obligations.ExitResult
  intro s f c others recordsFree hfatal
  have hexec := exec_exit_noFatal hfatal
  refine ⟨fun h => ?_, fun hgone hrec hq hr he => ⟨fun h => ?_, fun hst hcal hoth => ?_⟩⟩
  · rw [endCheck_exit_stays h] at hexec
    have hcur : (s.retire (exitTroupe (act s f))).curT = _ := tr_exit s f
    refine ⟨_, hexec, onlyTroupe_retire s _, sameBytes_retire s _, ?_, ?_⟩
    · rw [Untouched, hcur]; rfl
    · rw [hcur]; exact exits_exitTroupe s f
  · have hover : ¬ (exitEnded s f).companyOver s.curT.company = true := by
      rw [companyOver_exit]
      rintro ⟨hres, hcal, hall⟩
      rcases h with h | ⟨hdone, hcalliope⟩ | ⟨x, hx, hnot, hne, hgoes⟩
      · exact h hres
      · simp [hdone, hcalliope] at hcal
      · simpa [hnot, hne, hgoes] using hall x hx
    rw [endCheck_exit_ends hgone hrec hq hr he] at hexec
    refine ⟨_, hexec.trans (congrArg _ (if_neg hover)), fun j hj => tr_exitEnded_other s f hj,
      fun pa => (sameStore_exitEnded s f).byteAt pa, ?_, ?_, fun j hj => co_exitEnded_other s f hj, co_exitEnded_self s f⟩
    · rw [curT_exitEnded]; exact exits_exitTroupe s f
    · rw [curT_exitEnded]; rfl
  · rw [endCheck_exit_ends hgone hrec hq hr he] at hexec
    obtain ⟨htr, hco, hstore⟩ := releaseSlots_frame (exitEnded s f) c
    rw [co_exitEnded_self s f] at htr
    refine ⟨_, hexec.trans (congrArg _ (if_pos ((companyOver_exit s f).2 ⟨hst, hcal, hoth⟩))), fun pa => ?_, ?_, fun j hj => ?_,
      fun x hx => ?_, fun j hj hjt => ?_⟩
    · have hsame := ((sameStore_exitEnded s f).trans hstore).trans
        (sameStore_modCo ((exitEnded s f).releaseSlots c) c fun x => { x with st := .released })
      exact hsame.byteAt pa
    · rw [State.co_modCo_self]
    · rw [State.co_modCo_other _ _ hj, hco j hj, co_exitEnded_other s f hj]
    · rw [tr_modCo, htr, if_pos hx]
    · rw [tr_modCo, htr, if_neg hj, tr_exitEnded_other s f hjt]

end Sys2Proof.Machine
end

section
/-!
PROOF. PERF and SNAP (R106, R255, R268, R269), of which the statement on the counters holds; and TLBI (R341, R342). TLBI keeps every byte of
memory where the table of the cores is canonical; the statement quantifies over every table, also over one that lists a core twice, and
there it fails.
-/
namespace Sys2Proof.Machine
open Sys2Proof Sys2Proof.Claims

/-! ### PERF (R106) -/

section
variable {s : State} {f : Fields}

theorem exec_perf_disabled (he : s.curT.enabled f.g = false) : exec (.perf f) s = .next (s.retire id) := by
  change execPerf f s = _
  simp [execPerf, he]

theorem exec_perf_unlisted (he : s.curT.enabled f.g = true) (hn : 0x16 < f.x.toNat) :
    exec (.perf f) s = .next (s.trapWord 8 1 (BitVec.ofNat 64 f.x.toNat)) := by
  change execPerf f s = _
  simp [execPerf, Fields.xn, he, hn]

theorem exec_perf_count (he : s.curT.enabled f.g = true) (hn : f.x.toNat ≤ 0x16) :
    exec (.perf f) s = .next (s.retire fun t => t.ws f.d.toNat (BitVec.ofNat 64 (perfCount t f.x.toNat))) := by
  change execPerf f s = _
  simp only [execPerf, Fields.xn, he, Nat.not_lt.2 hn, Bool.not_true, Bool.false_eq_true, if_false]
  refine congrArg (fun g => Host.Outcome.next (s.retire g)) (funext fun t => congrArg (fun v => t.ws f.d.toNat (BitVec.ofNat 64 v)) ?_)
  -- the stall reasons below 0x10, and the seven counters by name
  by_cases hlow : f.x.toNat < 0x10
  · rw [perfCount, if_pos hlow]
    split
    case h_8 => rfl
    all_goals omega
  · rw [perfCount, if_neg hlow]
    generalize f.x.toNat = n at hn hlow
    obtain ⟨i, rfl⟩ := Nat.exists_eq_add_of_le (Nat.le_of_not_lt hlow)
    have hi : i ≤ 6 := by omega
    interval_cases i <;> rfl

end

theorem perfResult : PerfResult := by
  intro s f
  rw [enabled_eq]
  refine ⟨fun he => noEffect_of_retire (exec_perf_disabled he), fun he hn => ?_, fun he hn => exec_perf_unlisted he hn⟩
  exact ⟨_, exec_perf_count he hn, issued_retire s fun t => t.pt_ws _ _, scalarResult_of_ws (State.curT_retire ..)⟩

/-! ### SNAP (R255, R268, R269) -/

/-- A trigger changes the snapshot alone: one begins in 32 cycles, or the one that is to begin is joined (R268). -/
theorem State.trigger_unlocked (s : State) (src : Nat) (h : s.snap.lock = false) : ∃ x : Snapshot,
    s.trigger src = { s with snap := x } ∧ x.latchAt = if s.snap.latchAt = 0 then s.clock + 32 else s.snap.latchAt := by
  unfold State.trigger
  by_cases h0 : s.snap.latchAt = 0
  · simp only [h, h0, Bool.false_eq_true, if_false, ne_eq, not_true, if_true]
    exact ⟨_, rfl, rfl⟩
  · simp only [h, h0, Bool.false_eq_true, if_false, ne_eq, not_false_iff, if_true]
    exact ⟨_, rfl, rfl⟩

section
variable {s : State} {f : Fields}

theorem exec_snap_disabled (he : s.curT.enabled f.g = false) : exec (.snap f) s = .next (s.retire id) := by
  change execSnap f s = _
  simp [execSnap, he]

theorem exec_snap_refused (he : s.curT.enabled f.g = true) (h : (s.ctx (s.ctxOf s.cur.t)).debug = false ∨ s.snap.lock = true) :
    exec (.snap f) s = .next (s.retire fun t => t.ws f.d.toNat 0) := by
  change execSnap f s = _
  rcases h with h | h <;> simp [execSnap, he, h]

theorem exec_snap_triggers (he : s.curT.enabled f.g = true) (hd : (s.ctx (s.ctxOf s.cur.t)).debug = true) (hl : s.snap.lock = false) :
    exec (.snap f) s = .next ((s.trigger 0).retire fun t => t.ws f.d.toNat (BitVec.ofNat 64 (s.snap.seq % 65535 + 1))) := by
  change execSnap f s = _
  simp [execSnap, Snapshot.nextSeq, he, hd, hl]

end

theorem snapResult : SnapResult := by
  intro s f
  rw [enabled_eq]
  refine ⟨fun he => noEffect_of_retire (exec_snap_disabled he), fun he h => ?_, fun he hd hl => ?_⟩
  · exact ⟨_, exec_snap_refused he h, issued_retire s fun t => t.pt_ws _ _, scalarResult_of_ws (State.curT_retire ..)⟩
  · obtain ⟨x, hx, hlatch⟩ := s.trigger_unlocked 0 hl
    have hexec := exec_snap_triggers he hd hl
    rw [hx] at hexec
    have hcur : (State.retire { s with snap := x } fun t => t.ws f.d.toNat (BitVec.ofNat 64 (s.snap.seq % 65535 + 1))).curT =
      (s.curT.advance s.cur.run s.cur.pc).ws f.d.toNat (BitVec.ofNat 64 (s.snap.seq % 65535 + 1)) := State.curT_retire ..
    refine ⟨_, hexec, rfl, fun j hj => State.tr_retire_other _ _ hj, ranOn_of_pt ?_, scalarResult_of_ws hcur, hlatch⟩
    rw [hcur, Troupe.pt_ws]

/-! ### TLBI (R342) -/

/-- Dropping translations keeps every byte of memory, where no core is listed twice. -/
theorem dropBlock_keeps_bytes (s : State) (ctx : Nat) (blk : Option (Nat × Nat)) (h : s.cores.wf = true) :
    SameBytes s (s.dropBlock ctx blk) := by
  have hl1 : ∀ c, ((s.dropBlock ctx blk).core c).l1 = (s.core c).l1 := fun c =>
    (congrArg (fun x : Core => x.l1) (Tbl.read_mapAll (fun _ x => { x with
      tlb := x.tlb.filter fun e => !meetsBlock ctx blk e.ctx e.va e.size
      itlb := x.itlb.filter fun e => !meetsBlock ctx blk e.ctx e.va e.size }) h rfl) :)
  exact SameStore.byteAt ⟨fun _ => ⟨rfl, rfl, rfl, rfl⟩, rfl, rfl, rfl, fun _ => ⟨rfl, rfl, rfl⟩,
    fun c l => ⟨by rw [hl1], by rw [hl1]⟩⟩

/-- A core that holds a translation of context 0, and one that holds line 0. -/
def coreWithEntry : Core := { (default : Core) with tlb := [default] }
def coreWithLine : Core := { (default : Core) with l1 := [(0, { (default : L1Line) with valid := true, data := 1 })] }

/-- Core 0 is listed twice: first as it holds a translation, then as it holds line 0, which it owns. Context 0 has the right to TLBI. -/
def twiceListedOwner : State := { State.reset with
  cores := [(0, coreWithEntry), (0, coreWithLine)]
  slices := [(0, { (default : SLine) with owner := 1 })]
  contexts := [(0, { (default : Ctx) with desc := some { (default : CtxDesc) with tlbiok := true } })] }

/-- The word TLBI.ALL, unguarded. -/
def tlbiAll : Fields := { (default : Fields) with md := 1, g := 7 }

/-- The right of TLBI, as the descriptor of context 0 holds it. -/
def tlbiRight : CtxDesc := { (default : CtxDesc) with tlbiok := true }

/-- The owner's line 0, in the entry of core 0 that is read, is not valid; the byte is the slice's. -/
theorem twiceListedOwner_byte : twiceListedOwner.byteAt 0 = 0 := by decide +kernel

theorem twiceListedOwner_enabled : enabled twiceListedOwner tlbiAll = true := by decide +kernel

/-- TLBI.ALL of a context with the right drops every translation of the context. -/
theorem exec_tlbiAll : ∃ t, exec (.tlbi tlbiAll) twiceListedOwner = .next t ∧ t.byteAt 0 = 1 := by
  refine ⟨_, rfl, ?_⟩
  decide +kernel

/-- Refutes O30: its clause that TLBI changes no byte of memory. Of the two entries of core 0 in `twiceListedOwner`, the first, which holds a
translation alone, is read before TLBI.ALL and drops out of the table at it, so that the second is read after it: there the core holds line
0, which it owns, with byte 0 one. The clauses on PERF and SNAP hold (`perfResult`, `snapResult`), and where no core is listed twice the
drop changes no byte (`dropBlock_keeps_bytes`). -/
theorem not_counterWords : ¬ Obligations.CounterWords := by
  unfold Obligations.CounterWords
  rintro ⟨-, -, htlbi⟩
  obtain ⟨-, hright, -⟩ := htlbi twiceListedOwner tlbiAll tlbiRight rfl
  obtain ⟨t, ht, -, -, hbytes, -⟩ := hright twiceListedOwner_enabled rfl
  obtain ⟨t', ht', hbyte⟩ := exec_tlbiAll
  obtain rfl : t = t' := Host.Outcome.next.inj (ht.symm.trans ht')
  have hkept : t.byteAt 0 = twiceListedOwner.byteAt 0 := hbytes 0
  rw [hbyte, twiceListedOwner_byte] at hkept
  exact absurd hkept (by decide)

end Sys2Proof.Machine
end

section
/-!
PROOF. The events of a troupe (R77, R79, R83, R98, R168 to R172, R340): its deferred trap, its replay, its fetch again, its sleepers, its
place, and the save of its company for the host.
-/
namespace Sys2Proof.Machine
open Sys2Proof Sys2Proof.Claims

/-! ### The deferred trap (R79, R83) -/

section
variable {s : State} {k : Nat} {d : DTrap} (hdue : s.trapDue k = true) (hnext : (s.tr k).nextTrap = some d)
include hdue hnext

/-- The oldest deferred trap leaves the troupe's list: at level 1 the context ends, a troupe that has exited leaves it to the host, and any
other troupe takes it at its head run. -/
theorem exec_deferredTrap : exec (.deferredTrap k) s =
    let u := s.setTr k { s.tr k with dtraps := (s.tr k).dtraps.erase d }
    if d.level = 1 then .next (u.startEnd (u.ctxOf k) 1 (BitVec.ofNat 64 (d.cause + 256 * d.detail + 65536 * d.record)))
    else if (s.tr k).allExited then .next (u.frqRaise {
      type := 3, cls := if d.cause = 6 then d.detail else 0, rflags := 16, ctx := u.ctxOf k, detail := d.detail
      va := d.value, place := whereOf k, value := d.value })
    else .next ((u.takeTrap k {
      cause := d.cause, detail := d.detail, record := d.record, value := d.value, word := d.word
      resume := (s.tr k).headRun.2, run := (s.tr k).headRun.1, seq := (s.tr k).issueseq.toNat }).orphanCheck k) := by
  change execDeferredTrap k s = _
  simp only [execDeferredTrap, hdue, hnext, Bool.not_true, Bool.false_eq_true, if_false]

end

/-! ### The save for the host (R340) -/

/-- The companies of a list begin to be saved as one group. -/
theorem foldl_modCo_clock (s : State) (ms : List Nat) :
    ms.foldl (fun (x : State) j => x.modCo j fun c => { c with st := .saving, group := x.clock + 1 }) s =
      ms.foldl (fun (x : State) j => x.modCo j fun c => { c with st := .saving, group := s.clock + 1 }) s := by
  suffices h : ∀ u : State, u.clock = s.clock →
      ms.foldl (fun (x : State) j => x.modCo j fun c => { c with st := .saving, group := x.clock + 1 }) u =
        ms.foldl (fun (x : State) j => x.modCo j fun c => { c with st := .saving, group := s.clock + 1 }) u from h s rfl
  induction ms with
  | nil => exact fun _ _ => rfl
  | cons m ms ih =>
    intro u hu
    rw [List.foldl_cons, List.foldl_cons, hu]
    exact ih _ hu

/-- A save's next step, by what its company's work and save area allow. -/
theorem saveStep_of_saveGoesOn {s t : State} {k : Nat} (h : SaveGoesOn s k t) : s.saveStep k = t := by
  obtain ⟨hst, hstuck, hend, hcase⟩ := h
  simp only [State.saveStep, hst, hstuck, hend, ne_eq, not_true, decide_false, Bool.or_self, Bool.false_eq_true, if_false]
  rcases hcase with ⟨hsettled, rfl⟩ | ⟨hsettled, hsave, rfl⟩ | ⟨hsettled, hsave, u, hreach⟩
  · simp [hsettled]
  · simp [hsettled, hsave]
  · simp only [hsettled, hsave, Bool.not_true, Bool.false_eq_true, if_false]
    rcases hreach with ⟨hreach, rfl⟩ | ⟨f, hreach, rfl⟩ | ⟨ps, hreach, rfl⟩
    · rw [hreach]
    · rw [hreach]
    · rw [hreach]
      rfl

theorem exec_hostTrap {s : State} {k : Nat} (hr : (s.tr k).resident = true) (hst : (s.co (s.tr k).company).st = .saving)
    (htrap : (s.co (s.tr k).company).hostTrap ≠ 0) : exec (.hostTrap k) s =
    let m := (s.tr k).company
    let x := if SavedBeside s m = [] then s else
      (m :: SavedBeside s m).foldl (fun (x : State) j => x.modCo j fun c => { c with st := .saving, group := s.clock + 1 }) s
    .next (x.saveStep m) := by
  change execHostTrap k s = _
  simp only [execHostTrap, hr, hst, htrap, Bool.not_true, ne_eq, not_true, decide_false, Bool.or_self, Bool.false_eq_true, if_false]
  rw [foldl_modCo_clock]
  exact congrArg (fun x : State => Host.Outcome.next (x.saveStep (s.tr k).company)) (if_congr List.isEmpty_iff rfl rfl)

/-! ### The replay (R77) and the fetch again (R84) -/

@[simp] theorem State.tr_dropStale (s : State) (k j : Nat) (p : Park) : (s.dropStale k p).tr j = s.tr j := by
  unfold State.dropStale
  split <;> rfl

@[simp] theorem State.clock_dropStale (s : State) (k : Nat) (p : Park) : (s.dropStale k p).clock = s.clock := by
  unfold State.dropStale
  split <;> rfl

theorem State.tr_usePort_self (s : State) (k : Nat) : (s.usePort k).tr k = { s.tr k with issuedAt := s.clock + 1 } := by
  unfold State.usePort
  dsimp only
  rw [State.tr_modTr_self]
  split <;> rfl

/-- An operation that is in flight is read as it was put back. -/
theorem State.op_setOp_self {s : State} {k : Nat} {o x : MemOp} (h : s.op k o.seq = some x) : (s.setOp k o).op k o.seq = some o := by
  have hseq : ∀ y : MemOp, (if y.seq == o.seq then o else y).seq = y.seq := fun y => by
    split
    next hy => exact (beq_iff_eq.1 hy).symm
    next => rfl
  have hx : x.seq == o.seq := List.find?_some (p := fun y : MemOp => y.seq == o.seq) h
  rw [State.op] at h
  rw [State.op, State.setOp, State.tr_modTr_self, List.find?_map]
  have hsame : (fun y : MemOp => y.seq == o.seq) ∘ (fun y : MemOp => if y.seq == o.seq then o else y) = fun y => y.seq == o.seq :=
    funext fun y => by rw [Function.comp_apply, hseq]
  rw [hsame, h, Option.map_some, if_pos hx]

theorem replayedOp_seq (o : MemOp) : (replayedOp o).seq = o.seq := by
  unfold replayedOp
  split <;> rfl

/-- The state in which a replay performs its lines: the port used, the cycle and the replay counted, the operation's park over. -/
def replayStart (s : State) (k : Nat) (o : MemOp) : State :=
  (((s.dropStale k (o.park.getD default)).usePort k).modTr k fun t => { t.stall 7 with replays := t.replays + 1 }).setOp k
    { replayedOp o with park := none, stuck := [], replayed := true }

section
variable {s : State} {k q : Nat} {o : MemOp}

theorem exec_encoreReplay (hready : (s.tr k).readyOp = some o) (hq : o.seq = q) (hdue : s.replayDue k = true) : exec (.encoreReplay k q) s =
    .next ((replayedOp o).lines.foldl (fun (x : State) l => x.performLine k q l) (replayStart s k o)) := by
  change execEncoreReplay k q s = _
  simp only [execEncoreReplay, hready, hq, hdue, ne_eq, not_true, decide_false, Bool.not_true, Bool.or_self, Bool.false_eq_true, if_false]
  rfl

/-- The troupe as its replay begins, but for the operation that is put back. -/
theorem tr_replayStart : (replayStart s k o).tr k = { ({ s.tr k with issuedAt := s.clock + 1 } : Troupe).stall 7 with
    replays := (s.tr k).replays + 1, ops := ((replayStart s k o).tr k).ops } := by
  rw [replayStart, State.setOp, State.tr_modTr_self, State.tr_modTr_self, State.tr_usePort_self, State.tr_dropStale, State.clock_dropStale]

theorem op_replayStart (hready : (s.tr k).readyOp = some o) (hq : o.seq = q) :
    (replayStart s k o).op k q = some { replayedOp o with park := none, stuck := [], replayed := true } := by
  have hmem : o ∈ (s.tr k).ops := List.mem_of_find?_eq_some hready
  obtain ⟨x, hx⟩ := Option.isSome_iff_exists.1 (List.find?_isSome.2 ⟨o, hmem, beq_iff_eq.2 rfl⟩ :
    ((s.tr k).ops.find? fun y => y.seq == o.seq).isSome)
  have hseq : ({ replayedOp o with park := none, stuck := [], replayed := true } : MemOp).seq = q := (replayedOp_seq o).trans hq
  rw [replayStart, ← hseq]
  refine State.op_setOp_self (x := x) ?_
  rw [State.op, State.tr_modTr_self, State.tr_usePort_self, State.tr_dropStale, hseq, ← hq]
  exact hx

end

theorem exec_fetchRetry {s : State} {k : Nat} {h : FetchHold} (hmem : h ∈ (s.tr k).holds) (hready : h.park.state = .ready) :
    ∃ u : State, u.tr k = s.tr k ∧
      exec (.fetchRetry k) s = .next (u.modTr k fun t => { t with holds := t.holds.filter fun h => h.park.state != .ready }) := by
  have hdue : ((s.tr k).holds.filter fun h => h.park.state == .ready).isEmpty = false :=
    List.isEmpty_eq_false_iff_exists_mem.2 ⟨h, List.mem_filter.2 ⟨hmem, beq_iff_eq.2 hready⟩⟩
  have htr : ∀ (hs : List FetchHold) (u : State), (hs.foldl (fun (s : State) h => s.dropStale k h.park) u).tr k = u.tr k := by
    intro hs
    induction hs with
    | nil => exact fun _ => rfl
    | cons h hs ih => exact fun u => (ih _).trans (u.tr_dropStale k k h.park)
  refine ⟨_, htr ((s.tr k).holds.filter fun h => h.park.state == .ready) s, ?_⟩
  change execFetchRetry k s = _
  simp only [execFetchRetry, hdue, Bool.false_eq_true, if_false]

/-! ### The sleepers (R98) -/

theorem PcTable.inMask_awake (p : PcTable) (clock : Nat) {l : Nat} (h : l < 64) :
    inMask (p.awake clock) l = (p.state l == .sleep && decide (p.wake.read l ≤ clock)) :=
  inMask_maskOf _ h

theorem PcTable.state_withWake (p : PcTable) (w : Tbl Nat) (l : Nat) : ({ p with wake := w } : PcTable).state l = p.state l := rfl

/-- The sleepers whose count has elapsed are in the state they wake to; the others stay as they are. -/
theorem PcTable.state_wakeDue (p : PcTable) (clock : Nat) (x : TState) {l : Nat} (h : l < 64) :
    (p.wakeDue clock x).state l = if p.state l = .sleep ∧ p.wake.read l ≤ clock then x else p.state l := by
  have hput : (p.wakeDue clock x).state l = if inMask (p.awake clock) l then x else p.state l := by
    by_cases hnone : p.awake clock = 0
    · rw [hnone, inMask_zero, if_neg Bool.false_ne_true]
      exact congrArg (PcTable.state · l) (if_pos hnone)
    · refine (congrArg (PcTable.state · l) (if_neg hnone)).trans ?_
      rw [PcTable.state_withWake]
      exact PcTable.state_put _ _ _ h
  rw [hput, PcTable.inMask_awake _ _ h]
  exact if_congr (by rw [Bool.and_eq_true, beq_iff_eq, decide_eq_true_iff]) rfl rfl

theorem exec_sleepExpiry {s : State} {k : Nat} (h : (s.tr k).resident = true) : exec (.sleepExpiry k) s = .next (s.setTr k { s.tr k with
    pt := (s.tr k).pt.wakeDue s.clock (s.tr k).wakeTo
    shadow := if (s.tr k).level = 1 then (s.tr k).shadow.wakeDue s.clock .ready else (s.tr k).shadow }) := by
  change execSleepExpiry k s = _
  simp only [execSleepExpiry, h, Bool.not_true, Bool.false_eq_true, if_false]

/-! ### The places (R168 to R170) -/

/-- A troupe with the place of another, the cycles that go with it, and its reuse slots. -/
def Troupe.placedAs (t x : Troupe) : Troupe :=
  { t with place := x.place, since := x.since, idleUntil := x.idleUntil, lastIssue := x.lastIssue, reuse := x.reuse }

theorem onlyPlaces_iff (s t : State) :
    OnlyPlaces s t ↔ t = { s with troupes := t.troupes } ∧ ∀ j, t.tr j = (s.tr j).placedAs (t.tr j) := Iff.rfl

theorem onlyPlaces_refl (s : State) : OnlyPlaces s s := ⟨rfl, fun _ => rfl⟩

theorem onlyPlaces_trans {s t u : State} (h : OnlyPlaces s t) (h' : OnlyPlaces t u) : OnlyPlaces s u := by
  rw [onlyPlaces_iff] at h h' ⊢
  obtain ⟨hrest, htr⟩ := h
  obtain ⟨hrest', htr'⟩ := h'
  refine ⟨hrest'.trans (by rw [hrest]), fun j => (htr' j).trans ?_⟩
  exact congrArg (·.placedAs (u.tr j)) (htr j)

theorem onlyPlaces_modTr (s : State) (k : Nat) {g : Troupe → Troupe} (h : ∀ t, g t = t.placedAs (g t)) : OnlyPlaces s (s.modTr k g) := by
  refine ⟨rfl, fun j => ?_⟩
  by_cases hj : j = k
  · subst hj
    rw [State.tr_modTr_self]
    exact h _
  · rw [State.tr_modTr_other _ _ hj]

theorem swapPlace_of_incoming {s : State} {c a n : Nat} (k : Nat) (h : s.incoming c a = some n) : s.swapPlace c k a =
    (s.modTr k fun t => t.leavePlace s.clock).modTr n fun t => t.enterPlace ((s.tr k).place - 1) s.clock := by
  simp only [State.swapPlace, h]

theorem onlyPlaces_swapPlace (s : State) (c k a : Nat) : OnlyPlaces s (s.swapPlace c k a) := by
  cases h : s.incoming c a with
  | none =>
    simp only [State.swapPlace, h]
    exact onlyPlaces_refl s
  | some n =>
    rw [swapPlace_of_incoming k h]
    exact onlyPlaces_trans (onlyPlaces_modTr s k fun _ => rfl) (onlyPlaces_modTr _ n fun _ => rfl)

theorem tookPlace_swapPlace {s : State} {c a p k n : Nat} (hplace : (s.tr k).place = p + 1) (h : s.incoming c a = some n) (hne : n ≠ k) :
    TookPlace s (s.swapPlace c k a) p k n := by
  have hn : ((s.swapPlace c k a).tr n) = Troupe.enterPlace (s.tr n) p s.clock := by
    rw [swapPlace_of_incoming k h, State.tr_modTr_self, State.tr_modTr_other _ _ hne, hplace, Nat.add_sub_cancel]
  have hk : ((s.swapPlace c k a).tr k) = Troupe.leavePlace (s.tr k) s.clock := by
    rw [swapPlace_of_incoming k h, State.tr_modTr_other _ _ hne.symm, State.tr_modTr_self]
  rw [TookPlace, hn, hk]
  exact ⟨rfl, rfl, rfl, rfl⟩

/-- What stands in a place stands there by its own number. -/
theorem place_of_inPlace {s : State} {c p k : Nat} (h : s.inPlace c p = some k) : (s.tr k).place = p + 1 :=
  beq_iff_eq.1 (List.find?_some (p := fun j => (s.tr j).place == p + 1) h)

section
variable {s : State} {c p k : Nat} (h : s.inPlace c p = some k)
include h

theorem turnPlace_of_longStalled (hl : s.longStalled k = true) : s.turnPlace c p = s.swapPlace c k 0 := by
  simp only [State.turnPlace, h, hl, if_true]

theorem turnPlace_of_tenure (hl : s.longStalled k = false) (ht : (s.tr k).since + 1024 ≤ s.clock) :
    s.turnPlace c p = s.swapPlace c k (s.prioOf k) := by
  simp only [State.turnPlace, h, hl, ht, Bool.false_eq_true, if_false, if_true]

theorem turnPlace_keeps (hl : s.longStalled k = false) (ht : s.clock < (s.tr k).since + 1024) : s.turnPlace c p = s := by
  simp only [State.turnPlace, h, hl, Nat.not_le.2 ht, Bool.false_eq_true, if_false]

theorem exec_tenureExpiry (ht : (s.tr k).since + 1024 ≤ s.clock) :
    exec (.tenureExpiry c p) s = .next (s.swapPlace c k (s.prioOf k)) := by
  change execTenureExpiry c p s = _
  simp only [execTenureExpiry, h, ht, if_true]

end

theorem onlyPlaces_turnPlace (s : State) (c p : Nat) : OnlyPlaces s (s.turnPlace c p) := by
  unfold State.turnPlace
  split
  · -- an empty place is filled, where a troupe is pending
    dsimp only
    split
    · exact onlyPlaces_modTr s _ fun _ => rfl
    · exact onlyPlaces_refl s
  · -- a place that is held is swapped, or kept
    split
    · exact onlyPlaces_swapPlace ..
    split
    · exact onlyPlaces_swapPlace ..
    · exact onlyPlaces_refl s

theorem onlyPlaces_foldl (c : Nat) (ps : List Nat) (s : State) :
    OnlyPlaces s (ps.foldl (fun (x : State) p => x.turnPlace c p) s) := by
  induction ps generalizing s with
  | nil => exact onlyPlaces_refl s
  | cons p ps ih => exact onlyPlaces_trans (onlyPlaces_turnPlace s c p) (ih _)

end Sys2Proof.Machine

namespace Sys2Proof
open Sys2Proof.Machine Sys2Proof.Claims

/-- Settles O41: each event of a troupe by the lemma that says what it answers. -/
theorem troupeEvents : Obligations.TroupeEvents := by
  unfold Obligations.TroupeEvents
  intro s k
  refine ⟨fun d hdue hnext => ?_, fun v hr hst htrap hsave => ?_, fun q o hready hq hdue => ?_, fun h hmem hready => ?_, fun hr => ?_,
    fun c => ?_, fun c p => ?_⟩
  · have hexec := exec_deferredTrap hdue hnext
    refine ⟨fun hl => hexec.trans (if_pos hl), fun hl hexited => hexec.trans ((if_neg hl).trans (if_pos hexited)), fun hl hexited => ?_⟩
    exact hexec.trans ((if_neg hl).trans (if_neg (by rw [hexited]; exact Bool.false_ne_true)))
  · exact (exec_hostTrap hr hst htrap).trans (congrArg _ (saveStep_of_saveGoesOn hsave))
  · have htr := tr_replayStart (s := s) (k := k) (o := o)
    refine ⟨_, exec_encoreReplay hready hq hdue, replayStart s k o, op_replayStart hready hq, ?_, ?_, ?_, rfl⟩
    · rw [htr]
    · rw [htr]; rfl
    · rw [htr]; exact Tbl.read_write_self ..
  · obtain ⟨u, hu, hexec⟩ := exec_fetchRetry hmem hready
    refine ⟨_, hexec, fun x hx => ?_⟩
    rw [State.tr_modTr_self, hu] at hx
    obtain ⟨hx, hwaits⟩ := List.mem_filter.1 hx
    exact ⟨hx, bne_iff_ne.1 hwaits⟩
  · refine ⟨_, exec_sleepExpiry hr, ⟨rfl, fun j hj => s.tr_setTr_other _ hj⟩, fun l hl => ?_⟩
    rw [State.tr_setTr_self]
    exact PcTable.state_wakeDue _ _ _ hl
  · exact ⟨_, rfl, onlyPlaces_foldl c _ s, rfl⟩
  · refine ⟨fun n hout hcase hne => ?_, fun hout hl ht => turnPlace_keeps hout hl ht, fun n hout ht hin hne => ?_⟩
    · refine ⟨onlyPlaces_turnPlace s c p, ?_⟩
      rcases hcase with ⟨hl, hin⟩ | ⟨hl, ht, hin⟩
      · rw [turnPlace_of_longStalled hout hl]
        exact tookPlace_swapPlace (place_of_inPlace hout) hin hne
      · rw [turnPlace_of_tenure hout hl ht]
        exact tookPlace_swapPlace (place_of_inPlace hout) hin hne
    · exact ⟨_, exec_tenureExpiry hout ht, onlyPlaces_swapPlace .., tookPlace_swapPlace (place_of_inPlace hout) hin hne⟩

end Sys2Proof
end

section
/-!
PROOF. An issue cycle runs the instruction that the bytes at the PC of the picked run decode to (R67, R68, R140).
-/
namespace Sys2Proof.Machine
open Sys2Proof Sys2Proof.Claims

/-! ### The word that is issued -/

/-- The next word of a troupe is one that the troupe's decoder passes. -/
theorem decodeFor_of_word {v u : State} {k : Nat} {p : Pick} {w : IWord} {i : Instr} (h : v.nextWord k = (.word p w i, u)) :
    decodeFor (isCalliope k) (v.tr k).nregs w = .ok i := by
  unfold State.nextWord at h
  dsimp only at h
  -- no run, a run that a fetch fault holds, and a fetch that waits or faults give no word
  split at h
  · split at h <;> cases h
  split at h
  · cases h
  split at h
  · cases h
  · cases h
  -- a word that the decoder refuses is not issued, nor is one that a hold stops
  split at h
  · split at h <;> cases h
  rename_i hpassed
  split at h
  · cases h
  -- ACCALLOC is issued as it stands or once it is decided
  split at h
  · split at h
    · cases h
      exact hpassed
    · split at h
      · cases h
      · cases h
        exact hpassed
  · cases h
    exact hpassed

/-- A decoded word that nothing holds is the troupe's next word. -/
theorem nextWord_of_fetchWord {s u : State} {k : Nat} {p : Pick} {w : IWord} {i : Instr}
    (hpick : (s.tr k).pt.pick (s.tr k).heldThreads = some p) (hholds : ∀ h ∈ (s.tr k).holds, h.pc ≠ p.pc)
    (hfetch : s.fetchWord k p.pc = (.ok w, u)) (hdec : decodeFor (isCalliope k) (s.tr k).nregs w = .ok i)
    (hacc : ∀ f, i ≠ .accalloc f) (hfree : u.holdReason k i p.run = none) : s.nextWord k = (.word p w i, u) := by
  have hfind : ((s.tr k).holds.find? fun h => h.pc == p.pc) = none :=
    List.find?_eq_none.2 fun h hmem => by simpa using hholds h hmem
  have hhead : (u.allHolds k i p.run).head? = none := hfree
  simp only [State.nextWord, hpick, hfind, hfetch, hdec, hhead]

/-- The step issues what the ports choose. -/
theorem runs_of_chooseIssue {s u : State} {k : Nat} {p : Pick} {w : IWord} {i : Instr} (hturn : IssueTurn s)
    (h : State.chooseIssue s.ports s = (some (k, .word p w i), u)) : Runs s u k p w i := by
  have hstep : step s = u.issueWord k p w i := by rw [step_of_issueTurn hturn, State.issueCycle, h]
  unfold State.issueWord at hstep
  refine ⟨fun t ht => ?_, fun x hx => ?_, fun x hx => ?_⟩
  · rw [hstep, ht]
  · rw [hstep, hx]
  · rw [hstep, hx]

/-! ### The word in the instruction cache and in a present line (R140) -/

section
variable (s : State) (l : Nat)

/-- The limit on the lines in state last changes no line's data. -/
theorem State.sline_limitLast (j : Nat) :
    ((s.limitLast l).sline j).present = (s.sline j).present ∧ ((s.limitLast l).sline j).data = (s.sline j).data := by
  unfold State.limitLast
  split
  · exact ⟨rfl, rfl⟩
  dsimp only
  split
  · exact ⟨rfl, rfl⟩
  split
  · rw [State.sline_modSline]
    split
    next h => exact h ▸ ⟨rfl, rfl⟩
    next => exact ⟨rfl, rfl⟩
  · exact ⟨rfl, rfl⟩

/-- An access's hint changes no line's data. -/
theorem State.sline_hintLine (hint j : Nat) :
    ((s.hintLine l hint).sline j).present = (s.sline j).present ∧ ((s.hintLine l hint).sline j).data = (s.sline j).data := by
  obtain ⟨hpresent, hdata⟩ := (s.modSline l fun y => y.hinted hint).sline_limitLast l j
  rw [State.hintLine, hpresent, hdata, State.sline_modSline]
  split
  next h => exact h ▸ ⟨rfl, rfl⟩
  next => exact ⟨rfl, rfl⟩

end

section
variable {u : State} {w : Asker} {e : TlbEntry} {pa x : Nat}

/-- A fetch is performed at the home of a line that its slice holds. -/
theorem atHome_fetch_of_present (hpresent : (u.sline (pa / 128)).present = true) (hcheck : u.homeCheck e pa .fetch = .ok x) (hint : Nat) :
    u.atHome w e pa .fetch hint = (.ok (), u.hintLine (pa / 128) hint) := by
  have hheld : u.held (pa / 128) = true := by rw [State.held, hpresent, Bool.true_or]
  simp [State.atHome, hcheck, hheld]

/-- A fetch of a present line that does not wait yet lands with no fill's data. -/
theorem arrive_fetch_of_present {va : W64} (hflight : u.flightOf w (va.toNat / 128) = none)
    (hpresent : (u.sline (pa / 128)).present = true) (hcheck : u.homeCheck e pa .fetch = .ok x) :
    u.arrive w va e pa .fetch 0 = (.ok none, (u.hintLine (pa / 128) 0).landFlight w (va.toNat / 128)) := by
  simp [State.arrive, hflight, atHome_fetch_of_present hpresent hcheck]

end

section
variable {s u : State} {k : Nat} {pc : W64} {e : TlbEntry} {pa : Nat} (hbuf : (s.tr k).ibuf = [])
  (hcarried : s.carried (.core (coreOf k)) (s.ctxOf k) (fetcher k pc) pc .fetch = (.ok (e, pa), u))
include hbuf hcarried

theorem fetchWord_of_cached (hvalid : ((u.core (coreOf k)).l1i.read (pa / 128)).valid = true) :
    (s.fetchWord k pc).1 = .ok (wordIn ((u.core (coreOf k)).l1i.read (pa / 128)).data pc.toNat) := by
  simp [State.fetchWord, hbuf, hcarried, hvalid]

theorem fetchWord_of_present {x : Nat} (hvalid : ((u.core (coreOf k)).l1i.read (pa / 128)).valid = false)
    (hflight : u.flightOf (fetcher k pc) (pc.toNat / 128) = none) (hpresent : (u.sline (pa / 128)).present = true)
    (hcheck : u.homeCheck e pa .fetch = .ok x) : (s.fetchWord k pc).1 = .ok (wordIn (u.sline (pa / 128)).data pc.toNat) := by
  obtain ⟨hkept, hdata⟩ := u.sline_hintLine (pa / 128) 0 (pa / 128)
  have hline : State.homeLineData ((u.hintLine (pa / 128) 0).landFlight (fetcher k pc) (pc.toNat / 128)) (pa / 128) =
      (u.sline (pa / 128)).data := by
    change (if ((u.hintLine (pa / 128) 0).sline (pa / 128)).present then ((u.hintLine (pa / 128) 0).sline (pa / 128)).data else _) = _
    rw [hkept, hpresent, hdata]
    exact if_pos rfl
  simp [State.fetchWord, hbuf, hcarried, hvalid, arrive_fetch_of_present hflight hpresent hcheck, hline]

end

/-- Settles O53: what the ports choose is a word that the decoder has passed, and `issueWord` runs it; a fetch reads the L1 instruction
cache, or the home's line, whose data its hint leaves alone. -/
theorem stepRunsDecoded : Obligations.StepRunsDecoded := by
  unfold Obligations.StepRunsDecoded
  refine ⟨fun s u k p w i hturn hchoose => ?_, fun s u k ks p w i hturn hports hpick hholds hfetch hdec hacc hfree => ?_,
    fun s u k pc e pa hbuf hcarried => ⟨fetchWord_of_cached hbuf hcarried, fun x hvalid hflight hpresent hcheck =>
      fetchWord_of_present hbuf hcarried hvalid hflight hpresent hcheck⟩⟩
  · obtain ⟨v, hv⟩ := nextWord_of_chooseIssue hchoose
    exact ⟨runs_of_chooseIssue hturn hchoose, v, congrArg Prod.fst hv, decodeFor_of_word hv⟩
  · refine runs_of_chooseIssue hturn ?_
    rw [hports, State.chooseIssue, nextWord_of_fetchWord hpick hholds hfetch hdec hacc hfree]

end Sys2Proof.Machine
end

section
/-!
PROOF. Loads, stores and layout accesses at issue (R141, R143, R145, R149, R151).
-/
namespace Sys2Proof.Machine
open Sys2Proof Sys2Proof.Claims

/-! ### Addresses and captured data (R143, R145) -/

/-- What a table of lanes holds for a lane of the set. -/
theorem read_laneTable {α : Type} [Inhabited α] [DecidableEq α] {act : Mask} (g : Nat → α) {l : Nat} (hl : l < 64)
    (ha : inMask act l = true) : (laneTable act g).read l = g l :=
  (Tbl.read_writeLanes_zero [] act g hl).trans (if_pos ha)

theorem onLanes_laneTable {α : Type} [Inhabited α] [DecidableEq α] {s : State} {f : Fields} {g h : Nat → α}
    (hgh : ∀ l, l < 64 → inMask (act s f) l → g l = h l) : OnLanes s f (laneTable (act s f) g) h :=
  fun l hl ha => (read_laneTable g hl ha).trans (hgh l hl ha)

/-- The low bits of a number are all that its signed reading sees (R13). -/
theorem signedOf_mod (n v : Nat) : signedOf n (v % 2 ^ n) = signedOf n v := by
  simp only [signedOf, Nat.mod_mod]

/-- The signed offset in the low 24 bits of X. -/
theorem ofInt_ofs (f : Fields) : BitVec.ofInt 64 (f.ofs 24) = offset f 24 := by
  rw [offset, ← ofInt_signedOf (by decide), BitVec.toNat_setWidth, signedOf_mod]
  rfl

/-- The sum that the model forms is the one of R143, KIND by KIND. -/
theorem laneSum_eq (s : State) (f : Fields) (scratch : Bool) (l : Nat) :
    laneSum f scratch (s.curT.rs64 f.a.toNat) (laneSource f scratch s.curT l) = laneEa s f scratch l := by
  unfold laneSum laneSource laneEa
  rw [ofInt_ofs]
  rcases f.kind with _ | _ | _ | k
  · cases scratch <;> simp [BitVec.ofNat_toNat]
  · rfl
  · simp [BitVec.ofNat_toNat]
  · simp [ofInt_signedOf]

/-- The draw that a store rounds with; none where it does not round under RS (R29, R145). -/
theorem draws_store (s : State) (f : Fields) {l : Nat} (hl : l < 64) (ha : inMask (act s f) l = true) :
    (drawLanes (if storeDraws f true then 1 else 0) (act s f) s.curT).1.read l =
      if storeDraws f true then (steps 1 (s.curT.rs.read l)).toNat else 0 := by
  by_cases h : storeDraws f true = true
  · rw [if_pos h, if_pos h]
    exact draws_drawLanes (j := 0) _ hl ha Nat.one_pos
  · rw [if_neg h, if_neg h, drawLanes_zero]; rfl

/-! ### The operation at issue (R149, R151) -/

/-- The address of a lane of an access, and the half of its byte: from the layout word, or from the sum (R143, R149). -/
def accessAddr (s : State) (f : Fields) (scratch : Bool) (l : Nat) : W64 × Bool :=
  if scratch && f.kind == 3 then layoutAddr (isNibble f) (s.curT.layWord f.a.toNat) (laneSource f scratch s.curT l)
  else nibbleAddr (isNibble f) (laneSum f scratch (s.curT.rs64 f.a.toNat) (laneSource f scratch s.curT l))

theorem accessAddr_sum {s : State} {f : Fields} {scratch : Bool} (h : (scratch && f.kind == 3) = false) (l : Nat) :
    accessAddr s f scratch l = (byteOfSum f (laneEa s f scratch l), halfOfSum f (laneEa s f scratch l)) := by
  rw [accessAddr, h, if_neg Bool.false_ne_true, laneSum_eq, nibbleAddr_eq]

theorem accessAddr_layout {s : State} {f : Fields} (h : f.kind = 3) (l : Nat) :
    accessAddr s f true l = layoutAddr (isNibble f) (s.curT.layWord f.a.toNat) (s.curT.rv f.b.toNat l).toNat := by
  simp [accessAddr, laneSource, h]

section
variable {i : Instr} {s : State} {f : Fields} {store scratch : Bool}

/-- LD, ST, LDS and STS share one meaning. -/
theorem exec_of_laneWord (h : laneWord i = some (f, store, scratch)) : ∃ n, exec i s = accessExec i f store scratch n s := by
  unfold laneWord at h
  split at h <;> cases h <;> exact ⟨_, rfl⟩

/-- With an active lane, and in the layout form with a good layout word, an access issues its operation. -/
theorem accessExec_acting {n : Nat} (h : act s f ≠ 0)
    (hlay : (scratch && f.kind == 3 && layoutBad f (s.curT.layWord f.a.toNat)) = false) :
    accessExec i f store scratch n s = .next (s.launchWith (laneAccess i f store scratch (act s f) s).1
      (laneAccess i f store scratch (act s f) s).2 f (!store) n none) := by
  refine (if_neg h).trans ?_
  simp only [hlay, Bool.false_eq_true, if_false]
  rfl

theorem ours_laneAccess : Ours s i (laneAccess i f store scratch (act s f) s).2 := by
  cases store <;> exact ours_newOp s i _

theorem addr_laneAccess : (laneAccess i f store scratch (act s f) s).2.addr =
    laneTable (act s f) fun l => (accessAddr s f scratch l).1 := by
  cases store <;> rfl

theorem nib_laneAccess : (laneAccess i f store scratch (act s f) s).2.nib =
    laneTable (act s f) fun l => (accessAddr s f scratch l).2 := by
  cases store <;> rfl

theorem dat_laneAccess : (laneAccess i f true scratch (act s f) s).2.dat = laneTable (act s f) fun l =>
    storeValue f ((drawLanes (if storeDraws f true then 1 else 0) (act s f) s.curT).1.read l) (laneData f s.curT f.e.toNat l) := by
  have hdraws : storeDraws f true = (true && bitOf f.mdn 0 && bitsOf f.xn 30 28 == 4) := rfl
  rw [hdraws]
  rfl

/-- The generators of the acting lanes step once where a store rounds under RS, and the others stand (R145). -/
theorem rs_laneAccess {l : Nat} (hl : l < 64) : (laneAccess i f store scratch (act s f) s).1.read l =
    if inMask (act s f) l then steps (if storeDraws f store then 1 else 0) (s.curT.rs.read l) else s.curT.rs.read l :=
  rs_drawLanes _ _ _ hl

/-- An access that issues its operation is in flight with what its operation has captured. -/
theorem joins_access {P : MemOp → Prop} (hi : laneWord i = some (f, store, scratch)) (h : act s f ≠ 0)
    (hlay : (scratch && f.kind == 3 && layoutBad f (s.curT.layWord f.a.toNat)) = false)
    (hP : ∀ fl rc, P { (laneAccess i f store scratch (act s f) s).2 with flags := fl, recs := rc }) :
    Joins i f (!store) false none (if storeDraws f store then 1 else 0) s P := by
  obtain ⟨n, hexec⟩ := exec_of_laneWord (s := s) hi
  exact joins_of_launch (hexec.trans (accessExec_acting h hlay)) ours_laneAccess hP fun _ hl => rs_laneAccess hl

end

theorem accessIssue : AccessIssue := by
  intro i s f store scratch hi
  obtain ⟨n, hexec⟩ := exec_of_laneWord (s := s) hi
  refine ⟨fun h => noEffect_of_retire (hexec.trans (if_pos h)), fun h hform => ?_⟩
  have hlay : (scratch && f.kind == 3) = false := by
    simpa only [Bool.and_eq_false_imp, beq_eq_false_iff_ne, not_and] using hform
  refine joins_access hi h (by rw [hlay, Bool.false_and]) fun fl rc => ?_
  have haddr := onLanes_laneTable (s := s) (f := f) fun l _ _ => congrArg Prod.fst (accessAddr_sum (s := s) hlay l)
  have hnib := onLanes_laneTable (s := s) (f := f) fun l _ _ => congrArg Prod.snd (accessAddr_sum (s := s) hlay l)
  rw [← addr_laneAccess (i := i) (store := store)] at haddr
  rw [← nib_laneAccess (i := i) (store := store)] at hnib
  cases store
  · exact ⟨rfl, rfl, rfl, rfl, haddr, hnib, nofun, rfl, rfl⟩
  · refine ⟨rfl, rfl, rfl, rfl, haddr, hnib, fun _ => ?_, rfl, rfl⟩
    have hdat := onLanes_laneTable (s := s) (f := f) fun l hl ha =>
      congrArg (storeValue f · (laneData f s.curT f.e.toNat l)) (draws_store s f hl ha)
    rwa [← dat_laneAccess (i := i) (scratch := scratch)] at hdat

theorem layoutIssue : LayoutIssue := by
  intro i s f store hi hk h w at' hgood
  refine joins_access hi h (by rw [hgood, Bool.and_false]) fun fl rc => ?_
  have haddr := onLanes_laneTable (s := s) (f := f) fun l _ _ => congrArg Prod.fst (accessAddr_layout (s := s) hk l)
  have hnib := onLanes_laneTable (s := s) (f := f) fun l _ _ => congrArg Prod.snd (accessAddr_layout (s := s) hk l)
  rw [← addr_laneAccess (i := i) (store := store)] at haddr
  rw [← nib_laneAccess (i := i) (store := store)] at hnib
  cases store <;> exact ⟨rfl, haddr, hnib⟩

/-- Settles O16: one operation for each access, whose tables hold each acting lane's address, half and data. -/
theorem accessWords : Obligations.AccessWords :=
  ⟨accessIssue, layoutIssue⟩

end Sys2Proof.Machine
end

section
/-!
PROOF. The copies at issue: CPL (R157, R158), and CPT, CPS and LAYEX (R160 to R163, R354 to R356).
-/
namespace Sys2Proof.Machine
open Sys2Proof Sys2Proof.Claims

/-! ### The check of a lane-class word's lanes -/

/-- A search of the acting lanes finds none that is bad where none is. -/
theorem find_acting_none {s : State} {f : Fields} {p : Nat → Bool} (h : ∀ l, l < 64 → inMask (act s f) l → p l = false) :
    (lanes.filter (inMask (act s f))).find? p = none := by
  refine List.find?_eq_none.2 fun l hl => ?_
  obtain ⟨hl, ha⟩ := List.mem_filter.1 hl
  simp [h l (mem_lanes.1 hl) ha]

/-- A search of the acting lanes finds the lowest bad one. -/
theorem find_acting_lowest {s : State} {f : Fields} {bad : Nat → Prop} {p : Nat → Bool} {l : Nat} (hp : ∀ l, p l = true ↔ bad l)
    (h : Lowest s f bad l) : (lanes.filter (inMask (act s f))).find? p = some l := by
  obtain ⟨hl, ha, hbad, hlow⟩ := h
  have hmem : l ∈ lanes.filter (inMask (act s f)) := List.mem_filter.2 ⟨mem_lanes.2 hl, ha⟩
  cases hfind : (lanes.filter (inMask (act s f))).find? p with
  | none => exact absurd ((hp l).2 hbad) (List.find?_eq_none.1 hfind l hmem)
  | some k =>
    obtain ⟨_, hk⟩ := List.mem_filter.1 (List.mem_of_find?_eq_some hfind)
    have hsorted : (lanes.filter (inMask (act s f))).Pairwise (· < ·) := List.pairwise_lt_range.filter _
    rcases find?_of_pairwise hsorted hfind hmem ((hp l).2 hbad) with h | h
    · rw [h]
    · exact absurd ((hp k).1 (List.find?_some hfind)) (hlow k h hk)

/-! ### CPL (R157, R158) -/

section
variable {s : State} {f : Fields}

/-- The bytes of an element of CPL, and the two addresses of a lane. -/
def cplBytes (f : Fields) : Nat := 4 * 2 ^ (f.md.toNat % 4)
def cplMem (s : State) (f : Fields) (l : Nat) : W64 := s.curT.rpair f.a.toNat l
def cplLocal (s : State) (f : Fields) (l : Nat) : W64 := (s.curT.rv f.b.toNat l).setWidth 64

/-- A lane of CPL is misaligned in memory or in the scratchpad. -/
def cplBad (s : State) (f : Fields) (l : Nat) : Bool :=
  (s.curT.rpair f.a.toNat l).toNat % cplBytes f != 0 || (s.curT.rv f.b.toNat l).toNat % cplBytes f != 0

theorem toNat_cplLocal (l : Nat) : (cplLocal s f l).toNat = (s.curT.rv f.b.toNat l).toNat :=
  BitVec.toNat_setWidth_of_le (by decide)

theorem cplBad_iff (l : Nat) : cplBad s f l = true ↔
    (cplMem s f l).toNat % cplBytes f ≠ 0 ∨ (cplLocal s f l).toNat % cplBytes f ≠ 0 := by
  simp only [cplBad, toNat_cplLocal, cplMem, Bool.or_eq_true, bne_iff_ne]

/-- The operation of a CPL, but for the bytes that a later lane overwrites. -/
def cplBase (s : State) (f : Fields) : MemOp :=
  { s.newOp (.cpl f) (act s f) with
    size := cplBytes f, uni := [s.curT.rs64 f.e.toNat], target := s.curT.rs64 f.e.toNat, addr := laneTable (act s f) (cplMem s f)
    cmp := laneTable (act s f) fun l => (s.curT.rv f.b.toNat l).toNat }

/-- The operation of a CPL (R146, R158). -/
def cplOp (s : State) (f : Fields) : MemOp :=
  { cplBase s f with drop := { cplBase s f with
      addr := laneTable (act s f) fun l => if bitOf f.mdn 2 then cplMem s f l else cplLocal s f l }.overwritten false }

theorem ours_cplOp : Ours s (.cpl f) (cplOp s f) := ⟨rfl, rfl, rfl, rfl, rfl, rfl, rfl, rfl, rfl, rfl, rfl⟩

/-- CPL by its checks: the lanes, then the turnstile (R157). -/
theorem exec_cpl (hact : act s f ≠ 0) : exec (.cpl f) s =
    match (lanes.filter (inMask (act s f))).find? (cplBad s f) with
    | some l => .next (s.trapWord 0x0A 1 (if (cplMem s f l).toNat % cplBytes f != 0 then cplMem s f l else cplLocal s f l))
    | none =>
      if (s.curT.rs64 f.e.toNat).toNat % 8 ≠ 0 then .next (s.trapWord 0x0A 2 (s.curT.rs64 f.e.toNat))
      else .next ((s.launchWith s.curT.rs (cplOp s f) f false (Instr.layout (.cpl f)).recs none).modTr s.cur.t fun t =>
        { t with oc := t.oc.write 0 (t.oc.read 0 + 1) }) :=
  if_neg hact

/-- A CPL whose lanes and turnstile are aligned is in flight. -/
theorem joins_cpl (hact : act s f ≠ 0) (hlanes : (lanes.filter (inMask (act s f))).find? (cplBad s f) = none)
    (hts : (s.curT.rs64 f.e.toNat).toNat % 8 = 0) : Joins (.cpl f) f false false (some 0) 0 s fun o =>
      o.act = act s f ∧ o.size = cplBytes f ∧ o.target = s.curT.rs64 f.e.toNat ∧ OnLanes s f o.addr (cplMem s f) ∧
        OnLanes s f o.cmp fun l => (cplLocal s f l).toNat := by
  have hissue : exec (.cpl f) s = .next ((s.launchWith s.curT.rs (cplOp s f) f false (Instr.layout (.cpl f)).recs none).modTr s.cur.t
      fun t => { t with oc := t.oc.write 0 (t.oc.read 0 + 1) }) := by
    rw [exec_cpl hact, hlanes]; exact if_neg (not_not.2 hts)
  refine joins_of_launch_counted hissue ours_cplOp (fun fl rc => ⟨rfl, rfl, rfl, ?_, ?_⟩) fun l _ => act_steps_zero s f l
  · exact onLanes_laneTable (g := cplMem s f) fun _ _ _ => rfl
  · exact onLanes_laneTable (g := fun l => (s.curT.rv f.b.toNat l).toNat) fun l _ _ => (toNat_cplLocal l).symm

end

/-- Settles O21: CPL by its two checks, of its lanes in ascending order and of its turnstile. -/
theorem laneCopyIssue : Obligations.LaneCopyIssue := by
  intro s f n ga sa ts
  refine ⟨fun h => noEffect_of_retire (if_pos h), fun hact hga hsa => ?_, fun l hlow => ?_⟩
  · have hlanes : (lanes.filter (inMask (act s f))).find? (cplBad s f) = none := find_acting_none fun l hl ha => by
      rw [Bool.eq_false_iff, ne_eq, cplBad_iff, not_or, not_not, not_not]
      exact ⟨hga l hl ha, hsa l hl ha⟩
    exact ⟨joins_cpl hact hlanes, fun hts => by rw [exec_cpl hact, hlanes]; exact if_pos hts⟩
  · have hact : act s f ≠ 0 := fun h => by
      obtain ⟨-, ha, -⟩ := hlow
      rw [h, inMask_zero] at ha
      cases ha
    rw [exec_cpl hact, find_acting_lowest cplBad_iff hlow]
    simp only [bne_iff_ne]
    rfl

/-! ### CPT, CPS and LAYEX (R160 to R163, R354 to R356) -/

section
variable {s : State} {f : Fields} {i : Instr} {uni : List W64} {c e : Nat}

/-- A command of the engines that is not enabled retires. -/
theorem exec_engineWord_disabled (h : engineWord i s = some (f, uni, c, e)) (he : s.curT.enabled f.g = false) :
    exec i s = .next (s.retire id) := by
  unfold engineWord at h
  split at h <;> cases h <;> exact if_pos (by rw [he]; rfl)

/-- A command whose operands pass their checks enters its engine. -/
theorem exec_engineWord_accepted (h : engineWord i s = some (f, uni, c, e)) (he : s.curT.enabled f.g = true) (hok : engineOk i s) :
    exec i s = .next (s.engAccept i e uni c) := by
  have hen : ¬ (!s.curT.enabled f.g) = true := by rw [he]; decide
  unfold engineWord at h
  split at h <;> cases h
  · exact (if_neg hen).trans ((if_neg (not_not.2 hok.1)).trans (if_neg (not_not.2 hok.2)))
  · exact (if_neg hen).trans ((if_neg (not_le.2 hok.1)).trans (if_neg (not_not.2 hok.2)))
  · exact (if_neg hen).trans ((if_neg (not_not.2 hok.1)).trans (if_neg (not_not.2 hok.2)))

/-- The counter of a table that rises by one. -/
theorem read_write_succ (m : Tbl Nat) (c k : Nat) : (m.write c (m.read c + 1)).read k = m.read k + if some c = some k then 1 else 0 := by
  rw [Tbl.read_write]
  by_cases h : k = c
  · subst h; simp
  · have : ¬ c = k := fun e => h e.symm
    simp [h, this]

/-- A command as it joins its engine's queue (R162, R354). -/
def newCmd (s : State) (i : Instr) (uni : List W64) : EngCmd :=
  { t := s.cur.t, seq := s.cur.seq.toNat, pc := s.cur.pc, ins := i, word := s.cur.word, run := s.cur.run, company := s.curT.company
    ctx := s.ctxOf s.cur.t, uni := uni, blk := [], started := false, done := 0, delivered := 0, added := 0, pos := 0
    rs := 0, adding := 0, closing := 0, park := none }

/-- What a counter's rise does to a troupe. -/
def countUp (c : Nat) (t : Troupe) : Troupe := { t with oc := t.oc.write c (t.oc.read c + 1) }

/-- What a command that enters an engine leaves of the package. -/
theorem enqueued_engAccept : Enqueued s (s.engAccept i e uni c) i uni c e := by
  have hself : (s.engAccept i e uni c).curT = countUp c (s.curT.advance s.cur.run s.cur.pc) := s.curT_retire (countUp c)
  have heng : ∀ e', (s.engAccept i e uni c).engines.read e' =
      if e' = e then s.engines.read e ++ [newCmd s i uni] else s.engines.read e' :=
      fun e' => Tbl.read_modify s.engines e e' fun l => l ++ [newCmd s i uni]
  refine ⟨rfl, fun j hj => s.tr_retire_other (countUp c) hj, fun pa => rfl, ranOn_of_pt ?_, fun k => ?_, ?_, fun e' he' => ?_,
    newCmd s i uni, ?_, rfl, rfl, rfl, rfl, rfl, rfl, rfl, rfl, rfl, rfl, rfl, rfl⟩
  · rw [hself]; rfl
  · rw [hself]; exact read_write_succ _ c k
  · rw [hself]; rfl
  · rw [heng, if_neg he']
  · rw [heng, if_pos rfl]

end

theorem engineCommandIssue : EngineCommandIssue := by
  intro i s f uni c e hi
  rw [enabled_eq]
  exact ⟨fun he => noEffect_of_retire (exec_engineWord_disabled hi he),
    fun he hok => ⟨_, exec_engineWord_accepted hi he hok, enqueued_engAccept⟩⟩

/-- A free TRVAL: the next constant that the part draws (R79). -/
theorem trapOpen_drawn (s : State) (d : Nat) : ∃ v s', s.trapOpen 0x0A d = State.trapWord s' 0x0A d v ∧ s' = { s with free := s'.free } :=
  ⟨_, _, rfl, rfl⟩

theorem engineCommandTraps : EngineCommandTraps := by
  intro i s f uni c e hi he hok
  rw [enabled_eq] at he
  have hen : ¬ (!s.curT.enabled f.g) = true := by rw [he]; decide
  have free : ∀ d, (d = 2 ∨ d = 3) → exec i s = .next (s.trapOpen 0x0A d) → ∃ (d : Nat) (v : W64) (s' : State),
      exec i s = .next (s'.trapWord 0x0A d v) ∧ (d = 2 ∨ d = 3 ∨ d = 8) ∧ (d = 8 → v = s.curT.rs64 f.e.toNat) ∧
      s' = { s with free := s'.free } := by
    intro d hd h
    obtain ⟨v, s', heq, hs'⟩ := trapOpen_drawn s d
    exact ⟨d, v, s', h.trans (congrArg _ heq), by omega, fun h8 => by omega, hs'⟩
  unfold engineWord at hi
  split at hi <;> cases hi
  case h_1 =>
    by_cases ha : (s.curT.rs64 f.a.toNat).toNat % 64 = 0
    · exact free 2 (.inl rfl) ((if_neg hen).trans ((if_neg (not_not.2 ha)).trans (if_pos fun h => hok ⟨ha, h⟩)))
    · exact free 3 (.inr rfl) ((if_neg hen).trans (if_pos ha))
  case h_2 =>
    by_cases hn : (s.curT.rs64 f.e.toNat).toNat < 2 ^ 40
    · exact free 2 (.inl rfl) ((if_neg hen).trans ((if_neg (not_le.2 hn)).trans (if_pos fun h => hok ⟨hn, h⟩)))
    · exact ⟨8, _, s, (if_neg hen).trans (if_pos (not_lt.1 hn)), .inr (.inr rfl), fun _ => rfl, rfl⟩
  case h_3 =>
    by_cases hts : (s.curT.rs64 f.e.toNat).toNat % 8 = 0
    · exact free 3 (.inr rfl) ((if_neg hen).trans ((if_neg (not_not.2 hts)).trans (if_pos fun h => hok ⟨hts, h⟩)))
    · exact free 2 (.inl rfl) ((if_neg hen).trans (if_pos hts))

/-- Settles O22: each command by its checks, in the order in which it makes them. -/
theorem engineWords : Obligations.EngineWords :=
  ⟨engineCommandIssue, engineCommandTraps⟩

end Sys2Proof.Machine
end

section
/-!
PROOF. ICINV (R156): what ICINV.ALL makes of the cores, and a state in which that refutes the statement on the cache words.
-/
namespace Sys2Proof.Machine
open Sys2Proof Sys2Proof.Claims

/-- A core without its L1 instruction cache's lines. -/
def Core.noILines (x : Core) : Core := { x with l1i := [] }

/-- ICINV.ALL with an active lane empties the L1 instruction cache of every listed core. -/
theorem exec_icinvAll {s : State} {f : Fields} (hact : act s f ≠ 0) (hall : bitOf f.mdn 0 = true) :
    exec (.icinv f) s = .next (State.retire { s with cores := s.cores.mapAll fun _ x => x.noILines } id) := by
  refine (if_neg hact).trans ?_
  simp only [hall, if_true]
  rfl

/-- Where no core is listed twice, ICINV.ALL changes nothing of a core but its L1 instruction cache. -/
theorem icinvAll_keeps_cores {s : State} {f : Fields} (hact : act s f ≠ 0) (hall : bitOf f.mdn 0 = true) (hcores : s.cores.wf = true) :
    Completes (.icinv f) s fun t => ∀ c, t.core c = { s.core c with l1i := [] } :=
  ⟨_, exec_icinvAll hact hall, fun _ => Tbl.read_mapAll (fun _ => Core.noILines) hcores rfl⟩

/-- A core that holds a line of instructions. -/
def coreWithILine : Core := { (default : Core) with l1i := [(0, { (default : ILine) with valid := true })] }

/-- Core 0 is listed twice: first as it holds a line of instructions, then as one that a spare stands for. Its slot 0 issues a word for
lane 0. -/
def twiceListedILine : State := { State.reset with
  cores := [(0, coreWithILine), (0, spareCore)]
  cur := { t := 0, run := 1, pc := 0x10000, word := 0, seq := 0 } }

/-- The word ICINV.ALL, unguarded. -/
def icinvAll : Fields := { (default : Fields) with md := 1, g := 7 }

theorem twiceListedILine_act : act twiceListedILine icinvAll ≠ 0 := by decide +kernel

/-- The first entry of core 0 is the one that is read. -/
theorem twiceListedILine_spare : (twiceListedILine.core 0).spare = false := rfl

/-- Without its line the first entry is the default, which leaves the table; the second entry is then read. -/
theorem twiceListedILine_noILines : twiceListedILine.cores.mapAll (fun _ x => x.noILines) = [(0, spareCore)] := by decide +kernel

/-- Refutes O18: its clause that ICINV changes nothing of a core but its L1 instruction cache. Of the two entries of core 0 in
`twiceListedILine`, the first, with no spare, is read before ICINV.ALL and drops out of the table at it, so that the second, with a spare,
is read after it. Where no core is listed twice the clause holds (`icinvAll_keeps_cores`). -/
theorem not_cacheWords : ¬ Obligations.CacheWords := by
  unfold Obligations.CacheWords
  intro h
  obtain ⟨-, -, -, ⟨t, ht, -, -, -, hcore⟩, -, -⟩ := h twiceListedILine icinvAll
  obtain rfl := Host.Outcome.next.inj (ht.symm.trans (exec_icinvAll twiceListedILine_act rfl))
  have hkept := congrArg Core.spare (hcore 0)
  rw [State.core, State.retire_cores, twiceListedILine_noILines] at hkept
  exact absurd (hkept.trans twiceListedILine_spare) (by decide)

end Sys2Proof.Machine
end

section
/-!
PROOF. The copy and layout engines go on (R161, R162, R164, R354 to R359, R419): the start of a command, its units, its adds and its end.
-/
namespace Sys2Proof.Machine
open Sys2Proof Sys2Proof.Claims

/-! ### The queue of an engine -/

section
variable {s : State} {e : Nat} {x : EngCmd}

/-- A command that is removed has left its engine. -/
theorem gone_engRemove : Gone e x (s.engRemove e x) := by
  have key : ∀ u : State, u.engines.read e = (s.engines.read e).filter (fun y => !(y.t == x.t && y.seq == x.seq)) → Gone e x u := by
    intro u hu y hy
    rw [hu, List.mem_filter] at hy
    rintro ⟨ht, hq⟩
    simp [ht, hq] at hy
  have hread := (Tbl.read_modify s.engines e e fun l => l.filter fun y => !(y.t == x.t && y.seq == x.seq)).trans (if_pos rfl)
  unfold State.engRemove
  dsimp only
  split <;> exact key _ hread

/-- A command that is put back stands in its engine's queue where one with its launch site did. -/
theorem mem_setCmd (h : ∃ y ∈ s.engines.read e, y.t = x.t ∧ y.seq = x.seq) : x ∈ (s.setCmd e x).engines.read e := by
  obtain ⟨y, hy, ht, hq⟩ := h
  have hread : (s.setCmd e x).engines.read e = (s.engines.read e).map fun y => if y.t == x.t && y.seq == x.seq then x else y :=
    (Tbl.read_modify ..).trans (if_pos rfl)
  rw [hread]
  exact List.mem_map.2 ⟨y, hy, by simp [ht, hq]⟩

/-- The command that an engine performs next, its record dropped. -/
theorem engUnpark_snd : (s.engUnpark e x).2 = { x with park := none } := by
  unfold State.engUnpark
  split
  · rename_i h; rw [← h]
  · rfl

theorem engUnpark_of_none (h : x.park = none) : s.engUnpark e x = (s, x) := by
  unfold State.engUnpark; rw [h]

end

/-! ### The next unit of the command at the head (R162, R355, R357, R358) -/

/-- One unit of a command, by its instruction. -/
def State.engUnit (s : State) (e : Nat) (x : EngCmd) : State :=
  match x.ins with
  | .cpt _ => s.cptUnit e x
  | .cps _ => s.cpsUnit e x
  | _ => if x.lop = 0 then s.refmtUnit e x else if x.lop = 1 then s.expandUnit e x else s.packUnit e x

section
variable {s0 s : State} {e : Nat} {x : EngCmd} (h : EngineHas s0 e s x)
include h

/-- The command that an engine has is, but for its record, the one at its head. -/
theorem engineHas_active : ∃ y, s0.engActive e = some y ∧ s0.engUnpark e y = (s, x) ∧ y.ins = x.ins ∧ y.started = x.started := by
  obtain ⟨y, hact, hun⟩ := h
  have hx : x = { y with park := none } := by rw [← engUnpark_snd (s := s0) (e := e), hun]
  exact ⟨y, hact, hun, by rw [hx], by rw [hx]⟩

theorem engStep_of_has {isMine : EngCmd → Bool} {unit : State → EngCmd → State} (hst : x.started = true)
    (hmine : ∀ y : EngCmd, y.ins = x.ins → isMine y = true) :
    s0.engStep e isMine unit = if x.adding ≠ 0 then s.engAdd e x else unit s x := by
  obtain ⟨y, hact, hun, hins, hstart⟩ := engineHas_active h
  simp only [State.engStep, hact, hstart, hst, hmine y hins, hun, Bool.not_true, Bool.or_false, Bool.false_eq_true, if_false]

/-- The event of a started command performs its outstanding add, or its next unit. -/
theorem exec_unitEvent (hi : isEngine x.ins = true) (hst : x.started = true) :
    exec (unitEvent e x) s0 = .next (if x.adding ≠ 0 then s.engAdd e x else s.engUnit e x) := by
  have hlop : ∀ y : EngCmd, y.ins = x.ins → y.lop = x.lop := fun y hy => by unfold EngCmd.lop; rw [hy]
  unfold unitEvent State.engUnit
  unfold isEngine at hi
  split at hi
  case h_1 f hf =>
    rw [hf]
    exact congrArg _ (engStep_of_has h hst fun y hy => by rw [hy, hf])
  case h_2 f hf =>
    rw [hf]
    exact congrArg _ (engStep_of_has h hst fun y hy => by rw [hy, hf])
  case h_3 f hf =>
    have hlt : x.lop < 3 := by unfold EngCmd.lop; rw [hf]; exact of_decide_eq_true hi
    have h2 : x.lop ≠ 0 → x.lop ≠ 1 → x.lop = 2 := by omega
    rw [hf]
    dsimp only
    by_cases h0 : x.lop = 0
    · rw [if_pos h0, if_pos h0]
      exact congrArg _ (engStep_of_has h hst fun y hy => by rw [hy, hf]; simp [hlop y hy, h0])
    · rw [if_neg h0, if_neg h0]
      by_cases h1 : x.lop = 1
      · rw [if_pos h1, if_pos h1]
        exact congrArg _ (engStep_of_has h hst fun y hy => by rw [hy, hf]; simp [hlop y hy, h1])
      · rw [if_neg h1, if_neg h1]
        exact congrArg _ (engStep_of_has h hst fun y hy => by rw [hy, hf]; simp [hlop y hy, h2 h0 h1])
  case h_4 => cases hi

end

/-! ### The start of a command (R161, R354, R356) -/

section
variable {s0 s u : State} {e : Nat} {x : EngCmd} {f : Fields} {b : List Nat} (h : EngineHas s0 e s x) (hst : x.started = false)
include h hst

theorem exec_start_cps (hi : x.ins = .cps f) :
    exec (.copyCommandStart e) s0 = .next (if x.units = 0 then s.engRemove e x else s.setCmd e { x with started := true }) := by
  obtain ⟨y, hact, hun, -, hstart⟩ := engineHas_active h
  change execCopyCommandStart e s0 = _
  simp only [execCopyCommandStart, hact, hstart, hst, hun, hi, Bool.false_eq_true, if_false]

theorem exec_start_cpt (hi : x.ins = .cpt f) (hread : engRead s e x (x.u 0) 64 0 = (.ok b, u)) :
    exec (.copyCommandStart e) s0 = .next (if descOk x b = true then u.setCmd e { x with started := true, blk := b }
      else u.engPark e x { cls := 7, addr := x.u 0 }) := by
  obtain ⟨y, hact, hun, -, hstart⟩ := engineHas_active h
  unfold engRead at hread
  change execCopyCommandStart e s0 = _
  simp only [execCopyCommandStart, hact, hstart, hst, hun, hi, hread, Bool.false_eq_true, if_false]
  split <;> rfl

/-- The command of a LAYEX with its block, and the generator that the block seeds. -/
def withBlock (x : EngCmd) (b : List Nat) : EngCmd :=
  { x with blk := b, rs := BitVec.ofNat 16 (if fieldOf b 0x1E 2 = 0 then 1 else fieldOf b 0x1E 2) }

theorem exec_start_layex (hi : x.ins = .layex f) (hread : engRead s e x (x.u 0) 128 0 = (.ok b, u)) :
    exec (.copyCommandStart e) s0 = .next (if blockOk (withBlock x b) = true then u.setCmd e { withBlock x b with started := true }
      else u.engPark e (withBlock x b) { cls := 7, addr := x.u 0 }) := by
  obtain ⟨y, hact, hun, -, hstart⟩ := engineHas_active h
  unfold engRead at hread
  change execCopyCommandStart e s0 = _
  simp only [execCopyCommandStart, hact, hstart.trans hst, hun, Bool.false_eq_true, if_false]
  split
  case h_1 hc => cases hi.symm.trans hc
  case h_2 hc => cases hi.symm.trans hc
  case h_3 =>
    simp only [hread]
    change (if blockOk (withBlock x b) = true then _ else _) = _
    split <;> rfl

end

/-! ### One unit of each command (R162, R355, R357, R358) -/

section
variable {s u w v : State} {e : Nat} {x : EngCmd} {b : List Nat} (hdone : x.done ≠ x.units)

theorem engAdd_ok {n : Nat} (hadd : s.tsAddGlobal (.die (e / 9)) (s.engAccessor x) x.asker 9 x.ts (x.adding - 1) = (.ok n, u)) :
    s.engAdd e x = u.setCmd e { x with added := x.added + (x.adding - 1), adding := 0 } := by
  rw [State.engAdd, hadd]

/-- An element of a CPT into scratchpad: a zero outside the tensor, else what memory holds. -/
theorem cptIn_ok {sp : Nat} {ga : W64} {inside : Bool} (hlocal : localFault sp true = none)
    (hok : s.scratchOk x.company (coreOf x.t) sp x.esz = .ok ())
    (hread : (if inside = true then engRead s e x ga x.esz x.hint else (.ok (List.replicate x.esz 0), s)) = (.ok b, u)) :
    s.cptIn e x sp ga inside =
      ((u.scratchPoke x.company (coreOf x.t) sp b).engWatch x true sp x.esz).engDelivered e { x with done := x.done + 1 } x.esz := by
  unfold engRead at hread
  cases inside
  · cases hread
    simp only [State.cptIn, hlocal, hok, Bool.not_false, if_true]
  · rw [if_pos rfl] at hread
    simp only [State.cptIn, hlocal, hok, hread, Bool.not_true, Bool.false_eq_true, if_false]

theorem cptOut_outside {sp : Nat} {ga : W64} :
    s.cptOut e x sp ga false = s.engDelivered e { x with done := x.done + 1 } x.esz := rfl

theorem cptOut_ok {sp n : Nat} {ga : W64} (hlocal : localFault sp false = none)
    (hval : s.scratchNat x.company (coreOf x.t) sp x.esz = .ok n)
    (hwrite : engWrite s e x ga (leBytes x.esz n) x.hint = (.ok (), u)) :
    s.cptOut e x sp ga true = (u.engWatch x false sp x.esz).engDelivered e { x with done := x.done + 1 } x.esz := by
  unfold engWrite at hwrite
  simp only [State.cptOut, hlocal, hval, hwrite, Bool.not_true, Bool.false_eq_true, if_false]

include hdone

theorem cptUnit_next : s.cptUnit e x = if x.ins.fields.md.getLsbD 0 = true then s.cptOut e x x.element.1 x.element.2.1 x.element.2.2
    else s.cptIn e x x.element.1 x.element.2.1 x.element.2.2 := if_neg hdone

theorem cpsUnit_ok (hread : engRead s e x (x.u 1 + BitVec.ofNat 64 x.done)
      (min (128 - (x.u 0 + BitVec.ofNat 64 x.done).toNat % 128) (x.units - x.done)) x.hint = (.ok b, u))
    (hwrite : engWrite u e x (x.u 0 + BitVec.ofNat 64 x.done) b x.hint = (.ok (), w)) :
    s.cpsUnit e x = w.engDelivered e
      { x with done := x.done + min (128 - (x.u 0 + BitVec.ofNat 64 x.done).toNat % 128) (x.units - x.done) }
      (min (128 - (x.u 0 + BitVec.ofNat 64 x.done).toNat % 128) (x.units - x.done)) := by
  unfold engRead at hread
  unfold engWrite at hwrite
  simp only [State.cpsUnit, if_neg hdone, hread, hwrite]

/-- The generator of a .REFMT as an element takes it (R357). -/
def refmtRs (x : EngCmd) : BitVec 16 := if x.lrm = 4 then lfsrStep x.rs else x.rs

theorem refmtUnit_ok (hread : engRead s e x (x.strided x.src x.sstr) (fmtBytes x.sfmt) 0 = (.ok b, u))
    (hwrite : engWrite u e x (x.strided x.dst x.dstr) (leBytes (fmtBytes x.dfmt)
      (convertTo x.dfmt x.lrm (refmtRs x).toNat x.lsat x.lsat (decodeFmt x.sfmt (leNat b)))) 0 = (.ok (), w)) :
    s.refmtUnit e x = w.engDelivered e { x with done := x.done + 1, rs := refmtRs x } (fmtBytes x.dfmt) := by
  unfold engRead at hread
  unfold engWrite refmtRs at hwrite
  simp only [State.refmtUnit, if_neg hdone, hread, hwrite]
  rfl

section
variable {k : Nat} (hhead : engRead s e x (BitVec.ofNat 64 (x.src + x.pos)) 1 0 = (.ok [k], u))
include hhead

/-- A header byte that R276 does not define, or a record past the end of the stream. -/
theorem expandUnit_bad (hbad : 4 < k ∨ x.sbytes < x.pos + recordLen (k % 8)) :
    s.expandUnit e x = u.engFault e x { cls := 7, addr := BitVec.ofNat 64 (x.src + x.pos) } := by
  have hbad' : k / 8 ≠ 0 ∨ 4 < k % 8 ∨ x.sbytes < x.pos + recordLen (k % 8) := by omega
  unfold engRead at hhead
  simp only [State.expandUnit, if_neg hdone, hhead, List.getD_cons_zero, if_pos hbad']
  rfl

theorem expandUnit_ok (hlen : x.pos + recordLen (k % 8) ≤ x.sbytes) (hk : k ≤ 4)
    (hread : engRead u e x (BitVec.ofNat 64 (x.src + x.pos)) (recordLen (k % 8)) 0 = (.ok b, w))
    (hwrite : engWrite w e x (BitVec.ofNat 64 (x.dst + 128 * x.done)) (decodeRecord k b) 0 = (.ok (), v)) :
    s.expandUnit e x = if x.done + 1 = x.units ∧ x.pos + recordLen (k % 8) ≠ x.sbytes
      then v.setCmd e { x with done := x.done + 1, pos := x.pos + recordLen (k % 8), delivered := x.delivered + 128 }
      else v.engDelivered e { x with done := x.done + 1, pos := x.pos + recordLen (k % 8) } 128 := by
  have hgood : ¬ (k / 8 ≠ 0 ∨ 4 < k % 8 ∨ x.sbytes < x.pos + recordLen (k % 8)) := by omega
  have hmod : k % 8 = k := by omega
  unfold engRead at hhead hread
  unfold engWrite at hwrite
  simp only [State.expandUnit, if_neg hdone, hhead, List.getD_cons_zero, if_neg hgood, hread]
  rw [hmod] at *
  simp only [hwrite]
  rfl

end

section
variable (hread : engRead s e x (BitVec.ofNat 64 (x.src + 128 * x.done)) 128 0 = (.ok b, u))
include hread

theorem packUnit_full (hlen : x.sbytes < x.pos + (encodeRecord b).length) :
    s.packUnit e x = u.engFault e x { cls := 7, addr := BitVec.ofNat 64 (x.dst + x.pos) } := by
  unfold engRead at hread
  simp only [State.packUnit, if_neg hdone, hread, if_pos hlen]
  rfl

theorem packUnit_ok (hlen : x.pos + (encodeRecord b).length ≤ x.sbytes)
    (hwrite : engWrite u e x (BitVec.ofNat 64 (x.dst + x.pos)) (encodeRecord b) 0 = (.ok (), w)) :
    s.packUnit e x = if x.done + 1 < x.units
      then w.engDelivered e { x with done := x.done + 1, pos := x.pos + (encodeRecord b).length } 128
      else w.setCmd e { x with done := x.done + 1, pos := x.pos + (encodeRecord b).length } := by
  unfold engRead at hread
  unfold engWrite at hwrite
  simp only [State.packUnit, if_neg hdone, hread, if_neg (not_lt.2 hlen), hwrite]
  rfl

end
end

/-! ### The end of a command whose units are done (R162, R355, R358) -/

section
variable {s u : State} {e : Nat} {x : EngCmd} {f : Fields} (hdone : x.done = x.units)
include hdone

theorem engUnit_done (hlop : x.lop ≤ 1 ∨ ∀ f, x.ins ≠ .layex f) (hpos : ∀ f, x.ins = .layex f → x.lop = 1 → x.pos = x.sbytes)
    (hi : isEngine x.ins = true) : s.engUnit e x = s.engRemove e x := by
  unfold State.engUnit
  unfold isEngine at hi
  split at hi
  case h_1 hf => rw [hf]; exact if_pos hdone
  case h_2 hf => rw [hf]; exact if_pos hdone
  case h_3 f hf =>
    have hle : x.lop ≤ 1 := hlop.resolve_right fun hne => hne f hf
    rw [hf]
    dsimp only
    by_cases h0 : x.lop = 0
    · rw [if_pos h0]; exact if_pos hdone
    · have h1 : x.lop = 1 := by omega
      rw [if_neg h0, if_pos h1]
      exact (if_pos hdone).trans (if_neg fun hne => hne.1 (hpos f hf h1))
  case h_4 => cases hi

theorem expandUnit_leftover (hpos : x.pos ≠ x.sbytes) (hcl : x.closing = 0) :
    s.expandUnit e x = s.engPark e x { cls := 7, addr := BitVec.ofNat 64 (x.src + x.pos) } :=
  (if_pos hdone).trans (if_pos ⟨hpos, hcl⟩)

theorem packUnit_added (hts : x.ts ≠ 0) (hadded : x.added = 128 * x.units) : s.packUnit e x = s.engRemove e x :=
  (if_pos hdone).trans (if_pos ⟨hts, hadded⟩)

theorem packUnit_plen (hadded : ¬ (x.ts ≠ 0 ∧ x.added = 128 * x.units))
    (hwrite : engWrite s e x (x.u 0 + 0x60) (leBytes 8 x.pos) 0 = (.ok (), u)) :
    s.packUnit e x = if x.ts = 0 then u.engRemove e x
      else u.setCmd e { x with delivered := 128 * x.units, adding := 128 * x.units - x.added + 1 } := by
  unfold engWrite at hwrite
  simp only [State.packUnit, if_pos hdone, State.packEnd, if_neg hadded, hwrite]

end

theorem engineSteps : EngineSteps := by
  intro s0 s e x h hi answers event
  refine ⟨fun hst => ⟨fun f hf => ?_, fun f b u hf hread => exec_start_cpt h hst hf hread,
    fun f b u hf hread => exec_start_layex h hst hf hread⟩, fun hst hadd hdone => ?_, fun hst hadd n u hts => ?_, fun hst hadd hdone => ?_⟩
  · have hexec := exec_start_cps h hst hf
    exact ⟨fun hu => hexec.trans (by rw [if_neg hu]), fun hu => ⟨_, hexec.trans (by rw [if_pos hu]), gone_engRemove⟩⟩
  · have hunit : exec event s0 = .next (s.engUnit e x) := (exec_unitEvent h hi hst).trans (by rw [if_neg (not_not.2 hadd)])
    have hcpt : ∀ f, x.ins = .cpt f → s.engUnit e x = if f.md.getLsbD 0 = true then s.cptOut e x x.element.1 x.element.2.1 x.element.2.2
        else s.cptIn e x x.element.1 x.element.2.1 x.element.2.2 := fun f hf => by
      have := cptUnit_next (s := s) (e := e) hdone
      rw [hf] at this
      rw [State.engUnit, hf]; exact this
    have hcps : ∀ f, x.ins = .cps f → s.engUnit e x = s.cpsUnit e x := fun f hf => by rw [State.engUnit, hf]
    have hlayex : ∀ f, x.ins = .layex f → s.engUnit e x =
        if x.lop = 0 then s.refmtUnit e x else if x.lop = 1 then s.expandUnit e x else s.packUnit e x := fun f hf => by
      rw [State.engUnit, hf]
    refine ⟨?_, ?_, ?_, ?_, ?_, ?_⟩
    · intro f u b hf hmd hlocal hok hread
      exact hunit.trans (by rw [hcpt f hf, hmd, if_neg Bool.false_ne_true, cptIn_ok hlocal hok hread])
    · intro f hf hmd
      have hout := hunit.trans (congrArg _ ((hcpt f hf).trans (if_pos hmd)))
      refine ⟨fun hin => ?_, fun n u hin hlocal hval hwrite => ?_⟩
      · exact hout.trans (by rw [hin, cptOut_outside])
      · exact hout.trans (by rw [hin, cptOut_ok hlocal hval hwrite])
    · intro f u w b hf dst n hread hwrite
      exact hunit.trans (by rw [hcps f hf, cpsUnit_ok hdone hread hwrite])
    · intro f u w b hf hlop rs hread hwrite
      exact hunit.trans (by rw [hlayex f hf, if_pos hlop, refmtUnit_ok hdone hread hwrite]; rfl)
    · intro f u k hf hlop at' n hhead
      have hexpand : exec event s0 = .next (s.expandUnit e x) := hunit.trans (by rw [hlayex f hf, if_neg (by omega), if_pos hlop])
      refine ⟨fun hbad => ?_, fun w v b hlen hk hread hwrite => ?_⟩
      · exact hexpand.trans (by rw [expandUnit_bad hdone hhead hbad])
      · exact hexpand.trans (congrArg _ (expandUnit_ok hdone hhead hlen hk hread hwrite))
    · intro f u b hf hlop n to' hread
      have hpack : exec event s0 = .next (s.packUnit e x) := hunit.trans (by rw [hlayex f hf, if_neg (by omega), if_neg (by omega)])
      refine ⟨fun hlen => ?_, fun w hlen hwrite => ?_⟩
      · exact hpack.trans (by rw [packUnit_full hdone hread hlen])
      · exact hpack.trans (congrArg _ (packUnit_ok hdone hread hlen hwrite))
  · exact (exec_unitEvent h hi hst).trans (by rw [if_pos hadd, engAdd_ok hts])
  · have hunit : exec event s0 = .next (s.engUnit e x) := (exec_unitEvent h hi hst).trans (by rw [if_neg (not_not.2 hadd)])
    refine ⟨fun hlop hpos => ⟨_, hunit, ?_⟩, fun f hf hlop hpos hcl => ?_, fun f hf hlop => ?_⟩
    · rw [engUnit_done hdone hlop hpos hi]; exact gone_engRemove
    · rw [State.engUnit, hf] at hunit
      dsimp only at hunit
      rw [if_neg (by omega), if_pos hlop, expandUnit_leftover hdone hpos hcl] at hunit
      exact hunit
    · rw [State.engUnit, hf] at hunit
      dsimp only at hunit
      rw [if_neg (by omega), if_neg (by omega)] at hunit
      refine ⟨fun hts hadded => ⟨_, hunit, ?_⟩, fun u hadded hwrite => ⟨fun hts => ⟨_, hunit, ?_⟩, fun hts => ?_⟩⟩
      · rw [packUnit_added hdone hts hadded]; exact gone_engRemove
      · rw [packUnit_plen hdone hadded hwrite, if_pos hts]; exact gone_engRemove
      · exact hunit.trans (by rw [packUnit_plen hdone hadded hwrite, if_neg hts])

/-! ### The fatal end (R164, R359, R419) -/

section
variable {s : State} {e k q : Nat} {x : EngCmd}

/-- What is found by a launch site stands in the queue and has it. -/
theorem engCmd_some (h : s.engCmd e k q = some x) : x ∈ s.engines.read e ∧ x.t = k ∧ x.seq = q := by
  have := List.find?_some h
  simp only [Bool.and_eq_true, beq_iff_eq] at this
  exact ⟨List.mem_of_find?_eq_some h, this⟩

/-- A record to the host changes no engine. -/
@[simp] theorem State.engines_frqRaise (r : FRec) : (s.frqRaise r).engines = s.engines := by
  unfold State.frqRaise
  dsimp only
  split <;> rfl

/-- What a fatal verdict does before its command leaves or closes: the host is told, and a resident issuer is to take cause 0x06. -/
def engCondemned (s : State) (x : EngCmd) (p : Park) : State :=
  let here := (s.tr x.t).resident && !(s.tr x.t).ended && (s.tr x.t).company == x.company
  let r := x.site.record s p.info 3
  let s := s.frqRaise (if here then r else { r with rflags := r.rflags ||| 16 })
  if here then s.modTr x.t fun t => { t with dtraps := t.dtraps ++
    [{ cause := 6, detail := p.cls, record := 0, value := p.addr, word := 0, level := 0 }] } else s

theorem engines_engCondemned (p : Park) : (engCondemned s x p).engines = s.engines := by
  unfold engCondemned
  dsimp only
  split <;> simp

/-- A command of known total ends by a fatal verdict: it leaves, or its closing add is owed. -/
theorem engEnd_of_total {n : Nat} (p : Park) (hn : x.total = some n) : s.engEnd e x p =
    if x.ts = 0 then (engCondemned s x p).engRemove e x
    else (engCondemned s x p).setCmd e { x with park := none, adding := 0, closing := n - x.added + 1 } := by
  unfold State.engEnd
  simp only [hn]
  rfl

/-- A closing add that is performed takes its command out of the engine. -/
theorem engClose_ok {n : Nat} {u : State} (hp : x.park = none)
    (hadd : s.tsAddGlobal (.die (e / 9)) (s.engAccessor x) x.asker 9 x.ts (x.closing - 1) = (.ok n, u)) :
    s.engClose e x = u.engRemove e x := by
  simp only [State.engClose, State.engClose.close, hp, engUnpark_of_none hp, hadd]

end

theorem engineFatalEvents : EngineFatalEvents := by
  intro s e k q x hx
  obtain ⟨hmem, ht, hq⟩ := engCmd_some hx
  refine ⟨fun p n hcl hp hfatal hn => ?_, fun n u hcl hp hadd => ?_⟩
  · have hexec : exec (.engineFatalEnd e k q) s = .next (s.engEnd e x p) := by
      change execEngineFatalEnd e k q s = _
      simp only [execEngineFatalEnd, hx, hcl, hp, hfatal, ne_eq, not_true_eq_false, if_false, if_true]
    refine ⟨_, hexec, fun hts => ?_, fun hts => ?_⟩
    · rw [engEnd_of_total p hn, if_pos hts]; exact gone_engRemove
    · rw [engEnd_of_total p hn, if_neg hts]
      refine ⟨{ x with park := none, adding := 0, closing := n - x.added + 1 }, mem_setCmd ⟨x, ?_, rfl, rfl⟩, ht, hq, rfl, rfl⟩
      rw [engines_engCondemned]; exact hmem
  · have hexec : exec (.engineFatalEnd e k q) s = .next (s.engClose e x) := by
      change execEngineFatalEnd e k q s = _
      simp only [execEngineFatalEnd, hx, hcl, ne_eq, not_false_eq_true, if_true]
    refine ⟨_, hexec, ?_⟩
    rw [engClose_ok hp hadd]; exact gone_engRemove

end Sys2Proof.Machine
end

section
/-!
PROOF. Bytes of scratchpad (R133, R152, R220): where an address lies, what a write of bytes does to a read, and what leaves them alone.
-/
namespace Sys2Proof.Machine
open Sys2Proof Sys2Proof.Claims

/-- The number that little-endian bytes of a number make (R5). -/
theorem leNat_leBytes (n v : Nat) : leNat (leBytes n v) = v % 256 ^ n := by
  induction n generalizing v with
  | zero => simp [leBytes, leNat, Nat.mod_one]
  | succ n ih =>
    rw [leBytes, leNat, ih, Nat.mod_mod, Nat.pow_succ', Nat.mod_mul]

theorem length_leBytes (n v : Nat) : (leBytes n v).length = n := by
  induction n generalizing v with
  | zero => rfl
  | succ n ih => rw [leBytes, List.length_cons, ih]

/-! ### Places -/

/-- Companies stand where they stood, and rings' windows belong to whom they did: scratchpad addresses name the same places. -/
structure SamePlaces (s t : State) : Prop where
  co : ∀ k, t.co k = s.co k
  window : ∀ c, (t.core c).window = (s.core c).window

theorem SamePlaces.refl (s : State) : SamePlaces s s := ⟨fun _ => rfl, fun _ => rfl⟩

theorem SamePlaces.trans {s t u : State} (h : SamePlaces s t) (h' : SamePlaces t u) : SamePlaces s u :=
  ⟨fun k => (h'.co k).trans (h.co k), fun c => (h'.window c).trans (h.window c)⟩

theorem SamePlaces.scratchAt {s t : State} (h : SamePlaces s t) (k c a : Nat) : t.scratchAt k c a = s.scratchAt k c a := by
  simp only [State.scratchAt, h.co, h.window]

theorem SamePlaces.scratchOk {s t : State} (h : SamePlaces s t) (k c a n : Nat) : t.scratchOk k c a n = s.scratchOk k c a n := by
  induction n generalizing a with
  | zero => rfl
  | succ n ih => simp only [State.scratchOk, h.scratchAt, ih]

section
variable {s : State} {k c : Nat}

/-- An address that names a place is local, below 2^19, or lies in a window, from 2^23 on (R133). -/
theorem scratchAt_ok {a tc p : Nat} (h : s.scratchAt k c a = .ok (tc, p)) :
    (a < 2 ^ 19 ∧ tc = c ∧ p = (s.co k).base c + a) ∨
    (2 ^ 23 ≤ a ∧ a < 2 ^ 23 + 2 ^ 22 ∧ tc = ringOf c * 8 + a / 2 ^ 19 % 16 ∧
      p = (s.co ((s.core tc).window - 1)).base tc + a % 2 ^ 19) := by
  have hbit : bitOf a 23 = decide (a / 2 ^ 23 % 2 = 1) := Nat.testBit_eq_decide_div_mod_eq
  unfold State.scratchAt at h
  dsimp only at h
  split at h
  · cases h
  rename_i hlt
  split at h
  · rename_i hlow
    split at h
    · cases h
    rename_i hgood
    cases h
    simp only [hbit, Bool.not_eq_true', decide_eq_false_iff_not] at hlow
    simp only [Bool.or_eq_true, decide_eq_true_eq, not_or, not_not] at hgood
    obtain ⟨⟨hnum, -⟩, -⟩ := hgood
    rw [bitsOf] at hnum
    have ha : a < 2 ^ 19 := by omega
    exact .inl ⟨ha, rfl, by rw [Nat.mod_eq_of_lt ha]⟩
  · rename_i hhigh
    simp only [hbit, Bool.not_eq_true, Bool.not_eq_false', decide_eq_true_eq] at hhigh
    split at h
    · cases h
    rename_i hnum
    split at h
    · cases h
    split at h
    · cases h
    split at h
    · cases h
    cases h
    simp only [bitsOf] at hnum
    exact .inr ⟨by omega, by omega, rfl, rfl⟩

/-- On one side of the map an address is named by its place. -/
theorem scratchAt_inj {a a' : Nat} {P : Nat × Nat} (h : s.scratchAt k c a = .ok P) (h' : s.scratchAt k c a' = .ok P)
    (hside : a < 2 ^ 19 ↔ a' < 2 ^ 19) : a = a' := by
  obtain ⟨tc, p⟩ := P
  rcases scratchAt_ok h with ⟨h1, -, h2⟩ | ⟨h1, h2, h3, h4⟩ <;> rcases scratchAt_ok h' with ⟨h1', -, h2'⟩ | ⟨h1', h2', h3', h4'⟩ <;> omega

/-! ### Bytes -/

/-- A byte of scratchpad as its place holds it; a word in error cannot be read (R152). -/
theorem scratchRead_of_at {a tc p : Nat} (h : s.scratchAt k c a = .ok (tc, p)) : s.scratchRead k c a =
    if (s.core tc).scrErr.read (p / 4) = true then .fault { cls := 6, addr := BitVec.ofNat 64 a, scratch := true }
    else .ok ((s.core tc).scratch.read p) := by
  rw [State.scratchRead, h]

/-- A byte that can be read has a place. -/
theorem scratchAt_of_scratchRead {a : Nat} {b : Byte} (h : s.scratchRead k c a = .ok b) : ∃ P, s.scratchAt k c a = .ok P := by
  unfold State.scratchRead at h
  split at h
  · exact ⟨_, by assumption⟩
  · cases h
  · cases h

theorem samePlaces_scratchPut (tc p : Nat) (b : Byte) : SamePlaces s (s.scratchPut tc p b) :=
  ⟨fun _ => rfl, fun d => by rw [State.scratchPut, State.core_modCore]; split <;> simp_all⟩

/-- The bytes of a core, and its words in error, after a byte of scratchpad has been written. -/
theorem scratch_scratchPut (tc p tc' p' : Nat) (b : Byte) :
    ((s.scratchPut tc p b).core tc').scratch.read p' = (if tc' = tc ∧ p' = p then b else (s.core tc').scratch.read p') ∧
    ((s.scratchPut tc p b).core tc').scrErr.read (p' / 4) =
      (if tc' = tc ∧ p' / 4 = p / 4 then false else (s.core tc').scrErr.read (p' / 4)) := by
  rw [State.scratchPut, State.core_modCore]
  by_cases h : tc' = tc
  · subst h
    simp [Tbl.read_write]
  · simp [h]

/-- A byte that has been written reads as it was written, and is not in error (R152). -/
theorem scratchRead_scratchPut_self {a tc p : Nat} (b : Byte) (h : s.scratchAt k c a = .ok (tc, p)) :
    (s.scratchPut tc p b).scratchRead k c a = .ok b := by
  obtain ⟨hbyte, herr⟩ := scratch_scratchPut (s := s) tc p tc p b
  rw [if_pos ⟨rfl, rfl⟩] at hbyte herr
  rw [scratchRead_of_at (((samePlaces_scratchPut tc p b).scratchAt ..).trans h), hbyte, herr, if_neg Bool.false_ne_true]

/-- A byte written elsewhere leaves a byte that can be read as it was. -/
theorem scratchRead_scratchPut_other {a tc p : Nat} {v b : Byte} (hne : s.scratchAt k c a ≠ .ok (tc, p))
    (hv : s.scratchRead k c a = .ok v) : (s.scratchPut tc p b).scratchRead k c a = .ok v := by
  obtain ⟨⟨tc', p'⟩, h⟩ := scratchAt_of_scratchRead hv
  obtain ⟨hbyte, herr⟩ := scratch_scratchPut (s := s) tc p tc' p' b
  rw [scratchRead_of_at h] at hv
  split at hv
  · cases hv
  rename_i hgood
  rw [scratchRead_of_at (((samePlaces_scratchPut tc p b).scratchAt ..).trans h), hbyte, herr,
    if_neg (fun e : tc' = tc ∧ p' = p => hne (by rw [h, e.1, e.2])), if_neg]
  · exact hv
  · split
    · exact Bool.false_ne_true
    · exact hgood

/-! ### Runs of bytes -/

/-- The bytes from `a` on have places, one after another on one side of the map. -/
theorem scratchOk_places {a n : Nat} (h : s.scratchOk k c a n = .ok ()) {i : Nat} (hi : i < n) :
    (∃ P, s.scratchAt k c (a + i) = .ok P) ∧ a + i < 2 ^ 24 ∧ (a + i < 2 ^ 19 ↔ a < 2 ^ 19) := by
  induction n generalizing a i with
  | zero => omega
  | succ n ih =>
    unfold State.scratchOk at h
    split at h
    case h_2 => cases h
    case h_3 => cases h
    case h_1 P hP =>
    have hat : a < 2 ^ 19 ∨ 2 ^ 23 ≤ a ∧ a < 2 ^ 23 + 2 ^ 22 := by
      rcases scratchAt_ok (tc := P.1) (p := P.2) hP with ⟨h1, -⟩ | ⟨h1, h2, -⟩
      · exact .inl h1
      · exact .inr ⟨h1, h2⟩
    match i with
    | 0 => exact ⟨⟨P, hP⟩, by omega, Iff.rfl⟩
    | i + 1 =>
      rw [Nat.mod_eq_of_lt (by omega : a + 1 < 2 ^ 32)] at h
      have hnext := ih h (i := 0) (by omega)
      obtain ⟨⟨Q, hQ⟩, -, -⟩ := hnext
      have hat' : a + 1 < 2 ^ 19 ∨ 2 ^ 23 ≤ a + 1 := by
        rcases scratchAt_ok (tc := Q.1) (p := Q.2) hQ with ⟨h1, -⟩ | ⟨h1, -⟩
        · exact .inl h1
        · exact .inr h1
      obtain ⟨hP', hlt, hside⟩ := ih h (i := i) (by omega)
      rw [show a + (i + 1) = a + 1 + i by omega]
      exact ⟨hP', hlt, by omega⟩

/-- Bytes that have places end below 2^24. -/
theorem scratchOk_bound {a n : Nat} (h : s.scratchOk k c a n = .ok ()) (hn : n ≠ 0) : a + n ≤ 2 ^ 24 := by
  obtain ⟨-, hlt, -⟩ := scratchOk_places h (i := n - 1) (by omega)
  omega

theorem samePlaces_scratchPoke (a : Nat) (bs : List Nat) : SamePlaces s (s.scratchPoke k c a bs) := by
  induction bs generalizing s a with
  | nil => exact .refl s
  | cons b bs ih =>
    rw [State.scratchPoke]
    split
    · exact (samePlaces_scratchPut ..).trans (ih _)
    · exact ih _

/-- Bytes written at other places leave a byte that can be read as it was. -/
theorem scratchRead_scratchPoke_other {a a' : Nat} {bs : List Nat} {v : Byte} (hlen : a + bs.length ≤ 2 ^ 32)
    (hne : ∀ i, i < bs.length → ∀ P, s.scratchAt k c (a + i) = .ok P → s.scratchAt k c a' ≠ .ok P)
    (hv : s.scratchRead k c a' = .ok v) : (s.scratchPoke k c a bs).scratchRead k c a' = .ok v := by
  induction bs generalizing s a with
  | nil => exact hv
  | cons b bs ih =>
    rw [List.length_cons] at hlen hne
    rw [State.scratchPoke]
    match bs with
    | [] =>
      rw [State.scratchPoke]
      split
      · rename_i tc p hP
        exact scratchRead_scratchPut_other (hne 0 (by omega) _ hP) hv
      · exact hv
    | b' :: bs =>
      rw [List.length_cons] at hlen hne
      rw [Nat.mod_eq_of_lt (by omega : a + 1 < 2 ^ 32)]
      have hnext : ∀ u : State, SamePlaces s u → ∀ i, i < (b' :: bs).length → ∀ P, u.scratchAt k c (a + 1 + i) = .ok P →
          u.scratchAt k c a' ≠ .ok P := by
        intro u hu i hi P hP
        rw [hu.scratchAt] at hP ⊢
        exact hne (i + 1) (by simpa using hi) P (by rw [show a + (i + 1) = a + 1 + i by omega]; exact hP)
      split
      · rename_i tc p hP
        exact ih (by rw [List.length_cons]; omega) (hnext _ (samePlaces_scratchPut ..)) (scratchRead_scratchPut_other (hne 0 (by omega) _ hP) hv)
      · exact ih (by rw [List.length_cons]; omega) (hnext _ (.refl s)) hv

/-- Bytes written where they all are allowed read as they were written. -/
theorem scratchRead_scratchPoke {a : Nat} {bs : List Nat} (h : s.scratchOk k c a bs.length = .ok ()) {i : Nat} (hi : i < bs.length) :
    (s.scratchPoke k c a bs).scratchRead k c (a + i) = .ok (BitVec.ofNat 8 bs[i]) := by
  induction bs generalizing s a i with
  | nil => simp at hi
  | cons b bs ih =>
    obtain ⟨⟨⟨tc, p⟩, hP⟩, hlt, -⟩ := scratchOk_places h (i := 0) (by simp)
    rw [Nat.add_zero] at hP hlt
    have hwrap : (a + 1) % 2 ^ 32 = a + 1 := Nat.mod_eq_of_lt (by omega)
    have hrest : s.scratchOk k c (a + 1) bs.length = .ok () := by
      rw [List.length_cons, State.scratchOk, hP, hwrap] at h; exact h
    rw [State.scratchPoke, hP, hwrap]
    match i with
    | 0 =>
      rw [Nat.add_zero, List.getElem_cons_zero]
      refine scratchRead_scratchPoke_other ?_ ?_ (scratchRead_scratchPut_self _ hP)
      · have := scratchOk_bound h (by simp)
        rw [List.length_cons] at this
        omega
      · intro i hi P hPi hPa
        rw [(samePlaces_scratchPut ..).scratchAt] at hPi hPa
        obtain ⟨-, -, hside⟩ := scratchOk_places h (i := i + 1) (by simpa using hi)
        have := scratchAt_inj hPi hPa (by rw [show a + 1 + i = a + (i + 1) by omega]; exact hside)
        omega
    | i + 1 =>
      rw [show a + (i + 1) = a + 1 + i by omega, List.getElem_cons_succ]
      exact ih (by rw [(samePlaces_scratchPut ..).scratchOk]; exact hrest) (by simpa using hi)

/-- The number that bytes which can be read make. -/
theorem scratchNat_of_scratchRead {a : Nat} {bs : List Nat} (hlen : a + bs.length ≤ 2 ^ 32)
    (h : ∀ i (hi : i < bs.length), s.scratchRead k c (a + i) = .ok (BitVec.ofNat 8 bs[i])) :
    s.scratchNat k c a bs.length = .ok (leNat bs) := by
  induction bs generalizing a with
  | nil => rfl
  | cons b bs ih =>
    have h0 := h 0 (by simp)
    rw [Nat.add_zero, List.getElem_cons_zero] at h0
    have hb : (BitVec.ofNat 8 b).toNat = b % 256 := BitVec.toNat_ofNat ..
    have hrest : ∀ hne : bs ≠ [], s.scratchNat k c ((a + 1) % 2 ^ 32) bs.length = .ok (leNat bs) := by
      intro hne
      have := List.length_pos_iff.2 hne
      rw [List.length_cons] at hlen
      rw [Nat.mod_eq_of_lt (by omega : a + 1 < 2 ^ 32)]
      refine ih (by omega) fun i hi => ?_
      have := h (i + 1) (by simpa using hi)
      rwa [List.getElem_cons_succ, show a + (i + 1) = a + 1 + i by omega] at this
    rw [List.length_cons, State.scratchNat, h0, leNat]
    cases bs with
    | nil => simp [State.scratchNat, leNat, hb]
    | cons b' bs => rw [hrest (by simp)]; dsimp only; rw [hb]

/-- A number that can be read lies in bytes that have places and can be read. -/
theorem scratchRead_of_scratchNat {a n v : Nat} (h : s.scratchNat k c a n = .ok v) : s.scratchOk k c a n = .ok () ∧
    ∀ i, i < n → ∃ b, s.scratchRead k c (a + i) = .ok b := by
  induction n generalizing a v with
  | zero => exact ⟨rfl, fun i hi => by omega⟩
  | succ n ih =>
    unfold State.scratchNat at h
    split at h
    case h_2 => cases h
    case h_3 => cases h
    case h_1 b hb =>
    obtain ⟨⟨tc, p⟩, hP⟩ := scratchAt_of_scratchRead hb
    have hrest : ∃ r, s.scratchNat k c ((a + 1) % 2 ^ 32) n = .ok r := by
      split at h
      · exact ⟨_, by assumption⟩
      · exact ⟨_, h⟩
    obtain ⟨r, hr⟩ := hrest
    obtain ⟨hok, hread⟩ := ih hr
    refine ⟨by rw [State.scratchOk, hP]; exact hok, fun i hi => ?_⟩
    match i with
    | 0 => exact ⟨b, hb⟩
    | i + 1 =>
      have hlt : a < 2 ^ 24 := by rcases scratchAt_ok hP with ⟨h1, -⟩ | ⟨-, h2, -⟩ <;> omega
      rw [show a + (i + 1) = (a + 1) % 2 ^ 32 + i by omega]
      exact hread i (by omega)

/-- What has been written over bytes that have places reads as one number. -/
theorem scratchNat_scratchPoke {a : Nat} {bs : List Nat} (h : s.scratchOk k c a bs.length = .ok ()) :
    (s.scratchPoke k c a bs).scratchNat k c a bs.length = .ok (leNat bs) := by
  cases bs with
  | nil => rfl
  | cons b bs =>
    have := scratchOk_bound h (by simp)
    exact scratchNat_of_scratchRead (by omega) fun i hi => scratchRead_scratchPoke h hi

/-- Reads of single bytes that agree make the same number. -/
theorem scratchNat_congr {t : State} {a n v : Nat} (hv : s.scratchNat k c a n = .ok v)
    (h : ∀ i b, i < n → s.scratchRead k c (a + i) = .ok b → t.scratchRead k c (a + i) = .ok b) : t.scratchNat k c a n = .ok v := by
  induction n generalizing a v with
  | zero => exact hv
  | succ n ih =>
    obtain ⟨hok, hread⟩ := scratchRead_of_scratchNat hv
    have hbound := scratchOk_bound hok (by omega)
    unfold State.scratchNat at hv ⊢
    obtain ⟨b, hb⟩ := hread 0 (by omega)
    have ht := h 0 b (by omega) hb
    rw [Nat.add_zero] at hb ht
    rw [ht]
    rw [hb] at hv
    dsimp only at hv ⊢
    rw [Nat.mod_eq_of_lt (by omega : a + 1 < 2 ^ 32)] at hv ⊢
    split at hv
    · rename_i r hr
      rw [ih hr fun i b hi => by rw [show a + 1 + i = a + (i + 1) by omega]; exact h (i + 1) b (by omega)]
      exact hv
    · rename_i hno
      exact absurd hv (hno v)

end

/-! ### Watchpoints leave scratchpad alone (R256, R257) -/

/-- Cores and companies stand as they stood. -/
def SameUnits (s t : State) : Prop := t.cores = s.cores ∧ t.companies = s.companies

theorem SameUnits.trans {s t u : State} (h : SameUnits s t) (h' : SameUnits t u) : SameUnits s u :=
  ⟨h'.1.trans h.1, h'.2.trans h.2⟩

theorem SameUnits.samePlaces {s t : State} (h : SameUnits s t) : SamePlaces s t :=
  ⟨fun k => by rw [State.co, h.2]; rfl, fun c => by rw [State.core, h.1]; rfl⟩

theorem SameUnits.scratchRead {s t : State} (h : SameUnits s t) (k c a : Nat) : t.scratchRead k c a = s.scratchRead k c a := by
  have hcore : ∀ c, t.core c = s.core c := fun c => by rw [State.core, h.1]; rfl
  simp only [State.scratchRead, h.samePlaces.scratchAt, hcore]

theorem SameUnits.scratchNat {s t : State} (h : SameUnits s t) (k c a n : Nat) : t.scratchNat k c a n = s.scratchNat k c a n := by
  induction n generalizing a with
  | zero => rfl
  | succ n ih => simp only [State.scratchNat, h.scratchRead, ih]

section
variable (s : State)

theorem sameUnits_traceRec (k type flags seq pc d1 d2 : Nat) : SameUnits s (s.traceRec k type flags seq pc d1 d2) := by
  obtain ⟨m, x, h⟩ := s.traceRec_frame k type flags seq pc d1 d2
  rw [h]; exact ⟨rfl, rfl⟩

theorem sameUnits_stopRing (ctx c : Nat) : SameUnits s (s.stopRing ctx c) := by
  unfold State.stopRing
  dsimp only
  split
  · exact ⟨rfl, rfl⟩
  · refine foldl_keeps (SameUnits s) _ (fun u k hu => ?_) _ ⟨rfl, rfl⟩
    exact hu.trans ⟨rfl, rfl⟩

theorem sameUnits_trigger (x : Nat) : SameUnits s (s.trigger x) := by
  unfold State.trigger
  split
  · exact ⟨rfl, rfl⟩
  · split <;> exact ⟨rfl, rfl⟩

/-- What a hit does beyond its own registers changes no core and no company. -/
theorem sameUnits_hitActs (w : Watch) (b : Accessor) (a : Nat) : SameUnits s (s.hitActs w b a) := by
  unfold State.hitActs
  dsimp only
  have h1 : SameUnits s (match b.troupe with
      | some k => s.traceRec k 7 ((s.tr k).level + if b.again then 2 else 0) b.seq b.pc.toNat a s.clock
      | none => s) := by
    split
    · exact sameUnits_traceRec ..
    · exact ⟨rfl, rfl⟩
  have h2 : ∀ u : State, SameUnits s u → SameUnits s (match b.core with
      | some c => if bitOf w.ctl.toNat 3 then u.stopRing b.ctx c else u
      | none => u) := by
    intro u hu
    split
    · split
      · exact hu.trans (sameUnits_stopRing ..)
      · exact hu
    · exact hu
  split
  · exact (h2 _ h1).trans (sameUnits_trigger ..)
  · exact h2 _ h1

theorem sameUnits_watchDie (d : Nat) (b : Accessor) (rd wr : Bool) (va : W64) (n : Nat) : SameUnits s (s.watchDie d b rd wr va n) := by
  unfold State.watchDie
  split
  · exact ⟨rfl, rfl⟩
  · refine foldl_keeps (SameUnits s) _ (fun u i hu => ?_) _ ⟨rfl, rfl⟩
    dsimp only
    split
    · exact hu
    · exact hu.trans (sameUnits_hitActs (u.modDie ..) ..)

theorem sameUnits_watchRing (c : Nat) (b : Accessor) (rd wr : Bool) (off n : Nat) : SameUnits s (s.watchRing c b rd wr off n) := by
  unfold State.watchRing
  split
  · exact ⟨rfl, rfl⟩
  · refine foldl_keeps (SameUnits s) _ (fun u i hu => ?_) _ ⟨rfl, rfl⟩
    dsimp only
    split
    · exact hu
    · split
      · exact hu
      · exact hu.trans (sameUnits_hitActs (u.modRing ..) ..)

end
end Sys2Proof.Machine
end

section
/-!
PROOF. The deliveries of CPL (R158), and with the engines' events what O37 says.
-/
namespace Sys2Proof.Machine
open Sys2Proof Sys2Proof.Claims

/-! ### A delivery and its line (R158) -/

section
variable {s u : State} {k q line : Nat} {o : MemOp} {f : Fields}

/-- What the line of a delivery is asked for: the access of the first of its lanes. -/
def cplAsked (s : State) (k q line : Nat) (o : MemOp) (f : Fields) : Acc (Nat × Option LineData) × State :=
  s.reach (.die (dieOf (coreOf k))) (s.ctxOf k) ⟨k, q, 1⟩ (o.addr.read ((cplLanesOn o line).headD 0))
    (if f.md.getLsbD 2 then .write else .read) (f.md.toNat / 32 % 4 % 3)

/-- A delivery that has lanes to make, on a line that no fault holds, goes by what its line answers. -/
theorem execCplDelivery_eq (hop : s.op k q = some o) (hins : o.ins = .cpl f) (hmine : cplLanesOn o line ≠ []) (hstuck : line ∉ o.stuck) :
    execCplDelivery k q line s = match cplAsked s k q line o f with
      | (.wait, s) => .next s
      | (.fault g, s) => .next (s.faultAccess k o (if f.md.getLsbD 2 then .write else .read) line g)
      | (.ok (pa, d), s) =>
        let r := State.cplLanes k (f.md.getLsbD 2) (pa / 128) d (cplLanesOn o line) o
          (if f.md.getLsbD 2 then s.takeBack (pa / 128) else s.readHome (pa / 128)) none
        match r.2.2 with
        | some g =>
          .next (if r.1.park.isSome then r.2.1.setOp k { r.1 with stuck := r.1.stuck ++ [line] }.settle
            else r.2.1.parkOp k { r.1 with stuck := r.1.stuck ++ [line] } g)
        | none => .next (if r.1.allDone && o.target = 0 then r.2.1.finish k r.1.settle 0 else r.2.1.setOp k r.1.settle) := by
  have hgo : ((cplLanesOn o line).isEmpty || o.stuck.contains line) = false := by simp [hmine, hstuck]
  simp only [execCplDelivery, hop, hins]
  exact if_neg (Bool.eq_false_iff.1 hgo)

/-- R158: a delivery makes its lanes, waits for its line, or faults. -/
theorem lineDelivered (hop : s.op k q = some o) (hins : o.ins = .cpl f) (hmine : cplLanesOn o line ≠ []) (hstuck : line ∉ o.stuck) :
    let toMem := f.md.getLsbD 2
    let kind := if toMem then AccKind.write else AccKind.read
    let asked := cplAsked s k q line o f
    (∀ pa d u, asked = (.ok (pa, d), u) →
      let r := State.cplLanes k toMem (pa / 128) d (cplLanesOn o line) o
        (if toMem then u.takeBack (pa / 128) else u.readHome (pa / 128)) none
      (r.2.2 = none →
        exec (.cplDelivery k q line) s = .next (if r.1.allDone = true ∧ o.target = 0 then r.2.1.finish k r.1.settle 0
          else r.2.1.setOp k r.1.settle)) ∧
      (∀ g, r.2.2 = some g → r.1.park = none →
        exec (.cplDelivery k q line) s = .next (r.2.1.parkOp k { r.1 with stuck := r.1.stuck ++ [line] } g))) ∧
    (∀ u, asked = (.wait, u) → exec (.cplDelivery k q line) s = .next u) ∧
    (∀ g u, asked = (.fault g, u) → exec (.cplDelivery k q line) s = .next (u.faultAccess k o kind line g)) := by
  have hexec := execCplDelivery_eq hop hins hmine hstuck
  intro toMem kind asked
  refine ⟨fun pa d u hasked => ?_, fun u hasked => ?_, fun g u hasked => ?_⟩
  · rw [show cplAsked s k q line o f = _ from hasked] at hexec
    intro r
    refine ⟨fun hr => ?_, fun g hr hpark => ?_⟩
    · refine hexec.trans ?_
      dsimp only
      split
      · rename_i g hg
        exact absurd (hr.symm.trans hg) nofun
      · refine congrArg Host.Outcome.next ?_
        simp only [Bool.and_eq_true, decide_eq_true_eq]
        rfl
    · refine hexec.trans ?_
      dsimp only
      split
      · rename_i g' hg
        obtain rfl : g = g' := Option.some.inj (hr.symm.trans hg)
        exact congrArg Host.Outcome.next (if_neg (by rw [hpark]; exact Bool.false_ne_true))
      · rename_i hg
        exact absurd (hr.symm.trans hg) nofun
  · rw [show cplAsked s k q line o f = _ from hasked] at hexec
    exact hexec
  · rw [show cplAsked s k q line o f = _ from hasked] at hexec
    exact hexec

end

/-! ### A lane into scratchpad (R158) -/

section
variable {s : State} {k c : Nat}

/-- Bytes written one by one are written as one run. -/
theorem scratchPoke_append {a : Nat} {bs bs' : List Nat} (h : a + bs.length + bs'.length ≤ 2 ^ 32) :
    s.scratchPoke k c a (bs ++ bs') = (s.scratchPoke k c a bs).scratchPoke k c (a + bs.length) bs' := by
  induction bs generalizing s a with
  | nil => rfl
  | cons b bs ih =>
    rw [List.length_cons] at h ⊢
    cases hrest : bs ++ bs' with
    | nil =>
      obtain ⟨rfl, rfl⟩ := List.append_eq_nil_iff.1 hrest
      rfl
    | cons b' r =>
      have hlen := congrArg List.length hrest
      rw [List.length_append, List.length_cons] at hlen
      have hwrap : (a + 1) % 2 ^ 32 = a + 1 := Nat.mod_eq_of_lt (by omega)
      rw [List.cons_append, State.scratchPoke, State.scratchPoke, hwrap]
      rw [ih (by omega), show a + 1 + bs.length = a + (bs.length + 1) by omega]

theorem foldl_scratchPoke_byte {a n : Nat} (b : Nat → Nat) (h : n ≠ 0 → a + n ≤ 2 ^ 32) :
    (List.range n).foldl (fun (s : State) i => s.scratchPoke k c (a + i) [b i]) s = s.scratchPoke k c a ((List.range n).map b) := by
  induction n with
  | zero => rfl
  | succ n ih =>
    have hbound := h (by omega)
    rw [List.range_succ, List.foldl_append, List.map_append, scratchPoke_append (by simp; omega), ih (by omega)]
    simp

/-- The bytes of a lane from memory, none of them dropped, are in scratchpad as they were read. -/
theorem cplIn_delivered {o : MemOp} {l : Nat} {b : List Nat} (hdrop : o.drop.read l = 0) (hlen : b.length = o.size)
    (hok : s.scratchOk (s.tr k).company (coreOf k) (o.cmp.read l) o.size = .ok ()) :
    ∃ t, s.cplIn k o l b = (.ok (), t) ∧
      t.scratchNat (s.tr k).company (coreOf k) (o.cmp.read l) o.size = .ok (leNat b) := by
  have hbytes : (List.range o.size).map (fun i => b.getD i 0) = b := by
    refine List.ext_getElem (by simp [hlen]) fun i _ hi => ?_
    simp [List.getD_eq_getElem?_getD, List.getElem?_eq_getElem hi]
  have hpoked : (List.range o.size).foldl (fun (u : State) i => if (o.drop.read l).testBit i then u
      else u.scratchPoke (s.tr k).company (coreOf k) (o.cmp.read l + i) [b.getD i 0]) s =
      s.scratchPoke (s.tr k).company (coreOf k) (o.cmp.read l) b := by
    rw [hdrop]
    simp only [Nat.zero_testBit, Bool.false_eq_true, if_false]
    rw [foldl_scratchPoke_byte (fun i => b.getD i 0), hbytes]
    intro hne
    have := scratchOk_bound hok hne
    omega
  have hread := scratchNat_scratchPoke (bs := b) (hlen.symm ▸ hok)
  rw [hlen] at hread
  unfold State.cplIn
  dsimp only
  rw [hok]
  dsimp only
  rw [hpoked]
  refine ⟨_, rfl, ?_⟩
  split
  · rw [(sameUnits_watchRing ..).scratchNat]
    exact hread
  · exact hread

/-- R158: a lane into scratchpad leaves there what memory holds. -/
theorem laneDelivered {o : MemOp} {p l : Nat} (hdrop : o.drop.read l = 0)
    (hok : s.scratchOk (s.tr k).company (coreOf k) (o.cmp.read l) o.size = .ok ()) :
    let r := s.cplLane k o false p none l
    r.1 = o.mark l o.full ∧ r.2.2 = none ∧ r.2.1.scratchNat (s.tr k).company (coreOf k) (o.cmp.read l) o.size =
      .ok (s.peekNat (128 * p + (o.addr.read l).toNat % 128) o.size) := by
  obtain ⟨t, ht, hread⟩ := cplIn_delivered (b := s.peek (128 * p + (o.addr.read l).toNat % 128) o.size) hdrop (by simp [State.peek]) hok
  have hlane : s.cplLane k o false p none l = (o.mark l o.full,
      t.watchDie (dieOf (coreOf k)) { s.accessor k o with core := none } true false (o.addr.read l) o.size, none) := by
    simp only [State.cplLane, Bool.false_eq_true, if_false, ht]
    rfl
  intro r
  rw [show r = _ from hlane]
  refine ⟨rfl, rfl, ?_⟩
  rw [(sameUnits_watchDie ..).scratchNat]
  exact hread

end

theorem laneCopyEvent : LaneCopyEvent :=
  ⟨fun _ _ _ _ _ _ hop hins hmine hstuck => lineDelivered hop hins hmine hstuck, fun _ _ _ _ _ hdrop hok => laneDelivered hdrop hok⟩

/-- Settles O37: the deliveries of CPL, the steps of an engine and the end of a failed command, each by what its event answers. -/
theorem engineEventsHold : Obligations.EngineEvents := ⟨laneCopyEvent, engineSteps, engineFatalEvents⟩

end Sys2Proof.Machine
end

section
/-!
PROOF. How an operation ends (R51, R77, R151, R292): what its end leaves of its troupe, its registers and its core.
-/
namespace Sys2Proof.Machine
open Sys2Proof Sys2Proof.Claims

/-! ### The troupe of an operation that ends -/

theorem Troupe.drop_frame (t : Troupe) (ls : List Nat) : ∃ f, t.drop ls = { t with f := f } := by
  induction ls generalizing t with
  | nil => exact ⟨t.f, rfl⟩
  | cons k ls ih =>
    obtain ⟨f, h⟩ := ih { t with f := t.f.write k (t.f.read k - 1) }
    exact ⟨f, by rw [Troupe.drop, h]⟩

/-- Beyond its registers an operation that ends leaves flags, counters and operations. -/
theorem Troupe.ended'_frame (t : Troupe) (o : MemOp) (zero : Mask) :
    ∃ f oc ops, t.ended' o zero = { o.deliver zero t with f := f, oc := oc, ops := ops } := by
  obtain ⟨f, h⟩ := (o.deliver zero t).drop_frame o.flags
  simp only [Troupe.ended', h]
  split
  · exact ⟨_, _, _, rfl⟩
  · exact ⟨_, _, _, rfl⟩

section
variable {s : State} {k q : Nat} {o : MemOp}

theorem op_seq (h : s.op k q = some o) : o.seq = q :=
  beq_iff_eq.1 (List.find?_some (p := fun x : MemOp => x.seq == q) h)

/-- An operation found by its launch site has left its troupe when it has ended, changed or not. -/
theorem ended_finish {x u : State} {o' : MemOp} (h : x.op k q = some o) (hseq : o'.seq = o.seq) (zero : Mask) : Ended k q (u.finish k o' zero) := by
  intro y hy
  rw [← op_seq h, ← hseq]
  exact u.finish_ended k o' zero y hy

/-- The state after an operation has left its troupe and acquired, before its troupe's end is looked for. -/
def State.left (s : State) (k : Nat) (o : MemOp) : State :=
  let u := s.modTr k fun t => t.ended' o 0
  (if o.acq then u.acquireBy k else u).endFlights k o.seq

theorem finish_eq_left : s.finish k o 0 = (s.left k o).endCheck k := by
  unfold State.finish State.left
  simp only [decide_true, Bool.and_true]
  rfl

/-- What has left leaves its troupe as its delivery made it, but for flags, counters, operations and the hold of an acquire. -/
theorem tr_left : ∃ f oc ops w, (s.left k o).tr k = { o.deliver 0 (s.tr k) with f := f, oc := oc, ops := ops, orderUntil := w } := by
  obtain ⟨f, oc, ops, h⟩ := (s.tr k).ended'_frame o 0
  unfold State.left
  rw [State.tr_endFlights]
  split
  · rw [State.acquireBy, State.tr_modTr_self, State.tr_acquire, State.tr_modTr_self, h]
    exact ⟨_, _, _, _, rfl⟩
  · rw [State.tr_modTr_self, h]
    exact ⟨_, _, _, _, rfl⟩

theorem pt_left (h : (o.deliver 0 (s.tr k)).pt = (s.tr k).pt) : ((s.left k o).tr k).pt = (s.tr k).pt := by
  obtain ⟨f, oc, ops, w, ht⟩ := tr_left (s := s) (k := k) (o := o)
  rw [ht, ← h]

theorem not_allExited_of_alive (h : Alive s k) : (s.tr k).allExited = false := by
  obtain ⟨l, hl, hne⟩ := h
  refine Bool.eq_false_iff.2 fun hall => hne ?_
  exact beq_iff_eq.1 (List.all_eq_true.1 hall l (List.mem_range.2 hl))

/-- The troupe of a thread that has not exited goes on when an operation ends. -/
theorem finish_alive (hpt : (o.deliver 0 (s.tr k)).pt = (s.tr k).pt) (h : Alive s k) : s.finish k o 0 = s.left k o := by
  rw [finish_eq_left]
  refine State.endCheck_alive _ _ (not_allExited_of_alive ?_)
  rwa [Alive, pt_left hpt]

end

/-! ### The acquire (R292) -/

/-- A table with entries removed reads as one of those that stay, or as the default. -/
theorem read_filter_or_default {α : Type} [Inhabited α] (m : Tbl α) (p : Nat × α → Bool) (k : Nat) :
    (∃ e, p e = true ∧ Tbl.read (m.filter p) k = e.2) ∨ Tbl.read (m.filter p) k = default := by
  induction m with
  | nil => exact .inr rfl
  | cons e m ih =>
    by_cases hp : p e = true
    · rw [List.filter_cons_of_pos hp, Tbl.read]
      split
      · exact .inl ⟨e, hp, rfl⟩
      · exact ih
    · rw [List.filter_cons_of_neg hp]
      exact ih

/-- A core that acquires keeps only the lines that it owns. -/
theorem acquired_acquire (s : State) (c : Nat) : Acquired c (s.acquire c) := by
  intro l hvalid
  rw [State.acquire, State.core_modCore_self] at hvalid ⊢
  rcases read_filter_or_default (s.core c).l1 (fun e => e.2.owned) l with ⟨e, howned, hread⟩ | hread
  · rwa [← hread] at howned
  · have hvalid : (Tbl.read ((s.core c).l1.filter fun e => e.2.owned) l).valid = true := hvalid
    rw [hread] at hvalid
    exact absurd hvalid Bool.false_ne_true

theorem acquired_left {s : State} {k : Nat} {o : MemOp} (h : o.acq = true) : Acquired (coreOf k) (s.left k o) := by
  have hcore : (s.left k o).core = ((s.modTr k fun t => t.ended' o 0).acquire (coreOf k)).core := by
    simp only [State.left, h, if_true]
    rfl
  intro l
  rw [hcore]
  exact acquired_acquire _ _ l

/-! ### Threads that leave WAIT (R181, R258) -/

section
variable {s : State} {k : Nat} {o : MemOp}

theorem state_wakeOp {t : Troupe} (l : Nat) (hl : l < 64) (h : ¬ (o.level = 0 ∧ t.level = 1)) :
    (t.wakeOp o).pt.state l = if inMask o.run l then t.wakeTo else t.pt.state l := by
  rw [Troupe.wakeOp, if_neg h]
  exact PcTable.state_put _ _ _ hl

theorem wakeTo_ne (t : Troupe) : t.wakeTo ≠ .exited ∧ t.wakeTo ≠ .wait := by
  unfold Troupe.wakeTo
  split <;> exact ⟨nofun, nofun⟩

/-- A thread that leaves WAIT has not exited. -/
theorem alive_wakeOp (h : Alive s k) : Alive (s.modTr k fun t => t.wakeOp o) k := by
  obtain ⟨l, hl, hne⟩ := h
  refine ⟨l, hl, ?_⟩
  rw [State.tr_modTr_self]
  by_cases hlevel : o.level = 0 ∧ (s.tr k).level = 1
  · rwa [Troupe.wakeOp, if_pos hlevel]
  · rw [state_wakeOp l hl hlevel]
    split
    · exact (wakeTo_ne _).1
    · exact hne

/-- A troupe whose end is looked for keeps its threads, or its slot is empty. -/
theorem pt_endCheck (s : State) (k : Nat) : ((s.endCheck k).tr k).pt = (s.tr k).pt ∨ (s.endCheck k).tr k = default := by
  simp only [State.endCheck]
  split
  · split <;> (
      rcases State.tr_releaseIfOver _ (s.tr k).company k with h | h
      · left; rw [h]; simp [State.modCo, State.tr, State.modTr, State.setTr]
      · exact .inr h)
  · exact .inl rfl

/-- Threads that leave WAIT as their operation ends do not wait. -/
theorem left_finish {o' : MemOp} (h : ¬ (o.level = 0 ∧ (s.tr k).level = 1))
    (hpt : ∀ t : Troupe, (o'.deliver 0 t).pt = t.pt) : Left k o.run ((s.modTr k fun t => t.wakeOp o).finish k o' 0) := by
  intro l hl hrun
  rw [finish_eq_left]
  rcases pt_endCheck ((s.modTr k fun t => t.wakeOp o).left k o') k with hkept | hempty
  · rw [hkept, pt_left (hpt _), State.tr_modTr_self, state_wakeOp l hl h, if_pos hrun]
    exact (wakeTo_ne _).2
  · rw [hempty]
    exact nofun

end

/-! ### What a turnstile's operation delivers (R180 to R182) -/

section
variable {o : MemOp} {f : Fields} (t : Troupe)

theorem deliver_tsadd (h : o.ins = .tsadd f) : o.deliver 0 t = t.wsAt o.level f.d.toNat (BitVec.ofNat 64 (o.got.read 0)) := by
  simp only [MemOp.deliver, MemOp.val, h, inMask_zero, bankBody]
  rfl

theorem deliver_tsread (h : o.ins = .tsread f) : o.deliver 0 t = t.wsAt o.level f.d.toNat (BitVec.ofNat 64 (o.got.read 0)) := by
  simp only [MemOp.deliver, MemOp.val, h, inMask_zero, bankBody]
  rfl

theorem deliver_tswait (h : o.ins = .tswait f) : o.deliver 0 t = t.wq f.d.toNat (o.got.read 0 != 0) := by
  simp only [MemOp.deliver, MemOp.val, h, inMask_zero, bankBody]
  rfl

theorem deliver_bar (h : o.ins = .bar f) : o.deliver 0 t = t := by
  simp only [MemOp.deliver, h, bankBody]
  rfl

@[simp] theorem Troupe.pt_wsAt (level r : Nat) (x : W64) : (t.wsAt level r x).pt = t.pt := by
  unfold Troupe.wsAt
  split
  · rfl
  · split <;> rfl

/-- A scalar written at level 0 reads as it was written (R81). -/
theorem read_wsAt_zero {r : Nat} (x : W64) (h : r < 63) : (t.wsAt 0 r x).s.read r = x := by
  rw [Troupe.wsAt, if_neg (by omega), if_neg (by omega)]
  exact Tbl.read_write_self ..

end
end Sys2Proof.Machine
end

section
/-!
PROOF. Adds and reads of turnstiles, barriers and waits (R158, R177 to R189, R419).
-/
namespace Sys2Proof.Machine
open Sys2Proof Sys2Proof.Claims

/-! ### Values delivered (R180 to R182) -/

/-- The value that an answered operation has taken. -/
theorem got_answered (o : MemOp) (v : Nat) : (answered o v).got.read 0 = v := by
  by_cases h : v = 0
  · subst h; rfl
  · have hkept : (answered o v).got = [(0, v)] := by simp [answered, h]
    rw [hkept]; rfl

section
variable {s u : State} {k q : Nat} {o : MemOp} {f : Fields}

/-- What an ended add or read of a turnstile has delivered to S(D) (R180, R182). -/
theorem answer_delivered {o : MemOp} {x : W64} (hdel : ∀ t, o.deliver 0 t = t.wsAt o.level f.d.toNat x) (halive : Alive s k)
    (hlevel : o.level = 0) (hd : f.d.toNat < 63) : ((s.finish k o 0).tr k).s.read f.d.toNat = x := by
  rw [finish_alive (by rw [hdel, Troupe.pt_wsAt]) halive]
  obtain ⟨f', oc, ops, w, ht⟩ := tr_left (s := s) (k := k) (o := o)
  rw [ht, hdel, hlevel]
  exact read_wsAt_zero _ _ hd

theorem tr_l1Forget (s : State) (c p j : Nat) : (s.l1Forget c p).tr j = s.tr j := by
  unfold State.l1Forget
  dsimp only
  split <;> rfl

theorem seq_answered (o : MemOp) (v : Nat) : (answered o v).seq = o.seq := rfl

/-! ### Adds and reads (R158, R180, R182, R419) -/

/-- The state after the core has forgotten the line of a global turnstile (R148). -/
def forgotten (u : State) (k : Nat) (o : MemOp) (f : Fields) : State :=
  match (if f.md.getLsbD 0 then none else u.lineOfVa k ((o.addr.read 0).toNat / 128)) with
  | some p => u.l1Forget (coreOf k) p
  | none => u

theorem alive_forgotten (h : Alive u k) : Alive (forgotten u k o f) k := by
  unfold forgotten
  split
  · rwa [Alive, tr_l1Forget]
  · exact h

/-- A TSADD whose turn it is goes by what its turnstile answers. -/
theorem exec_tsadd (hop : s.op k q = some o) (hins : o.ins = .tsadd f) (hturn : s.tsTurn k o = true) :
    exec (.turnstileAdd k q) s = .next (match tsaddAnswer s k o f with
      | (.wait, u) => u
      | (.fault g, u) => u.parkOp k o g
      | (.ok old, u) => (forgotten u k o f).finish k (answered o old) 0) := by
  change execTurnstileAdd k q s = _
  simp only [execTurnstileAdd, hop, State.performAdd, hins, hturn]
  rfl

theorem tsaddEvent (hop : s.op k q = some o) (hins : o.ins = .tsadd f) (hturn : s.tsTurn k o = true) :
    (∀ old, tsaddAnswer s k o f = (.ok old, u) →
      Completes (.turnstileAdd k q) s fun t => t = (forgotten u k o f).finish k (answered o old) 0 ∧ Ended k q t ∧
        (Alive u k → o.given = [] → o.level = 0 → f.d.toNat < 63 → (t.tr k).s.read f.d.toNat = BitVec.ofNat 64 old)) ∧
    (tsaddAnswer s k o f = (.wait, u) → exec (.turnstileAdd k q) s = .next u) ∧
    (∀ g, tsaddAnswer s k o f = (.fault g, u) → exec (.turnstileAdd k q) s = .next (u.parkOp k o g)) := by
  have hexec := exec_tsadd hop hins hturn
  refine ⟨fun old hans => ?_, fun hans => by rw [hexec, hans], fun g hans => by rw [hexec, hans]⟩
  rw [hans] at hexec
  refine ⟨(forgotten u k o f).finish k (answered o old) 0, hexec, rfl, ended_finish hop (seq_answered o _) 0, fun halive _ hlevel hd => ?_⟩
  refine answer_delivered (fun t => ?_) (alive_forgotten halive) hlevel hd
  rw [deliver_tsadd t (o := answered o old) hins, got_answered]

theorem exec_tsread (hop : s.op k q = some o) (hins : o.ins = .tsread f) (hturn : s.tsTurn k o = true) :
    exec (.laneAccessPerformed k q ((o.addr.read 0).toNat / 128)) s = .next (match s.tsRead k o with
      | (.wait, u) => u
      | (.fault g, u) => u.parkOp k o g
      | (.ok v, u) => (u.watchTs k o false).finish k (answered o v) 0) := by
  change execLaneAccessPerformed k q _ s = _
  simp only [execLaneAccessPerformed, hop, hins, if_true, State.performTsread, hturn]
  rfl

theorem tsreadEvent {v : Nat} (hop : s.op k q = some o) (hins : o.ins = .tsread f) (hturn : s.tsTurn k o = true)
    (hread : s.tsRead k o = (.ok v, u)) :
    Completes (.laneAccessPerformed k q ((o.addr.read 0).toNat / 128)) s fun t =>
      t = (u.watchTs k o false).finish k (answered o v) 0 ∧ Ended k q t ∧
      (Alive (u.watchTs k o false) k → o.given = [] → o.level = 0 → f.d.toNat < 63 →
        (t.tr k).s.read f.d.toNat = BitVec.ofNat 64 v) := by
  have hexec := exec_tsread hop hins hturn
  rw [hread] at hexec
  refine ⟨(u.watchTs k o false).finish k (answered o v) 0, hexec, rfl, ended_finish hop (seq_answered o _) 0, fun halive _ hlevel hd => ?_⟩
  refine answer_delivered (fun t => ?_) halive hlevel hd
  rw [deliver_tsread t (o := answered o v) hins, got_answered]

/-- R158, R419: the add that closes a CPL ends it. -/
theorem closingAdd {v : Nat} (hop : s.op k q = some o) (hins : o.ins = .cpl f) (hpark : o.park = none) (hdone : o.allDone = true)
    (htarget : o.target ≠ 0)
    (hans : s.tsAddGlobal (.die (dieOf (coreOf k))) { s.accessor k o with core := none } ⟨k, o.seq, 0⟩ 9 o.target
      (if o.readYet then o.count else o.cplTotal) = (.ok v, u)) :
    Completes (.turnstileAdd k q) s fun t => t = u.finish k o 0 ∧ Ended k q t := by
  refine ⟨_, ?_, rfl, ended_finish hop rfl 0⟩
  change execTurnstileAdd k q s = _
  have hgo : ¬ (o.park.isSome || !o.allDone || o.target = 0) = true := by 
    simp only [hpark, hdone, Option.isSome_none, Bool.not_true, Bool.or_self, Bool.false_or, decide_eq_true_eq]
    exact htarget
  simp only [execTurnstileAdd, hop, State.performAdd, hins, if_neg hgo, hans]

/-! ### Barriers (R184, R185) -/

/-- What the add of a barrier leaves of its operation: BAR waits for its phase, BARA ends. -/
theorem barAddEvent {old : Nat} (hop : s.op k q = some o) (hadded : o.added = false) (hturn : s.tsTurn k o = true)
    (hclock : o.stamp + 2 + windowDelay (o.addr.read 0) ≤ s.clock) (hans : barAnswer s k o = (.ok old, u)) :
    (∀ f, o.ins = .bar f → Completes (.barrierAdd k q) s fun t => t = u.setOp k (u.waiterSeated k { o with
      added := true, target := BitVec.ofNat 64 ((old / (f.x.toNat % 2 ^ 16) + 1) * (f.x.toNat % 2 ^ 16)) })) ∧
    (∀ f, o.ins = .bara f → Completes (.barrierAdd k q) s fun t =>
      t = u.finish k { o with prog := Tbl.write [] 0 o.full } 0 ∧ Ended k q t) := by
  have hans : s.tsAddScratch (s.accessor k o) 1 (s.tr k).company (coreOf k) (o.addr.read 0).toNat 1 (whereOf k) = (.ok old, u) := hans
  have hlate : ¬ s.clock < o.stamp + 2 + windowDelay (o.addr.read 0) := by omega
  refine ⟨fun f hins => ⟨_, ?_, rfl⟩, fun f hins => ⟨_, ?_, rfl, ended_finish hop rfl 0⟩⟩
  all_goals
    change execBarrierAdd k q s = _
    simp only [execBarrierAdd, hop, hins, hadded, hturn, hlate, hans]
    rfl

/-- BAR's threads leave when their time has come; before that its read finds the phase reached or not (R184, R185). -/
theorem departureEvent (hop : s.op k q = some o) (hins : o.ins = .bar f) (hadded : o.added = true) (hpark : o.park = none)
    (hpoll : o.poll ≤ s.clock) :
    (o.leaveAt ≠ 0 → o.leaveAt ≤ s.clock → Completes (.barrierDeparture k q) s fun t =>
      t = (s.modTr k fun x => x.wakeOp o).finish k { o with prog := Tbl.write [] 0 o.full } 0 ∧ Ended k q t ∧
      (¬ (o.level = 0 ∧ (s.tr k).level = 1) → Left k o.run t)) ∧
    (∀ (v : Nat) (u : State), o.leaveAt = 0 → (o.poll = 0 → s.watchTells k o = true) → s.tsRead k o = (.ok v, u) →
      let w := u.watchTs k o false
      Completes (.barrierDeparture k q) s fun t =>
        (o.target.toNat ≤ v → t = w.setOp k { o with leaveAt := w.clock + 2 + windowDelay (o.addr.read 0) }) ∧
        (v < o.target.toNat → t = if o.poll = 0 then w else w.setOp k { o with poll := w.clock + 1024 })) := by
  have hgo : (!o.added || o.park.isSome || s.clock < o.poll) = false := by simp [hadded, hpark, hpoll]
  constructor
  · intro hleave hclock
    refine ⟨_, ?_, rfl, ended_finish hop rfl 0, fun hlevel => left_finish hlevel fun t =>
      congrArg (·.pt) (deliver_bar t (o := { o with prog := Tbl.write [] 0 o.full }) hins)⟩
    change execBarrierDeparture k q s = _
    simp only [execBarrierDeparture, hop, hins, Bool.not_true, Bool.false_or, hgo, Bool.false_eq_true, if_false]
    rw [if_pos hleave, if_neg (by omega)]
  · intro v u hleave htells hread w
    have hseen : (decide (o.poll = 0) && !s.watchTells k o) = false := by
      by_cases h : o.poll = 0
      · simp [htells h]
      · simp [h]
    have hexec : exec (.barrierDeparture k q) s = .next (if o.target.toNat ≤ v then
        w.setOp k { o with leaveAt := w.clock + 2 + windowDelay (o.addr.read 0) }
        else if o.poll = 0 then w else w.setOp k { o with poll := w.clock + 1024 }) := by
      change execBarrierDeparture k q s = _
      simp only [execBarrierDeparture, hop, hins, Bool.not_true, Bool.false_or, hgo, Bool.false_eq_true, if_false]
      rw [if_neg (by omega : ¬ o.leaveAt ≠ 0), if_neg (Bool.eq_false_iff.1 hseen), hread]
    refine ⟨_, hexec, fun hreached => if_pos hreached, fun hshort => if_neg (by omega)⟩

theorem turnstileAnswers : TurnstileAnswers := fun _ _ _ _ hop =>
  ⟨fun _ _ hins hturn => tsaddEvent hop hins hturn, fun _ _ _ hins hturn hread => tsreadEvent hop hins hturn hread,
    fun _ _ _ hins hpark hdone htarget hans => closingAdd hop hins hpark hdone htarget hans,
    fun _ _ hadded hturn hclock hans => barAddEvent hop hadded hturn hclock hans,
    fun _ hins hadded hpark hpoll => departureEvent hop hins hadded hpark hpoll⟩

/-! ### Waits (R177, R181, R185) -/

/-- A waiter that may read is one that the model finds. -/
theorem waiter_of_waits (h : waits s k q o) (hins : o.ins = .tswait f) : s.waiter k q = some o := by
  obtain ⟨hop, hleave, hmay⟩ := h
  have hgo : (decide (o.leaveAt = 0) && (o.readYet && o.park.isNone || s.tsTurn k o)) = true := by
    rcases hmay with ⟨hread, hpark⟩ | hturn
    · simp [hleave, hread, hpark]
    · simp [hleave, hturn]
  simp only [State.waiter, hop, hins]
  exact if_pos hgo

/-- A wait that reads its turnstile leaves, is out of time, or waits on. -/
theorem waited_waitRead {v : Nat} (hread : s.tsRead k o = (.ok v, u)) : Waited u k o v (s.waitRead k o) := by
  have heq : s.waitRead k o =
      let due := match o.deadline with | some d => decide (d ≤ u.clock) | none => false
      let w := u.watchTs k o false
      if o.target.toNat ≤ v then
        (if o.lag = 0 then w.endWait k o true else w.setOp k { o with readYet := true, leaveAt := w.clock + o.lag })
      else if due then w.endWait k o false else w.setOp k (w.waiterSeated k o) := by
    simp only [State.waitRead, hread] <;> rfl
  rw [heq]
  refine ⟨fun hreached => ⟨fun hlag => ?_, fun hlag => ?_⟩, fun hshort => ⟨fun d hd hdue => ?_, fun hearly => ?_⟩⟩
  · dsimp only
    rw [if_pos hreached, if_pos hlag]
  · dsimp only
    rw [if_pos hreached, if_neg hlag]
  · dsimp only
    rw [if_neg (by omega), hd, if_pos (by simpa using hdue)]
  · dsimp only
    rw [if_neg (by omega), if_neg]
    split
    · rename_i d hd
      have := hearly d hd
      simpa using this
    · exact Bool.false_ne_true

/-- R177, R181: the first read of a wait, one its watch entry tells of, one that is polled, and one at its deadline. -/
theorem waitReadEvents {v : Nat} (h : waits s k q o) (hins : o.ins = .tswait f) (hread : s.tsRead k o = (.ok v, u)) :
    (readDue s k o → Completes (.tswaitSatisfied k q) s (Waited u k o v)) ∧
    (o.poll ≠ 0 → o.poll ≤ s.clock → Completes (.turnstilePoll k q) s (Waited u k o v)) ∧
    (∀ d, o.deadline = some d → d ≤ s.clock → o.readYet = true → Completes (.tswaitTimeout k q) s (Waited u k o v)) := by
  have hwaiter := waiter_of_waits h hins
  obtain ⟨hop, hleave, -⟩ := h
  have hwaited := waited_waitRead hread
  refine ⟨fun hdue => ⟨_, ?_, hwaited⟩, fun hpoll hclock => ⟨_, ?_, hwaited⟩, fun d hd hclock hyet => ⟨_, ?_, hwaited⟩⟩
  · change execTswaitSatisfied k q s = _
    simp only [execTswaitSatisfied, hop, hins, hwaiter]
    rw [if_neg (by simp [hleave])]
    rcases hdue with ⟨hyet, hway⟩ | ⟨hyet, hpoll, htells⟩
    · rw [if_pos (by simp [hyet])]
      refine congrArg Host.Outcome.next (if_neg ?_)
      simpa [hins] using hway
    · rw [if_neg (by simp [hyet])]
      exact congrArg Host.Outcome.next (if_pos (by simp [hpoll, htells]))
  · change execTurnstilePoll k q s = _
    simp only [execTurnstilePoll, hwaiter]
    exact congrArg Host.Outcome.next (if_pos (by simp [hpoll, hclock]))
  · change execTswaitTimeout k q s = _
    simp only [execTswaitTimeout, hwaiter, hd]
    exact congrArg Host.Outcome.next (if_pos (by simp [hyet, hclock]))

/-- A wait whose time to leave has come leaves satisfied (R181, R185). -/
theorem leaveEvent (hop : s.op k q = some o) (hins : o.ins = .tswait f) (hleave : o.leaveAt ≠ 0) (hpark : o.park = none)
    (hclock : o.leaveAt ≤ s.clock) : exec (.tswaitSatisfied k q) s = .next (s.endWait k o true) := by
  change execTswaitSatisfied k q s = _
  simp only [execTswaitSatisfied, hop, hins]
  rw [if_pos (by simp [hleave, hpark]), if_neg (by omega)]

/-- The operation of a wait as it ends. -/
def waitOver (o : MemOp) (sat : Bool) : MemOp :=
  { o with got := if sat then [(0, 1)] else [], acq := sat, prog := Tbl.write [] 0 o.full }

theorem deliver_waitOver (t : Troupe) (hins : o.ins = .tswait f) (sat : Bool) : (waitOver o sat).deliver 0 t = t.wq f.d.toNat sat := by
  rw [deliver_tswait t (o := waitOver o sat) hins]
  cases sat <;> rfl

/-- R181: the threads of a wait that ends leave it, with Q(D) := 1 and an acquire or with Q(D) := 0. -/
theorem endWait_leaves (hins : o.ins = .tswait f) (halive : Alive s k) (sat : Bool) :
    (¬ (o.level = 0 ∧ (s.tr k).level = 1) → Left k o.run (s.endWait k o sat)) ∧ Ended k o.seq (s.endWait k o sat) ∧
    (f.d.toNat < 7 → ((s.endWait k o sat).tr k).rq f.d.toNat = sat) ∧ (sat = true → Acquired (coreOf k) (s.endWait k o sat)) := by
  have hpt : ∀ t : Troupe, ((waitOver o sat).deliver 0 t).pt = t.pt := fun t => by rw [deliver_waitOver t hins, Troupe.pt_wq]
  have hend : s.endWait k o sat = (s.modTr k fun t => t.wakeOp o).left k (waitOver o sat) :=
    finish_alive (o := waitOver o sat) (hpt _) (alive_wakeOp halive)
  refine ⟨fun hlevel => left_finish (o' := waitOver o sat) hlevel hpt, fun x hx => State.finish_ended _ k (waitOver o sat) 0 x hx,
    fun hd => ?_, fun hsat => ?_⟩
  · obtain ⟨f', oc, ops, w, ht⟩ := tr_left (s := s.modTr k fun t => t.wakeOp o) (k := k) (o := waitOver o sat)
    rw [hend, ht, deliver_waitOver _ hins]
    exact (Troupe.rq_wq ..).trans (if_pos ⟨rfl, hd⟩)
  · rw [hend]
    exact acquired_left hsat

/-- R187: a WAITOC that is held no longer issues. -/
theorem waitocEvent {p : Pick} {w : IWord} (hport : s.onPort k = true) (hword : (s.nextWord k).1 = .word p w (.waitoc f))
    (hissue : exec (.waitoc f) (s.beginIssue k p w (some (.waitoc f))) = .next u) :
    Completes (.waitocDone k) s fun t => t = u.endIssue k p.pc f.yl := by
  have hissue : execWaitoc f (s.beginIssue k p w (some (.waitoc f))) = .next u := hissue
  refine ⟨_, ?_, rfl⟩
  change execWaitocDone k s = _
  simp only [execWaitocDone, hport, Bool.not_true, Bool.false_eq_true, if_false, hword, hissue]

/-- R189: a SHOWQ.WAIT ends when no child is left. -/
theorem showqWaitEvent (hop : s.op k q = some o) (hins : o.ins = .showq f) (hpark : o.park = none)
    (hover : (s.co (s.tr k).company).children = 0) : Completes (.showqWaitDone k q) s fun t => Ended k q t ∧
      t = (s.modTr k fun x => x.wakeOp o).finish k { o with got := [], prog := Tbl.write [] 0 o.full } 0 := by
  refine ⟨_, ?_, ended_finish (o' := { o with got := [], prog := Tbl.write [] 0 o.full }) hop rfl 0, rfl⟩
  change execShowqWaitDone k q s = _
  simp only [execShowqWaitDone, hop, hins]
  exact congrArg Host.Outcome.next (if_pos (by simp [hpark, hover]))

theorem waitEvents : WaitEvents :=
  ⟨fun _ _ _ _ _ _ _ h hins hread => waitReadEvents h hins hread,
    fun _ _ _ _ _ hop hins hleave hpark hclock => leaveEvent hop hins hleave hpark hclock,
    fun _ _ _ _ sat hins _ halive => endWait_leaves hins halive sat,
    fun _ _ _ _ _ _ hport hword hissue => waitocEvent hport hword hissue,
    fun _ _ _ _ _ hop hins hpark hover => showqWaitEvent hop hins hpark hover⟩

end
end Sys2Proof.Machine
end

section
/-!
PROOF. Pushes and pops of scratchpad queues (R192 to R194), and with the turnstiles' events what O32 says.
-/
namespace Sys2Proof.Machine
open Sys2Proof Sys2Proof.Claims

/-! ### Words of local scratchpad (R133, R192) -/

section
variable {s : State} {k c : Nat}

/-- Bytes that all have places may be written. -/
theorem scratchOk_of_places {a n : Nat} (hlen : a + n ≤ 2 ^ 32) (h : ∀ i, i < n → ∃ P, s.scratchAt k c (a + i) = .ok P) :
    s.scratchOk k c a n = .ok () := by
  induction n generalizing a with
  | zero => rfl
  | succ n ih =>
    obtain ⟨P, hP⟩ := h 0 (by omega)
    rw [State.scratchOk, show s.scratchAt k c a = .ok P from hP]
    cases n with
    | zero => rfl
    | succ n =>
      dsimp only
      rw [Nat.mod_eq_of_lt (by omega : a + 1 < 2 ^ 32)]
      refine ih (by omega) fun i hi => ?_
      rw [show a + 1 + i = a + (i + 1) by omega]
      exact h (i + 1) (by omega)

/-- A part of a run that may be written may be written. -/
theorem scratchOk_sub {a n i m : Nat} (h : s.scratchOk k c a n = .ok ()) (him : i + m ≤ n) : s.scratchOk k c (a + i) m = .ok () := by
  cases m with
  | zero => rfl
  | succ m =>
    have := scratchOk_bound h (by omega)
    refine scratchOk_of_places (by omega) fun j hj => ?_
    rw [Nat.add_assoc]
    exact (scratchOk_places h (by omega)).1

/-- A local address is allowed or refused; it never waits. -/
theorem scratchOk_local {a n : Nat} (hlocal : a + n ≤ 2 ^ 19) (h : ∀ f, s.scratchOk k c a n ≠ .fault f) : s.scratchOk k c a n = .ok () := by
  induction n generalizing a with
  | zero => rfl
  | succ n ih =>
    have hbit : bitOf a 23 = false := Nat.testBit_lt_two_pow (by omega)
    rw [State.scratchOk] at h ⊢
    split
    · rename_i P hP
      rw [hP] at h
      rw [Nat.mod_eq_of_lt (by omega : a + 1 < 2 ^ 32)] at h ⊢
      exact ih (by omega) h
    · rename_i f hf
      rw [hf] at h
      exact absurd rfl (h f)
    · rename_i hwait
      rw [State.scratchAt, if_neg (by omega), if_pos (by rw [hbit]; rfl)] at hwait
      split at hwait <;> cases hwait

/-- A number of local scratchpad stands while bytes beside it are written. -/
theorem scratchNat_scratchPoke_other {a a' n v : Nat} {bs : List Nat} (ha : a + bs.length ≤ 2 ^ 19) (ha' : a' + n ≤ 2 ^ 19)
    (hbeside : a + bs.length ≤ a' ∨ a' + n ≤ a) (hv : s.scratchNat k c a' n = .ok v) :
    (s.scratchPoke k c a bs).scratchNat k c a' n = .ok v := by
  refine scratchNat_congr hv fun i b hi hb => scratchRead_scratchPoke_other (by omega) (fun j hj P hP hP' => ?_) hb
  have := scratchAt_inj hP hP' (by omega)
  omega

section
variable {α : Type} {A : α → Nat} {B : α → List Nat}

/-- Runs of bytes written one after another. -/
def State.scratchPokes (s : State) (k c : Nat) (A : α → Nat) (B : α → List Nat) (xs : List α) : State :=
  xs.foldl (fun s x => s.scratchPoke k c (A x) (B x)) s

theorem samePlaces_scratchPokes (xs : List α) : SamePlaces s (s.scratchPokes k c A B xs) := by
  induction xs generalizing s with
  | nil => exact .refl s
  | cons x xs ih => exact (samePlaces_scratchPoke _ _).trans ih

theorem scratchNat_scratchPokes_other {a n v : Nat} {xs : List α} (ha : a + n ≤ 2 ^ 19) (hlocal : ∀ x ∈ xs, A x + (B x).length ≤ 2 ^ 19)
    (hbeside : ∀ x ∈ xs, A x + (B x).length ≤ a ∨ a + n ≤ A x) (hv : s.scratchNat k c a n = .ok v) :
    (s.scratchPokes k c A B xs).scratchNat k c a n = .ok v := by
  induction xs generalizing s with
  | nil => exact hv
  | cons x xs ih =>
    exact ih (fun y hy => hlocal y (.tail _ hy)) (fun y hy => hbeside y (.tail _ hy))
      (scratchNat_scratchPoke_other (hlocal x (.head _)) ha (hbeside x (.head _)) hv)

/-- Local runs that lie beside one another are all as they were written. -/
theorem scratchNat_scratchPokes {x : α} {xs : List α} (hx : x ∈ xs) (hlocal : ∀ x ∈ xs, A x + (B x).length ≤ 2 ^ 19)
    (hbeside : ∀ x ∈ xs, ∀ y ∈ xs, x ≠ y → A x + (B x).length ≤ A y ∨ A y + (B y).length ≤ A x)
    (hok : ∀ x ∈ xs, s.scratchOk k c (A x) (B x).length = .ok ()) :
    (s.scratchPokes k c A B xs).scratchNat k c (A x) (B x).length = .ok (leNat (B x)) := by
  induction xs generalizing s with
  | nil => cases hx
  | cons y ys ih =>
    have hok' : ∀ z ∈ ys, (s.scratchPoke k c (A y) (B y)).scratchOk k c (A z) (B z).length = .ok () := fun z hz => by
      rw [(samePlaces_scratchPoke ..).scratchOk]
      exact hok z (.tail _ hz)
    by_cases hmem : x ∈ ys
    · exact ih hmem (fun z hz => hlocal z (.tail _ hz)) (fun z hz w hw => hbeside z (.tail _ hz) w (.tail _ hw)) hok'
    · obtain rfl : x = y := (List.mem_cons.1 hx).resolve_right hmem
      refine scratchNat_scratchPokes_other (s := s.scratchPoke k c (A x) (B x)) (xs := ys) (hlocal x (.head _)) (fun z hz => hlocal z (.tail _ hz)) (fun z hz => ?_)
        (scratchNat_scratchPoke (hok x (.head _)))
      exact hbeside z (.tail _ hz) x (.head _) fun h => hmem (h ▸ hz)

end
end

/-! ### Headers and slots (R192) -/

section
variable {s : State} {k n : Nat} {o : MemOp} {h : QHead}

/-- A header that can be read is local, and of the entries' size. -/
theorem qHead_ok (hq : s.qHead k o n = .ok h) :
    s.scratchOk (s.tr k).company (coreOf k) o.qAddr 64 = .ok () ∧ o.qAddr + 64 ≤ 2 ^ 19 ∧ h.eregs = n ∧ 1 ≤ h.depth := by
  unfold State.qHead at hq
  dsimp only at hq
  split at hq
  · cases hq
  rename_i hbit
  split at hq
  · cases hq
  · cases hq
  rename_i b hb
  split at hq
  · rename_i x hx
    cases hq
    obtain ⟨hok, -⟩ := scratchRead_of_scratchNat hb
    obtain ⟨⟨⟨tc, p⟩, hP⟩, -, -⟩ := scratchOk_places hok (i := 0) (by omega)
    obtain ⟨-, -, hside⟩ := scratchOk_places hok (i := 63) (by omega)
    have hlocal : o.qAddr < 2 ^ 19 := by
      rcases scratchAt_ok hP with ⟨hlt, -⟩ | ⟨hge, hlt, -⟩
      · exact hlt
      · have hset : bitOf (o.qAddr + 0) 23 = decide ((o.qAddr + 0) / 2 ^ 23 % 2 = 1) := Nat.testBit_eq_decide_div_mod_eq
        exact absurd (hset.trans (decide_eq_true (by omega))) hbit
    refine ⟨hok, by omega, ?_⟩
    unfold qHeadOf at hx
    dsimp only at hx
    split at hx
    · rename_i hgood
      cases hx
      simp only [Bool.and_eq_true, decide_eq_true_eq, beq_iff_eq] at hgood
      exact ⟨hgood.1.2, hgood.1.1.1.2⟩
    · cases hx
  · cases hq

/-- The keys of an entry's words: each lane of each register. -/
def slotKeys (n : Nat) : List (Nat × Nat) := (List.range n).flatMap fun j => lanes.map fun l => (l, j)

theorem mem_slotKeys {x : Nat × Nat} : x ∈ slotKeys n ↔ x.1 < 64 ∧ x.2 < n := by
  obtain ⟨l, j⟩ := x
  simp only [slotKeys, List.mem_flatMap, List.mem_map, List.mem_range, lanes, Prod.mk.injEq]
  refine ⟨?_, fun ⟨hl, hj⟩ => ⟨j, hj, l, hl, rfl, rfl⟩⟩
  rintro ⟨j', hj, l', hl, rfl, rfl⟩
  exact ⟨hl, hj⟩

/-- The words of a slot lie in the queue's data (R192). -/
theorem word_bounds (e : Nat) {l j : Nat} (hregs : h.eregs = n) (hdepth : 1 ≤ h.depth) (hl : l < 64) (hj : j < n) :
    h.data ≤ h.word e j l ∧ h.word e j l + 4 ≤ h.data + 256 * h.eregs * h.depth := by
  have hmod : e % h.depth < h.depth := Nat.mod_lt _ hdepth
  have hmul : n * (e % h.depth) + n ≤ n * h.depth := Nat.mul_succ n _ ▸ Nat.mul_le_mul_left n hmod
  rw [QHead.word, hregs, Nat.mul_assoc, Nat.mul_assoc]
  omega

/-- The words of two lanes or registers lie beside each other. -/
theorem word_beside (e : Nat) {l j l' j' : Nat} (hl : l < 64) (hl' : l' < 64) (hne : (l, j) ≠ (l', j')) :
    h.word e j l + 4 ≤ h.word e j' l' ∨ h.word e j' l' + 4 ≤ h.word e j l := by
  have : ¬ (l = l' ∧ j = j') := fun heq => hne (by rw [heq.1, heq.2])
  simp only [QHead.word]
  omega

theorem sameUnits_watchHead (s : State) (k : Nat) (o : MemOp) (count : Option Nat) : SameUnits s (s.watchHead k o count) := by
  unfold State.watchHead
  split
  · exact (sameUnits_watchRing ..).trans (sameUnits_watchRing ..)
  · exact sameUnits_watchRing ..

end

/-! ### An accepted push (R193) -/

section
variable {s : State} {k q : Nat} {o : MemOp} {f : Fields} {h : QHead}

/-- The state after the words of an entry have been written. -/
def slotWritten (s : State) (k n : Nat) (o : MemOp) (h : QHead) : State :=
  s.scratchPokes (s.tr k).company (coreOf k) (fun x : Nat × Nat => h.word h.pushed x.2 x.1)
    (fun x => leBytes 4 (o.dat.read (x.1 + 64 * x.2))) (slotKeys n)

/-- The state after a count of a header, at byte `i` and address `a`, has been written. -/
def countWritten (u : State) (co k a i : Nat) (o : MemOp) (v : Nat) : State :=
  (u.scratchPoke co (coreOf k) a (leBytes 4 v)).watchHead k o (some i)

/-- The state after the watchpoints have seen the accesses of a push or pop to its slot. -/
def slotSeen (u : State) (co k n : Nat) (o : MemOp) (rd : Bool) (w : Nat) : State :=
  u.watchRing (coreOf k) (u.accessor k o) rd (!rd) ((u.co co).base (coreOf k) + w) (256 * n)

section
variable {u : State} {co a i n v w : Nat} {rd : Bool}

/-- The watchpoints of a push or pop leave scratchpad as the write of the count has left it. -/
theorem scratchNat_slotSeen (b m : Nat) : (slotSeen (countWritten u co k a i o v) co k n o rd w).scratchNat co (coreOf k) b m =
    (u.scratchPoke co (coreOf k) a (leBytes 4 v)).scratchNat co (coreOf k) b m := by
  rw [slotSeen, (sameUnits_watchRing ..).scratchNat, countWritten, (sameUnits_watchHead ..).scratchNat]

/-- The count of a header that has been raised. -/
theorem scratchNat_countWritten (hok : u.scratchOk co (coreOf k) a 4 = .ok ()) :
    (slotSeen (countWritten u co k a i o v) co k n o rd w).scratchNat co (coreOf k) a 4 = .ok (v % 2 ^ 32) := by
  have hread := scratchNat_scratchPoke (bs := leBytes 4 v) (by rw [length_leBytes]; exact hok)
  rw [length_leBytes, leNat_leBytes] at hread
  exact (scratchNat_slotSeen ..).trans hread

end

/-- A push that is accepted and has room writes its entry, raises PUSHED, and ends. -/
theorem exec_push (hop : s.op k q = some o) (hins : o.ins = .qpush f) (hready : queueReady s k o (f.md.toNat % 4 + 1) h)
    (hroom : (h.pushed + 2 ^ 32 - h.popped) % 2 ^ 32 ≠ h.depth)
    (hgood : s.wordsFault k true (entryWords h h.pushed (f.md.toNat % 4 + 1) (-1) false) = none) :
    exec (.qpushEntryWrite k q) s = .next ((slotSeen (countWritten (slotWritten s k (f.md.toNat % 4 + 1) o h)
      (s.tr k).company k o.qAddr 0 o (h.pushed + 1)) (s.tr k).company k (f.md.toNat % 4 + 1) o false (h.word h.pushed 0 0)).finish k
      { o with prog := Tbl.write [] 0 o.full } 0) := by
  obtain ⟨hturn, hhead⟩ := hready
  change execQpushEntryWrite k q s = _
  simp only [execQpushEntryWrite, hop, hins, hturn, Bool.not_true, Bool.false_eq_true, if_false]
  rw [show s.qHead k o (f.mdn % 4 + 1) = _ from hhead]
  dsimp only
  rw [if_neg hroom]
  rw [show s.wordsFault k true (((List.range (f.mdn % 4 + 1)).flatMap fun j => lanes.map fun l => (l, j)).map fun x =>
    h.word h.pushed x.2 x.1) = none from hgood]
  rfl

/-- No word of the list takes a fault. -/
theorem scratchOk_of_wordsFault {l : List Nat} {a : Nat} (hgood : s.wordsFault k true l = none) (ha : a ∈ l) (g : FaultInfo) :
    s.scratchOk (s.tr k).company (coreOf k) a 4 ≠ .fault g := by
  intro hg
  have := List.findSome?_eq_none_iff.1 hgood a ha
  simp [hg] at this

/-- The words of an entry whose queue lies in local scratchpad are in its slot as they were pushed. -/
theorem scratchNat_slotWritten {n : Nat} (hregs : h.eregs = n) (hdepth : 1 ≤ h.depth)
    (hlocal : h.data + 256 * h.eregs * h.depth ≤ 2 ^ 19)
    (hgood : s.wordsFault k true (entryWords h h.pushed n (-1) false) = none) {l j : Nat} (hl : l < 64) (hj : j < n) :
    (slotWritten s k n o h).scratchNat (s.tr k).company (coreOf k) (h.word h.pushed j l) 4 = .ok (o.dat.read (l + 64 * j) % 2 ^ 32) := by
  have hend : ∀ x ∈ slotKeys n, h.word h.pushed x.2 x.1 + 4 ≤ 2 ^ 19 := by
    intro x hx
    obtain ⟨hl, hj⟩ := mem_slotKeys.1 hx
    exact le_trans (word_bounds _ hregs hdepth hl hj).2 hlocal
  have hread := scratchNat_scratchPokes (s := s) (k := (s.tr k).company) (c := coreOf k)
    (A := fun x : Nat × Nat => h.word h.pushed x.2 x.1) (B := fun x => leBytes 4 (o.dat.read (x.1 + 64 * x.2)))
    (mem_slotKeys.2 ⟨hl, hj⟩ : (l, j) ∈ slotKeys n)
  simp only [length_leBytes, leNat_leBytes] at hread
  refine hread hend (fun x hx y hy hne => word_beside _ (mem_slotKeys.1 hx).1 (mem_slotKeys.1 hy).1 hne) fun x hx => ?_
  exact scratchOk_local (hend x hx) (scratchOk_of_wordsFault hgood (List.mem_map_of_mem hx))

/-- R193: what a push that is accepted and has room leaves. -/
theorem pushEvent (hop : s.op k q = some o) (hins : o.ins = .qpush f) (hready : queueReady s k o (f.md.toNat % 4 + 1) h)
    (hroom : (h.pushed + 2 ^ 32 - h.popped) % 2 ^ 32 ≠ h.depth)
    (hgood : s.wordsFault k true (entryWords h h.pushed (f.md.toNat % 4 + 1) (-1) false) = none) :
    Completes (.qpushEntryWrite k q) s fun t => Ended k q t ∧ ∃ u : State,
      t = u.finish k { o with prog := Tbl.write [] 0 o.full } 0 ∧
      u.scratchNat (s.tr k).company (coreOf k) o.qAddr 4 = .ok ((h.pushed + 1) % 2 ^ 32) ∧
      (h.data + 256 * h.eregs * h.depth ≤ 2 ^ 19 ∧ (o.qAddr + 64 ≤ h.data ∨ h.data + 256 * h.eregs * h.depth ≤ o.qAddr) →
        ∀ l j, l < 64 → j < f.md.toNat % 4 + 1 →
        u.scratchNat (s.tr k).company (coreOf k) (h.word h.pushed j l) 4 = .ok (o.dat.read (l + 64 * j) % 2 ^ 32)) := by
  obtain ⟨hok, hhead, hregs, hdepth⟩ := qHead_ok hready.2
  refine ⟨_, exec_push hop hins hready hroom hgood, ended_finish hop rfl 0, _, rfl, ?_, fun ⟨hlocal, hapart⟩ l j hl hj => ?_⟩
  · refine scratchNat_countWritten ?_
    rw [slotWritten, (samePlaces_scratchPokes _).scratchOk]
    exact scratchOk_sub hok (i := 0) (by omega)
  · obtain ⟨hlow, hhigh⟩ := word_bounds h.pushed hregs hdepth hl hj
    refine (scratchNat_slotSeen ..).trans (scratchNat_scratchPoke_other ?_ ?_ ?_ (scratchNat_slotWritten hregs hdepth hlocal hgood hl hj))
    · rw [length_leBytes]; omega
    · omega
    · rw [length_leBytes]; omega

/-! ### An accepted pop (R194) -/

/-- The value that a pop takes for a word: what scratchpad holds. -/
def popValue (s : State) (k : Nat) (h : QHead) (x : Nat × Nat) : Nat :=
  match s.scratchNat (s.tr k).company (coreOf k) (h.word h.popped x.2 x.1) 4 with | .ok v => v | _ => 0

/-- The keys of the words that a pop of `n` registers takes: those of its active lanes. -/
def popKeys (o : MemOp) (n : Nat) : List (Nat × Nat) := (lanes.filter (inMask o.act)).flatMap fun l => (List.range n).map fun j => (l, j)

/-- The words that a pop takes. -/
def popped (s : State) (k n : Nat) (o : MemOp) (h : QHead) : Tbl Nat :=
  (popKeys o n).foldl (fun (m : Tbl Nat) x => m.write (x.1 + 64 * x.2) (popValue s k h x)) []

theorem mem_popKeys {n : Nat} {x : Nat × Nat} : x ∈ popKeys o n ↔ (x.1 < 64 ∧ inMask o.act x.1 = true) ∧ x.2 < n := by
  obtain ⟨l, j⟩ := x
  simp only [popKeys, List.mem_flatMap, List.mem_map, List.mem_filter, List.mem_range, lanes, Prod.mk.injEq]
  refine ⟨?_, fun ⟨hl, hj⟩ => ⟨l, hl, j, hj, rfl, rfl⟩⟩
  rintro ⟨l', hl, j', hj, rfl, rfl⟩
  exact ⟨hl, hj⟩

/-- A table in which each entry's value is written at its key holds it there. -/
theorem read_foldl_write {α : Type} {key val : α → Nat} {x : α} {xs : List α} {m : Tbl Nat}
    (hinj : ∀ y ∈ xs, key y = key x → val y = val x) (hx : x ∈ xs ∨ m.read (key x) = val x) :
    (xs.foldl (fun (m : Tbl Nat) y => m.write (key y) (val y)) m).read (key x) = val x := by
  induction xs generalizing m with
  | nil => exact hx.resolve_left List.not_mem_nil
  | cons y ys ih =>
    refine ih (fun z hz => hinj z (.tail _ hz)) ?_
    rw [or_iff_not_imp_left]
    intro hrest
    rw [Tbl.read_write]
    split
    · rename_i hkey
      exact hinj y (.head _) hkey.symm
    · rename_i hkey
      refine (hx.resolve_left fun hmem => ?_)
      rcases List.mem_cons.1 hmem with rfl | hmem
      · exact hkey rfl
      · exact hrest hmem

/-- A pop that is accepted and finds an entry takes it, raises POPPED, and ends. -/
theorem exec_pop (hop : s.op k q = some o) (hins : o.ins = .qpop f) (hready : queueReady s k o (f.md.toNat % 4 + 1) h)
    (hsome : h.pushed ≠ h.popped)
    (hgood : s.wordsFault k false (entryWords h h.popped (f.md.toNat % 4 + 1) o.act true) = none) :
    exec (.qpopEntryRead k q) s = .next ((slotSeen (countWritten s (s.tr k).company k ((o.qAddr + 4) % 2 ^ 32) 4 o (h.popped + 1))
      (s.tr k).company k (f.md.toNat % 4 + 1) o true (h.word h.popped 0 0)).finish k
      { o with got := popped s k (f.md.toNat % 4 + 1) o h, readYet := true } 0) := by
  obtain ⟨hturn, hhead⟩ := hready
  change execQpopEntryRead k q s = _
  simp only [execQpopEntryRead, hop, hins, hturn, Bool.not_true, Bool.false_eq_true, if_false]
  rw [show s.qHead k o (f.mdn % 4 + 1) = _ from hhead]
  dsimp only
  rw [if_neg hsome]
  rw [show s.wordsFault k false (((lanes.filter (inMask o.act)).flatMap fun l => (List.range (f.mdn % 4 + 1)).map fun j => (l, j)).map
    fun x => h.word h.popped x.2 x.1) = none from hgood]
  rfl

/-- R194: what a pop that is accepted and finds an entry leaves. -/
theorem popEvent (hop : s.op k q = some o) (hins : o.ins = .qpop f) (hready : queueReady s k o (f.md.toNat % 4 + 1) h)
    (hsome : h.pushed ≠ h.popped)
    (hgood : s.wordsFault k false (entryWords h h.popped (f.md.toNat % 4 + 1) o.act true) = none) :
    Completes (.qpopEntryRead k q) s fun t => Ended k q t ∧ ∃ (u : State) (got : Tbl Nat),
      t = u.finish k { o with got := got, readYet := true } 0 ∧
      u.scratchNat (s.tr k).company (coreOf k) ((o.qAddr + 4) % 2 ^ 32) 4 = .ok ((h.popped + 1) % 2 ^ 32) ∧
      ∀ l j v, l < 64 → j < f.md.toNat % 4 + 1 → inMask o.act l → s.scratchNat (s.tr k).company (coreOf k) (h.word h.popped j l) 4 = .ok v →
        got.read (l + 64 * j) = v := by
  obtain ⟨hok, hhead, hregs, hdepth⟩ := qHead_ok hready.2
  refine ⟨_, exec_pop hop hins hready hsome hgood,
    ended_finish (o' := { o with got := popped s k (f.md.toNat % 4 + 1) o h, readYet := true }) hop rfl 0, _, _, rfl, ?_, fun l j v hl hj hact hv => ?_⟩
  · refine scratchNat_countWritten ?_
    rw [Nat.mod_eq_of_lt (by omega : o.qAddr + 4 < 2 ^ 32)]
    exact scratchOk_sub hok (by omega)
  · have hread := read_foldl_write (key := fun x : Nat × Nat => x.1 + 64 * x.2) (val := popValue s k h)
      (m := []) (fun y hy hkey => ?_) (.inl (mem_popKeys.2 ⟨⟨hl, hact⟩, hj⟩ : (l, j) ∈ popKeys o (f.md.toNat % 4 + 1)))
    · exact hread.trans (by simp only [popValue, hv])
    · obtain ⟨⟨hy, -⟩, -⟩ := mem_popKeys.1 hy
      dsimp only at hkey
      congr 1
      exact Prod.ext (by dsimp only; omega) (by dsimp only; omega)

/-- R194: a pop of an empty queue fails under .NB and ends. -/
theorem emptyPopEvent (hop : s.op k q = some o) (hins : o.ins = .qpop f) (hready : queueReady s k o (f.md.toNat % 4 + 1) h)
    (hempty : h.pushed = h.popped) (hnb : f.md.getLsbD 2 = true) :
    Completes (.qpopEntryRead k q) s fun t => Ended k q t ∧
      t = (s.watchHead k o none).finish k { o with acq := false, readYet := false } 0 := by
  obtain ⟨hturn, hhead⟩ := hready
  refine ⟨_, ?_, ended_finish (o' := { o with acq := false, readYet := false }) hop rfl 0, rfl⟩
  change execQpopEntryRead k q s = _
  simp only [execQpopEntryRead, hop, hins, hturn, Bool.not_true, Bool.false_eq_true, if_false]
  rw [show s.qHead k o (f.mdn % 4 + 1) = _ from hhead]
  dsimp only
  rw [if_pos hempty]
  exact congrArg Host.Outcome.next (if_pos hnb)

theorem queueEvents : QueueEvents := fun _ _ _ _ _ _ hop hready =>
  ⟨fun hins hroom hgood => pushEvent hop hins hready hroom hgood, fun hins hsome hgood => popEvent hop hins hready hsome hgood,
    fun hins hempty hnb => emptyPopEvent hop hins hready hempty hnb⟩

end

/-- Settles O32: the adds, reads and barriers of turnstiles, the waits, and the pushes and pops of queues, each by what its event answers. -/
theorem turnstileEvents : Obligations.TurnstileEvents := ⟨turnstileAnswers, waitEvents, queueEvents⟩

end Sys2Proof.Machine
end

section
/-!
PROOF. Bytes written at their home (R281, R284), and the add of a turnstile there (R175, R180).
-/
namespace Sys2Proof
open Sys2Proof.Claims

/-! ### A byte of a line replaced (R5) -/

/-- Byte `j` of a number is all of its lowest `j + 1` bytes but the lowest `j`. -/
theorem byte_eq_mod_div (n j : Nat) : n / 256 ^ j % 256 = n % 256 ^ (j + 1) / 256 ^ j := by
  rw [Nat.pow_succ, Nat.mod_mul_right_div_self]

/-- A word of `w` bits keeps the bytes of a number that lie within it. -/
theorem byte_ofNat (n : Nat) {w j : Nat} (h : 8 * (j + 1) ≤ w) : (BitVec.ofNat w n).toNat / 256 ^ j % 256 = n / 256 ^ j % 256 := by
  have hdvd : 256 ^ (j + 1) ∣ 2 ^ w := (Nat.pow_mul 2 8 (j + 1)).symm.dvd.trans (Nat.pow_dvd_pow 2 h)
  rw [BitVec.toNat_ofNat, byte_eq_mod_div, Nat.mod_mod_of_dvd _ hdvd, ← byte_eq_mod_div]

/-- A number with its byte `i` replaced by `b`: the higher bytes, `b`, and the lower ones. -/
theorem replaceByte_eq (n i b : Nat) : n - n / 256 ^ i % 256 * 256 ^ i + b * 256 ^ i =
    256 ^ i * (256 * (n / 256 ^ i / 256) + b) + n % 256 ^ i := by
  have hlow := Nat.div_add_mod n (256 ^ i)
  have hbyte := Nat.div_add_mod (n / 256 ^ i) 256
  have hsplit : 256 ^ i * (n / 256 ^ i) = 256 ^ i * (256 * (n / 256 ^ i / 256)) + n / 256 ^ i % 256 * 256 ^ i := by
    rw [Nat.mul_comm (n / 256 ^ i % 256), ← Nat.mul_add, hbyte]
  rw [Nat.mul_add, Nat.mul_comm b]
  omega

/-- What each byte of a number is after the replacement of its byte `i`. -/
theorem byte_replaceByte (n i j : Nat) {b : Nat} (hb : b < 256) :
    (n - n / 256 ^ i % 256 * 256 ^ i + b * 256 ^ i) / 256 ^ j % 256 = if j = i then b else n / 256 ^ j % 256 := by
  have hpos : ∀ k, 0 < 256 ^ k := fun k => Nat.pow_pos (by decide)
  have hlow : n % 256 ^ i < 256 ^ i := Nat.mod_lt _ (hpos i)
  rw [replaceByte_eq]
  have hdiv : (256 ^ i * (256 * (n / 256 ^ i / 256) + b) + n % 256 ^ i) / 256 ^ i = 256 * (n / 256 ^ i / 256) + b := by
    rw [Nat.mul_add_div (hpos i), Nat.div_eq_of_lt hlow, Nat.add_zero]
  rcases Nat.lt_trichotomy j i with h | h | h
  · have hdvd : 256 ^ (j + 1) ∣ 256 ^ i := Nat.pow_dvd_pow 256 h
    rw [if_neg h.ne, byte_eq_mod_div, byte_eq_mod_div n, Nat.add_mod, Nat.mod_eq_zero_of_dvd (hdvd.mul_right _), Nat.zero_add,
      Nat.mod_mod, Nat.mod_mod_of_dvd _ hdvd]
  · subst h
    rw [if_pos rfl, hdiv]
    omega
  · obtain ⟨k, rfl⟩ := Nat.exists_eq_add_of_lt h
    have hpow : 256 ^ (i + k + 1) = 256 ^ i * 256 * 256 ^ k := by ring
    rw [if_neg (by omega), hpow, ← Nat.div_div_eq_div_mul, ← Nat.div_div_eq_div_mul, hdiv,
      ← Nat.div_div_eq_div_mul, ← Nat.div_div_eq_div_mul, Nat.mul_add_div (by decide), Nat.div_eq_of_lt hb, Nat.add_zero]

end Sys2Proof

namespace Sys2Proof.Machine
open Sys2Proof Sys2Proof.Claims

/-- What each byte of a line is after the replacement of one of them. -/
theorem lineByte_lineSet (d : LineData) (i : Nat) (b : Byte) {j : Nat} (hj : j < 128) :
    lineByte (lineSet d i b) j = if j = i then b else lineByte d j := by
  apply BitVec.eq_of_toNat_eq
  rw [lineByte_eq, lineSet, byte_ofNat _ (by omega), lineByte_eq d i, byte_replaceByte _ _ _ b.isLt, apply_ite BitVec.toNat, lineByte_eq]

/-! ### Bytes written at their home (R281, R284) -/

section
variable (s : State)

/-- What every byte is after a byte is written at its home. -/
theorem byteAt_pokeByte (pa a : Nat) (b : Byte) : (s.pokeByte pa b).byteAt a =
    if a = pa then b else if a / 128 = pa / 128 then (s.recall (pa / 128)).byteAt a else s.byteAt a := by
  rw [State.byteAt, State.pokeByte, State.current_writeHome]
  by_cases hline : a / 128 = pa / 128
  · rw [if_pos hline, lineByte_lineSet _ _ _ (Nat.mod_lt _ (by decide)), if_pos hline, State.byteAt, hline]
    exact if_congr (by omega) rfl rfl
  · rw [if_neg hline, if_neg hline, if_neg fun h => hline (by rw [h])]
    rfl

/-- A line has no owner after a write at its home. -/
theorem owner_pokeByte (pa : Nat) (b : Byte) : (s.pokeByte pa b).owner (pa / 128) = none := by
  have htouch : ∀ u : State, ((if (u.sline (pa / 128)).present then u else u.touchFrame (pa / 128)).sline (pa / 128)).owner =
      (u.sline (pa / 128)).owner := fun u => by
    split
    · rfl
    · rw [State.sline_touchFrame]
  have hzero : ((s.pokeByte pa b).sline (pa / 128)).owner = 0 := by
    rw [State.pokeByte, State.writeHome, State.sline_markDirty, State.sline_modSline_self]
    exact (htouch _).trans (s.owner_recall _)
  simp [State.owner, hzero]

theorem recall_of_unowned {l : Nat} (h : s.owner l = none) : s.recall l = s := by
  simp only [State.recall, h]

/-- After the first byte of a list, the others lie in the line as well. -/
theorem in_line_tail {l pa b : Nat} {bs : List Nat} (hin : ∀ i < (b :: bs).length, (pa + i) / 128 = l) :
    ∀ i < bs.length, (pa + 1 + i) / 128 = l := fun i hi => by
  rw [Nat.add_right_comm, Nat.add_assoc]
  exact hin (i + 1) (Nat.succ_lt_succ hi)

/-- Bytes written within a line leave every byte of the others. -/
theorem byteAt_poke_otherLine {l pa a : Nat} {bs : List Nat} (hin : ∀ i < bs.length, (pa + i) / 128 = l) (ha : a / 128 ≠ l) :
    (s.poke pa bs).byteAt a = s.byteAt a := by
  induction bs generalizing s pa with
  | nil => rfl
  | cons b bs ih =>
    have hpa : pa / 128 = l := hin 0 (Nat.succ_pos _)
    rw [State.poke, ih _ (in_line_tail hin), byteAt_pokeByte, if_neg fun h => ha (by rw [h, hpa]), if_neg (by rw [hpa]; exact ha)]

/-- Bytes written within a line that nobody owns leave the bytes below them. -/
theorem byteAt_poke_below {l pa a : Nat} {bs : List Nat} (hin : ∀ i < bs.length, (pa + i) / 128 = l) (hown : s.owner l = none)
    (ha : a < pa) : (s.poke pa bs).byteAt a = s.byteAt a := by
  induction bs generalizing s pa with
  | nil => rfl
  | cons b bs ih =>
    have hpa : pa / 128 = l := hin 0 (Nat.succ_pos _)
    subst hpa
    rw [State.poke, ih _ (in_line_tail hin) (owner_pokeByte s pa _) (by omega), byteAt_pokeByte, if_neg ha.ne,
      recall_of_unowned s hown, ite_self]

theorem peek_succ (pa n : Nat) : s.peek pa (n + 1) = (s.byteAt pa).toNat :: s.peek (pa + 1) n := by
  simp [State.peek, List.range_succ_eq_map, Nat.add_comm, Nat.add_left_comm]

/-- The bytes written within a line are those that are then read. -/
theorem peek_poke {l pa : Nat} {bs : List Nat} (hin : ∀ i < bs.length, (pa + i) / 128 = l) :
    (s.poke pa bs).peek pa bs.length = bs.map (· % 256) := by
  induction bs generalizing s pa with
  | nil => rfl
  | cons b bs ih =>
    have hpa : pa / 128 = l := hin 0 (Nat.succ_pos _)
    have hrest := in_line_tail hin
    rw [List.length_cons, peek_succ, State.poke, ih _ hrest, byteAt_poke_below _ hrest (hpa ▸ owner_pokeByte s pa _) (Nat.lt_succ_self _),
      byteAt_pokeByte, if_pos rfl]
    rfl

theorem leNat_map_mod (bs : List Nat) : leNat (bs.map (· % 256)) = leNat bs := by
  induction bs with
  | nil => rfl
  | cons b bs ih => rw [List.map_cons, leNat, leNat, ih, Nat.mod_mod]

/-- The number written within a line is the one that is then read. -/
theorem peekNat_poke {l pa : Nat} {bs : List Nat} (hin : ∀ i < bs.length, (pa + i) / 128 = l) :
    (s.poke pa bs).peekNat pa bs.length = leNat bs := by
  rw [State.peekNat, peek_poke s hin, leNat_map_mod]

/-- An add leaves the sum at its address, or the largest number (R175, R180). -/
theorem addPhys_snd (pa v : Nat) : (s.addPhys pa v).2 = s.poke pa (leBytes 8 (min (s.peekNat pa 8 + v) (2 ^ 64 - 1))) := by
  rw [State.addPhys]

/-- The 8 bytes of an aligned turnstile lie in one line. -/
theorem div_line_of_aligned {pa i : Nat} (h : pa % 8 = 0) (hi : i < 8) : (pa + i) / 128 = pa / 128 := by
  omega

end

/-- Settles O60: a write at the home replaces one byte of a line that has then no owner, so that the bytes of a turnstile, all of one line,
are read as they were written. -/
theorem homeWrites : Obligations.HomeWrites := by
  refine ⟨fun s pa b => ⟨?_, fun a ha => ?_, fun a ha hne => ?_⟩, fun s pa v hpa => ?_⟩
  · rw [byteAt_pokeByte, if_pos rfl]
  · rw [byteAt_pokeByte, if_neg fun h => ha (by rw [h]), if_neg ha]
  · rw [byteAt_pokeByte, if_neg hne, if_pos ha]
  · have hline : ∀ x, ∀ i < (leBytes 8 x).length, (pa + i) / 128 = pa / 128 := fun x i hi =>
      div_line_of_aligned hpa (by rwa [length_leBytes] at hi)
    have hread := fun x => peekNat_poke s (hline x)
    simp only [length_leBytes, leNat_leBytes] at hread
    rw [addPhys_snd]
    refine ⟨?_, rfl, fun a ha => byteAt_poke_otherLine s (hline _) ha⟩
    rw [hread]
    exact Nat.mod_eq_of_lt (by omega)

end Sys2Proof.Machine
end

section
/-!
PROOF. Turnstile, barrier and queue words at issue (R175, R177, R180 to R184, R192 to R194), and SHOW and SHOWQ (R188, R189): a word is
refused by its first failing check, or its operation joins its troupe's; and the run of a word that waits is put into WAIT.
-/
namespace Sys2Proof.Machine
open Sys2Proof Sys2Proof.Claims

/-! ### Words that wait (R69, R181, R184, R189) -/

section
variable {i : Instr} {f : Fields} {result : Bool} {c : Option Nat} {n nrecs : Nat} {s u : State} {P : MemOp → Prop} {o : MemOp}

/-- The threads of a run are put into WAIT. -/
def putWaiting (m : Mask) (t : Troupe) : Troupe := { t with pt := t.pt.put m .wait }

/-- A word in flight whose run is then put into WAIT is a word in flight that waits. -/
theorem inFlight_putWaiting (hu : u = { s with troupes := u.troupes }) (h : InFlight i f result false c n s P u) :
    InFlight i f result true c n s P (u.modTr s.cur.t (putWaiting s.cur.run)) := by
  obtain ⟨hother, hbytes, hflags, hcount, hlanes, hpt, o, hours, hP, hself⟩ := h
  have hcur : u.cur = s.cur := by rw [hu]
  have hwait : (u.modTr s.cur.t (putWaiting s.cur.run)).curT = putWaiting s.cur.run u.curT := by
    rw [State.curT, State.curT, State.modTr_cur, hcur, State.tr_modTr_self]
  refine ⟨fun j hj => (State.tr_modTr_other _ _ hj).trans (hother j hj), hbytes, ?_, ?_, fun l hl => ?_, ?_, o, hours, hP, ?_⟩
  · rw [Raised, hwait]; exact hflags
  · rw [Counted, hwait]; exact hcount
  · obtain ⟨hpc, hst, hrs⟩ := hlanes l hl
    rw [hwait]
    refine ⟨hpc, (PcTable.state_put _ _ _ hl).trans ?_, hrs⟩
    simp only [Bool.false_eq_true, false_and, if_false] at hst
    simp only [hst, true_and]
  · rw [hwait, putWaiting, PcTable.put, hpt]
  · rw [hwait, putWaiting, hself]

/-- A word that issues an operation and puts its run into WAIT is in flight and waits. -/
theorem joins_of_launch_waiting
    (h : exec i s = .next ((s.launchWith s.curT.rs o f result nrecs none).modTr s.cur.t (putWaiting s.cur.run))) (hours : Ours s i o)
    (hP : ∀ fl rc, P { o with flags := fl, recs := rc }) : Joins i f result true none 0 s P := by
  refine ⟨_, h, rfl, inFlight_putWaiting rfl (inFlight_of_launch (nrecs := nrecs) (oc := s.curT.oc) rfl
    (fun _ hj => s.tr_retire_other _ hj) ((s.curT_retire _).trans ?_) hours hP (fun _ => by simp) fun l _ => act_steps_zero s f l)⟩
  rw [Troupe.launch_frame]
  rfl

end

/-! ### Turnstiles (R175, R177, R180 to R184) -/

section
variable {s : State} {f : Fields}

/-- The address of a turnstile word. -/
def turnstileOf (s : State) (f : Fields) : W64 := tsAddr (f.md.getLsbD 0) (s.curT.rs64 f.a.toNat)
/-- The address of a barrier or of a queue's header. -/
def barrierOf (s : State) (f : Fields) : W64 := tsAddr true (s.curT.rs64 f.a.toNat)
/-- The amount of TSADD. -/
def tsaddAmount (s : State) (f : Fields) : W64 := if f.md.getLsbD 2 then f.x.setWidth 64 else s.curT.rs64 f.b.toNat

/-- An operation on the turnstile at `a`. -/
def turnstileOp (i : Instr) (s : State) (a : W64) (uni : List W64) : MemOp :=
  { s.newOp i s.cur.run with uni := uni, addr := Tbl.write [] 0 a, size := 8, single := true }

/-- The operations of TSADD, TSREAD, TSWAIT, and of BAR and BARA. -/
def tsaddOp (s : State) (f : Fields) : MemOp :=
  { turnstileOp (.tsadd f) s (turnstileOf s f) [s.curT.rs64 f.a.toNat, tsaddAmount s f] with
    dat := Tbl.write [] 0 (tsaddAmount s f).toNat, rel := !f.md.getLsbD 1 }
def tsreadOp (s : State) (f : Fields) : MemOp :=
  { turnstileOp (.tsread f) s (turnstileOf s f) [s.curT.rs64 f.a.toNat] with acq := f.md.getLsbD 1 }
def tswaitOp (s : State) (f : Fields) : MemOp :=
  { turnstileOp (.tswait f) s (turnstileOf s f) [s.curT.rs64 f.a.toNat, s.curT.rs64 f.b.toNat] with
    target := s.curT.rs64 f.b.toNat, acq := true, deadline := if f.md.getLsbD 1 then some (s.clock + f.x.toNat) else none }
def barOp (i : Instr) (s : State) (f : Fields) (waits : Bool) : MemOp :=
  { turnstileOp i s (barrierOf s f) [s.curT.rs64 f.a.toNat] with rel := true, acq := waits }

theorem not_enabled (he : s.curT.enabled f.g = true) : ¬ (!s.curT.enabled f.g) = true := by rw [he]; decide

/-- TSADD by its checks: the address, then the amount (R180). -/
theorem issue_tsadd (he : s.curT.enabled f.g = true) : exec (.tsadd f) s =
    if (turnstileOf s f).toNat % 8 ≠ 0 then .next (s.trapWord 0x0A 2 (turnstileOf s f))
    else if 2 ^ 32 ≤ (tsaddAmount s f).toNat then .next (s.trapWord 0x0A 4 (tsaddAmount s f))
    else .next (s.launchWith s.curT.rs (tsaddOp s f) f (f.d.toNat != 63) 1 none) := if_neg (not_enabled he)

/-- TSREAD by its check (R182). -/
theorem issue_tsread (he : s.curT.enabled f.g = true) : exec (.tsread f) s =
    if (turnstileOf s f).toNat % 8 ≠ 0 then .next (s.trapWord 0x0A 2 (turnstileOf s f))
    else .next (s.launchWith s.curT.rs (tsreadOp s f) f (f.d.toNat != 63) 1 none) := if_neg (not_enabled he)

/-- TSWAIT by its check (R181). -/
theorem issue_tswait (he : s.curT.enabled f.g = true) : exec (.tswait f) s =
    if (turnstileOf s f).toNat % 8 ≠ 0 then .next (s.trapWord 0x0A 2 (turnstileOf s f))
    else .next ((s.launchWith s.curT.rs (tswaitOp s f) f (f.d.toNat != 7) 1 none).modTr s.cur.t (putWaiting s.cur.run)) :=
  if_neg (not_enabled he)

/-- BAR by its check (R184). -/
theorem issue_bar (he : s.curT.enabled f.g = true) : exec (.bar f) s =
    if (barrierOf s f).toNat % 8 ≠ 0 then .next (s.trapWord 0x0A 2 (barrierOf s f))
    else .next ((s.launchWith s.curT.rs (barOp (.bar f) s f true) f false 1 none).modTr s.cur.t (putWaiting s.cur.run)) :=
  if_neg (not_enabled he)

/-- BARA by its check (R184). -/
theorem issue_bara (he : s.curT.enabled f.g = true) : exec (.bara f) s =
    if (barrierOf s f).toNat % 8 ≠ 0 then .next (s.trapWord 0x0A 2 (barrierOf s f))
    else .next (s.launchWith s.curT.rs (barOp (.bara f) s f false) f false 1 none) := if_neg (not_enabled he)

/-- A destination that is not the zero register is a result (R51). -/
theorem bne_eq_decide_ne (a b : Nat) : (a != b) = decide (a ≠ b) := by
  rw [Bool.eq_iff_iff, bne_iff_ne, decide_eq_true_iff]

end

theorem turnstileIssue : TurnstileIssue := by
  intro s f a b v at'
  refine ⟨fun he => ?_, fun he ha => ?_, fun he ha => ?_, fun he hb => ?_, fun he hb => ?_⟩ <;> rw [enabled_eq] at he
  · have hidle : (!s.curT.enabled f.g) = true := by rw [he]; rfl
    exact ⟨noEffect_of_retire (if_pos hidle), noEffect_of_retire (if_pos hidle), noEffect_of_retire (if_pos hidle),
      noEffect_of_retire (if_pos hidle), noEffect_of_retire (if_pos hidle)⟩
  · have hadd := (issue_tsadd he).trans (if_neg (not_not.2 ha))
    rw [← bne_eq_decide_ne, ← bne_eq_decide_ne]
    refine ⟨fun hv => ?_, fun hv => hadd.trans (if_pos hv), ?_, ?_⟩
    · exact joins_of_launch (hadd.trans (if_neg (not_le.2 hv))) (ours_newOp s _ _)
        (fun _ _ => ⟨⟨rfl, rfl, Tbl.read_write_self _ _ _⟩, Tbl.read_write_self _ _ _, rfl⟩) fun l _ => act_steps_zero s f l
    · exact joins_of_launch ((issue_tsread he).trans (if_neg (not_not.2 ha))) (ours_newOp s _ _)
        (fun _ _ => ⟨⟨rfl, rfl, Tbl.read_write_self _ _ _⟩, rfl⟩) fun l _ => act_steps_zero s f l
    · exact joins_of_launch_waiting ((issue_tswait he).trans (if_neg (not_not.2 ha))) (ours_newOp s _ _)
        fun _ _ => ⟨⟨rfl, rfl, Tbl.read_write_self _ _ _⟩, rfl, rfl⟩
  · exact ⟨(issue_tsadd he).trans (if_pos ha), (issue_tsread he).trans (if_pos ha), (issue_tswait he).trans (if_pos ha)⟩
  · exact ⟨joins_of_launch_waiting ((issue_bar he).trans (if_neg (not_not.2 hb))) (ours_newOp s _ _)
        fun _ _ => ⟨⟨rfl, rfl, Tbl.read_write_self _ _ _⟩, rfl, rfl⟩,
      joins_of_launch ((issue_bara he).trans (if_neg (not_not.2 hb))) (ours_newOp s _ _)
        (fun _ _ => ⟨⟨rfl, rfl, Tbl.read_write_self _ _ _⟩, rfl, rfl⟩) fun l _ => act_steps_zero s f l⟩
  · exact ⟨(issue_bar he).trans (if_pos hb), (issue_bara he).trans (if_pos hb)⟩

/-! ### Queues (R192 to R194) -/

section
variable {s : State} {f : Fields}

/-- The operations of QPUSH and QPOP. -/
def qpushOp (s : State) (f : Fields) : MemOp :=
  { s.newOp (.qpush f) s.cur.run with
    uni := [s.curT.rs64 f.a.toNat], single := true, size := 1, rel := true
    dat := elemTable s.cur.run (f.md.toNat % 4 + 1) fun l j => (s.curT.rv (f.b.toNat + j) l).toNat }
def qpopOp (s : State) (f : Fields) : MemOp :=
  { s.newOp (.qpop f) (act s f) with uni := [s.curT.rs64 f.a.toNat], size := 4, elems := f.md.toNat % 4 + 1, acq := true }

/-- QPUSH by its check (R193). -/
theorem issue_qpush (he : s.curT.enabled f.g = true) : exec (.qpush f) s =
    if (barrierOf s f).toNat % 64 ≠ 0 then .next (s.trapWord 0x0A 2 (barrierOf s f))
    else .next (s.launchWith s.curT.rs (qpushOp s f) f false (Instr.layout (.qpush f)).recs none) := if_neg (not_enabled he)

/-- QPOP by its check (R194). -/
theorem issue_qpop (hact : act s f ≠ 0) : exec (.qpop f) s =
    if (barrierOf s f).toNat % 64 ≠ 0 then .next (s.trapWord 0x0A 2 (barrierOf s f))
    else .next (s.launchWith s.curT.rs (qpopOp s f) f true 1 none) := if_neg hact

end

theorem queueIssue : QueueIssue := by
  intro s f a k
  refine ⟨fun he => ?_, fun h => noEffect_of_retire (if_pos h), fun he ha => ?_, fun h ha => ?_,
    fun ha => ⟨fun he => ?_, fun h => ?_⟩⟩
  · rw [enabled_eq] at he
    exact noEffect_of_retire (if_pos (by rw [he]; rfl))
  · rw [enabled_eq] at he
    exact joins_of_launch ((issue_qpush he).trans (if_neg (not_not.2 ha))) (ours_newOp s _ _)
      (fun _ _ => ⟨rfl, rfl, rfl, fun _ _ hl hj hrun => read_elemTable _ hl hrun hj⟩) fun l _ => act_steps_zero s f l
  · exact joins_of_launch ((issue_qpop h).trans (if_neg (not_not.2 ha))) (ours_newOp s _ _) (fun _ _ => ⟨rfl, rfl, rfl, rfl⟩)
      fun l _ => act_steps_zero s f l
  · rw [enabled_eq] at he
    exact (issue_qpush he).trans (if_pos ha)
  · exact (issue_qpop h).trans (if_pos ha)

/-- Settles O23: each word by its checks, the address and for TSADD the amount, and by the operation with which it then joins its
troupe's. -/
theorem synchronisationWords : Obligations.SynchronisationWords := ⟨turnstileIssue, queueIssue⟩

/-! ### SHOW and SHOWQ (R188, R189) -/

section
variable {s : State} {f : Fields}

/-- A company with one child more. -/
def childMore (c : Co) : Co := { c with children := c.children + 1 }

/-- The state that an accepted SHOW leaves: the company has one child more, whose record is posted. -/
def showPosted (s : State) (a : W64) : State :=
  { (s.retire id).modCo s.curT.company childMore with
    posts := s.posts ++ [{ addr := a, parent := s.curT.company, t := s.curT.index }] }

/-- SHOW by its checks: the alignment, then the depth (R188). -/
theorem issue_show (he : s.curT.enabled f.g = true) : exec (.show f) s =
    let a := s.curT.rs64 f.a.toNat
    if a.toNat % 256 ≠ 0 then .next (s.trapWord 0x0A 5 a)
    else if (ourCo s).depth = 10 then .next (s.trapWord 9 0 0)
    else .next (showPosted s a) := if_neg (not_enabled he)

theorem onlyMoves_showPosted (a : W64) : OnlyMoves s (showPosted s a) :=
  ⟨fun _ hj => s.tr_retire_other id hj, ranOn_of_pt (congrArg (·.pt) (s.curT_retire id)), untouched_retire_id s⟩

theorem co_showPosted_self (a : W64) : (showPosted s a).co s.curT.company = childMore (ourCo s) :=
  State.co_modCo_self (s.retire id) _ childMore

theorem co_showPosted_other (a : W64) {k : Nat} (h : k ≠ s.curT.company) : (showPosted s a).co k = s.co k :=
  State.co_modCo_other (s.retire id) childMore h

/-- SHOWQ without .WAIT reads CHILDREN (R189). -/
theorem issue_showq_read (he : s.curT.enabled f.g = true) (hwait : f.md.getLsbD 0 = false) : exec (.showq f) s =
    .next (s.retire fun t => t.ws f.d.toNat (BitVec.ofNat 64 (ourCo s).children)) :=
  (if_neg (not_enabled he)).trans (if_pos (by rw [bitOf_mdn, hwait]; rfl))

/-- The operation of SHOWQ.WAIT. -/
def showqOp (s : State) (f : Fields) : MemOp := { s.newOp (.showq f) s.cur.run with size := 1, single := true, acq := true }

/-- SHOWQ.WAIT issues its operation, and its run waits (R189). -/
theorem issue_showq_wait (he : s.curT.enabled f.g = true) (hwait : f.md.getLsbD 0 = true) : exec (.showq f) s =
    .next ((s.launchWith s.curT.rs (showqOp s f) f (f.d.toNat != 63) 0 none).modTr s.cur.t (putWaiting s.cur.run)) :=
  (if_neg (not_enabled he)).trans (if_neg (by rw [bitOf_mdn, hwait]; decide))

end

/-- Settles O31: SHOW by its checks and what it posts, SHOWQ by what it reads or by the operation with which it waits. -/
theorem showWords : Obligations.ShowWords := by
  intro s f a
  refine ⟨fun he => ?_, fun he ha hd => ?_, fun he ha => ?_, fun he ha hd => ?_, fun he hw => ?_, fun he hw => ?_⟩ <;>
    rw [enabled_eq] at he
  · have hidle : (!s.curT.enabled f.g) = true := by rw [he]; rfl
    exact ⟨noEffect_of_retire (if_pos hidle), noEffect_of_retire (if_pos hidle)⟩
  · exact ⟨showPosted s a, (issue_show he).trans ((if_neg (not_not.2 ha)).trans (if_neg hd)), onlyMoves_showPosted a, fun _ => rfl,
      by rw [co_showPosted_self]; rfl, fun _ hk => co_showPosted_other a hk, rfl⟩
  · exact (issue_show he).trans (if_pos ha)
  · exact (issue_show he).trans ((if_neg (not_not.2 ha)).trans (if_pos hd))
  · exact ⟨_, issue_showq_read he hw, issued_retire s fun _ => Troupe.pt_ws .., scalarResult_retire_ws s _ _⟩
  · rw [← bne_eq_decide_ne]
    exact joins_of_launch_waiting (issue_showq_wait he hw) (ours_newOp s _ _) fun _ _ => ⟨rfl, rfl⟩

end Sys2Proof.Machine
end

section
/-!
PROOF. Tables: what a filter by key, a fold of writes and a change of every value leave to be read; and the copy of a run of bytes from one
table to another (R344, R346, R351).
-/
namespace Sys2Proof

variable {α : Type} [Inhabited α]

/-- What a table reads is the default, or an entry. -/
theorem Tbl.read_mem_or_default (m : Tbl α) (k : Nat) : (k, m.read k) ∈ m ∨ m.read k = default := by
  induction m with
  | nil => exact .inr rfl
  | cons e m ih =>
    obtain ⟨j, v⟩ := e
    rw [Tbl.read]
    split
    · rename_i h
      exact .inl (h ▸ List.mem_cons_self ..)
    · exact ih.imp_left (List.mem_cons_of_mem _)

/-- A filter by key leaves the default at the keys that it drops, and the others alone. -/
theorem Tbl.read_filter_key (m : Tbl α) (p : Nat → Bool) (k : Nat) :
    Tbl.read (m.filter fun e => p e.1) k = if p k then m.read k else default := by
  induction m with
  | nil => exact (ite_self _).symm
  | cons e m ih =>
    obtain ⟨j, v⟩ := e
    by_cases hp : p j = true
    · rw [List.filter_cons_of_pos (by exact hp), Tbl.read, Tbl.read, ih]
      by_cases hj : j = k
      · subst hj; simp [hp]
      · simp [hj]
    · rw [List.filter_cons_of_neg (by exact hp), ih, Tbl.read]
      by_cases hj : j = k
      · subst hj; simp [hp]
      · simp [hj]

section
variable [DecidableEq α]

/-- A property of the default and of every changed value is one of what is read after the change. -/
theorem Tbl.read_mapAll_of_forall {P : α → Prop} (f : Nat → α → α) (m : Tbl α) (k : Nat) (hd : P default) (hf : ∀ j v, P (f j v)) :
    P ((m.mapAll f).read k) := by
  rcases (m.mapAll f).read_mem_or_default k with h | h
  · obtain ⟨e, -, he⟩ := List.mem_map.1 (List.mem_filter.1 h).1
    exact (Prod.mk.inj he).2 ▸ hf e.1 e.2
  · rw [h]; exact hd

variable {β : Type} {key : β → Nat} {val : β → α}

/-- A key that no write of a list names reads as before the list. -/
theorem Tbl.read_foldl_write_unnamed {xs : List β} {k : Nat} (m : Tbl α) (h : ∀ y ∈ xs, key y ≠ k) :
    (xs.foldl (fun (m : Tbl α) y => m.write (key y) (val y)) m).read k = m.read k := by
  refine Machine.foldl_keeps_mem (fun u : Tbl α => u.read k = m.read k) _ (fun u y hy hu => ?_) rfl
  rw [Tbl.read_write_other _ _ (h y hy).symm, hu]

/-- Of the writes of a list the last that names a key is the one that is read. -/
theorem Tbl.read_foldl_write_last {R : β → β → Prop} {xs : List β} {x : β} (m : Tbl α) (hp : xs.Pairwise R) (hx : x ∈ xs)
    (hlast : ∀ y ∈ xs, R x y → key y ≠ key x) :
    (xs.foldl (fun (m : Tbl α) y => m.write (key y) (val y)) m).read (key x) = val x := by
  induction xs generalizing m with
  | nil => cases hx
  | cons y ys ih =>
    obtain ⟨hy, hys⟩ := List.pairwise_cons.1 hp
    rw [List.foldl_cons]
    rcases List.mem_cons.1 hx with rfl | hx
    · rw [Tbl.read_foldl_write_unnamed _ fun z hz => hlast z (.tail _ hz) (hy z hz), Tbl.read_write_self]
    · exact ih _ hys hx fun z hz => hlast z (.tail _ hz)

omit [DecidableEq α] in
/-- A table whose keys rise reads each of its entries. -/
theorem Tbl.read_of_mem {m : Tbl α} (h : m.Pairwise fun x y => x.1 < y.1) {e : Nat × α} (he : e ∈ m) : m.read e.1 = e.2 := by
  induction m with
  | nil => cases he
  | cons x m ih =>
    obtain ⟨hx, hm⟩ := List.pairwise_cons.1 h
    obtain ⟨k, v⟩ := x
    rcases List.mem_cons.1 he with rfl | he
    · exact if_pos rfl
    · exact (if_neg (hx e he).ne).trans (ih hm he)

theorem Tbl.lt_of_mem_wfFrom {m : Tbl α} {b : Nat} (h : Tbl.wfFrom (some b) m = true) {e : Nat × α} (he : e ∈ m) : b < e.1 := by
  induction m generalizing b with
  | nil => cases he
  | cons x m ih =>
    obtain ⟨k, v⟩ := x
    simp only [Tbl.wfFrom, Bool.and_eq_true, decide_eq_true_eq] at h
    obtain ⟨⟨hb, -⟩, hm⟩ := h
    rcases List.mem_cons.1 he with rfl | he
    · exact hb
    · exact hb.trans (ih hm he)

/-- The keys of a canonical table rise. -/
theorem Tbl.pairwise_of_wfFrom {m : Tbl α} {b : Option Nat} (h : Tbl.wfFrom b m = true) : m.Pairwise fun x y => x.1 < y.1 := by
  induction m generalizing b with
  | nil => exact .nil
  | cons x m ih =>
    obtain ⟨k, v⟩ := x
    simp only [Tbl.wfFrom, Bool.and_eq_true] at h
    exact .cons (fun _ he => Tbl.lt_of_mem_wfFrom h.2 he) (ih h.2)

end

end Sys2Proof

namespace Sys2Proof.Machine

section
variable {α : Type} [Inhabited α]

/-- A range that is taken out reads as the default. -/
theorem read_dropRange (m : Tbl α) (a n k : Nat) : (dropRange m a n).read k = if a ≤ k ∧ k < a + n then default else m.read k := by
  rw [dropRange, m.read_filter_key fun j => j < a || a + n ≤ j]
  by_cases h : a ≤ k ∧ k < a + n
  · rw [if_pos h, if_neg]
    simp only [Bool.or_eq_true, decide_eq_true_eq]
    omega
  · rw [if_neg h, if_pos]
    simp only [Bool.or_eq_true, decide_eq_true_eq]
    omega

end

/-- Outside the run that it replaces a copy leaves a table alone. -/
theorem read_copyRange_outside (src dst : Tbl Byte) {a b n k : Nat} (h : ¬ (b ≤ k ∧ k < b + n)) :
    (copyRange src dst a b n).read k = dst.read k := by
  have hkeys : ∀ e ∈ src.filter fun e => decide (a ≤ e.1) && decide (e.1 < a + n), b + (e.1 - a) ≠ k := fun e he => by
    have := (List.mem_filter.1 he).2
    simp only [Bool.and_eq_true, decide_eq_true_eq] at this
    omega
  rw [copyRange, Tbl.read_foldl_write_unnamed _ hkeys, read_dropRange, if_neg h]

/-- Inside it each byte of a canonical table is found again. -/
theorem read_copyRange_inside {src : Tbl Byte} (dst : Tbl Byte) {a b n i : Nat} (hsrc : src.wf = true) (hi : i < n) :
    (copyRange src dst a b n).read (b + i) = src.read (a + i) := by
  have hrising := Tbl.pairwise_of_wfFrom hsrc
  by_cases hlisted : ∃ e ∈ src, e.1 = a + i
  · obtain ⟨e, he, hk⟩ := hlisted
    have hinside : (decide (a ≤ e.1) && decide (e.1 < a + n)) = true := by
      rw [Bool.and_eq_true, decide_eq_true_eq, decide_eq_true_eq]
      omega
    have hread := Tbl.read_foldl_write_last (key := fun e : Nat × Byte => b + (e.1 - a)) (val := fun e => e.2) (dropRange dst b n)
      (hrising.filter fun e => decide (a ≤ e.1) && decide (e.1 < a + n)) (List.mem_filter.2 ⟨he, hinside⟩) fun y hy hlt => by
        have := (List.mem_filter.1 hy).2
        simp only [Bool.and_eq_true, decide_eq_true_eq] at this
        omega
    rw [hk, Nat.add_sub_cancel_left] at hread
    rw [← hk, Tbl.read_of_mem hrising he]
    exact hread
  · have hkeys : ∀ e ∈ src.filter fun e => decide (a ≤ e.1) && decide (e.1 < a + n), b + (e.1 - a) ≠ b + i := fun e he hk => by
      obtain ⟨he, hrange⟩ := List.mem_filter.1 he
      simp only [Bool.and_eq_true, decide_eq_true_eq] at hrange
      exact hlisted ⟨e, he, by omega⟩
    rw [copyRange, Tbl.read_foldl_write_unnamed _ hkeys, read_dropRange, if_pos (by omega), Tbl.read_default]
    rw [List.mem_map]
    exact hlisted

end Sys2Proof.Machine
end

section
/-!
PROOF. The fault coalescing engine (R346, R347): the requests that it collects, the order in which it serves them, and the granules that it
fills.
-/
namespace Sys2Proof.Machine
open Sys2Proof Sys2Proof.Claims

/-! ### Requests (R346) -/

section
variable {s : State} {r : FillReq}

theorem exec_residencyRequest (s : State) (ctx pa : Nat) : exec (.residencyRequest ctx pa) s = .next
    (if (s.faultsvc || s.cache.fce.batch.any fun x => x.granule == pa / 4096) = true then s
      else s.askFill { granule := pa / 4096, ctx := ctx, graph := s.graphAt ctx pa, va := 0, item := 0 }) := rfl

theorem requested_iff (l : List FillReq) (g : Nat) : (l.any fun x => x.granule == g) = true ↔ ∃ x ∈ l, x.granule = g := by
  simp only [List.any_eq_true, beq_iff_eq]

/-- A request for a granule whose fill is in flight waits on it. -/
theorem askFill_filling (h : ∃ x ∈ s.cache.fce.fills, x.granule = r.granule) : s.askFill r = s :=
  if_pos ((requested_iff ..).2 h)

/-- A request for a granule that nothing is under way for joins the batch, and opens it where it is the first. -/
theorem askFill_joins (h : ∀ x ∈ s.cache.fce.fills ++ s.cache.fce.waiting, x.granule ≠ r.granule) (ht : s.taking (r.granule / 16) = false) :
    (s.askFill r).cache.fce = { s.cache.fce with
      batch := s.cache.fce.batch ++ [r], opened := if s.cache.fce.batch = [] then s.clock else s.cache.fce.opened } := by
  have hfill : ¬ (s.cache.fce.fills.any fun x => x.granule == r.granule) = true := fun hany => by
    obtain ⟨x, hx, hg⟩ := (requested_iff ..).1 hany
    exact h x (List.mem_append_left _ hx) hg
  have hwait : s.cache.fce.waiting.find? (fun x => x.granule == r.granule) = none := by
    refine List.find?_eq_none.2 fun x hx hg => h x (List.mem_append_right _ hx) (beq_iff_eq.1 hg)
  have htake : s.cache.fce.waiting.find? (fun x => s.taking (r.granule / 16) && x.granule / 16 == r.granule / 16) = none := by
    refine List.find?_eq_none.2 fun x _ => ?_
    rw [ht]
    exact Bool.false_ne_true
  simp only [State.askFill, if_neg hfill, hwait, htake, List.isEmpty_iff]
  rfl

end

/-! ### The order of service (R346) -/

theorem before_iff (a b : FillReq) : a.before b = true ↔ goesBefore a b := by
  simp [FillReq.before, goesBefore]

/-- The order of service as one of four numbers, of which demand before prediction is the third. -/
theorem goesBefore_iff (a b : FillReq) : goesBefore a b ↔ a.turn < b.turn ∨ (a.turn = b.turn ∧ (a.granule / 16 < b.granule / 16 ∨
    (a.granule / 16 = b.granule / 16 ∧ (a.pred.toNat < b.pred.toNat ∨ (a.pred.toNat = b.pred.toNat ∧ a.granule < b.granule))))) := by
  cases ha : a.pred <;> cases hb : b.pred <;> simp [goesBefore, ha, hb]

theorem goesBefore_asymm {a b : FillReq} (h : goesBefore a b) : ¬ goesBefore b a := by
  rw [goesBefore_iff] at *
  omega

/-- What does not go before one that does not go before a third does not go before the third either. -/
theorem not_goesBefore_trans {a b d : FillReq} (hab : ¬ goesBefore a b) (hbd : ¬ goesBefore b d) : ¬ goesBefore a d := by
  rw [goesBefore_iff] at *
  omega

theorem mem_placeReq (r : FillReq) (l : List FillReq) (x : FillReq) : x ∈ placeReq r l ↔ x = r ∨ x ∈ l := by
  have hl : x ∈ l ↔ x ∈ l.takeWhile (fun y => y.before r) ∨ x ∈ l.dropWhile fun y => y.before r := by
    rw [← List.mem_append, List.takeWhile_append_dropWhile]
  rw [placeReq, List.mem_append, List.mem_cons, hl]
  tauto

/-- Nothing from the place of a request on goes before it. -/
theorem not_goesBefore_of_mem_dropWhile {r b : FillReq} {l : List FillReq} (hl : InOrder l) (hb : b ∈ l.dropWhile fun y => y.before r) :
    ¬ goesBefore b r := by
  have hdrop : InOrder (l.dropWhile fun y => y.before r) := hl.sublist (List.dropWhile_sublist _)
  cases hd : l.dropWhile (fun y => y.before r) with
  | nil => rw [hd] at hb; cases hb
  | cons h t =>
    have hhead : ¬ goesBefore h r := by
      rw [← before_iff]
      have := List.head?_dropWhile_not (fun y : FillReq => y.before r) l
      rw [hd] at this
      simpa using this
    rw [hd] at hb hdrop
    rcases List.mem_cons.1 hb with rfl | hb
    · exact hhead
    · exact not_goesBefore_trans ((List.pairwise_cons.1 hdrop).1 b hb) hhead

/-- A request that is put in its place leaves the requests in order. -/
theorem inOrder_placeReq {r : FillReq} {l : List FillReq} (hl : InOrder l) : InOrder (placeReq r l) := by
  have hsplit : InOrder (l.takeWhile (fun y => y.before r) ++ l.dropWhile fun y => y.before r) := by
    rwa [List.takeWhile_append_dropWhile]
  obtain ⟨htake, hdrop, hcross⟩ := List.pairwise_append.1 hsplit
  refine List.pairwise_append.2 ⟨htake, .cons (fun b hb => not_goesBefore_of_mem_dropWhile hl hb) hdrop, fun a ha b hb => ?_⟩
  rcases List.mem_cons.1 hb with rfl | hb
  · exact goesBefore_asymm ((before_iff a b).1 (List.mem_takeWhile_imp (p := fun y : FillReq => y.before b) ha))
  · exact hcross a ha b hb

/-! ### Predictions (R347) -/

section
variable {s : State}

theorem addPredicted_nothing {r : FillReq} {items : List Nat} (h : ∀ i ∈ items, s.predict r i = []) : s.addPredicted r items = s := by
  have hnone : (items.flatMap fun i => s.predict r i) = [] := List.flatMap_eq_nil_iff.2 h
  rw [State.addPredicted, hnone]
  rfl

/-- A request outside graph regions, raised for no item, predicts nothing. -/
theorem predict_plain {r : FillReq} (h : r.graph = false) : s.predict r 0 = [] := by
  simp [State.predict, h]

/-! ### Batches (R346) -/

theorem batchDue_iff : ¬ BatchDue s ↔
    (s.cache.fce.batch.isEmpty || (s.clock < s.cache.fce.opened + 2000 && s.cache.fce.batch.length < 64)) = true := by
  simp only [BatchDue, ne_eq, not_and_or, not_not, not_or, not_le, Bool.or_eq_true, Bool.and_eq_true, decide_eq_true_eq, List.isEmpty_iff]

theorem exec_batchClose_early (h : ¬ BatchDue s) : exec .batchClose s = .next s.pump := if_pos (batchDue_iff.1 h)

/-- The batch is closed, before anything is predicted for it. -/
def batchClosed (s : State) : State :=
  (s.modFce fun f => { f with batch := f.batch.drop 64, opened := s.clock }).closeBatch (s.cache.fce.batch.take 64)

theorem exec_batchClose_due (h : BatchDue s) : exec .batchClose s = .next
    (((s.cache.fce.batch.take 64).filter fun r => !isNodeItem r.item).foldl
      (fun u r => u.addPredicted { r with turn := (batchClosed s).cache.fce.turn } [r.item]) (batchClosed s)).pump :=
  if_neg fun h' => batchDue_iff.2 h' h

theorem exec_batchClose_plain (h : BatchDue s) (hplain : ∀ x ∈ s.cache.fce.batch, x.item = 0 ∧ x.graph = false) :
    exec .batchClose s = .next (batchClosed s).pump := by
  rw [exec_batchClose_due h]
  congr 2
  refine foldl_keeps_mem (fun u : State => u = batchClosed s) _ (fun u r hr hu => ?_) rfl
  obtain ⟨hitem, hgraph⟩ := hplain r (List.mem_of_mem_take (List.mem_filter.1 hr).1)
  rw [addPredicted_nothing fun i hi => ?_, hu]
  rw [List.mem_singleton.1 hi, hitem]
  exact predict_plain hgraph

/-! ### The engine goes on (R346) -/

theorem pump_idle (h : s.cache.fce.waiting = []) : s.pump = s := by
  rw [State.pump, h]; rfl

/-- The engine waits while the frame of the first request's span is being reclaimed. -/
theorem pump_waits {r : FillReq} {rs : List FillReq} {x : Nat × Frame} (hw : s.cache.fce.waiting = r :: rs)
    (hx : s.spanFrame (r.granule / 16) = some x) (hnew : x.2.newspan ≠ 0) : s.pump = s := by
  obtain ⟨f, y⟩ := x
  have hhead : s.pumpHead r = (false, s) := by
    simp only [State.pumpHead, hx]
    exact if_pos hnew
  rw [State.pump, hw, List.length_cons, State.pumpN]
  simp only [hw, hhead]

/-! ### Fills (R346) -/

theorem isNodeItem_eq_false {i : Nat} (h : i % 2 ^ 32 ≤ 2 ^ 31) : isNodeItem i = false := decide_eq_false (by omega)

theorem exec_granuleFillComplete {r : FillReq} {rs : List FillReq} (hfills : s.cache.fce.fills = r :: rs)
    (hitems : ∀ i ∈ r.item :: r.more, i % 2 ^ 32 ≤ 2 ^ 31) : exec (.granuleFillComplete r.granule) s =
      .next (((s.modFce fun f => { f with fills := rs }).fillGranule r.granule).wakeGranule r.granule).pump := by
  have hnone : (r.item :: r.more).filter isNodeItem = [] := by
    refine List.filter_eq_nil_iff.2 fun i hi => ?_
    rw [isNodeItem_eq_false (hitems i hi)]
    exact Bool.false_ne_true
  change execGranuleFillComplete r.granule s = _
  simp only [execGranuleFillComplete, hfills, ne_eq, not_true, if_false, hnone]
  rw [addPredicted_nothing fun i hi => by cases hi]

/-- The granule of a resident frame that lacks it lands there: it is present, and its bytes are those of the backing memory. -/
theorem fillGranule_lands {g f : Nat} (hf : s.frameOf (4096 * g) = some f) (hst : (s.frame f).fstate = 1)
    (hres : (s.frame f).resmask.getLsbD (g % 16) = false) :
    (s.fillGranule g).frame f = { s.frame f with
      resmask := (s.frame f).resmask ||| BitVec.ofNat 16 (2 ^ (g % 16)), accessed := true } ∧
    (s.fillGranule g).cache.gddr = copyRange s.mem s.cache.gddr (4096 * g) (65536 * f + 4096 * (g % 16)) 4096 := by
  have hfree : ¬ ((s.frame f).fstate ≠ 1 || (s.frame f).resmask.getLsbD (g % 16)) = true := by simp [hst, hres]
  simp only [State.fillGranule, hf, if_neg hfree]
  exact ⟨State.frame_modFrame_self _ _ _, rfl⟩

end

theorem fillEvents : FillEvents := by
  intro s
  refine ⟨fun ctx pa h => ?_, fun ctx pa hsvc hnew => ?_, fun r => askFill_joins, fun r => askFill_filling, exec_batchClose_early,
    fun hdue hplain => ⟨_, exec_batchClose_plain hdue hplain, _, rfl, rfl⟩, fun r l hl => ⟨inOrder_placeReq hl, mem_placeReq r l⟩,
    fun r rs x => pump_waits, fun r rs hfills hitems => ⟨_, exec_granuleFillComplete hfills hitems, rfl⟩, fun g f hf hst hres => ?_⟩
  · rw [exec_residencyRequest, if_pos]
    rwa [Bool.or_eq_true, requested_iff]
  · rw [exec_residencyRequest, if_neg]
    rw [Bool.or_eq_true, requested_iff, hsvc]
    rintro (h | ⟨x, hx, hg⟩)
    · cases h
    · exact hnew x hx hg
  · obtain ⟨hframe, hgddr⟩ := fillGranule_lands hf hst hres
    refine ⟨hframe, fun hmem _ i hi => ?_⟩
    rw [hgddr]
    exact read_copyRange_inside _ hmem hi

end Sys2Proof.Machine
end

section
/-!
PROOF. What the end of an operation, and the stores that a recalled token lets through, leave of the page cache and of the matrix queues:
all of them (R203, R282, R284, R344).
-/
namespace Sys2Proof.Machine
open Sys2Proof

/-- The page cache and every core's matrix queue are as they were. -/
structure SameCacheQueues (s t : State) : Prop where
  cache : t.cache = s.cache
  queue : ∀ c, (t.core c).queue = (s.core c).queue

theorem SameCacheQueues.refl (s : State) : SameCacheQueues s s := ⟨rfl, fun _ => rfl⟩

theorem SameCacheQueues.trans {s t u : State} (h : SameCacheQueues s t) (h' : SameCacheQueues t u) : SameCacheQueues s u :=
  ⟨h'.cache.trans h.cache, fun c => (h'.queue c).trans (h.queue c)⟩

section
variable (s : State)

theorem sameCacheQueues_of_cores {t : State} (hcache : t.cache = s.cache) (hcores : t.cores = s.cores) : SameCacheQueues s t :=
  ⟨hcache, fun c => by rw [State.core, hcores]; rfl⟩

theorem sameCacheQueues_modCore (c : Nat) {g : Core → Core} (h : ∀ x, (g x).queue = x.queue) : SameCacheQueues s (s.modCore c g) := by
  refine ⟨rfl, fun d => ?_⟩
  rw [State.core_modCore]
  split
  · next hd => rw [h, hd]
  · rfl

theorem sameCacheQueues_traceRec (k type flags seq pc d1 d2 : Nat) : SameCacheQueues s (s.traceRec k type flags seq pc d1 d2) := by
  obtain ⟨m, x, h⟩ := s.traceRec_frame k type flags seq pc d1 d2
  exact sameCacheQueues_of_cores s (by rw [h]) (by rw [h])

/-! ### The end of a troupe and of its company (R96, R167) -/

theorem sameCacheQueues_releaseSlots (k : Nat) : SameCacheQueues s (s.releaseSlots k) := by
  obtain ⟨f, m, hslots⟩ := slotsEmptied_frame s (s.co k).slots
  have hempty : SameCacheQueues s (slotsEmptied s (s.co k).slots) :=
    sameCacheQueues_of_cores s (by rw [hslots]) (by rw [hslots])
  have hfree : SameCacheQueues s (windowsFreed (slotsEmptied s (s.co k).slots) k [(s.co k).core, (s.co k).core + 1]) :=
    foldl_keeps (SameCacheQueues s) _ (fun u x hu => by
      split
      · exact hu.trans (sameCacheQueues_modCore u x fun _ => rfl)
      · exact hu) _ hempty
  exact hfree.trans (sameCacheQueues_of_cores _ rfl rfl)

theorem sameCacheQueues_releaseIfOver (k : Nat) : SameCacheQueues s (s.releaseIfOver k) := by
  unfold State.releaseIfOver
  split
  · exact (sameCacheQueues_releaseSlots s k).trans (sameCacheQueues_of_cores _ rfl rfl)
  · exact .refl s

theorem sameCacheQueues_endCheck (k : Nat) : SameCacheQueues s (s.endCheck k) := by
  unfold State.endCheck
  extract_lets t u v w
  split
  · have hv : SameCacheQueues s v := (sameCacheQueues_traceRec s ..).trans (sameCacheQueues_of_cores u rfl rfl)
    refine SameCacheQueues.trans ?_ (sameCacheQueues_releaseIfOver w t.company)
    unfold w
    split
    · exact hv.trans (sameCacheQueues_of_cores v rfl rfl)
    · exact hv
  · exact .refl s

/-! ### The end of an operation (R51, R292) -/

theorem sameCacheQueues_acquireBy (k : Nat) : SameCacheQueues s (s.acquireBy k) :=
  (sameCacheQueues_modCore s (coreOf k) (g := fun x => { x with l1 := x.l1.filter fun e => e.2.owned }) fun _ => rfl).trans
    (sameCacheQueues_of_cores _ rfl rfl)

theorem sameCacheQueues_finish (k : Nat) (o : MemOp) (zero : Mask) : SameCacheQueues s (s.finish k o zero) := by
  unfold State.finish
  extract_lets u v
  have hu : SameCacheQueues s u := sameCacheQueues_of_cores s rfl rfl
  have hv : SameCacheQueues s v := by
    unfold v
    split
    · exact hu.trans (sameCacheQueues_acquireBy u k)
    · exact hu
  have hw : SameCacheQueues v (v.endFlights k o.seq) := sameCacheQueues_of_cores v rfl rfl
  exact (hv.trans hw).trans (sameCacheQueues_endCheck _ k)

theorem sameCacheQueues_finishOrKeep (k : Nat) (o : MemOp) : SameCacheQueues s (s.finishOrKeep k o) := by
  unfold State.finishOrKeep
  split
  · exact sameCacheQueues_finish ..
  · exact sameCacheQueues_of_cores s rfl rfl

/-! ### Stores into a line that the core owns (R256, R282) -/

theorem cache_stopRing (ctx c : Nat) : (s.stopRing ctx c).cache = s.cache := by
  unfold State.stopRing
  dsimp only
  split
  · rfl
  · refine foldl_keeps (fun u : State => u.cache = s.cache) _ (fun u k hu => ?_) _ rfl
    exact hu

theorem cache_trigger (x : Nat) : (s.trigger x).cache = s.cache := by
  unfold State.trigger
  split
  · rfl
  · split <;> rfl

theorem cache_hitActs (w : Watch) (b : Accessor) (a : Nat) : (s.hitActs w b a).cache = s.cache := by
  unfold State.hitActs
  extract_lets u v
  have hu : u.cache = s.cache := by
    unfold u
    split
    · exact (sameCacheQueues_traceRec ..).cache
    · rfl
  have hv : v.cache = s.cache := by
    unfold v
    split
    · split
      · exact (cache_stopRing ..).trans hu
      · exact hu
    · exact hu
  split
  · exact (cache_trigger ..).trans hv
  · exact hv

theorem cache_watchDie (d : Nat) (b : Accessor) (rd wr : Bool) (va : W64) (n : Nat) : (s.watchDie d b rd wr va n).cache = s.cache := by
  unfold State.watchDie
  split
  · rfl
  · refine foldl_keeps (fun u : State => u.cache = s.cache) _ (fun u i hu => ?_) _ rfl
    dsimp only
    split
    · exact hu
    · exact (cache_hitActs ..).trans hu

/-- A watch of an operation's elements hits watchpoints, which are no part of a page cache or a core. -/
theorem sameCacheQueues_watchPieces (k : Nat) (o : MemOp) (rd wr : Bool) (ps : List (Nat × Nat)) :
    SameCacheQueues s (s.watchPieces k o rd wr ps) := by
  refine foldl_keeps (SameCacheQueues s) _ (fun u i hu => ?_) _ (.refl s)
  dsimp only
  split
  · refine hu.trans ⟨cache_watchDie .., fun c => ?_⟩
    rw [State.core, (sameUnits_watchDie ..).1]
    rfl
  · exact hu

theorem sameCacheQueues_storeOwned (k : Nat) (o : MemOp) (line p : Nat) : SameCacheQueues s (s.storeOwned k o line p) := by
  unfold State.storeOwned
  extract_lets c ps u
  have htouch : SameCacheQueues s (s.l1Touch c p (hintOf o.ins)) := by
    unfold State.l1Touch
    exact sameCacheQueues_modCore s c fun _ => rfl
  have hu : SameCacheQueues s u := htouch.trans (by unfold u; exact sameCacheQueues_modCore _ c fun _ => rfl)
  exact (hu.trans (sameCacheQueues_watchPieces ..)).trans (sameCacheQueues_finishOrKeep ..)

theorem sameCacheQueues_flushStores (c p : Nat) : SameCacheQueues s (s.flushStores c p) := by
  refine foldl_keeps (SameCacheQueues s) _ (fun u x hu => ?_) _ (.refl s)
  split
  · split
    · exact hu.trans (sameCacheQueues_storeOwned ..)
    · exact hu
  · exact hu

end

end Sys2Proof.Machine
end

section
/-!
PROOF. The carousel (R348) and the reclaim of a frame, from its start to the span that takes it (R329, R351, R352).
-/
namespace Sys2Proof.Machine
open Sys2Proof Sys2Proof.Claims

/-! ### The carousel (R348) -/

/-- What visits of a die's hand leave: frames lose no more than ACCESSED, and what has joined the cold queue is free or not accessed. -/
structure HandMoved (d : Nat) (s u : State) : Prop where
  clock : u.clock = s.clock
  bar2 : u.bar2 = s.bar2
  frame : ∀ g, u.frame g = s.frame g ∨ u.frame g = { s.frame g with accessed := false }
  cold : ∀ g ∈ (u.die d).cold, g ∈ (s.die d).cold ∨ (u.frame g).fstate = 0 ∨ (u.frame g).accessed = false

section
variable {d : Nat} {s u : State}

theorem HandMoved.refl (d : Nat) (s : State) : HandMoved d s s := ⟨rfl, rfl, fun _ => .inl rfl, fun _ h => .inl h⟩

theorem HandMoved.trans {v : State} (h : HandMoved d s u) (h' : HandMoved d u v) : HandMoved d s v := by
  refine ⟨h'.clock.trans h.clock, h'.bar2.trans h.bar2, fun g => ?_, fun g hg => ?_⟩
  · rcases h'.frame g with hv | hv <;> rcases h.frame g with hu | hu <;> rw [hv, hu]
    · exact .inl rfl
    · exact .inr rfl
    · exact .inr rfl
    · exact .inr rfl
  · refine (h'.cold g hg).elim (fun hgu => (h.cold g hgu).imp_right fun hu => ?_) .inr
    rcases h'.frame g with hv | hv <;> rw [hv]
    · exact hu
    · exact .inr rfl

/-- A change of a die that leaves its cold queue. -/
theorem handMoved_modDie (s : State) {k : Die → Die} (h : ∀ y, (k y).cold = y.cold) : HandMoved d s (s.modDie d k) := by
  refine ⟨rfl, rfl, fun _ => .inl rfl, fun g hg => .inl ?_⟩
  rwa [State.die_modDie_self, h] at hg

/-- A frame that is free or not accessed joins the cold queue. -/
theorem handMoved_queue {f : Nat} (h : (s.frame f).fstate = 0 ∨ (s.frame f).accessed = false) :
    HandMoved d s (s.modDie d fun y => { y with cold := y.cold ++ [f] }) := by
  refine ⟨rfl, rfl, fun _ => .inl rfl, fun g hg => ?_⟩
  rw [State.die_modDie_self, List.mem_append, List.mem_singleton] at hg
  rcases hg with hg | rfl
  · exact .inl hg
  · exact .inr h

theorem handMoved_clear (s : State) (f : Nat) : HandMoved d s (s.modFrame f fun y => { y with accessed := false }) := by
  refine ⟨rfl, rfl, fun g => ?_, fun g hg => .inl hg⟩
  by_cases hg : g = f
  · subst hg
    exact .inr (State.frame_modFrame_self _ _ _)
  · exact .inl (State.frame_modFrame_other _ _ hg)

theorem handMoved_handVisit (s : State) (f : Nat) : HandMoved d s (s.handVisit d f) := by
  unfold State.handVisit
  extract_lets x die queue v
  have hv : HandMoved d s v := handMoved_modDie s fun _ => rfl
  have hqueue : (x.fstate = 0 ∨ x.accessed = false) → HandMoved d s (queue v) := fun h => by
    unfold queue
    split
    · exact hv
    · exact hv.trans (handMoved_queue h)
  split
  · exact .refl d s
  split
  · next h0 => exact hqueue (.inl h0)
  split
  · exact hv
  split
  · exact hv.trans (handMoved_clear v f)
  · next hacc =>
    split
    · exact hv
    · exact hqueue (.inr (Bool.eq_false_iff.2 hacc))

/-- A die's hand has visited 64 frames. -/
def handsMoved (s : State) (d : Nat) : State :=
  (List.range 64).foldl (fun (u : State) _ => u.handVisit d (d * 2 ^ 19 + (u.die d).hand)) s

theorem handMoved_handsMoved (s : State) (d : Nat) : HandMoved d s (handsMoved s d) :=
  foldl_keeps (HandMoved d s) _ (fun _ _ hu => hu.trans (handMoved_handVisit _ _)) _ (.refl d s)

/-- The visits of one cycle are over. -/
def handsRested (s : State) (d : Nat) : State :=
  (handsMoved s d).modDie d fun y => { y with handAt := (handsMoved s d).clock + 1, sweeping := y.cold.length < (handsMoved s d).cqHigh }

theorem exec_carouselHandStep_moves (hv : s.victimHost = false) (hd : d < 4) (hat : (s.die d).handAt ≤ s.clock)
    (hlow : (s.die d).cold.length < s.cqLow) : exec (.carouselHandStep d) s = .next (handsRested s d).pump :=
  if_neg (by simp [hv, Nat.not_le.2 hd, Nat.not_lt.2 hat, hlow])

theorem exec_carouselHandStep_stays (h : s.victimHost = true ∨ s.clock < (s.die d).handAt) : exec (.carouselHandStep d) s = .next s :=
  if_pos (by rcases h with h | h <;> simp [h])

theorem cqHigh_congr (h : u.bar2 = s.bar2) : u.cqHigh = s.cqHigh := by
  simp only [State.cqHigh, State.reg, h]

/-- R348: what a step of the hand leaves before the engine goes on. -/
theorem handsRested_spec (s : State) (d : Nat) : ((handsRested s d).die d).handAt = s.clock + 1 ∧
    ((handsRested s d).die d).sweeping = (((handsRested s d).die d).cold.length < s.cqHigh : Bool) ∧
    ∀ f ∈ ((handsRested s d).die d).cold, f ∉ (s.die d).cold →
      ((handsRested s d).frame f).fstate = 0 ∨ ((handsRested s d).frame f).accessed = false := by
  have hmoved := handMoved_handsMoved s d
  rw [handsRested, State.die_modDie_self, hmoved.clock, cqHigh_congr hmoved.bar2]
  exact ⟨rfl, rfl, fun f hf hnew => (hmoved.cold f hf).resolve_left hnew⟩

end

/-! ### The start of a reclaim (R329, R351) -/

section
variable {s : State} {f : Nat}

theorem exec_frameReclaim (s : State) (f : Nat) : exec (.frameReclaim f) s =
    let u := s.reclaimBegin f
    if ((u.frame f).stage ≠ 1 || (u.frame f).fstate ≠ 2 || u.frameLocked f) = true then .next u
    else if ((u.reclaimDrain f).frame f).errs.isEmpty = true then .next ((u.reclaimDrain f).modFrame f fun x => { x with stage := 2 })
    else .next (((u.reclaimDrain f).modFrame f fun x => { x with fstate := 1, error := true, stage := 0, newspan := 0 }).pump) := rfl

theorem frame_reclaimStart : (s.reclaimStart f).frame f =
    { s.frame f with fstate := 2, fgen := ((s.frame f).fgen + 1) % 65536, stage := 1 } := State.frame_modFrame_self _ _ _

theorem frameLocked_reclaimStart : (s.reclaimStart f).frameLocked f = s.frameLocked f := by
  unfold State.frameLocked
  rw [frame_reclaimStart]
  rfl

section
variable (hst : (s.frame f).fstate = 1) (hnew : (s.frame f).newspan ≠ 0 ∨ (s.frame f).stage = 4)
include hst hnew

theorem reclaim_asked : ¬ ((s.frame f).fstate ≠ 1 || ((s.frame f).newspan = 0 && (s.frame f).stage ≠ 4)) = true := by
  simp only [Bool.or_eq_true, Bool.and_eq_true, decide_eq_true_eq, hst, ne_eq, not_true, false_or]
  tauto

/-- A frame that has been pinned, or has an error, is no victim. -/
theorem reclaimBegin_spoiled (h : (s.frame f).pinned = true ∨ (s.frame f).error = true) :
    s.reclaimBegin f = (s.modFrame f fun x => { x with newspan := 0, stage := 0 }).pump :=
  (if_neg (reclaim_asked hst hnew)).trans (if_pos (by rwa [Bool.or_eq_true]))

section
variable (hp : (s.frame f).pinned = false) (he : (s.frame f).error = false)
include hp he

theorem reclaimBegin_held (h : s.frameHold f = true) : s.reclaimBegin f = s :=
  (if_neg (reclaim_asked hst hnew)).trans ((if_neg (by simp [hp, he])).trans (if_pos h))

theorem reclaimBegin_starts (h : s.frameHold f = false) : s.reclaimBegin f = s.reclaimStart f :=
  (if_neg (reclaim_asked hst hnew)).trans ((if_neg (by simp [hp, he])).trans (if_neg (by rw [h]; exact Bool.false_ne_true)))

theorem exec_frameReclaim_held (h : s.frameHold f = true) : exec (.frameReclaim f) s = .next s := by
  rw [exec_frameReclaim, reclaimBegin_held hst hnew hp he h]
  exact if_pos (by simp [hst])

theorem exec_frameReclaim_locked (h : s.frameHold f = false) (hl : s.frameLocked f = true) :
    exec (.frameReclaim f) s = .next (s.reclaimStart f) := by
  rw [exec_frameReclaim, reclaimBegin_starts hst hnew hp he h]
  exact if_pos (by rw [frameLocked_reclaimStart, hl, Bool.or_true])

theorem exec_frameReclaim_drains (h : s.frameHold f = false) (hl : s.frameLocked f = false) : exec (.frameReclaim f) s =
    let u := (s.reclaimStart f).reclaimDrain f
    if (u.frame f).errs.isEmpty = true then .next (u.modFrame f fun x => { x with stage := 2 })
    else .next ((u.modFrame f fun x => { x with fstate := 1, error := true, stage := 0, newspan := 0 }).pump) := by
  rw [exec_frameReclaim, reclaimBegin_starts hst hnew hp he h]
  exact if_neg (by rw [frameLocked_reclaimStart, hl, frame_reclaimStart]; simp)

end

theorem exec_frameReclaim_spoiled (h : (s.frame f).pinned = true ∨ (s.frame f).error = true) (hw : s.cache.fce.waiting = []) :
    exec (.frameReclaim f) s = .next (s.modFrame f fun x => { x with newspan := 0, stage := 0 }) := by
  have hpump : (s.modFrame f fun x => { x with newspan := 0, stage := 0 }).pump = s.modFrame f fun x => { x with newspan := 0, stage := 0 } :=
    pump_idle hw
  rw [exec_frameReclaim, reclaimBegin_spoiled hst hnew h, hpump]
  exact if_pos (by rw [State.frame_modFrame_self]; rfl)

end

/-! ### The lines of a frame come home (R351, R352) -/

/-- Every frame has the generation that it had. -/
def SameFgens (s t : State) : Prop := ∀ g, (t.frame g).fgen = (s.frame g).fgen

theorem SameFgens.trans {s t u : State} (h : SameFgens s t) (h' : SameFgens t u) : SameFgens s u := fun g => (h' g).trans (h g)

theorem sameFgens_of_frames {s t : State} (h : t.cache.frames = s.cache.frames) : SameFgens s t := fun g => by
  rw [State.frame, h]; rfl

theorem sameFgens_modFrame (s : State) (k : Nat) {g : Frame → Frame} (h : ∀ x, (g x).fgen = x.fgen) : SameFgens s (s.modFrame k g) := by
  intro j
  by_cases hj : j = k
  · subst hj
    rw [State.frame_modFrame_self, h]
  · rw [State.frame_modFrame_other _ _ hj]

theorem sameFgens_markDirty (s : State) (l : Nat) : SameFgens s (s.markDirty l) := by
  unfold State.markDirty
  split
  · exact sameFgens_modFrame s _ fun _ => rfl
  · exact fun _ => rfl

theorem sameFgens_recall (s : State) (l : Nat) : SameFgens s (s.recall l) := by
  unfold State.recall
  split
  · exact fun _ => rfl
  · extract_lets x u v
    have hv : SameFgens s v := by
      unfold v
      split
      · exact sameFgens_markDirty (u.modSline ..) l
      · exact sameFgens_of_frames rfl
    exact hv.trans (sameFgens_of_frames rfl)

theorem sameFgens_takeBack (s : State) (l : Nat) : SameFgens s (s.takeBack l) := by
  unfold State.takeBack
  split
  · exact (sameFgens_of_frames (by rw [(sameCacheQueues_flushStores ..).cache])).trans (sameFgens_recall _ l)
  · exact fun _ => rfl

theorem sameFgens_dropCuts (s : State) (l : Nat) : SameFgens s (s.dropCuts l) := by
  unfold State.dropCuts
  split <;> exact fun _ => rfl

theorem sameFgens_setLow (s : State) (l : Nat) (d : LineData) (is : List Nat) : SameFgens s (s.setLow l d is) := by
  induction is generalizing s with
  | nil => exact fun _ => rfl
  | cons i is ih =>
    have hbyte : SameFgens s (s.setLowByte (128 * l + i) (lineByte d i)) := by
      unfold State.setLowByte
      split
      · split <;> exact sameFgens_of_frames rfl
      · exact sameFgens_of_frames rfl
    exact hbyte.trans (ih _)

theorem sameFgens_reclaimLine (s : State) (f l : Nat) : SameFgens s (s.reclaimLine f l) := by
  unfold State.reclaimLine
  extract_lets u y v
  have hu : SameFgens s u :=
    (sameFgens_takeBack (s.killMiss l) l).trans (sameFgens_dropCuts _ l)
  have hv : SameFgens s v := by
    unfold v
    split
    · exact hu.trans (sameFgens_modFrame ({ u with lineErr := u.lineErr.write l false } : State) f fun _ => rfl)
    · split
      · exact (hu.trans (sameFgens_setLow _ _ _ _)).trans (sameFgens_markDirty _ _)
      · exact hu
  exact hv.trans (sameFgens_of_frames rfl)

theorem sameFgens_reclaimDrain (s : State) (f : Nat) : SameFgens s (s.reclaimDrain f) := by
  unfold State.reclaimDrain
  extract_lets b u
  have hu : SameFgens s u := foldl_keeps (SameFgens s) _ (fun _ _ hu => hu.trans (sameFgens_reclaimLine _ _ _)) _ fun _ => rfl
  exact hu.trans (sameFgens_of_frames rfl)

/-- No L1 holds a line of the span that has been drained. -/
theorem l1_reclaimDrain (s : State) (f : Nat) {l : Nat} (hl : 512 * (s.frame f).span ≤ l) (hl' : l < 512 * (s.frame f).span + 512)
    (c : Nat) : ((s.reclaimDrain f).core c).l1.read l = default := by
  unfold State.reclaimDrain State.core
  dsimp only
  refine Tbl.read_mapAll_of_forall (P := fun x : Core => x.l1.read l = default) _ _ c rfl fun _ x => ?_
  rw [read_dropRange, if_pos ⟨hl, hl'⟩]

/-! ### The granules are written back (R351, R378, R381) -/

theorem writeBack_frame (s : State) (f i : Nat) : ∃ m, s.writeBack f i = { s with mem := m } := by
  unfold State.writeBack
  extract_lets x base
  split
  · exact ⟨_, rfl⟩
  · refine foldl_keeps (fun u : State => ∃ m, u = { s with mem := m }) _ (fun u j hu => ?_) _ ⟨_, rfl⟩
    obtain ⟨m, rfl⟩ := hu
    split <;> exact ⟨_, rfl⟩

theorem writeBack_plain {i : Nat} (h : (s.frame f).shared = false) : (s.writeBack f i).mem =
    copyRange s.cache.gddr s.mem (65536 * f + 4096 * i) (65536 * (s.frame f).span + 4096 * i) 4096 := by
  simp [State.writeBack, h]

/-- The dirty granules of a list have been written back. -/
def writtenBack (s : State) (f : Nat) (dirty : BitVec 16) (is : List Nat) : State :=
  is.foldl (fun (u : State) i => if dirty.getLsbD i then u.writeBack f i else u) s

theorem writtenBack_frame (s : State) (f : Nat) (dirty : BitVec 16) (is : List Nat) : ∃ m, writtenBack s f dirty is = { s with mem := m } := by
  refine foldl_keeps (fun u : State => ∃ m, u = { s with mem := m }) _ (fun u i hu => ?_) _ ⟨_, rfl⟩
  obtain ⟨m, rfl⟩ := hu
  split
  · obtain ⟨m', h⟩ := writeBack_frame { s with mem := m } f i
    exact ⟨m', h⟩
  · exact ⟨m, rfl⟩

theorem writtenBack_clean {dirty : BitVec 16} {is : List Nat} (h : ∀ i ∈ is, dirty.getLsbD i = false) : writtenBack s f dirty is = s := by
  refine foldl_keeps_mem (fun u : State => u = s) _ (fun u i hi hu => ?_) rfl
  rw [h i hi]
  exact hu

/-- A byte of a dirty granule of a frame that is not shared stands in the backing memory once its granule is written back, whatever other
granules are. -/
theorem mem_writtenBack {dirty : BitVec 16} {is : List Nat} {i j : Nat} (hs : (s.frame f).shared = false) (hg : s.cache.gddr.wf = true)
    (hj : j < 4096) (hd : dirty.getLsbD i = true) (h : i ∈ is ∨ s.mem.read (65536 * (s.frame f).span + 4096 * i + j) =
      s.cache.gddr.read (65536 * f + 4096 * i + j)) :
    (writtenBack s f dirty is).mem.read (65536 * (s.frame f).span + 4096 * i + j) = s.cache.gddr.read (65536 * f + 4096 * i + j) := by
  induction is generalizing s with
  | nil => exact h.resolve_left List.not_mem_nil
  | cons k ks ih =>
    by_cases hk : dirty.getLsbD k = true
    · have hmem := writeBack_plain (i := k) hs
      obtain ⟨m, hm⟩ := writeBack_frame s f k
      have hstep : writtenBack s f dirty (k :: ks) = writtenBack { s with mem := m } f dirty ks := by
        rw [← hm]; exact congrArg (writtenBack · f dirty ks) (if_pos hk)
      rw [hm] at hmem
      rw [hstep]
      refine ih (s := { s with mem := m }) hs hg ?_
      rw [or_iff_not_imp_left]
      intro hrest
      change Tbl.read m (65536 * (s.frame f).span + 4096 * i + j) = _
      refine (congrArg (fun t => Tbl.read t _) hmem).trans ?_
      by_cases hik : i = k
      · subst hik
        exact read_copyRange_inside _ hg hj
      · rw [read_copyRange_outside _ _ (by omega)]
        exact h.resolve_left fun hmem => (List.mem_cons.1 hmem).elim hik hrest
    · have hstep : writtenBack s f dirty (k :: ks) = writtenBack s f dirty ks := congrArg (writtenBack · f dirty ks) (if_neg hk)
      rw [hstep]
      refine ih hs hg (h.imp_left fun hmem => (List.mem_cons.1 hmem).resolve_left ?_)
      rintro rfl
      exact hk hd

/-- The lines of a shared span are released (R381). -/
def spanReleased (s : State) (x : Frame) : State :=
  if x.shared then { s with cache := { s.cache with pool := dropRange s.cache.pool (512 * x.span) 512 } } else s

theorem exec_reclaimWritebackDone (hst : (s.frame f).fstate = 2) (hstage : (s.frame f).stage = 2) : exec (.reclaimWritebackDone f) s =
    .next ((spanReleased (writtenBack s f (s.frame f).dirtymask (List.range 16)) (s.frame f)).modFrame f fun x => { x with stage := 3 }) :=
  if_neg (by simp [hst, hstage])

theorem frame_spanReleased (s : State) (x : Frame) (g : Nat) : (spanReleased s x).frame g = s.frame g := by
  unfold spanReleased; split <;> rfl

theorem mem_spanReleased (s : State) (x : Frame) : (spanReleased s x).mem = s.mem := by
  unfold spanReleased; split <;> rfl

/-! ### The frame is given on (R351) -/

section
variable (hst : (s.frame f).fstate = 2) (hstage : (s.frame f).stage = 3)
include hst hstage

theorem exec_reclaimReleaseDone_free (hnew : (s.frame f).newspan = 0) : exec (.reclaimReleaseDone f) s = .next
    ((({ s with cache := { s.cache with gddr := dropRange s.cache.gddr (65536 * f) 65536 } } : State).modFrame f fun x =>
      { (default : Frame) with fgen := x.fgen }).pump) :=
  (if_neg (by simp [hst, hstage])).trans (if_neg (not_not.2 hnew))

theorem exec_reclaimReleaseDone_given (hnew : (s.frame f).newspan ≠ 0) : exec (.reclaimReleaseDone f) s = .next
    (s.giveFrame f ((s.frame f).newspan - 1)
      (((s.cache.fce.waiting.find? fun r => r.granule / 16 == (s.frame f).newspan - 1).map (·.graph)).getD false)).pump :=
  (if_neg (by simp [hst, hstage])).trans (if_pos hnew)

end

end

theorem pageEvents : PageEvents := by
  intro s
  refine ⟨fun d hv hd hat hlow => ⟨_, exec_carouselHandStep_moves hv hd hat hlow, _, rfl, handsRested_spec s d⟩,
    fun d => exec_carouselHandStep_stays, fun f hst hnew => ⟨exec_frameReclaim_spoiled hst (.inl hnew), fun hp he =>
      ⟨exec_frameReclaim_held hst (.inl hnew) hp he, exec_frameReclaim_locked hst (.inl hnew) hp he, fun hh hl => ?_⟩⟩,
    fun f hst hstage => ⟨_, exec_reclaimWritebackDone hst hstage, ?_, fun _ hclean => ?_, fun hs _ hg i j hi hj hd => ?_⟩,
    fun f hst hstage => ⟨fun hnew => ⟨_, exec_reclaimReleaseDone_free hst hstage hnew, _, rfl, State.frame_modFrame_self _ _ _⟩,
      fun hnew => ⟨_, exec_reclaimReleaseDone_given hst hstage hnew, _, rfl, ?_⟩⟩⟩
  · have hspan : ((s.reclaimStart f).frame f).span = (s.frame f).span := by rw [frame_reclaimStart]
    have hfgen : (((s.reclaimStart f).reclaimDrain f).frame f).fgen = ((s.frame f).fgen + 1) % 65536 := by
      rw [sameFgens_reclaimDrain, frame_reclaimStart]
    have hl1 : ∀ l, 512 * (s.frame f).span ≤ l → l < 512 * (s.frame f).span + 512 →
        ∀ c, (((s.reclaimStart f).reclaimDrain f).core c).l1.read l = default := fun l hl hl' =>
      l1_reclaimDrain _ f (by rwa [hspan]) (by rwa [hspan])
    have hexec := exec_frameReclaim_drains hst (.inl hnew) hp he hh hl
    by_cases herr : (((s.reclaimStart f).reclaimDrain f).frame f).errs = []
    · exact ⟨_, hexec.trans (if_pos (List.isEmpty_iff.2 herr)), hfgen, hl1, fun _ => rfl, fun h => absurd herr h⟩
    · exact ⟨_, hexec.trans (if_neg fun h => herr (List.isEmpty_iff.1 h)), hfgen, hl1, fun h => absurd h herr, fun _ => rfl⟩
  · obtain ⟨m, hm⟩ := writtenBack_frame s f (s.frame f).dirtymask (List.range 16)
    rw [State.frame_modFrame_self, frame_spanReleased, hm]
    rfl
  · rw [State.modFrame_mem, mem_spanReleased, writtenBack_clean fun i hi => hclean i (List.mem_range.1 hi)]
  · rw [State.modFrame_mem, mem_spanReleased]
    exact mem_writtenBack hs hg hj hd (.inl (List.mem_range.2 hi))
  · rw [State.giveFrame, State.frame_modFrame_self]
    exact ⟨rfl, rfl, rfl, rfl, rfl, rfl, rfl, rfl⟩

end Sys2Proof.Machine
end

section
/-!
PROOF. Uncorrectable errors (R196, R268, R352, R371) and the host's control of the frames (R350, R353); the page cache (O44).
-/
namespace Sys2Proof.Machine
open Sys2Proof Sys2Proof.Claims

/-! ### What an error leaves alone -/

theorem frame_frqRaise (s : State) (r : FRec) (f : Nat) : (s.frqRaise r).frame f = s.frame f := by
  unfold State.frqRaise
  dsimp only
  split <;> rfl

theorem frame_trigger (s : State) (x f : Nat) : (s.trigger x).frame f = s.frame f := by
  rw [State.frame, cache_trigger]; rfl

theorem core_trigger (s : State) (x c : Nat) : (s.trigger x).core c = s.core c := by
  rw [State.core, (sameUnits_trigger s x).1]; rfl

/-! ### An error in a line (R268, R330, R352, R371) -/

/-- A dirty line is lost: its frame is marked; the line is marked where a slice or an L1 holds it, else the frame lists it. -/
def lineLost (s : State) (l : Nat) : State :=
  match s.frameOf (128 * l) with
  | some f =>
    let u := s.modFrame f fun x => { x with error := true }
    if s.held l then { u with lineErr := u.lineErr.write l true } else u.modFrame f fun x => { x with errs := x.errs ++ [l] }
  | none => { s with lineErr := s.lineErr.write l true }

section
variable {s : State} {l : Nat}

theorem lineError_clean (h : ¬ LosesData s l) : s.lineError l = s :=
  if_pos (by rw [LosesData] at h; revert h; cases s.dirtyHere l <;> cases s.lost l <;> simp)

theorem lineError_dirty (h : LosesData s l) :
    s.lineError l = ((lineLost s l).frqRaise { type := 3, cls := 6, pa := 128 * l }).trigger 3 := by
  refine (if_neg (by rw [h.1, h.2]; decide)).trans ?_
  unfold lineLost
  cases s.frameOf (128 * l) <;> rfl

theorem error_lineLost {f : Nat} (h : s.frameOf (128 * l) = some f) : ((lineLost s l).frame f).error = true := by
  unfold lineLost
  rw [h]
  dsimp only
  split
  · exact congrArg Frame.error (State.frame_modFrame_self s f _)
  · rw [State.frame_modFrame_self, State.frame_modFrame_self]

theorem lineErr_lineLost (h : s.held l = true) : (lineLost s l).lineErr.read l = true := by
  unfold lineLost
  split
  · rw [if_pos h]
    exact Tbl.read_write_self ..
  · exact Tbl.read_write_self ..

theorem errs_lineLost {f : Nat} (hf : s.frameOf (128 * l) = some f) (h : s.held l = false) : l ∈ ((lineLost s l).frame f).errs := by
  unfold lineLost
  rw [hf]
  dsimp only
  rw [if_neg (by rw [h]; exact Bool.false_ne_true), State.frame_modFrame_self]
  exact List.mem_append_right _ (List.mem_singleton_self l)

end

/-- A row that fails while fewer than two have is one of the rows that have failed. -/
theorem mem_rowsBad_failRow {s : State} {c r : Nat} (h : (s.core c).rowsBad.length < 2) : r ∈ ((s.failRow c r).core c).rowsBad := by
  unfold State.failRow
  split
  · next hr => exact List.contains_iff_mem.1 hr
  · have hbad : ((s.modCore c fun x => { x with rowsBad := x.rowsBad ++ [r] }).core c).rowsBad = (s.core c).rowsBad ++ [r] := by
      rw [State.core_modCore_self]
    dsimp only
    rw [if_neg, hbad]
    · exact List.mem_append_right _ (List.mem_singleton_self r)
    · rw [Core.rowsOut, hbad, List.length_append, decide_eq_true_eq, List.length_singleton]
      omega

/-! ### The host's control of a frame (R350, R353) -/

section
variable {s : State} {f : Nat}

theorem frameTo_modFrame (s : State) (f : Nat) (g : Frame → Frame) : FrameTo s (s.modFrame f g) f (g (s.frame f)) :=
  ⟨State.frame_modFrame_self _ _ _, fun _ hg => State.frame_modFrame_other _ _ hg, rfl⟩

theorem onBar_up {o : Out} (h : s.power.up = true) : s.onBar o = o := if_pos h

theorem exec_framectlPin (hup : s.power.up = true) (hf : f < 2097152) :
    exec (.framectlPin f) s = .next (s.modFrame f fun x => { x with pinned := true }) :=
  (onBar_up hup).trans (congrArg Host.Outcome.next (if_pos hf))

theorem exec_framectlUnpin (hup : s.power.up = true) (hf : f < 2097152) :
    exec (.framectlUnpin f) s = .next (s.modFrame f fun x => { x with pinned := false }) :=
  (onBar_up hup).trans (congrArg Host.Outcome.next (if_pos hf))

theorem exec_vlheadWrite {d : Nat} {v : W64} (hup : s.power.up = true) (hd : d < 4) :
    exec (.vlheadWrite d v) s = .next (s.setReg (0x9030 + 32 * d) (v &&& 0xFFFFFFFF)).pump :=
  (onBar_up hup).trans (congrArg Host.Outcome.next (if_neg (Nat.not_le.2 hd)))

theorem vl_head_setReg (s : State) (d : Nat) (v : W64) : (s.setReg (0x9030 + 32 * d) (v &&& 0xFFFFFFFF)).vl d 2 = v.toNat % 2 ^ 32 := by
  have hoff : 0x9020 + 32 * d + 8 * 2 = 0x9030 + 32 * d := by omega
  rw [State.vl, hoff, State.reg_setReg_self, BitVec.toNat_and]
  exact Nat.and_two_pow_sub_one_eq_mod _ 32

/-! The reclaim that the host asks for (R329, R351) -/

/-- The frame is to be reclaimed with no new span. -/
def asked (s : State) (f : Nat) : State := s.modFrame f fun x => { x with stage := 4 }

theorem frame_asked : (asked s f).frame f = { s.frame f with stage := 4 } := State.frame_modFrame_self _ _ _

theorem frameHold_asked : (asked s f).frameHold f = s.frameHold f := by
  unfold State.frameHold
  rw [frame_asked]
  rfl

theorem frameTo_asked (s : State) (f : Nat) : FrameTo s (asked s f) f { s.frame f with stage := 4 } := frameTo_modFrame ..

section
variable (hup : s.power.up = true) (hf : f < 2097152) (hst : (s.frame f).fstate = 1) (hnew : (s.frame f).newspan = 0)
  (hp : (s.frame f).pinned = false) (he : (s.frame f).error = false)
include hup hf hst hnew hp he

theorem exec_framectlReclaimNow : exec (.framectlReclaimNow f) s = .next ((asked s f).reclaimBegin f) := by
  refine (onBar_up hup).trans (congrArg Host.Outcome.next (if_pos ?_))
  have hf : f < frameCount := hf
  simp [hf, hst, hnew, hp, he]

omit hup hf hnew in
theorem frameTo_reclaimBegin_asked : FrameTo s ((asked s f).reclaimBegin f) f (if s.frameHold f = true then { s.frame f with stage := 4 } else
    { s.frame f with fstate := 2, fgen := ((s.frame f).fgen + 1) % 65536, stage := 1 }) := by
  have hframe := frame_asked (s := s) (f := f)
  have hst' : ((asked s f).frame f).fstate = 1 := by rw [hframe]; exact hst
  have hstage : ((asked s f).frame f).newspan ≠ 0 ∨ ((asked s f).frame f).stage = 4 := .inr (by rw [hframe])
  have hp' : ((asked s f).frame f).pinned = false := by rw [hframe]; exact hp
  have he' : ((asked s f).frame f).error = false := by rw [hframe]; exact he
  cases hh : s.frameHold f
  · rw [reclaimBegin_starts hst' hstage hp' he' (frameHold_asked.trans hh), if_neg Bool.false_ne_true]
    refine ⟨?_, fun g hg => ?_, rfl⟩
    · rw [frame_reclaimStart, hframe]
    · exact (State.frame_modFrame_other _ _ hg).trans (State.frame_modFrame_other _ _ hg)
  · rw [reclaimBegin_held hst' hstage hp' he' (frameHold_asked.trans hh), if_pos rfl]
    exact frameTo_asked s f

end

/-! The discard of what was lost (R352) -/

/-- The lines of a frame's span that are marked lost. -/
def heldErrors (s : State) (f : Nat) : List Nat :=
  (s.lineErr.map (·.1)).filter fun l => 512 * (s.frame f).span ≤ l && l < 512 * (s.frame f).span + 512

/-- Each line of a list is held no longer, and lost no longer. -/
def unheld (s : State) (ls : List Nat) : State :=
  ls.foldl (fun (s : State) l =>
    let s := { s with
      lineErr := s.lineErr.write l false
      cores := s.cores.mapAll fun _ c => { c with l1 := c.l1.write l default } }
    s.modSline l fun y => { y with present := false, data := 0, dirty := false, owner := 0 }) s

/-- The frame takes the value that the backing memory has of each line of a list. -/
def refetched (s : State) (f : Nat) (ls : List Nat) : State :=
  ls.foldl (fun (s : State) l =>
    { s with cache := { s.cache with gddr := copyRange s.mem s.cache.gddr (128 * l) (65536 * f + 128 * l % 65536) 128 } }) s

/-- FRAMECTL.DISCARD (R352). -/
def frameDiscarded (s : State) (f : Nat) : State :=
  (refetched (unheld s (heldErrors s f)) f ((s.frame f).errs ++ heldErrors s f)).modFrame f fun x =>
    { x with errs := [], error := false, accessed := x.accessed || !(x.errs ++ heldErrors s f).isEmpty }

theorem exec_framectlDiscard (hup : s.power.up = true) (hst : (s.frame f).fstate ≠ 0) :
    exec (.framectlDiscard f) s = .next (frameDiscarded s f) :=
  (onBar_up hup).trans (if_neg hst)

theorem frame_unheld (s : State) (ls : List Nat) (g : Nat) : (unheld s ls).frame g = s.frame g := by
  refine foldl_keeps (fun u : State => u.frame g = s.frame g) _ (fun u k hu => ?_) ls rfl
  exact hu

theorem frame_refetched (s : State) (f : Nat) (ls : List Nat) (g : Nat) : (refetched s f ls).frame g = s.frame g := by
  refine foldl_keeps (fun u : State => u.frame g = s.frame g) _ (fun u k hu => ?_) ls rfl
  exact hu

theorem lineErr_refetched (s : State) (f : Nat) (ls : List Nat) : (refetched s f ls).lineErr = s.lineErr := by
  refine foldl_keeps (fun u : State => u.lineErr = s.lineErr) _ (fun u k hu => ?_) ls rfl
  exact hu

theorem lineErr_unheld {ls : List Nat} {l : Nat} (h : l ∈ ls ∨ s.lineErr.read l = false) : (unheld s ls).lineErr.read l = false := by
  induction ls generalizing s with
  | nil => exact h.resolve_left List.not_mem_nil
  | cons k ks ih =>
    refine ih (or_iff_not_imp_left.2 fun hks => ?_)
    by_cases hk : l = k
    · subst hk
      exact Tbl.read_write_self ..
    · exact (Tbl.read_write_other _ _ hk).trans (h.resolve_left fun hmem => (List.mem_cons.1 hmem).elim hk hks)

theorem frame_frameDiscarded (s : State) (f : Nat) : (frameDiscarded s f).frame f = { s.frame f with
    errs := [], error := false, accessed := (s.frame f).accessed || !((s.frame f).errs ++ heldErrors s f).isEmpty } := by
  rw [frameDiscarded, State.frame_modFrame_self, frame_refetched, frame_unheld]

theorem lineErr_frameDiscarded {l : Nat} (hl : 512 * (s.frame f).span ≤ l) (hl' : l < 512 * (s.frame f).span + 512) :
    (frameDiscarded s f).lineErr.read l = false := by
  refine (congrArg (Tbl.read · l) (lineErr_refetched ..)).trans (lineErr_unheld ?_)
  rw [or_iff_not_imp_left]
  exact fun hmem => Tbl.read_default fun hlisted => hmem (List.mem_filter.2 ⟨hlisted, by simp [hl, hl']⟩)

end

theorem frameControlEvents : FrameControlEvents := by
  intro s
  refine ⟨fun l hl => ?_, fun l hl => ?_, fun c w => ⟨_, rfl, ?_⟩, fun c e => ⟨_, rfl, ?_⟩, fun c r hr => ⟨_, rfl, ?_⟩,
    fun _ => ⟨rfl, rfl⟩, fun hup => ⟨fun f hf => ⟨⟨_, exec_framectlPin hup hf, frameTo_modFrame ..⟩,
      ⟨_, exec_framectlUnpin hup hf, frameTo_modFrame ..⟩, fun hst hnew hp he =>
        ⟨_, exec_framectlReclaimNow hup hf hst hnew hp he, frameTo_reclaimBegin_asked hst hp he⟩⟩,
      fun f hst => ⟨_, exec_framectlDiscard hup hst, ?_, fun herrs => ?_, fun _ => lineErr_frameDiscarded⟩,
      fun d v hd => ⟨_, exec_vlheadWrite hup hd, _, rfl, rfl, vl_head_setReg ..⟩⟩⟩
  · refine ⟨_, congrArg Host.Outcome.next (lineError_dirty hl), fun f hf => ?_, congrArg Host.Outcome.next (lineError_dirty hl), _, rfl,
      lineErr_lineLost, fun hh f hf => errs_lineLost hf hh⟩
    rw [frame_trigger, frame_frqRaise, error_lineLost hf]
  · exact ⟨congrArg Host.Outcome.next (lineError_clean hl), congrArg Host.Outcome.next (lineError_clean hl)⟩
  · change ((State.trigger _ 3).core c).scrErr.read _ = true
    rw [core_trigger, State.core_modCore_self]
    exact Tbl.read_write_self ..
  · change ((State.trigger _ 3).core c).accErr.read _ = true
    rw [core_trigger, State.core_modCore_self]
    exact Tbl.read_write_self ..
  · change r ∈ ((State.trigger _ 3).core c).rowsBad
    rw [core_trigger]
    exact mem_rowsBad_failRow hr
  · rw [frame_frameDiscarded]
  · rw [frame_frameDiscarded]
    cases herr : (s.frame f).errs with
    | nil => exact absurd herr herrs
    | cons x xs => simp

/-- Settles O44, by its three parts: the fills, the carousel with the reclaims, and errors with the control of frames. -/
theorem pageCacheEvents : Obligations.PageCacheEvents := ⟨fillEvents, pageEvents, frameControlEvents⟩

end Sys2Proof.Machine
end

section
/-!
PROOF. ACCALLOC (R207): a state in which no company waits for the banks that its own troupe requests.
-/
namespace Sys2Proof.Machine
open Sys2Proof Sys2Proof.Claims

/-- ACCALLOC of one bank, its result in Q(0). -/
def allocOne : Fields := { (default : Fields) with g := 7, x := 1 }

/-- At reset the troupe of slot 0 issues it on an idle core with 16 free banks. -/
theorem allocOne_idle : enabled State.reset allocOne = true ∧ allocOne.md.getLsbD 0 = false ∧
    (State.reset.core (here State.reset)).waiters = [] ∧
    State.reset.heldBanks (here State.reset) State.reset.curT.company + allocOne.x.toNat % 32 ≤ 16 ∧
    allocOne.x.toNat % 32 ≤ (State.reset.freeBanks (here State.reset)).length ∧ here State.reset = (ourCo State.reset).core := by
  decide +kernel

/-- Its company is not resident, so it is no waiter whose request is decided: no result is written. -/
theorem allocOne_undecided : (match exec (.accalloc allocOne) State.reset with
    | .next t => t.curT.rq 0
    | _ => true) = false := by
  decide +kernel

/-- Refutes O24: the clause on a request that is granted does not suppose that the company is resident. A company that is not has left the
list of waiters (R207), its request stays undecided, and Q(D) does not become 1. -/
theorem not_accumulatorBanks : ¬ Obligations.AccumulatorBanks := by
  rintro ⟨-, halloc, -⟩
  obtain ⟨hen, hown, hidle, hheld, hfree, hcore⟩ := allocOne_idle
  obtain ⟨-, hissue⟩ := halloc State.reset allocOne
  obtain ⟨-, hgrant⟩ := hissue hen hown hidle
  obtain ⟨t, ht, -, -, ⟨hq, -⟩, -⟩ := hgrant hheld hfree hcore
  have hundecided := allocOne_undecided
  rw [ht] at hundecided
  have hset : t.curT.rq 0 = true := hq 0
  exact Bool.false_ne_true (hundecided.symm.trans hset)

end Sys2Proof.Machine
end

section
/-!
PROOF. Matrix words at issue (R203, R205, R211 to R216): the queues that a command enters, and the checks that it passes or meets.
-/
namespace Sys2Proof

theorem mem_insertBy {α : Type} (key : α → Nat) (x y : α) (l : List α) : y ∈ insertBy key x l ↔ y = x ∨ y ∈ l := by
  induction l with
  | nil => exact List.mem_cons
  | cons z zs ih =>
    rw [insertBy]
    split
    · exact List.mem_cons
    · rw [List.mem_cons, ih, List.mem_cons, or_left_comm]

theorem length_insertBy {α : Type} (key : α → Nat) (x : α) (l : List α) : (insertBy key x l).length = l.length + 1 := by
  induction l with
  | nil => rfl
  | cons z zs ih =>
    rw [insertBy]
    split
    · rfl
    · exact congrArg (· + 1) ih

end Sys2Proof

namespace Sys2Proof.Machine
open Sys2Proof Sys2Proof.Claims

/-! ### Changes of cores that hold their lines -/

/-- Nothing but cores differs, and of them not the L1. -/
structure CoreChange (s t : State) : Prop where
  rest : ∃ m, t = { s with cores := m }
  l1 : ∀ c, (t.core c).l1 = (s.core c).l1

theorem CoreChange.refl (s : State) : CoreChange s s := ⟨⟨_, rfl⟩, fun _ => rfl⟩

theorem CoreChange.trans {s t u : State} (h : CoreChange s t) (h' : CoreChange t u) : CoreChange s u := by
  obtain ⟨m, hm⟩ := h.rest
  obtain ⟨m', hm'⟩ := h'.rest
  exact ⟨⟨m', by rw [hm', hm]⟩, fun c => (h'.l1 c).trans (h.l1 c)⟩

theorem CoreChange.sameBytes {s t : State} (h : CoreChange s t) : SameBytes s t := by
  have hl1 := h.l1
  obtain ⟨m, rfl⟩ := h.rest
  have hstore : SameStore s { s with cores := m } :=
    ⟨fun _ => ⟨rfl, rfl, rfl, rfl⟩, rfl, rfl, rfl, fun _ => ⟨rfl, rfl, rfl⟩, fun c l => by rw [hl1]; exact ⟨rfl, rfl⟩⟩
  exact hstore.byteAt

theorem coreChange_modCore (s : State) (c : Nat) {g : Core → Core} (h : ∀ x, (g x).l1 = x.l1) : CoreChange s (s.modCore c g) := by
  refine ⟨⟨_, rfl⟩, fun d => ?_⟩
  rw [State.core_modCore]
  split
  · next hd => rw [h, hd]
  · rfl

/-! ### Entry into the queues (R201, R203, R205) -/

/-- The command of the word being issued, as it enters. -/
structure IsCmd (s : State) (i : Instr) (uni : List W64) (x : MxCmd) : Prop where
  ins : x.ins = i
  uni : x.uni = uni
  t : x.t = s.cur.t
  seq : x.seq = s.cur.seq.toNat
  pc : x.pc = s.cur.pc
  company : x.company = s.curT.company
  row : x.row = 0

theorem isCmd_mxCmd (s : State) (i : Instr) (m : Mask) (uni : List W64) : IsCmd s i uni (s.mxCmd i m uni) :=
  ⟨rfl, rfl, rfl, rfl, rfl, rfl, rfl⟩

theorem coreChange_mxPut (s : State) (c : Nat) (x : MxCmd) : CoreChange s (s.mxPut c x) := coreChange_modCore s c fun _ => rfl

theorem queue_mxPut (s : State) (c d : Nat) (x : MxCmd) : ((s.mxPut c x).core d).queue =
    if d = c then insertBy (fun z => z.entered) x (s.core c).queue else (s.core d).queue := by
  rw [State.mxPut, State.core_modCore, apply_ite fun y : Core => y.queue]

/-- A queue into which the command of the word has been inserted has been joined by it. -/
theorem hasJoined_of_insert {s t : State} {i : Instr} {uni : List W64} {c : Nat} {x : MxCmd} (hx : IsCmd s i uni x)
    (h : (t.core c).queue = insertBy (fun z => z.entered) x (s.core c).queue) : HasJoined s t i uni c x.shadow := by
  rw [HasJoined, h]
  exact ⟨length_insertBy .., fun y hy => (mem_insertBy ..).2 (.inr hy), x, (mem_insertBy ..).2 (.inl rfl), hx.ins, hx.uni, hx.t, hx.seq,
    hx.pc, hx.company, hx.row, rfl⟩

/-- The queues that a command enters, with the place that it keeps: its own core's, the follower's. -/
def entries (c : Nat) (own fol shadow : Bool) : List (Nat × Bool) :=
  (if own then [(c, false)] else []) ++ if fol then [(c + 1, shadow)] else []

section
variable {s u : State} {i : Instr} {uni : List W64} {x : MxCmd}

theorem coreChange_mxEnter (u : State) (x : MxCmd) (own fol shadow : Bool) : CoreChange u (u.mxEnter x own fol shadow) := by
  cases own <;> cases fol
  · exact .refl u
  · exact coreChange_mxPut ..
  · exact coreChange_mxPut ..
  · exact (coreChange_mxPut ..).trans (coreChange_mxPut ..)

/-- Queues of other cores are left alone. -/
theorem queue_mxEnter_other {own fol shadow : Bool} {c : Nat} (h : c ∉ (entries (coreOf x.t) own fol shadow).map (·.1)) :
    ((u.mxEnter x own fol shadow).core c).queue = (u.core c).queue := by
  cases own <;> cases fol <;> simp only [entries, if_true, if_false, Bool.false_eq_true, List.map_cons, List.map_nil,
    List.nil_append, List.append_nil, List.cons_append, List.mem_cons, List.not_mem_nil, or_false, not_or] at h
  · rfl
  · exact (queue_mxPut ..).trans (if_neg h)
  · exact (queue_mxPut ..).trans (if_neg h)
  · obtain ⟨hown, hfol⟩ := h
    exact (queue_mxPut ..).trans ((if_neg hfol).trans ((queue_mxPut ..).trans (if_neg hown)))

/-- Its own core's queue receives the command. -/
theorem queue_mxEnter_own (fol shadow : Bool) : ((u.mxEnter x true fol shadow).core (coreOf x.t)).queue =
    insertBy (fun z => z.entered) x (u.core (coreOf x.t)).queue := by
  have hput : ((u.mxPut (coreOf x.t) x).core (coreOf x.t)).queue = insertBy (fun z => z.entered) x (u.core (coreOf x.t)).queue :=
    (queue_mxPut ..).trans (if_pos rfl)
  cases fol
  · exact hput
  · exact (queue_mxPut ..).trans ((if_neg (Nat.succ_ne_self _).symm).trans hput)

/-- The follower's receives it three cycles later. -/
theorem queue_mxEnter_follower (own shadow : Bool) : ((u.mxEnter x own true shadow).core (coreOf x.t + 1)).queue =
    insertBy (fun z => z.entered) { x with entered := x.entered + 3, shadow := shadow } (u.core (coreOf x.t + 1)).queue := by
  cases own
  · exact (queue_mxPut ..).trans (if_pos rfl)
  · refine (queue_mxPut ..).trans ((if_pos rfl).trans ?_)
    exact congrArg _ ((queue_mxPut ..).trans (if_neg (Nat.succ_ne_self _)))

theorem hasJoined_mxEnter (hq : ∀ c, (u.core c).queue = (s.core c).queue) (hx : IsCmd s i uni x) (hs : x.shadow = false)
    {own fol shadow : Bool} : ∀ y ∈ entries (here s) own fol shadow, HasJoined s (u.mxEnter x own fol shadow) i uni y.1 y.2 := by
  have hcore : coreOf x.t = here s := by rw [hx.t]; rfl
  intro y hy
  rcases List.mem_append.1 hy with hy | hy
  · cases own
    · cases hy
    · obtain rfl := List.mem_singleton.1 hy
      rw [← hcore, ← hs]
      exact hasJoined_of_insert hx (by rw [queue_mxEnter_own, hq])
  · cases fol
    · cases hy
    · obtain rfl := List.mem_singleton.1 hy
      rw [← hcore]
      exact hasJoined_of_insert (x := { x with entered := x.entered + 3, shadow := shadow })
        ⟨hx.ins, hx.uni, hx.t, hx.seq, hx.pc, hx.company, hx.row⟩ (by rw [queue_mxEnter_follower, hq])

/-- A command that has entered its queues has been issued (R186, R203). -/
theorem commanded_mxIssue (hu : CoreChange s u) (hq : ∀ c, (u.core c).queue = (s.core c).queue) (hx : IsCmd s i uni x)
    (hs : x.shadow = false) (own fol shadow : Bool) :
    Commanded s (u.mxIssue x own fol shadow) i uni (entries (here s) own fol shadow) := by
  have hcore : coreOf x.t = here s := by rw [hx.t]; rfl
  have hchange := hu.trans (coreChange_mxEnter u x own fol shadow)
  have hbytes : SameBytes s (u.mxIssue x own fol shadow) := fun pa => (sameBytes_retire _ _ pa).trans (hchange.sameBytes pa)
  obtain ⟨m, hm⟩ := hchange.rest
  have hissue : u.mxIssue x own fol shadow = ({ s with cores := m } : State).retire (countUp 1) := by rw [← hm]; rfl
  have hself : (u.mxIssue x own fol shadow).curT = countUp 1 (s.curT.advance s.cur.run s.cur.pc) := by
    rw [hissue]; exact State.curT_retire ..
  refine ⟨fun j hj => ?_, hbytes, ranOn_of_pt ?_, fun k => ?_, ?_, fun c hc => ?_, hasJoined_mxEnter hq hx hs⟩
  · rw [hissue]; exact State.tr_retire_other _ _ hj
  · rw [hself]; rfl
  · rw [hself]; exact read_write_succ _ 1 k
  · rw [hself]; rfl
  · exact (queue_mxEnter_other (by rwa [hcore])).trans (hq c)

end

/-! ### Checks (R197, R202, R206, R211) -/

/-- The word takes cause 0x0A with a detail of the engine; nothing has changed but the part's free choices. -/
def TrapsAt (s : State) (o : Out) : Prop :=
  ∃ (d : Nat) (v : W64) (s' : State), o = .next (s'.trapWord 0x0A d v) ∧ s' = { s with free := s'.free } ∧
    d ∈ [1, 2, 0x10, 0x11, 0x12, 0x13, 0x15]

theorem trapsAt_word {s : State} {d : Nat} {v : W64} (hd : d ∈ [1, 2, 0x10, 0x11, 0x12, 0x13, 0x15]) :
    TrapsAt s (.next (s.trapWord 0x0A d v)) := ⟨d, v, s, rfl, rfl, hd⟩

theorem trapsAt_open {s : State} {d : Nat} (hd : d ∈ [1, 2, 0x10, 0x11, 0x12, 0x13, 0x15]) : TrapsAt s (.next (s.trapOpen 0x0A d)) := by
  obtain ⟨v, s', heq, hs'⟩ := trapOpen_drawn s d
  exact ⟨d, v, s', congrArg _ heq, hs', hd⟩

/-- An outcome that is `accepted` where the checks hold, and a trap where one fails. -/
structure Checked (s : State) (checks : Prop) (o accepted : Out) : Prop where
  passes : checks → o = accepted
  fails : ¬ checks → TrapsAt s o

section
variable {s : State} {P Q : Prop} {o trap accepted : Out}

theorem Checked.done : Checked s True accepted accepted := ⟨fun _ => rfl, fun h => absurd trivial h⟩

theorem Checked.congr (h : Checked s P o accepted) (hpq : P ↔ Q) : Checked s Q o accepted :=
  ⟨fun hq => h.passes (hpq.2 hq), fun hq => h.fails fun hp => hq (hpq.1 hp)⟩

/-- One more check before the others. -/
theorem Checked.check {bad : Bool} (hbad : bad = true ↔ ¬ Q) (htrap : TrapsAt s trap) (h : Checked s P o accepted) :
    Checked s (Q ∧ P) (if bad then trap else o) accepted := by
  by_cases hq : Q
  · rw [if_neg fun hb => hbad.1 hb hq]
    exact h.congr (by rw [and_iff_right hq])
  · rw [if_pos (hbad.2 hq)]
    exact ⟨fun hqp => absurd hqp.1 hq, fun _ => htrap⟩

end

section
variable {s : State}

theorem holds_iff {c : Nat} : s.holds s.curT.company c = true ↔ holdsArray s c := beq_iff_eq

theorem mxHolds_iff {both : Bool} : s.mxHolds both = true ↔ holdsFor s both := by
  cases both
  · exact holds_iff
  · simp only [State.mxHolds, if_true, Bool.and_eq_true, holds_iff, beq_iff_eq, holdsFor, fromLeader, and_assoc]
    rfl

theorem rowBad_iff {v : W64} : rowBad v = true ↔ ¬ v.toNat < 2048 := by
  rw [rowBad, bne_iff_ne, ne_eq, Nat.div_eq_zero_iff_lt (by decide)]

theorem classesMeet_iff {k : Nat} {ds : Bool} : s.classesMeet (here s) k ds = true ↔
    tileClass s (here s) = streamClass s (here s) k ∧ (ds = true → tileClass s (here s + 1) = streamClass s (here s) k) := by
  simp only [State.classesMeet, Bool.and_eq_true, Bool.or_eq_true, beq_iff_eq, Bool.not_eq_true', tileClass, streamClass]
  cases ds <;> simp

theorem banksOf_eq (s : State) (c : Nat) : s.banksOf s.curT.company c = coBanks s c := rfl

theorem productBanks_iff {row n : Nat} {ds : Bool} : row + n ≤ 128 * s.productBanks (here s) ds ↔
    row + n ≤ 128 * (coBanks s (here s)).length ∧ (ds = true → row + n ≤ 128 * (coBanks s (here s + 1)).length) := by
  simp only [State.productBanks, banksOf_eq]
  cases ds
  · simp
  · simp only [if_true, forall_const]
    omega

/-- The check of a row range that the company must hold. -/
theorem Checked.rows {P Q : Prop} {row n banks : Nat} {accepted o : Out} (hq : row + n ≤ 128 * banks ↔ Q) (h : Checked s P o accepted) :
    Checked s (Q ∧ P) (match rowMiss row n banks with
      | some r => .next (s.trapWord 0x0A 0x12 (BitVec.ofNat 64 r))
      | none => o) accepted := by
  unfold rowMiss
  split
  · next r hr =>
    split at hr
    · cases hr
    · next hmiss => exact ⟨fun hqp => absurd (hq.2 hqp.1) hmiss, fun _ => trapsAt_word (by decide)⟩
  · next hr =>
    split at hr
    · next hrow => exact h.congr (by rw [and_iff_right (hq.1 hrow)])
    · cases hr

/-- A scratchpad address is aligned where its register is. -/
theorem toNat_tsAddr_mod (b : Bool) (a : W64) {n : Nat} (hn : n ∣ 2 ^ 32) : (tsAddr b a).toNat % n = a.toNat % n := by
  cases b
  · rfl
  · simp only [tsAddr, if_true, BitVec.toNat_setWidth]
    rw [Nat.mod_mod_of_dvd _ (hn.trans (by decide)), Nat.mod_mod_of_dvd _ hn]

end

/-! ### The words by their checks (R212 to R216) -/

section
variable {s : State} {f : Fields} {i : Instr} {P Q : Prop} {retired o accepted : Out}

theorem Checked.enabled (he : s.curT.enabled f.g = true) (hexec : exec i s = if (!s.curT.enabled f.g) = true then retired else o)
    (h : Checked s P o accepted) (hpq : P ↔ Q) : Checked s Q (exec i s) accepted := by
  rw [hexec, if_neg (not_enabled he)]
  exact h.congr hpq

end

section
variable {s : State} {f : Fields} (he : s.curT.enabled f.g = true)

theorem not_eq_true_iff {b : Bool} {P : Prop} (h : b = true ↔ P) : (!b) = true ↔ ¬ P := by
  rw [Bool.not_eq_true', ← Bool.not_eq_true, h]

theorem leaderBad_iff {pair : Bool} : (pair && (!s.curCo.paired || coreOf s.cur.t != s.curCo.core)) = true ↔
    ¬ (pair = true → fromLeader s) := by
  have hlead : fromLeader s ↔ s.curCo.paired = true ∧ coreOf s.cur.t = s.curCo.core := Iff.rfl
  rw [hlead]
  cases pair <;> simp [imp_iff_not_or]

theorem holdsBad_iff {pair : Bool} : (!s.holds s.curT.company (here s) || (pair && !s.holds s.curT.company (here s + 1))) = true ↔
    ¬ (holdsArray s (here s) ∧ (pair = true → holdsArray s (here s + 1))) := by
  rw [← holds_iff, ← holds_iff]
  cases pair <;> simp [imp_iff_not_or]

theorem mulBad_iff (k : Nat) (ds widens : Bool) : (!s.classesMeet (here s) k ds ||
    (widens && matrixClass ((s.core (here s)).array.issued k).fmt != some 0 && matrixClass ((s.core (here s)).array.issued k).fmt != some 1)) =
      true ↔ ¬ ((tileClass s (here s) = streamClass s (here s) k ∧ (ds = true → tileClass s (here s + 1) = streamClass s (here s) k)) ∧
        (widens = true → streamClass s (here s) k = some 0 ∨ streamClass s (here s) k = some 1)) := by
  rw [← classesMeet_iff, streamClass]
  cases widens <;> simp [imp_iff_not_or]

theorem chnBad_iff (k : Nat) (ds : Bool) : (!s.classesMeet (here s) k ds || decide (2 ≤ ((s.core (here s)).array.issued k).scf)) = true ↔
    ¬ ((tileClass s (here s) = streamClass s (here s) k ∧ (ds = true → tileClass s (here s + 1) = streamClass s (here s) k)) ∧
      ((s.core (here s)).array.issued k).scf < 2) := by
  rw [← classesMeet_iff, Bool.or_eq_true, decide_eq_true_eq, Bool.not_eq_true', not_and_or, Bool.not_eq_true, not_lt]

theorem addressBad_iff {b : Bool} {a : W64} {n : Nat} (hn : n ∣ 2 ^ 32) : ((tsAddr b a).toNat % n != 0) = true ↔ ¬ a.toNat % n = 0 := by
  rw [toNat_tsAddr_mod b a hn, bne_iff_ne]

/-- An operand that a word does not have needs no check. -/
theorem noOperand_iff : false = true ↔ ¬ True := by decide

/-- The stream of an MXFMT at issue (R213). -/
def fmtIssued (s : State) (f : Fields) : MxStream :=
  { fmt := f.mdn % 32, bc := bitsOf f.xn 4 2, scf := bitsOf f.xn 6 5, rm := bitsOf f.xn 10 8,
    ts := if bitOf f.xn 7 then (s.curT.rs64 f.a.toNat).toNat % 65536 else 0x3F80 }

/-- The words that follow an MXFMT see its stream (R211, R213). -/
def fmtLatched (s : State) (f : Fields) : State :=
  s.modCore (here s + if f.md.getLsbD 5 then 1 else 0) fun x =>
    { x with array := { x.array with nextStreams := x.array.nextStreams.set (f.xn % 4) (fmtIssued s f) } }
/-- Those that follow an MXLW see its tile (R211, R214). -/
def lwLatched (s : State) (f : Fields) : State :=
  s.modCore (here s + if f.md.getLsbD 5 then 1 else 0) fun x =>
    { x with array := { x.array with nextTile := lwTile f (s.curT.rs64 f.b.toNat) } }

include he

theorem checked_mxrel : Checked s (matrixOk (.mxrel f) s) (exec (.mxrel f) s)
    (.next (s.mxIssue (s.mxCmd (.mxrel f) s.cur.run []) true (f.md.getLsbD 0) false)) := by
  refine .enabled he rfl (.check leaderBad_iff (trapsAt_open (by decide)) (.check holdsBad_iff (trapsAt_open (by decide)) .done)) ?_
  rw [matrixOk, holdsFor, ← bitOf_mdn]
  cases bitOf f.mdn 0 <;> simp

theorem checked_mxfmt : Checked s (matrixOk (.mxfmt f) s) (exec (.mxfmt f) s) (.next ((fmtLatched s f).mxIssue
    ((fmtLatched s f).mxCmd (.mxfmt f) s.cur.run [s.curT.rs64 f.a.toNat]) (!f.md.getLsbD 5) (f.md.getLsbD 5) false)) :=
  .enabled he rfl (.check (not_eq_true_iff mxHolds_iff) (trapsAt_open (by decide)) .done) (iff_of_eq (and_true _))

theorem checked_mxlw : Checked s (matrixOk (.mxlw f) s) (exec (.mxlw f) s) (.next ((lwLatched s f).mxIssue
    ((lwLatched s f).mxCmd (.mxlw f) s.cur.run [s.curT.rs64 f.a.toNat, s.curT.rs64 f.b.toNat]) (!f.md.getLsbD 5) (f.md.getLsbD 5) false)) :=
  .enabled he rfl (.check (not_eq_true_iff mxHolds_iff) (trapsAt_open (by decide)) .done) (iff_of_eq (and_true _))

theorem checked_mxmul : Checked s (matrixOk (.mxmul f) s) (exec (.mxmul f) s) (.next (s.mxIssue (s.mxCmd (.mxmul f) s.cur.run
    [s.curT.rs64 f.a.toNat, s.curT.rs64 (f.a.toNat + 1), s.curT.rs64 (f.a.toNat + 2), s.curT.rs64 f.b.toNat, s.curT.rs64 f.e.toNat])
    true (f.md.getLsbD 1) true)) := by
  refine .enabled he rfl (.check rowBad_iff (trapsAt_word (by decide)) (.check (not_eq_true_iff mxHolds_iff) (trapsAt_open (by decide))
    (.check (mulBad_iff ..) (trapsAt_open (by decide)) (.rows productBanks_iff .done)))) ?_
  rw [matrixOk, rowsHeld]
  tauto

theorem checked_mxchn : Checked s (matrixOk (.mxchn f) s) (exec (.mxchn f) s) (.next (s.mxIssue (s.mxCmd (.mxchn f) s.cur.run
    [s.curT.rs64 f.a.toNat, s.curT.rs64 f.e.toNat]) true (f.md.getLsbD 1) true)) := by
  refine .enabled he rfl (.check rowBad_iff (trapsAt_word (by decide)) (.check rowBad_iff (trapsAt_word (by decide))
    (.check (not_eq_true_iff mxHolds_iff) (trapsAt_open (by decide)) (.check (chnBad_iff ..) (trapsAt_open (by decide))
      (.rows productBanks_iff (.check (not_eq_true_iff Iff.rfl) (trapsAt_open (by decide)) .done)))))) ?_
  rw [matrixOk, rowsHeld]
  tauto

theorem checked_accz : Checked s (matrixOk (.accz f) s) (exec (.accz f) s)
    (.next (s.mxIssue (s.mxCmd (.accz f) s.cur.run [s.curT.rs64 f.a.toNat]) true false false)) := by
  refine .enabled he rfl (.check rowBad_iff (trapsAt_word (by decide)) (.check noOperand_iff (trapsAt_word (by decide))
    (.check noOperand_iff (trapsAt_word (by decide)) (.rows Iff.rfl .done)))) ?_
  simp only [matrixOk, rowsHeld, banksOf_eq, Bool.false_eq_true, false_implies, true_and, and_true]
  exact Iff.rfl

theorem checked_accld : Checked s (matrixOk (.accld f) s) (exec (.accld f) s)
    (.next (s.mxIssue (s.mxCmd (.accld f) s.cur.run [s.curT.rs64 f.a.toNat, s.curT.rs64 f.b.toNat]) true false false)) := by
  refine .enabled he rfl (.check rowBad_iff (trapsAt_word (by decide)) (.check (addressBad_iff (by decide)) (trapsAt_word (by decide))
    (.check noOperand_iff (trapsAt_word (by decide)) (.rows Iff.rfl .done)))) ?_
  simp only [matrixOk, rowsHeld, banksOf_eq, Bool.false_eq_true, false_implies, true_and, and_true]
  tauto

theorem checked_accst : Checked s (matrixOk (.accst f) s) (exec (.accst f) s)
    (.next (s.mxIssue (s.mxCmd (.accst f) s.cur.run [s.curT.rs64 f.a.toNat, s.curT.rs64 f.b.toNat, s.curT.rs64 f.e.toNat])
      true false false)) := by
  refine .enabled he rfl (.check rowBad_iff (trapsAt_word (by decide)) (.check (addressBad_iff (by decide)) (trapsAt_word (by decide))
    (.check (addressBad_iff (by decide)) (trapsAt_word (by decide)) (.rows Iff.rfl .done)))) ?_
  simp only [matrixOk, rowsHeld, banksOf_eq, Bool.false_eq_true, false_implies, and_true]
  tauto

end

/-! ### Both outcomes (O25, O26) -/

section
variable {s : State} {i : Instr} {f : Fields} {uni : List W64} {cs : List (Nat × Bool)}

/-- A matrix word that is not enabled retires. -/
theorem exec_matrixWord_disabled (h : matrixWord i s = some (f, uni, cs)) (he : s.curT.enabled f.g = false) :
    exec i s = .next (s.retire id) := by
  unfold matrixWord at h
  split at h <;> cases h <;> exact if_pos (by rw [he]; rfl)

/-- The command of a word of its own core, and of the follower's where a bit says so. -/
theorem commanded_here (m : Mask) (fol shadow : Bool) : Commanded s (s.mxIssue (s.mxCmd i m uni) true fol shadow) i uni
    (if fol then [(here s, false), (here s + 1, shadow)] else [(here s, false)]) := by
  have h := commanded_mxIssue (.refl s) (fun _ => rfl) (isCmd_mxCmd s i m uni) rfl true fol shadow
  cases fol <;> exact h

/-- The command of a word of one core of the two, once its tile or stream has been latched. -/
theorem commanded_latched (c : Nat) {g : Core → Core} (hl1 : ∀ x, (g x).l1 = x.l1) (hq : ∀ x, (g x).queue = x.queue) (m : Mask)
    (fol : Bool) :
    Commanded s ((s.modCore c g).mxIssue ((s.modCore c g).mxCmd i m uni) (!fol) fol false) i uni
      (if fol then [(here s + 1, false)] else [(here s, false)]) := by
  have h := commanded_mxIssue (coreChange_modCore s c hl1) (sameCacheQueues_modCore s c hq).queue
    (isCmd_mxCmd s i m uni) rfl (!fol) fol false
  cases fol <;> exact h

theorem commanded_fmtLatched (m : Mask) (fol : Bool) : Commanded s ((fmtLatched s f).mxIssue ((fmtLatched s f).mxCmd i m uni)
    (!fol) fol false) i uni (if fol then [(here s + 1, false)] else [(here s, false)]) := by
  unfold fmtLatched
  refine commanded_latched _ ?_ ?_ m fol
  · exact fun _ => rfl
  · exact fun _ => rfl

theorem commanded_lwLatched (m : Mask) (fol : Bool) : Commanded s ((lwLatched s f).mxIssue ((lwLatched s f).mxCmd i m uni)
    (!fol) fol false) i uni (if fol then [(here s + 1, false)] else [(here s, false)]) := by
  unfold lwLatched
  refine commanded_latched _ ?_ ?_ m fol
  · exact fun _ => rfl
  · exact fun _ => rfl

/-- A matrix word that is enabled is a command where its checks hold, and a trap where one fails. -/
theorem matrixWord_checked (h : matrixWord i s = some (f, uni, cs)) (he : s.curT.enabled f.g = true) :
    ∃ t, Checked s (matrixOk i s) (exec i s) (.next t) ∧ Commanded s t i uni cs := by
  unfold matrixWord at h
  split at h <;> cases h
  · exact ⟨_, checked_mxrel he, commanded_here ..⟩
  · exact ⟨_, checked_mxfmt he, commanded_fmtLatched ..⟩
  · exact ⟨_, checked_mxlw he, commanded_lwLatched ..⟩
  · exact ⟨_, checked_mxmul he, commanded_here ..⟩
  · exact ⟨_, checked_mxchn he, commanded_here ..⟩
  · exact ⟨_, checked_accz he, commanded_here _ false false⟩
  · exact ⟨_, checked_accld he, commanded_here _ false false⟩
  · exact ⟨_, checked_accst he, commanded_here _ false false⟩

end

/-- Settles O25: a word whose checks hold is a command of the queues that it names. -/
theorem matrixWords : Obligations.MatrixWords := by
  intro i s f uni cs hi
  rw [enabled_eq]
  refine ⟨fun he => noEffect_of_retire (exec_matrixWord_disabled hi he), fun he hok => ?_⟩
  obtain ⟨t, hchecked, hcommanded⟩ := matrixWord_checked hi he
  exact ⟨t, hchecked.passes hok, hcommanded⟩

/-- Settles O26: a word of which a check fails is a trap. -/
theorem matrixTraps : Obligations.MatrixTraps := by
  intro i s f uni cs hi he hok
  rw [enabled_eq] at he
  obtain ⟨t, hchecked, -⟩ := matrixWord_checked hi he
  exact hchecked.fails hok

end Sys2Proof.Machine
end

section
/-!
PROOF. ACCRD and ACCWR at issue (R217): an operation in flight whose command stands in the matrix queue.
-/
namespace Sys2Proof.Machine
open Sys2Proof Sys2Proof.Claims

/-- A word in flight is in flight after a change of cores. -/
theorem inFlight_coreChange {i : Instr} {f : Fields} {result waits : Bool} {c : Option Nat} {n : Nat} {s u t : State} {P : MemOp → Prop}
    (h : InFlight i f result waits c n s P u) (hu : CoreChange u t) : InFlight i f result waits c n s P t := by
  have hsame := hu.sameBytes
  obtain ⟨m, rfl⟩ := hu.rest
  obtain ⟨hother, hbytes, hrest⟩ := h
  exact ⟨hother, fun pa => (hsame pa).trans (hbytes pa), hrest⟩

section
variable {s : State} {i : Instr} {f : Fields} {write : Bool}

/-- The operation of ACCRD and ACCWR. -/
def elemOp (s : State) (i : Instr) (f : Fields) (write : Bool) : MemOp :=
  { s.newOp i (act s f) with
    size := 4, elems := f.mdn % 4 + 1, uni := [s.curT.rs64 f.a.toNat], blk1 := coBanks s (here s)
    addr := laneTable (act s f) (accIndex f s.curT)
    cmp := laneTable (act s f) fun l => (s.curT.rv f.b.toNat l).toNat
    dat := if write then elemTable (act s f) (f.mdn % 4 + 1) fun l j => (s.curT.rv (f.e.toNat + j) l).toNat else [] }

/-- Its operation is in flight, and counted. -/
def elemLaunched (s : State) (i : Instr) (f : Fields) (write : Bool) : State :=
  (s.launchWith s.curT.rs (elemOp s i f write) f (!write) i.layout.recs none).modTr s.cur.t (countUp 1)

/-- An element of the lane lies outside the banks held. -/
def elemMiss (s : State) (f : Fields) (l : Nat) : Bool :=
  4096 * (coBanks s (here s)).length ≤ (accIndex f s.curT l).toNat + (f.mdn % 4 + 1) - 1

theorem elemMiss_iff {l : Nat} : elemMiss s f l = true ↔
    4096 * (coBanks s (here s)).length < (s.curT.rs64 f.a.toNat + (s.curT.rv f.b.toNat l).setWidth 64).toNat + (f.md.toNat % 4 + 1) := by
  have hk : f.md.toNat % 4 = f.mdn % 4 := rfl
  rw [elemMiss, decide_eq_true_eq, hk, accIndex]
  omega

theorem accElemExec_acting (h : act s f ≠ 0) : accElemExec i f write s =
    match (lanes.filter (inMask (act s f))).find? (elemMiss s f) with
    | some l => .next (s.trapWord 0x0A 0x12 (accIndex f s.curT l))
    | none => .next ((elemLaunched s i f write).mxPut (here s) (s.mxCmd i (act s f) [s.curT.rs64 f.a.toNat])) := if_neg h

theorem inFlight_elemLaunched {P : MemOp → Prop} (hP : ∀ fl rc, P { elemOp s i f write with flags := fl, recs := rc }) :
    InFlight i f (!write) false (some 1) 0 s P (elemLaunched s i f write) := by
  refine inFlight_of_launch (o := elemOp s i f write) (nrecs := i.layout.recs) (rs := s.curT.rs)
    (oc := s.curT.oc.write 1 (s.curT.oc.read 1 + 1)) rfl (fun j hj => ?_) ?_ (ours_newOp s i _) hP (read_write_succ _ 1)
    fun l _ => act_steps_zero s f l
  · exact (State.tr_modTr_other _ _ hj).trans (s.tr_retire_other _ hj)
  · have hself : (elemLaunched s i f write).curT = countUp 1 (s.launchWith s.curT.rs (elemOp s i f write) f (!write) i.layout.recs none).curT :=
      State.tr_modTr_self ..
    rw [hself, State.launchWith, State.curT_retire, Troupe.launch_frame]
    rfl

/-- Its command enters the queue of its own core, and no other core changes. -/
theorem completes_accElem {t : State} (ht : t = (elemLaunched s i f write).mxPut (here s) (s.mxCmd i (act s f) [s.curT.rs64 f.a.toNat])) :
    InFlight i f (!write) false (some 1) 0 s (fun o => o.act = act s f ∧ o.elems = f.md.toNat % 4 + 1 ∧
      OnLanes s f o.addr (accIndex f s.curT) ∧ o.blk1 = coBanks s (here s) ∧ (write = true → ∀ l j, l < 64 → j < f.md.toNat % 4 + 1 →
        inMask (act s f) l → o.dat.read (l + 64 * j) = (s.curT.rv (f.e.toNat + j) l).toNat)) t ∧
      HasJoined s t i [s.curT.rs64 f.a.toNat] (here s) false ∧ ∀ c, c ≠ here s → t.core c = s.core c := by
  subst ht
  refine ⟨inFlight_coreChange (inFlight_elemLaunched fun fl rc => ⟨rfl, rfl, onLanes_laneTable fun _ _ _ => rfl, rfl,
    fun hw l j hl hj ha => ?_⟩) (coreChange_mxPut ..), ?_, fun c hc => State.core_modCore_other _ _ hc⟩
  · subst hw
    exact read_elemTable (fun l j => (s.curT.rv (f.e.toNat + j) l).toNat) hl ha hj
  · exact hasJoined_of_insert (isCmd_mxCmd s i _ _) ((queue_mxPut ..).trans (if_pos rfl))

end

/-- Settles O27: the search for a lane whose elements are not held. -/
theorem elementWords : Obligations.ElementWords := by
  intro i s f write hi k e n
  have hexec : exec i s = accElemExec i f write s := by
    rcases hi with ⟨rfl, rfl⟩ | ⟨rfl, rfl⟩ <;> rfl
  rw [hexec]
  refine ⟨fun h => noEffect_of_retire (hexec.trans (if_pos h)), fun hact hheld => ⟨_, ?_, completes_accElem rfl⟩, fun l hlow => ?_⟩
  · have hnone := find_acting_none (s := s) (f := f) (p := elemMiss s f) fun l hl ha => by
      rw [Bool.eq_false_iff, ne_eq, elemMiss_iff, not_lt]
      exact hheld l hl ha
    rw [hexec, accElemExec_acting hact, hnone]
  · have hact : act s f ≠ 0 := fun h => by
      obtain ⟨-, ha, -⟩ := hlow
      rw [h, inMask_zero] at ha
      cases ha
    rw [accElemExec_acting hact, find_acting_lowest (fun _ => elemMiss_iff) hlow]
    rfl

end Sys2Proof.Machine
end

section
/-!
PROOF. The rows and elements of the accumulators (R207, R216, R217).
-/
namespace Sys2Proof.Machine
open Sys2Proof Sys2Proof.Claims

/-! ### Writes of elements (R206, R209) -/

section
variable (s : State) (c : Nat) (banks : List Nat)

theorem core_accPut (es : List (Nat × W32)) : (s.accPut c banks es).core c = { s.core c with
    acc := es.foldl (fun (m : Tbl W32) e => m.write (accKey banks e.1) e.2) (s.core c).acc
    accErr := es.foldl (fun (m : Tbl Bool) e => m.write (accKey banks e.1) false) (s.core c).accErr } := by
  rw [State.accPut, State.core_modCore_self]
  generalize s.core c = y
  induction es generalizing y with
  | nil => rfl
  | cons e es ih => rw [List.foldl_cons, ih]; rfl

/-- The elements of a logical row stand at different keys. -/
theorem accKey_row_inj {r i j : Nat} (hi : i < 32) (hj : j < 32) (h : accKey banks (32 * r + i) = accKey banks (32 * r + j)) : i = j := by
  have hbank : (32 * r + i) / 4096 = (32 * r + j) / 4096 := by omega
  rw [accKey, accKey, hbank] at h
  omega

/-- A row that has been written whole holds what was written. -/
theorem rowHolds_accPut (r : Nat) (v : Nat → W32) :
    RowHolds (s.accPut c banks ((List.range 32).map fun i => (32 * r + i, v i))) c banks r v := by
  intro i hi
  have hmem : i ∈ List.range 32 := List.mem_range.2 hi
  have hlast : ∀ j ∈ List.range 32, i < j → accKey banks (32 * r + j) ≠ accKey banks (32 * r + i) := fun j hj hij h =>
    hij.ne' (accKey_row_inj banks (List.mem_range.1 hj) hi h)
  rw [core_accPut, List.foldl_map, List.foldl_map]
  dsimp only
  exact ⟨Tbl.read_foldl_write_last (key := fun i => accKey banks (32 * r + i)) (val := v) _ List.pairwise_lt_range hmem hlast,
    Tbl.read_foldl_write_last (key := fun i => accKey banks (32 * r + i)) (val := fun _ => false) _ List.pairwise_lt_range hmem hlast⟩

end

/-! ### ACCZ, ACCLD and ACCST at the head of their queue (R207, R216) -/

section
variable {s : State} {c : Nat} {x : MxCmd} {f : Fields} (hh : MxHas s c x)

/-- The scratchpad address of the next row of ACCLD and ACCST. -/
def rowAddr (x : MxCmd) (f : Fields) : Nat := (x.uni.getD 0 0).toNat + x.row * (f.x.toNat / 65536)

include hh

theorem exec_acczRow (hi : x.ins = .accz f) : exec (.acczRow c) s = .next ((s.accPut c x.banks
    ((List.range 32).map fun i => (32 * ((x.uni.getD 0 0).toNat + x.row) + i, (0 : W32)))).rowDone c x) := by
  rw [MxHas] at hh
  change execAcczRow c s = _
  simp only [execAcczRow, hh, hi, rowElems, List.map_map]
  rfl

theorem exec_accldRow (hi : x.ins = .accld f) : exec (.accldRow c) s = .next (match s.mxBytes x c (rowAddr x f) 128 with
    | .wait => s
    | .fault g => s.mxEnd c x g
    | .ok b => ((s.mxWatch x c false (rowAddr x f) 128).accPut c x.banks
        ((List.range 32).map fun i => (32 * ((x.uni.getD 1 0).toNat + x.row) + i, BitVec.ofNat 32 (fieldOf b (4 * i) 4)))).rowDone c x) := by
  have haddr : (x.uni.getD 0 0).toNat + x.row * (f.xn / 65536) = rowAddr x f := rfl
  rw [MxHas] at hh
  change execAccldRow c s = _
  simp only [execAccldRow, hh, hi, haddr]
  cases s.mxBytes x c (rowAddr x f) 128 <;> rfl

/-- The row of an ACCST is looked at for errors before the scratchpad is. -/
theorem exec_accstRow (hi : x.ins = .accst f) : exec (.accstRow c) s = .next (
    match s.accBad c x.banks (rowElems ((x.uni.getD 1 0).toNat + x.row)), s.scratchOk x.company c (rowAddr x f % 2 ^ 32) 128 with
    | some g, _ => s.mxEnd c x g
    | none, .fault g => s.mxEnd c x { g with write := true }
    | none, .wait => s
    | none, .ok _ => ((s.scratchPoke x.company c (rowAddr x f % 2 ^ 32) ((rowElems ((x.uni.getD 1 0).toNat + x.row)).flatMap fun e =>
        leBytes 4 (s.accGet c x.banks e).toNat)).mxWatch x c true (rowAddr x f % 2 ^ 32) 128).rowDone c x) := by
  have haddr : (x.uni.getD 0 0).toNat + x.row * (f.xn / 65536) = rowAddr x f := rfl
  rw [MxHas] at hh
  change execAccstRow c s = _
  simp only [execAccstRow, hh, hi, haddr]
  cases s.accBad c x.banks (rowElems ((x.uni.getD 1 0).toNat + x.row)) <;>
    cases s.scratchOk x.company c (rowAddr x f % 2 ^ 32) 128 <;> rfl

end

/-! ### The add of an ACCST that has left its queue (R216) -/

section
variable {s u : State} {c : Nat} {x : MxCmd}

/-- An add that waits for no service. -/
def addTurn (y : AccAdd) : Bool := match y.park with | none => true | some p => p.state != .pending

/-- The turnstile add of an ACCST. -/
def addMade (s : State) (c : Nat) (x : MxCmd) : Acc Nat × State :=
  let who : Accessor := {
    ctx := (s.co x.company).ctx, pc := x.pc, seq := x.seq
    troupe := if (s.tr x.t).resident && (s.tr x.t).company == x.company then some x.t else none, core := some c }
  if x.target.2 then s.tsAddScratch who 8 x.company c x.target.1.toNat (128 * x.rows) (whereOf x.t)
  else s.tsAddGlobal (.core c) who ⟨x.t, x.seq, 0⟩ 8 x.target.1 (128 * x.rows)

theorem exec_accstTurnstile {a : AccAdd} (h : (s.core c).adds.find? addTurn = some a) (hp : a.park = none) :
    exec (.accstTurnstile c) s = .next (match addMade s c a.cmd with
      | (.wait, u) => u.addSet c a.cmd none
      | (.fault g, u) => u.addFault c a.cmd g
      | (.ok _, u) => u.addDone c a.cmd) := by
  have hexec : exec (.accstTurnstile c) s = match (s.core c).adds.find? addTurn with
      | none => .next s
      | some a => match a.park with
        | some p => if p.state = .fatal then .next ((s.mxReport a.cmd p.info).addDone c a.cmd)
          else .next ((if p.cls = 3 then s.dropFor (.core c) (s.co a.cmd.company).ctx (p.addr.toNat % 2 ^ 57) else s).addMake c a.cmd)
        | none => .next (s.addMake c a.cmd) := rfl
  rw [hexec, h]
  dsimp only
  rw [hp]
  rfl

theorem adds_addDone {z : AccAdd} (hz : z ∈ ((s.addDone c x).core c).adds) : ¬ (z.cmd.t = x.t ∧ z.cmd.seq = x.seq) := by
  rw [State.addDone, core_mxLower, State.core_modCore_self] at hz
  have hkept := (List.mem_filter.1 hz).2
  rwa [Bool.not_eq_true', ← Bool.not_eq_true, MxCmd.is_iff] at hkept

end

/-! ### ACCRD (R217) -/

/-- The elements of a lane have been read. -/
def laneRead (s : State) (c : Nat) (o : MemOp) (l : Nat) : MemOp :=
  (List.range o.elems).foldl (fun (o : MemOp) j =>
    { o with got := o.got.write (l + 64 * j) (s.accGet c o.blk1 ((o.addr.read l).toNat + j)).toNat
             prog := o.prog.write (l + 64 * j) o.full }) o

/-- Those of some lanes have. -/
def lanesRead (s : State) (c : Nat) (o : MemOp) (ls : List Nat) : MemOp := ls.foldl (laneRead s c) o

/-- The value of an element that an operation names. -/
def elemValue (s : State) (c : Nat) (o : MemOp) (x : Nat × Nat) : Nat := (s.accGet c o.blk1 ((o.addr.read x.1).toNat + x.2)).toNat

theorem laneRead_frame (s : State) (c : Nat) (o : MemOp) (l : Nat) : ∃ p, laneRead s c o l = { o with
    got := ((List.range o.elems).map fun j => (l, j)).foldl (fun (m : Tbl Nat) x => m.write (x.1 + 64 * x.2) (elemValue s c o x)) o.got
    prog := p } := by
  unfold laneRead
  rw [List.foldl_map]
  generalize List.range o.elems = js
  induction js generalizing o with
  | nil => exact ⟨_, rfl⟩
  | cons j js ih => exact ih { o with
      got := o.got.write (l + 64 * j) (s.accGet c o.blk1 ((o.addr.read l).toNat + j)).toNat
      prog := o.prog.write (l + 64 * j) o.full }

theorem got_lanesRead (s : State) (c : Nat) (o : MemOp) (ls : List Nat) : (lanesRead s c o ls).got =
    (ls.flatMap fun l => (List.range o.elems).map fun j => (l, j)).foldl (fun (m : Tbl Nat) x =>
      m.write (x.1 + 64 * x.2) (elemValue s c o x)) o.got := by
  induction ls generalizing o with
  | nil => rfl
  | cons l ls ih =>
    obtain ⟨p, h⟩ := laneRead_frame s c o l
    rw [lanesRead, List.foldl_cons, h, List.flatMap_cons, List.foldl_append]
    exact ih _

/-- The lanes of an operation whose first elements have not been read. -/
def unread (o : MemOp) : List Nat := (lanes.filter (inMask o.act)).filter fun l => !o.keyDone l

section
variable {s : State} {c : Nat} {x : MxCmd} {o : MemOp} {f : Fields}

theorem mem_unread {l : Nat} : l ∈ unread o ↔ (l < 64 ∧ inMask o.act l = true) ∧ o.keyDone l = false := by
  rw [unread, List.mem_filter, List.mem_filter, mem_lanes, Bool.not_eq_true']

theorem read_lanesRead {l j : Nat} (hl : l ∈ unread o) (hj : j < o.elems) :
    (lanesRead s c o (unread o)).got.read (l + 64 * j) = elemValue s c o (l, j) := by
  have hmem : (l, j) ∈ (unread o).flatMap fun l => (List.range o.elems).map fun j => (l, j) :=
    List.mem_flatMap.2 ⟨l, hl, List.mem_map.2 ⟨j, List.mem_range.2 hj, rfl⟩⟩
  rw [got_lanesRead]
  refine read_foldl_write (key := fun x : Nat × Nat => x.1 + 64 * x.2) (val := elemValue s c o) (fun y hy hkey => ?_) (.inl hmem)
  obtain ⟨m, hm, hy⟩ := List.mem_flatMap.1 hy
  obtain ⟨i, -, rfl⟩ := List.mem_map.1 hy
  have hlane := (mem_unread.1 hl).1.1
  have hlane' := (mem_unread.1 hm).1.1
  dsimp only at hkey
  rw [show m = l by omega, show i = j by omega]

theorem accBad_mxDrop (banks es : List Nat) : (s.mxDrop c x).accBad c banks es = s.accBad c banks es := by
  rw [State.accBad, core_mxDrop, if_pos rfl]; rfl

theorem elemValue_mxDrop (y : Nat × Nat) : elemValue (s.mxDrop c x) c o y = elemValue s c o y := by
  rw [elemValue, State.accGet, core_mxDrop, if_pos rfl]; rfl

variable (hh : MxHas s c x) (hop : s.op x.t x.seq = some o)
include hh hop

/-- The operation of ACCRD or ACCWR at the head of its queue may be performed. -/
theorem elemOp_head {mine : Instr → Bool} (hm : mine o.ins = true) : s.elemOp c mine = some (x.t, o, some x) := by
  rw [MxHas] at hh
  simp only [State.elemOp, hh, hop, hm, if_true]

theorem exec_accrdExecute (hi : o.ins = .accrd f) (hgood : ∀ l, l < 64 → s.accBad c o.blk1 (o.laneElems l) = none) :
    exec (.accrdExecute c) s = .next ((s.mxDrop c x).finishOrKeep x.t (lanesRead (s.mxDrop c x) c o (unread o))) := by
  have hall : ∀ l ∈ unread o, ((s.mxDrop c x).accBad c o.blk1 (o.laneElems l)).isNone = true := fun l hl => by
    rw [accBad_mxDrop, hgood l (mem_unread.1 hl).1.1]; rfl
  have hnone : (unread o).find? (fun l => !((s.mxDrop c x).accBad c o.blk1 (o.laneElems l)).isNone) = none :=
    List.find?_eq_none.2 fun l hl => by rw [hall l hl]; decide
  have hfilter : (unread o).filter (fun l => ((s.mxDrop c x).accBad c o.blk1 (o.laneElems l)).isNone) = unread o :=
    List.filter_eq_self.2 hall
  change execAccrdExecute c s = _
  unfold execAccrdExecute
  rw [elemOp_head hh hop (by rw [hi])]
  dsimp only
  rw [← unread, hnone, hfilter]
  rfl

/-! ### ACCWR (R217) -/

theorem exec_accwrExecute (hi : o.ins = .accwr f) : exec (.accwrExecute c) s = .next (((s.mxDrop c x).accPut c o.blk1
    ((popKeys o o.elems).map fun p => ((o.addr.read p.1).toNat + p.2, BitVec.ofNat 32 (o.dat.read (p.1 + 64 * p.2))))).finish x.t
    { o with prog := o.keys.foldl (fun (m : Tbl Nat) key => m.write key o.full) o.prog } 0) := by
  change execAccwrExecute c s = _
  unfold execAccwrExecute
  rw [elemOp_head hh hop (by rw [hi])]
  simp only [popKeys, List.map_flatMap, List.map_map]
  rfl

end

/-- Lanes in ascending order, and the elements of a lane in ascending order. -/
def Precedes (x y : Nat × Nat) : Prop := x.1 < y.1 ∨ x.1 = y.1 ∧ x.2 < y.2

theorem pairwise_popKeys (o : MemOp) (n : Nat) : (popKeys o n).Pairwise Precedes := by
  refine List.pairwise_flatMap.2 ⟨fun l _ => List.pairwise_map.2 (List.pairwise_lt_range.imp fun h => .inr ⟨rfl, h⟩), ?_⟩
  refine (List.Pairwise.filter _ List.pairwise_lt_range).imp fun {l m} hlm y hy z hz => .inl ?_
  obtain ⟨-, -, rfl⟩ := List.mem_map.1 hy
  obtain ⟨-, -, rfl⟩ := List.mem_map.1 hz
  exact hlm

/-- The last write of an element stays (R146). -/
theorem acc_written {s : State} {c l j : Nat} {o : MemOp} (hl : l < 64) (hj : j < o.elems) (ha : inMask o.act l = true)
    (hlast : ∀ m i, m < 64 → i < o.elems → inMask o.act m → accKey o.blk1 ((o.addr.read m).toNat + i) =
      accKey o.blk1 ((o.addr.read l).toNat + j) → m < l ∨ (m = l ∧ i = j)) :
    ((s.accPut c o.blk1 ((popKeys o o.elems).map fun p => ((o.addr.read p.1).toNat + p.2,
      BitVec.ofNat 32 (o.dat.read (p.1 + 64 * p.2))))).core c).acc.read (accKey o.blk1 ((o.addr.read l).toNat + j)) =
        BitVec.ofNat 32 (o.dat.read (l + 64 * j)) := by
  rw [core_accPut, List.foldl_map]
  refine Tbl.read_foldl_write_last (key := fun p : Nat × Nat => accKey o.blk1 ((o.addr.read p.1).toNat + p.2))
    (val := fun p => BitVec.ofNat 32 (o.dat.read (p.1 + 64 * p.2))) (x := (l, j)) _ (pairwise_popKeys o o.elems)
    (mem_popKeys.2 ⟨⟨hl, ha⟩, hj⟩) fun y hy hafter hkey => ?_
  obtain ⟨⟨hm, hma⟩, hi⟩ := mem_popKeys.1 hy
  have hbefore := hlast y.1 y.2 hm hi hma hkey
  simp only [Precedes] at hafter
  omega

theorem outOf_of_sameQueue {c : Nat} {x : MxCmd} {s t : State} (h : OutOf c x s) (hq : (t.core c).queue = (s.core c).queue) : OutOf c x t := by
  rw [OutOf, hq]; exact h

/-- Settles O39: the next row of ACCZ, ACCLD and ACCST; the add of an ACCST; the elements of ACCRD and ACCWR. -/
theorem accumulatorEvents : Obligations.AccumulatorEvents := by
  refine ⟨fun s c x f hh => ⟨fun hi => ⟨_, exec_acczRow hh hi, _, rfl, rowHolds_accPut s c x.banks _ fun _ => 0⟩,
    fun hi => ⟨fun b hb => ?_, fun g hg => ?_⟩, fun hi => ⟨fun g hg => ?_, fun hgood => ⟨fun hok => ?_, fun hwait => ?_, fun g hg => ?_⟩⟩⟩,
    fun s c a hfind hpark => ?_, fun s c x o hh hop => ⟨fun f hi hgood =>
      ⟨_, exec_accrdExecute hh hop hi hgood, ?_, _, rfl, fun l j hl hj _ ha hdone => ?_⟩,
      fun f hi => ⟨_, exec_accwrExecute hh hop hi, ?_, ended_finish hop rfl 0, _, _, rfl, fun l j hl hj ha => acc_written hl hj ha⟩⟩⟩
  · rw [← rowAddr] at hb
    have hexec := exec_accldRow hh hi
    rw [hb] at hexec
    exact ⟨_, hexec, _, rfl, rowHolds_accPut _ c x.banks _ _⟩
  · rw [← rowAddr] at hg
    rw [exec_accldRow hh hi, hg]
  · rw [exec_accstRow hh hi, hg]
  · rw [← rowAddr] at hok
    rw [exec_accstRow hh hi, hgood, hok]
    rfl
  · rw [← rowAddr] at hwait
    rw [exec_accstRow hh hi, hgood, hwait]
  · rw [← rowAddr] at hg
    rw [exec_accstRow hh hi, hgood, hg]
  · have hexec := exec_accstTurnstile hfind hpark
    refine ⟨fun v u hmade => ?_, fun u hmade => ?_, fun g u hmade => ?_⟩ <;> rw [show addMade s c a.cmd = _ from hmade] at hexec
    · exact ⟨_, hexec, rfl, fun _ => adds_addDone⟩
    · exact hexec
    · exact hexec
  · exact outOf_of_sameQueue (outOf_mxDrop s c x) ((sameCacheQueues_finishOrKeep ..).queue c)
  · rw [read_lanesRead (mem_unread.2 ⟨⟨hl, ha⟩, hdone⟩) hj, elemValue_mxDrop]
    rfl
  · refine outOf_of_sameQueue (outOf_mxDrop s c x) (((sameCacheQueues_finish ..).queue c).trans ?_)
    rw [core_accPut]

end Sys2Proof.Machine
end

section
/-!
PROOF. The geometry and texture words at issue (R236, R237, R240, R241, R245, R249, R250): the check of their addresses, and the operation
in flight with what it captures.
-/
namespace Sys2Proof.Machine
open Sys2Proof Sys2Proof.Claims

/-! ### The check of the addresses (R236) -/

theorem firstOff_of_aligned {us : List (W64 × Nat × Nat)} (h : addressesOk us) : firstOff us = none := by
  rw [firstOff, Option.map_eq_none_iff, List.find?_eq_none]
  exact fun x hx => by rw [h x hx]; decide

theorem firstOff_append_cons {a b : List (W64 × Nat × Nat)} {x : W64 × Nat × Nat} (ha : addressesOk a) (hx : x.1.toNat % x.2.1 ≠ 0) :
    firstOff (a ++ x :: b) = some (x.1, x.2.2) := by
  have hnone : a.find? (fun y => y.1.toNat % y.2.1 != 0) = none := Option.map_eq_none_iff.1 (firstOff_of_aligned ha)
  have hfirst : (x :: b).find? (fun y => y.1.toNat % y.2.1 != 0) = some x := List.find?_cons_of_pos (bne_iff_ne.2 hx)
  rw [firstOff, List.find?_append, hnone, Option.none_or, hfirst, Option.map_some]

/-! ### The operation, and what a word of the group answers -/

section
variable {i : Instr} {s : State} {f : Fields} {us : List (W64 × Nat × Nat)}

/-- The operation of a geometry or texture word with the scalar addresses `us`. -/
def geometryOp (i : Instr) (s : State) (f : Fields) (us : List (W64 × Nat × Nat)) : MemOp :=
  let o := { s.newOp i (act s f) with uni := us.map (·.1), single := toRing i, size := 1 }
  let ve := laneTable (act s f) fun l => (s.curT.rv f.e.toNat l).toNat
  match i with
  | .cutsel _ => { o with
      snap := if s.cutHost then [] else s.presentGranules
      epoch := if s.cutHost then 0 else s.clock + 1
      pass := if s.cutHost then 4 else 1 }
  | .rayt _ => { o with cmp := ve }
  | .rayr _ => { o with cmp := elemTable (act s f) 2 fun l j => (s.curT.rv (f.e.toNat + j) l).toNat }
  | .tex _ | .texg _ | .texq _ =>
    { o with cmp := ve, dat := elemTable (act s f) 2 fun l j => (s.curT.rv (f.a.toNat + j) l).toNat }
  | _ => o

/-- That operation is in flight. -/
def geometryLaunched (i : Instr) (s : State) (f : Fields) (us : List (W64 × Nat × Nat)) : State :=
  s.launchWith s.curT.rs (geometryOp i s f us) f true i.layout.recs none

/-- A command of a ring is then offered to its queue (R237, R245). -/
def offered (i : Instr) (s u : State) : State :=
  if toRing i then
    match i with
    | .cutsel _ => u.cutAdmit (here s / 8)
    | _ => u.rastAdmit (here s / 8)
  else u

theorem offered_of_lanes {u : State} (hr : toRing i = false) : offered i s u = u := if_neg (Bool.eq_false_iff.1 hr)

/-- The words of the group share their meaning at issue: the check of their addresses stands before everything but the guard (R236). -/
theorem exec_geometry (h : geometryWord i s = some (f, us)) : exec i s =
    if act s f = 0 then .next (s.retire id)
    else match firstOff us with
      | some x => .next (s.trapWord 0x0A x.2 x.1)
      | none => .next (offered i s (geometryLaunched i s f us)) := by
  unfold geometryWord at h
  split at h <;> cases h <;> rfl

theorem exec_geometry_inactive (h : geometryWord i s = some (f, us)) (ha : act s f = 0) : exec i s = .next (s.retire id) := by
  rw [exec_geometry h, if_pos ha]

theorem exec_geometry_aligned (h : geometryWord i s = some (f, us)) (ha : act s f ≠ 0) (hus : addressesOk us) :
    exec i s = .next (offered i s (geometryLaunched i s f us)) := by
  rw [exec_geometry h, if_neg ha, firstOff_of_aligned hus]

theorem ours_geometryOp : Ours s i (geometryOp i s f us) := by
  unfold geometryOp
  split <;> exact ours_newOp s _ _

theorem geometryOp_fixed : (geometryOp i s f us).act = act s f ∧ (geometryOp i s f us).uni = us.map (·.1) ∧
    (geometryOp i s f us).elems = 1 ∧ (geometryOp i s f us).single = toRing i := by
  unfold geometryOp
  split <;> exact ⟨rfl, rfl, rfl, rfl⟩

/-- V(E) and V(E + 1), which RAYR captures (R241). -/
theorem cmp_geometryOp_rayr {j l : Nat} (hj : j < 2) (hl : l < 64) (ha : inMask (act s f) l) :
    (geometryOp (.rayr f) s f us).cmp.read (l + 64 * j) = (s.curT.rv (f.e.toNat + j) l).toNat :=
  read_elemTable (fun l j => (s.curT.rv (f.e.toNat + j) l).toNat) hl ha hj

/-- V(E), which the words of lanes capture (R240, R241, R249). -/
theorem onLanes_cmp_geometryOp (h : geometryWord i s = some (f, us)) (hr : toRing i = false) :
    OnLanes s f (geometryOp i s f us).cmp fun l => (s.curT.rv f.e.toNat l).toNat := by
  have htable := onLanes_laneTable (s := s) (f := f) (g := fun l => (s.curT.rv f.e.toNat l).toNat) fun _ _ _ => rfl
  unfold geometryWord at h
  split at h <;> cases h
  -- CUTSEL and RAST are a ring's, RAYR has a table of two values a lane, and the others have one
  case h_1 | h_4 => cases hr
  case h_3 => exact fun _ hl ha => cmp_geometryOp_rayr Nat.two_pos hl ha
  case h_2 | h_5 | h_6 | h_7 => exact htable

/-- V(A) and V(A + 1), which the texture words capture (R249, R250). -/
theorem dat_geometryOp (h : geometryWord i s = some (f, us)) (hlen : us.length = 1) {j l : Nat} (hj : j < 2) (hl : l < 64)
    (ha : inMask (act s f) l) : (geometryOp i s f us).dat.read (l + 64 * j) = (s.curT.rv (f.a.toNat + j) l).toNat := by
  have htable := read_elemTable (fun l j => (s.curT.rv (f.a.toNat + j) l).toNat) hl ha hj
  unfold geometryWord at h
  split at h <;> cases h
  -- the words of one address are TEX, TEXG and TEXQ
  case h_1 | h_2 | h_3 | h_4 => cases hlen
  case h_5 | h_6 | h_7 => exact htable

/-- The troupe has taken the operation, and nothing else has changed. -/
theorem inFlight_geometryLaunched {P : MemOp → Prop} (hP : ∀ fl rc, P { geometryOp i s f us with flags := fl, recs := rc }) :
    InFlight i f true false none 0 s P (geometryLaunched i s f us) :=
  inFlight_of_launch (nrecs := i.layout.recs) (oc := s.curT.oc) rfl (fun _ hj => s.tr_retire_other _ hj)
    ((s.curT_retire _).trans (by rw [Troupe.launch_frame]; rfl)) ours_geometryOp hP (fun _ => by simp) fun l _ => act_steps_zero s f l

end

theorem laneGeometryIssue : LaneGeometryIssue := by
  intro i s f us h
  refine ⟨fun ha => noEffect_of_retire (exec_geometry_inactive h ha), fun ha hus hr => ?_⟩
  have hexec := exec_geometry_aligned h ha hus
  rw [offered_of_lanes hr] at hexec
  obtain ⟨hact, huni, helems, hsingle⟩ := geometryOp_fixed (i := i) (s := s) (f := f) (us := us)
  refine ⟨_, hexec, rfl, inFlight_geometryLaunched fun fl rc => ⟨hact, huni, helems, hsingle.trans hr, onLanes_cmp_geometryOp h hr, ?_,
    fun hlen _ _ hj hl hm => dat_geometryOp h hlen hj hl hm⟩⟩
  rintro rfl l hl hm
  exact cmp_geometryOp_rayr Nat.one_lt_two hl hm

theorem ringCommandIssue : RingCommandIssue := by
  intro i s f us h hr
  refine ⟨fun ha => noEffect_of_retire (exec_geometry_inactive h ha), fun ha hus => ?_⟩
  obtain ⟨-, huni, -, hsingle⟩ := geometryOp_fixed (i := i) (s := s) (f := f) (us := us)
  refine ⟨_, exec_geometry_aligned h ha hus, geometryLaunched i s f us, rfl,
    inFlight_geometryLaunched fun fl rc => ⟨hsingle.trans hr, huni, ?_⟩, if_pos hr⟩
  rintro rfl
  exact ⟨rfl, rfl⟩

theorem geometryTraps : GeometryTraps := by
  intro i s f a b x h ha hok hx
  rw [exec_geometry h, if_neg ha, firstOff_append_cons hok hx]

/-- Settles O28: the check of the addresses, then the operation that is in flight or offered to its ring's queue. -/
theorem geometryWords : Obligations.GeometryWords :=
  ⟨laneGeometryIssue, ringCommandIssue, geometryTraps⟩

end Sys2Proof.Machine
end

section
/-!
PROOF. The debugger's rights, halts, steps and releases, and a stop that reaches a core (R254, R258 to R264, R270).
-/
namespace Sys2Proof.Machine
open Sys2Proof Sys2Proof.Claims

/-! ### The troupes of a context -/

theorem State.mem_ctxTroupes {s : State} {k : Nat} (h : (s.tr k).resident = true) : k ∈ s.ctxTroupes (s.ctxOf k) := by
  refine List.mem_map.2 ⟨(k, s.tr k), List.mem_filter.2 ⟨?_, ?_⟩, rfl⟩
  · refine (s.troupes.read_mem_or_default k).resolve_right fun h0 => ?_
    have hres : (s.tr k).resident = false := by rw [State.tr, h0]; rfl
    exact Bool.false_ne_true (hres.symm.trans h)
  · simp [h, State.ctxOf]

theorem State.debugs_iff {s : State} {k : Nat} : s.debugs k = true ↔ (s.tr k).resident = true ∧ (s.ctx (s.ctxOf k)).debug = true :=
  Bool.and_eq_true_iff

theorem State.editable_iff {s : State} {k : Nat} : s.editable k = true ↔ Editable s k := by
  rw [State.editable, Bool.and_eq_true_iff, State.debugs_iff, and_assoc, Editable]

theorem debugs_of_editable {s : State} {k : Nat} (h : Editable s k) : s.debugs k = true := State.debugs_iff.2 ⟨h.1, h.2.1⟩

theorem halted_of_editable {s : State} {k : Nat} (h : Editable s k) : (s.tr k).halted = true := h.2.2

theorem onlyTroupe_modTr (s : State) (k : Nat) (g : Troupe → Troupe) : OnlyTroupe k s (s.modTr k g) :=
  ⟨rfl, fun _ hj => s.tr_modTr_other g hj⟩

/-- A fold over a list establishes at one of its members what every step keeps. -/
theorem foldl_establishes {α β : Type} {Q P : β → Prop} {f : β → α → β} {l : List α} {a : α} (ha : a ∈ l)
    (hQ : ∀ b x, Q b → Q (f b x)) (hset : ∀ b, Q b → P (f b a)) (hkeep : ∀ b x, P b → P (f b x)) {b : β} (hb : Q b) : P (l.foldl f b) := by
  obtain ⟨before, after, rfl⟩ := List.append_of_mem ha
  rw [List.foldl_append, List.foldl_cons]
  exact foldl_keeps P f hkeep after (hset _ (foldl_keeps Q f hQ before hb))

/-! ### A release (R261) -/

@[simp] theorem Troupe.halted_release (t : Troupe) : t.release.halted = false := by
  unfold Troupe.release
  split
  · rfl
  · exact Bool.eq_false_iff.2 ‹_›

theorem Troupe.state_release {t : Troupe} (hh : t.halted = true) {l : Nat} (hl : l < 64) :
    t.release.pt.state l = if t.pt.state l = .halted then .ready else t.pt.state l := by
  rw [Troupe.release, if_pos hh]
  refine (PcTable.state_put _ _ _ hl).trans ?_
  rw [PcTable.inMask_inState _ _ hl]
  exact if_congr beq_iff_eq rfl rfl

/-- A halted troupe that is released, with changes that move no thread. -/
theorem releasedAt_modTr {s : State} {k : Nat} (hh : (s.tr k).halted = true) {g : Troupe → Troupe}
    (hhalted : ∀ x, (g x).halted = x.release.halted) (hpt : ∀ x, (g x).pt = x.release.pt) : ReleasedAt s (s.modTr k g) k := by
  rw [ReleasedAt, State.tr_modTr_self, hhalted, hpt]
  exact ⟨Troupe.halted_release _, fun l hl => Troupe.state_release hh hl⟩

section
variable {s : State} {k : Nat}

theorem State.named_troupe (h : s.debugs k = true) : s.named (.troupe k) = [k] := if_pos h

theorem exec_hjelmHalt_troupe (h : s.debugs k = true) : exec (.hjelmHalt (.troupe k)) s = .next (s.haltTroupe k 0) := by
  refine (rfl : _ = Host.Outcome.next ((s.named (.troupe k)).foldl _ s)).trans ?_
  rw [State.named_troupe h, List.foldl_cons, List.foldl_nil]

theorem exec_hjelmRelease_troupe (h : Editable s k) : exec (.hjelmRelease (.troupe k)) s = .next (s.modTr k Troupe.release) := by
  refine (rfl : _ = Host.Outcome.next ((s.named (.troupe k)).foldl _ s)).trans ?_
  rw [State.named_troupe (debugs_of_editable h), List.foldl_cons, List.foldl_nil]

theorem exec_hjelmStep_ready (h : Editable s k) (hr : (s.tr k).pt.inState .halted ≠ 0) :
    exec (.hjelmStep k) s = .next (s.modTr k fun x => { x.release with stepping := true }) :=
  if_neg (by simpa [debugs_of_editable h, halted_of_editable h] using hr)

end

/-! ### Halts (R258, R260) -/

theorem haltTroupe_halted {s : State} {k : Nat} (h : (s.tr k).halted = true) (cause : Nat) : s.haltTroupe k cause = s :=
  if_pos (by simp [h])

theorem haltedFor_haltTroupe {s : State} {k : Nat} (hr : (s.tr k).resident = true) (hh : (s.tr k).halted = false)
    (he : (s.tr k).ended = false) (cause : Nat) : HaltedFor s (s.haltTroupe k cause) k cause := by
  rw [HaltedFor, tr_haltTroupe hh hr he cause]
  exact ⟨rfl, rfl, rfl, fun l hl => ⟨state_haltedTroupe _ _ hl, pc_haltedTroupe _ _ l⟩⟩

/-- A halt leaves the state as it is, or halts the troupe and writes a trace record (R258, R260). -/
theorem haltTroupe_cases (s : State) (k cause : Nat) :
    s.haltTroupe k cause = s ∨ ∃ m d, s.haltTroupe k cause = { s.setTr k (haltedTroupe (s.tr k) cause) with mem := m, dies := d } := by
  by_cases h : ((s.tr k).halted || !(s.tr k).resident || (s.tr k).ended) = true
  · exact .inl (if_pos h)
  · refine .inr ?_
    rw [State.haltTroupe, if_neg h]
    exact State.traceRec_frame ..

/-! ### A stop reaches a core (R259) -/

/-- A stop on a troupe of the core: it halts, and its count of issues since the hit ends. -/
def stopTroupe (s : State) (k : Nat) : State := (s.haltTroupe k 1).modTr k fun t => { t with hitAt := 0 }

theorem stops_stopTroupe (s : State) (k : Nat) : (stopTroupe s k).stops = s.stops := by
  rw [stopTroupe, State.modTr_stops]
  obtain h | ⟨m, d, h⟩ := haltTroupe_cases s k 1 <;> rw [h]
  rw [State.setTr_stops]

/-- A stop of one troupe empties no slot, ends no troupe and releases none. -/
theorem tr_stopTroupe (s : State) (k j : Nat) : ((stopTroupe s k).tr j).resident = (s.tr j).resident ∧
    ((stopTroupe s k).tr j).ended = (s.tr j).ended ∧ ((s.tr j).halted = true → ((stopTroupe s k).tr j).halted = true) := by
  have hput : ∀ m d, State.tr { s.setTr k (haltedTroupe (s.tr k) 1) with mem := m, dies := d } j =
      if j = k then haltedTroupe (s.tr k) 1 else s.tr j := fun _ _ => s.tr_setTr k j _
  by_cases hj : j = k
  · subst hj
    rw [stopTroupe, State.tr_modTr_self]
    obtain h | ⟨m, d, h⟩ := haltTroupe_cases s j 1
    · rw [h]; exact ⟨rfl, rfl, id⟩
    · rw [h, hput, if_pos rfl]; exact ⟨rfl, rfl, fun _ => rfl⟩
  · rw [stopTroupe, State.tr_modTr_other _ _ hj]
    obtain h | ⟨m, d, h⟩ := haltTroupe_cases s k 1
    · rw [h]; exact ⟨rfl, rfl, id⟩
    · rw [h, hput, if_neg hj]; exact ⟨rfl, rfl, id⟩

theorem halted_stopTroupe_of_halted {s : State} {j : Nat} (hh : (s.tr j).halted = true) (k : Nat) : ((stopTroupe s k).tr j).halted = true := by
  obtain ⟨-, -, hkeeps⟩ := tr_stopTroupe s k j
  exact hkeeps hh

theorem halted_stopTroupe {s : State} {k : Nat} (hr : (s.tr k).resident = true) (he : (s.tr k).ended = false) :
    ((stopTroupe s k).tr k).halted = true := by
  cases hh : (s.tr k).halted
  · rw [stopTroupe, State.tr_modTr_self]
    exact (haltedFor_haltTroupe hr hh he 1).1
  · exact halted_stopTroupe_of_halted hh k

/-- A stop on its way for context `c` that has reached core `n`. -/
def stopDue (s : State) (c n : Nat) (x : Stop) : Bool := x.ctx == c && x.core == n && x.arrives ≤ s.clock

theorem stopDue_iff {s : State} {c n : Nat} {x : Stop} : stopDue s c n x = true ↔ x.ctx = c ∧ x.core = n ∧ x.arrives ≤ s.clock := by
  simp [stopDue, and_assoc]

/-- The troupes that a stop of context `c` halts on core `n`. -/
def stopNamed (s : State) (c n : Nat) : List Nat := ((s.ctxTroupes c).filter fun k => coreOf k == n).filter s.debugs

theorem exec_stopBroadcastArrival_due {s : State} {c n : Nat} {x : Stop} (hx : x ∈ s.stops) (hdue : stopDue s c n x = true) :
    exec (.stopBroadcastArrival c n) s =
      .next ((stopNamed s c n).foldl stopTroupe { s with stops := s.stops.filter fun y => !stopDue s c n y }) :=
  if_neg (show ¬ (!s.stops.any (stopDue s c n)) = true by rw [List.any_eq_true.2 ⟨x, hx, hdue⟩]; decide)

theorem completes_stopBroadcastArrival (s : State) (c : Nat) : ∀ x ∈ s.stops, x.ctx = c → x.arrives ≤ s.clock →
    Completes (.stopBroadcastArrival c x.core) s fun t =>
      (∀ y ∈ t.stops, y ∈ s.stops ∧ ¬ (y.ctx = c ∧ y.core = x.core ∧ y.arrives ≤ s.clock)) ∧
      ∀ j, s.debugs j = true → s.ctxOf j = c → coreOf j = x.core → (s.tr j).ended = false → (t.tr j).halted = true := by
  intro x hx hc ha
  refine ⟨_, exec_stopBroadcastArrival_due hx (stopDue_iff.2 ⟨hc, rfl, ha⟩), ?_, ?_⟩
  · intro y hy
    have hstops := foldl_keeps (fun u : State => u.stops = s.stops.filter fun y => !stopDue s c x.core y) stopTroupe
      (fun u k hu => (stops_stopTroupe u k).trans hu) (stopNamed s c x.core)
      (b := { s with stops := s.stops.filter fun y => !stopDue s c x.core y }) rfl
    rw [hstops, List.mem_filter] at hy
    exact ⟨hy.1, fun hdue => by simpa [stopDue_iff.2 hdue] using hy.2⟩
  · rintro j hd rfl hcore he
    have hr := (State.debugs_iff.1 hd).1
    have hmem : j ∈ stopNamed s (s.ctxOf j) x.core :=
      List.mem_filter.2 ⟨List.mem_filter.2 ⟨State.mem_ctxTroupes hr, beq_iff_eq.2 hcore⟩, hd⟩
    refine foldl_establishes (Q := fun u : State => (u.tr j).resident = true ∧ (u.tr j).ended = false)
      (P := fun u => (u.tr j).halted = true) hmem (fun u k hu => ?_) (fun u hu => halted_stopTroupe hu.1 hu.2) (fun u k hu => halted_stopTroupe_of_halted hu k) ⟨hr, he⟩
    obtain ⟨hres, hend, -⟩ := tr_stopTroupe u k j
    exact ⟨hres.trans hu.1, hend.trans hu.2⟩

/-! ### The rights (R254, R264, R270) -/

/-- A troupe of a context whose right is revoked: released, and no longer stepped or spotlit. -/
def freedTroupe (t : Troupe) : Troupe := { t.release with stepping := false, spotlit := false, hitAt := 0 }

/-- The context's troupes freed. -/
def troupesFreed (s : State) (c : Nat) : State := (s.ctxTroupes c).foldl (fun u k => u.modTr k freedTroupe) s

/-- The context's troupes freed, its watchpoints, spotlights and stops taken away, and its right withdrawn. -/
def rightRevoked (s : State) (c : Nat) : State :=
  let u := troupesFreed s c
  ({ u with
    rings := u.rings.mapAll fun _ r => { r with wps := r.wps.mapAll fun _ w => w.clearFor c }
    dies := u.dies.mapAll fun _ d => { d with wps := d.wps.mapAll fun _ w => w.clearFor c }
    cores := u.cores.mapAll fun _ x => if ctlCtx x.spotctl = c then { x with spotctl := 0, spotco := 0 } else x
    stops := u.stops.filter fun x => x.ctx != c }).modCtx c fun x =>
      { x with debug := false, killrev := false, arm := false, stopring := false }

section
variable {s : State} {c : Nat}

theorem exec_debugRevoke_held (h : (s.ctx c).debug = true) : exec (.debugRevoke c) s =
    .next (if (s.ctx c).killrev = true then (rightRevoked s c).startEnd c 2 0 else rightRevoked s c) :=
  if_neg (by simp [h])

theorem troupesFreed_frame (s : State) (c : Nat) : troupesFreed s c = { s with troupes := (troupesFreed s c).troupes } :=
  foldl_keeps (fun u : State => u = { s with troupes := u.troupes }) _ (fun u k hu => by rw [State.modTr, State.setTr, hu]) _ rfl

/-- A troupe that no debugger holds any longer (R270). -/
def Freed (x : Troupe) : Prop := x.halted = false ∧ x.stepping = false ∧ x.spotlit = false

theorem freed_modTr_self (u : State) (j : Nat) : Freed ((u.modTr j freedTroupe).tr j) := by
  rw [State.tr_modTr_self]
  exact ⟨Troupe.halted_release _, rfl, rfl⟩

theorem freed_troupesFreed {j : Nat} (hr : (s.tr j).resident = true) : Freed ((troupesFreed s (s.ctxOf j)).tr j) := by
  refine foldl_establishes (Q := fun _ : State => True) (P := fun u : State => Freed (u.tr j))
    (State.mem_ctxTroupes hr) (fun _ _ _ => trivial) (fun u _ => freed_modTr_self u j) (fun u k hu => ?_) trivial
  by_cases hk : j = k
  · exact hk ▸ freed_modTr_self u j
  · rwa [State.tr_modTr_other _ _ hk]

theorem ctx_rightRevoked : (rightRevoked s c).ctx c =
    { s.ctx c with debug := false, killrev := false, arm := false, stopring := false } := by
  have hctx : (troupesFreed s c).ctx c = s.ctx c := by rw [troupesFreed_frame]; rfl
  rw [← hctx]
  exact State.ctx_modCtx_self ..

theorem stops_rightRevoked : (rightRevoked s c).stops = s.stops.filter fun x => x.ctx != c := by
  have hstops : (troupesFreed s c).stops = s.stops := by rw [troupesFreed_frame]
  rw [← hstops]
  rfl

/-- What a revoke leaves behind, whatever it then writes into the reason and cause of the context's end. -/
theorem revoked_of_frame {t : State} (htr : t.troupes = (rightRevoked s c).troupes) (hst : t.stops = (rightRevoked s c).stops)
    {r : Nat} {x : W64} (hctx : t.ctx c = { (rightRevoked s c).ctx c with endReason := r, endCause := x }) :
    (t.ctx c).debug = false ∧ (t.ctx c).arm = false ∧ (t.ctx c).stopring = false ∧ (∀ x ∈ t.stops, x.ctx ≠ c) ∧
      ∀ j, (s.tr j).resident = true → s.ctxOf j = c → Freed (t.tr j) := by
  rw [hctx, ctx_rightRevoked, hst, stops_rightRevoked]
  refine ⟨rfl, rfl, rfl, fun y hy => bne_iff_ne.1 (List.mem_filter.1 hy).2, ?_⟩
  rintro j hr rfl
  rw [State.tr, htr]
  exact freed_troupesFreed hr

theorem completes_debugRevoke (hd : (s.ctx c).debug = true) (h0 : (s.ctx c).endReason = 0) (hlive : (s.ctx c).dead = false) :
    Completes (.debugRevoke c) s fun t =>
      (t.ctx c).debug = false ∧ (t.ctx c).arm = false ∧ (t.ctx c).stopring = false ∧ (∀ x ∈ t.stops, x.ctx ≠ c) ∧
      (∀ j, (s.tr j).resident = true → s.ctxOf j = c → Freed (t.tr j)) ∧ ((s.ctx c).killrev = true → (t.ctx c).endReason = 2) := by
  refine ⟨_, exec_debugRevoke_held hd, ?_⟩
  by_cases hk : (s.ctx c).killrev = true
  · have h0' : ((rightRevoked s c).ctx c).endReason = 0 := by rw [ctx_rightRevoked]; exact h0
    have hlive' : ((rightRevoked s c).ctx c).dead = false := by rw [ctx_rightRevoked]; exact hlive
    rw [if_pos hk, startEnd_live h0' hlive']
    obtain ⟨h1, h2, h3, h4, h5⟩ := revoked_of_frame (t := (rightRevoked s c).modCtx c fun y => { y with endReason := 2, endCause := 0 })
      rfl rfl (State.ctx_modCtx_self ..)
    exact ⟨h1, h2, h3, h4, h5, fun _ => by rw [State.ctx_modCtx_self]⟩
  · rw [if_neg hk]
    obtain ⟨h1, h2, h3, h4, h5⟩ := revoked_of_frame (s := s) (c := c) (t := rightRevoked s c) rfl rfl rfl
    exact ⟨h1, h2, h3, h4, h5, fun h => absurd h hk⟩

end

theorem completes_debugGrant (s : State) (c : Nat) (b : Bool) : Completes (.debugGrant c b) s fun t =>
    (t.ctx c).debug = true ∧ (t.ctx c).killrev = b ∧ t = { s with contexts := t.contexts } := by
  refine ⟨_, rfl, ?_⟩
  beta_reduce
  rw [State.ctx_modCtx_self]
  exact ⟨rfl, rfl, rfl⟩

theorem completes_breakpointArm {s : State} {c : Nat} (hd : (s.ctx c).debug = true) (on ring : Bool) : Completes (.breakpointArm c on ring) s fun t =>
    (t.ctx c).arm = on ∧ (t.ctx c).stopring = ring ∧ t = { s with contexts := t.contexts } := by
  refine ⟨_, congrArg Host.Outcome.next (if_pos hd), ?_⟩
  beta_reduce
  rw [State.ctx_modCtx_self]
  exact ⟨rfl, rfl, rfl⟩

/-- Settles O51: the rights' events, a halt and what ends it, and a stop that reaches a core. -/
theorem haltEvents : Obligations.HaltEvents := by
  refine fun s c k => ⟨completes_debugGrant s c, completes_debugRevoke, ?halt, ?again, completes_stopBroadcastArrival s c, ?step, ?release, completes_breakpointArm⟩
  case halt =>
    intro hd hh he
    exact ⟨_, exec_hjelmHalt_troupe hd, haltedFor_haltTroupe (State.debugs_iff.1 hd).1 hh he 0⟩
  case again =>
    intro hd hh
    rw [exec_hjelmHalt_troupe hd, haltTroupe_halted hh]
  case step =>
    intro he hready
    refine ⟨_, exec_hjelmStep_ready he hready, releasedAt_modTr (halted_of_editable he) (fun _ => rfl) (fun _ => rfl), ?_, onlyTroupe_modTr ..⟩
    rw [State.tr_modTr_self]
  case release =>
    intro he
    exact ⟨_, exec_hjelmRelease_troupe he, releasedAt_modTr (halted_of_editable he) (fun _ => rfl) (fun _ => rfl), onlyTroupe_modTr ..⟩

end Sys2Proof.Machine
end

section
/-!
PROOF. Watchpoints, snapshots and edits by the debugger (R254, R255, R261, R268).
-/
namespace Sys2Proof.Machine
open Sys2Proof Sys2Proof.Claims

/-! ### Watchpoints (R255) -/

theorem State.ring_modRing (s : State) (c j : Nat) (g : Ring → Ring) : (s.modRing c g).ring j = if j = c then g (s.ring c) else s.ring j :=
  Tbl.read_modify ..

theorem State.die_modDie (s : State) (c j : Nat) (g : Die → Die) : (s.modDie c g).die j = if j = c then g (s.die c) else s.die j :=
  Tbl.read_modify ..

/-- Watchpoint `wp` is the one at `wp % n` of unit `wp / n`: a change of it is read under its number alone. -/
theorem read_unitWatch {n wp : Nat} {before after : Nat → Tbl Watch} {f : Watch → Watch}
    (h : ∀ i, after i = if i = wp / n then (before (wp / n)).modify (wp % n) f else before i) (j : Nat) :
    (after (j / n)).read (j % n) = if j = wp then f ((before (wp / n)).read (wp % n)) else (before (j / n)).read (j % n) := by
  rw [h]
  by_cases hunit : j / n = wp / n
  · have hnumber : j % n = wp % n ↔ j = wp :=
      ⟨fun hm => by rw [← Nat.div_add_mod j n, hunit, hm, Nat.div_add_mod], fun hj => by rw [hj]⟩
    rw [if_pos hunit, Tbl.read_modify, hunit]
    exact if_congr hnumber rfl rfl
  · rw [if_neg hunit, if_neg fun hj => hunit (by rw [hj])]

/-- A change of a watchpoint is read at its own number alone (log entry 39). -/
theorem watchAt_modWatch (s : State) (wp j : Nat) (f : Nat → Watch → Watch) : watchAt (s.modWatch wp f) j =
    if j = wp then f (if wp < 256 then 18 else 21) (watchAt s wp) else watchAt s j := by
  unfold watchAt State.modWatch
  by_cases hw : wp < 256
  · rw [if_pos hw, if_pos hw, if_pos hw]
    by_cases hj : j < 256
    · rw [if_pos hj, if_pos hj]
      refine read_unitWatch (before := fun i => (s.ring i).wps) (after := fun i => (State.ring _ i).wps) (fun i => ?_) j
      rw [State.ring_modRing, apply_ite Ring.wps]
    · rw [if_neg hj, if_neg hj, if_neg fun h : j = wp => hj (h ▸ hw)]
      rfl
  · rw [if_neg hw, if_neg hw, if_neg hw]
    by_cases hj : j < 256
    · rw [if_pos hj, if_pos hj, if_neg fun h : j = wp => hw (h ▸ hj)]
      rfl
    · rw [if_neg hj, if_neg hj]
      have hsame : j - 256 = wp - 256 ↔ j = wp := by omega
      refine (read_unitWatch (before := fun i => (s.die i).wps) (after := fun i => (State.die _ i).wps) (fun i => ?_) (j - 256)).trans
        (if_congr hsame rfl rfl)
      rw [State.die_modDie, apply_ite Die.wps]

theorem exec_wpctlWrite_held {s : State} {wp : Nat} {v : W64} (h : (s.ctx (bitsOf v.toNat 31 16)).debug = true) :
    exec (.wpctlWrite wp v) s = .next (s.modWatch wp fun top w => w.write top v) := congrArg Host.Outcome.next (if_pos h)

theorem exec_wpctlWrite_refused {s : State} {wp : Nat} {v : W64} (h : (s.ctx (bitsOf v.toNat 31 16)).debug = false) :
    exec (.wpctlWrite wp v) s = .next s :=
  congrArg Host.Outcome.next (if_neg (by rw [ctlCtx, h]; decide))

theorem completes_wpctlWrite {s : State} {wp : Nat} {v : W64} (h : (s.ctx (bitsOf v.toNat 31 16)).debug = true) :
    Completes (.wpctlWrite wp v) s fun t =>
      watchAt t wp = (watchAt s wp).write (if wp < 256 then 18 else 21) v ∧ ∀ j, j ≠ wp → watchAt t j = watchAt s j :=
  ⟨_, exec_wpctlWrite_held h, (watchAt_modWatch ..).trans (if_pos rfl), fun _ hj => (watchAt_modWatch ..).trans (if_neg hj)⟩

/-! ### Snapshots (R268) -/

theorem completes_hjelmSnapshot {s : State} {c : Nat} (hd : (s.ctx c).debug = true) (hl : s.snap.lock = false) (h0 : s.snap.latchAt = 0) :
    Completes (.hjelmSnapshot c) s fun t => t.snap.latchAt = s.clock + 32 ∧ t.snap.pendingSource = 2 ∧ t = { s with snap := t.snap } := by
  have hexec : exec (.hjelmSnapshot c) s = .next (s.trigger 1) := congrArg Host.Outcome.next (if_pos hd)
  have htrigger : s.trigger 1 = { s with snap := { s.snap with latchAt := s.clock + 32, pendingSource := 2 } } :=
    (if_neg (by rw [hl]; decide)).trans (if_neg (not_not_intro h0))
  exact ⟨_, hexec.trans (congrArg _ htrigger), rfl, rfl, rfl⟩

theorem exec_snapshotLatch_due {s : State} (h0 : s.snap.latchAt ≠ 0) (hlt : s.snap.latchAt < s.clock) : exec .snapshotLatch s =
    .next { s with snap := {
      lock := true, seq := s.snap.nextSeq, source := s.snap.pendingSource, latchAt := 0, pendingSource := 0,
      troupes := (s.troupes.filter fun e => e.2.resident).map fun e => (e.1, e.2.pt, e.2.stalls), clock := s.clock,
      cores := s.cores, rings := s.rings, dies := s.dies, engines := s.engines, bar2 := s.bar2 } } :=
  if_neg (by simp [h0, hlt])

theorem completes_snapshotLatch {s : State} (h0 : s.snap.latchAt ≠ 0) (hlt : s.snap.latchAt < s.clock) :
    Completes .snapshotLatch s fun t => t.snap.lock = true ∧
      t.snap.seq = s.snap.nextSeq ∧ t.snap.source = s.snap.pendingSource ∧ t.snap.clock = s.clock ∧ t = { s with snap := t.snap } ∧
      t.snap.cores = s.cores ∧ t.snap.rings = s.rings ∧ t.snap.dies = s.dies ∧ t.snap.engines = s.engines ∧ t.snap.bar2 = s.bar2 ∧
      ∀ e ∈ t.snap.troupes, ∃ x, (e.1, x) ∈ s.troupes ∧ x.resident = true ∧ e.2 = (x.pt, x.stalls) := by
  refine ⟨_, exec_snapshotLatch_due h0 hlt, rfl, rfl, rfl, rfl, rfl, rfl, rfl, rfl, rfl, rfl, fun e he => ?_⟩
  obtain ⟨⟨k, x⟩, hx, rfl⟩ := List.mem_map.1 he
  obtain ⟨hmem, hres⟩ := List.mem_filter.1 hx
  exact ⟨x, hmem, hres, rfl⟩

/-! ### Edits of a halted troupe (R261) -/

theorem editedTo_modTr (s : State) (k : Nat) (g : Troupe → Troupe) : EditedTo s (s.modTr k g) k (g (s.tr k)) :=
  ⟨s.tr_modTr_self k g, onlyTroupe_modTr s k g⟩

section
variable {s : State} {k : Nat} (he : Editable s k)
include he

theorem completes_edit_vreg {r l : Nat} (v : W32) (hr : r < (s.tr k).nregs) (hl : l < 64) : Completes (.hjelmEdit (.vreg k r l v)) s fun t =>
    EditedTo s t k { s.tr k with v := (s.tr k).v.write (64 * r + l) v } :=
  ⟨_, congrArg Host.Outcome.next (if_pos (by simp [State.editable_iff.2 he, hr, hl])), editedTo_modTr ..⟩

theorem completes_edit_sreg (r : Nat) (v : W64) : Completes (.hjelmEdit (.sreg k r v)) s fun t =>
    EditedTo s t k ((s.tr k).wsAt (s.tr k).level r v) :=
  ⟨_, congrArg Host.Outcome.next (if_pos (State.editable_iff.2 he)), editedTo_modTr s k fun x => x.wsAt x.level r v⟩

theorem completes_edit_pred (r : Nat) (v : Mask) : Completes (.hjelmEdit (.pred k r v)) s fun t => EditedTo s t k ((s.tr k).wp r (-1) v) :=
  ⟨_, congrArg Host.Outcome.next (if_pos (State.editable_iff.2 he)), editedTo_modTr ..⟩

theorem completes_edit_qpred (r : Nat) (v : Bool) : Completes (.hjelmEdit (.qpred k r v)) s fun t => EditedTo s t k ((s.tr k).wq r v) :=
  ⟨_, congrArg Host.Outcome.next (if_pos (State.editable_iff.2 he)), editedTo_modTr ..⟩

theorem completes_edit_pc {l : Nat} {v : W64} (hl : l < 64) (ha : v.toNat % 16 = 0) (hc : canonical v = true) :
    Completes (.hjelmEdit (.pc k l v)) s fun t =>
      EditedTo s t k { s.tr k with pt := { (s.tr k).pt with pcs := (s.tr k).pt.pcs.write l v } } :=
  ⟨_, congrArg Host.Outcome.next (if_pos (by simp [State.editable_iff.2 he, hl, ha, hc])), editedTo_modTr ..⟩

theorem exec_edit_scratch {ofs : Nat} (b : Byte) (hofs : ofs < (s.co (s.tr k).company).scratch) :
    exec (.hjelmEdit (.scratch k ofs [b])) s = .next
      ((s.scratchPut (coreOf k) ((s.co (s.tr k).company).base (coreOf k) + ofs) b).watchRing (coreOf k)
        (editBy (s.co (s.tr k).company).ctx) false true ((s.co (s.tr k).company).base (coreOf k) + ofs) 1) :=
  (if_pos (State.editable_iff.2 he)).trans (congrArg Host.Outcome.next (if_pos hofs))

theorem exec_edit_scratch_beyond {ofs : Nat} (b : Byte) (hofs : (s.co (s.tr k).company).scratch ≤ ofs) :
    exec (.hjelmEdit (.scratch k ofs [b])) s = .next s :=
  (if_pos (State.editable_iff.2 he)).trans (congrArg Host.Outcome.next (if_neg (Nat.not_lt.2 hofs)))

end

/-- An edit of registers leaves alone a troupe that is not halted. -/
theorem exec_edit_unhalted {s : State} {k : Nat} (h : (s.tr k).halted = false) :
    (∀ r l v, exec (.hjelmEdit (.vreg k r l v)) s = .next s) ∧ (∀ r v, exec (.hjelmEdit (.sreg k r v)) s = .next s) ∧
      (∀ l v, exec (.hjelmEdit (.pc k l v)) s = .next s) := by
  have hno : s.editable k = false := by rw [State.editable, h, Bool.and_false]
  refine ⟨fun r l v => ?_, fun r v => ?_, fun l v => ?_⟩ <;> exact congrArg Host.Outcome.next (if_neg (by simp [hno]))

/-! ### Edits of memory (R261, log entry 76) -/

section
variable {s u : State} {c : Nat} {va : W64} {b : Byte} (n : Nat)

theorem line_byte (va : W64) (b : Byte) : min [b].length (128 - va.toNat % 128) = 1 := by
  rw [List.length_singleton]
  omega

/-- One byte is edited by one line: what has to wait is left over whole. -/
theorem editMemory_byte_waits (h : s.editLine c va [b] = (.wait, u)) : State.editMemory c (n + 2) va [b] s = ([b], va, u) := by
  have hline : s.editLine c va ([b].take 1) = (.wait, u) := h
  simp only [State.editMemory, line_byte, hline]
  rfl

theorem editMemory_byte_done {r : Acc Unit} (hr : r ≠ .wait) (h : s.editLine c va [b] = (r, u)) :
    (State.editMemory c (n + 2) va [b] s).1 = [] ∧ (State.editMemory c (n + 2) va [b] s).2.2 = u := by
  have hline : s.editLine c va ([b].take 1) = (r, u) := h
  simp only [State.editMemory, line_byte, hline]
  cases r with
  | ok => exact ⟨rfl, rfl⟩
  | fault => exact ⟨rfl, rfl⟩
  | wait => exact absurd rfl hr

theorem exec_hjelmEdit_memory {k : Nat} (he : Editable s k) (hk : k ∈ s.ctxTroupes c) (va : W64) (b : Byte) :
    exec (.hjelmEdit (.memory c va [b])) s =
      let r := State.editMemory c ([b].length / 128 + 2) va [b] s
      .next (r.2.2.keepEdit (.memory c va [b]) (if r.1.isEmpty then [] else [.memory c r.2.1 r.1])) := by
  have hany : (s.ctxTroupes c).any s.editable = true := List.any_eq_true.2 ⟨k, hk, State.editable_iff.2 he⟩
  exact if_pos (show (s.edits.contains (.memory c va [b]) || (s.ctxTroupes c).any s.editable) = true by rw [hany, Bool.or_true])

theorem exec_edit_memory_waits {k : Nat} (he : Editable s k) (hk : k ∈ s.ctxTroupes c) (h : s.editLine c va [b] = (.wait, u)) :
    exec (.hjelmEdit (.memory c va [b])) s = .next (u.keepEdit (.memory c va [b]) [.memory c va [b]]) := by
  rw [exec_hjelmEdit_memory he hk]
  simp only [editMemory_byte_waits ([b].length / 128) h]
  rfl

theorem exec_edit_memory_done {k : Nat} (he : Editable s k) (hk : k ∈ s.ctxTroupes c) {r : Acc Unit} (hr : r ≠ .wait)
    (h : s.editLine c va [b] = (r, u)) : exec (.hjelmEdit (.memory c va [b])) s = .next (u.keepEdit (.memory c va [b]) []) := by
  obtain ⟨hleft, hstate⟩ := editMemory_byte_done ([b].length / 128) hr h
  rw [exec_hjelmEdit_memory he hk]
  simp only [hleft, hstate]
  rfl

end

/-! ### A line of an edit (R261) -/

/-- The die through which the debugger reaches a context's memory: that of its first halted troupe. -/
def editDie (s : State) (c : Nat) : Nat := ((s.ctxTroupes c).find? s.editable).elim 0 fun k => dieOf (coreOf k)

section
variable {s u v : State} {c : Nat} {va : W64} {b : List Byte} {e : TlbEntry} {pa : Nat}

theorem editLine_untranslated (h : s.carried (.die (editDie s c)) c ⟨2 ^ 45, c, 0⟩ va .read = (.wait, u)) :
    s.editLine c va b = (.wait, u) := by
  simp only [editDie] at h
  simp only [State.editLine, h]

theorem editLine_waits (h : s.carried (.die (editDie s c)) c ⟨2 ^ 45, c, 0⟩ va .read = (.ok (e, pa), u))
    (ha : u.arrive ⟨2 ^ 45, c, 0⟩ va e pa .write 0 = (.wait, v)) : s.editLine c va b = (.wait, v) := by
  simp only [editDie] at h
  simp only [State.editLine, h, ha]

theorem editLine_writes {x : Option LineData} (h : s.carried (.die (editDie s c)) c ⟨2 ^ 45, c, 0⟩ va .read = (.ok (e, pa), u))
    (ha : u.arrive ⟨2 ^ 45, c, 0⟩ va e pa .write 0 = (.ok x, v)) : s.editLine c va b =
      (.ok (), ((v.writeBytes pa (b.map (·.toNat))).dropWords (pa / 128)).watchDie (homeSlice pa / 64) (editBy c) false true va b.length) := by
  simp only [editDie] at h
  simp only [State.editLine, h, ha]

end

/-- Settles O52: the registers of watchpoints, the snapshot's trigger, latch and release, and each edit by what it names. -/
theorem debugEvents : Obligations.DebugEvents := by
  refine fun s k => ⟨fun _ _ => completes_wpctlWrite, fun _ _ => exec_wpctlWrite_refused, fun _ => completes_hjelmSnapshot, completes_snapshotLatch, ⟨_, rfl, rfl⟩,
    fun he => ⟨fun _ _ v => completes_edit_vreg he v, completes_edit_sreg he, completes_edit_pred he, completes_edit_qpred he, fun _ _ => completes_edit_pc he, ?memory, ?scratch,
      fun _ b => exec_edit_scratch_beyond he b⟩, ?line, exec_edit_unhalted⟩
  case memory =>
    exact fun va b u hk => ⟨exec_edit_memory_waits he hk, fun r => exec_edit_memory_done he hk⟩
  case scratch =>
    exact fun ofs b hofs => ⟨_, exec_edit_scratch he b hofs, rfl⟩
  case line =>
    exact fun c va b e pa u v x => ⟨editLine_untranslated, editLine_waits, editLine_writes⟩

end Sys2Proof.Machine
end

section
/-!
PROOF. Replies, resends and time-outs of this package's requests, and what readies a REMOTE record (R277, R390, R391, R393).
-/
namespace Sys2Proof

/-- A listed value that a change of every value does not make the default is read as the change leaves it. -/
theorem Tbl.read_mapAll_of_ne {α : Type} [Inhabited α] [DecidableEq α] (f : Nat → α → α) {m : Tbl α} {k : Nat}
    (h : m.read k ≠ default) (hf : f k (m.read k) ≠ default) : (m.mapAll f).read k = f k (m.read k) := by
  induction m with
  | nil => exact absurd rfl h
  | cons e m ih =>
    obtain ⟨j, v⟩ := e
    rw [Tbl.mapAll_cons]
    by_cases hj : j = k
    · subst hj
      simp only [Tbl.read, if_true] at hf ⊢
      rw [if_neg hf, Tbl.read, if_pos rfl]
    · simp only [Tbl.read, hj, if_false] at h hf ⊢
      rw [← ih h hf]
      split
      · rfl
      · rw [Tbl.read, if_neg hj]

end Sys2Proof

namespace Sys2Proof.Machine
open Sys2Proof Sys2Proof.Claims

/-! ### Replies (R277, R390) -/

section
variable {s : State} {g : Tag} (h : Open s g)
include h

theorem exec_remoteReply_fault (c : Nat) : exec (.remoteReply g.num (.fault c)) s = .next ((s.freeTag g).tagFaults g (g.remote c)) := by
  change execRemoteReply g.num (.fault c) s = _
  simp only [execRemoteReply, show s.openTag g.num = some g from h]

theorem exec_remoteReply_done (v : W64) (d : LineData) :
    exec (.remoteReply g.num (.done v d)) s = .next ((s.freeTag g).tagDone g v d) := by
  change execRemoteReply g.num (.done v d) s = _
  simp only [execRemoteReply, show s.openTag g.num = some g from h]

theorem exec_remoteReply_block (b : List Byte) : exec (.remoteReply g.num (.block b)) s = .next
    (if blockMalformed (b.map (·.toNat)) then (s.freeTag g).tagFaults g { cls := 7, pa := g.pa, write := g.what != 0 }
      else (s.freeTag g).tagDone g 0 (blockLine (b.map (·.toNat)))) := by
  change execRemoteReply g.num (.block b) s = _
  simp only [execRemoteReply, show s.openTag g.num = some g from h]

/-! ### Resends and time-outs (R391) -/

theorem exec_remoteResend (hdue : g.sent + 500 * s.power.mhz ≤ s.clock) :
    exec (.remoteResend g.num) s = .next (s.modTag g.num fun g => { g with sent := s.clock }) := by
  change execRemoteResend g.num s = _
  simp only [execRemoteResend, show s.openTag g.num = some g from h, if_pos hdue]

theorem exec_remoteTimeout (hdue : g.first + 2000 * s.power.mhz ≤ s.clock) :
    exec (.remoteTimeout g.num) s = .next (s.timeOut g true) := by
  change execRemoteTimeout g.num s = _
  simp only [execRemoteTimeout, show s.openTag g.num = some g from h, if_pos hdue]

end

section
variable {s : State}

/-- A tag of a state after a change of the open tags of a number: it has another number or has timed out, or it is a changed one. -/
theorem mem_modTag {n : Nat} {f : Tag → Tag} {x : Tag} (hx : x ∈ (s.modTag n f).fabric.tags) :
    (¬ (x.num = n ∧ x.timedOut = false)) ∨ ∃ y, x = f y := by
  obtain ⟨y, -, hy⟩ := List.mem_map.1 hx
  split at hy
  next => exact .inr ⟨y, hy.symm⟩
  next hno =>
    subst hy
    exact .inl fun ⟨hnum, htime⟩ => hno (by simp [hnum, htime])

theorem mem_freeTag {g x : Tag} (hx : x ∈ (s.freeTag g).fabric.tags) (hnum : x.num = g.num) : x.origin ≠ g.origin := by
  have := (List.mem_filter.1 hx).2
  simpa [hnum] using this

/-- A time-out that reaches a bound tag: the tag stays or is free, its lanes keep the tag's word, and what waits on it faults. -/
theorem timeOut_bound (s : State) (g : Tag) : ∃ u : State, s.timeOut g true = u.tagFaults g (g.remote 0) ∧
    u.fabric = if g.what = 0 then (s.freeTag g).fabric else (s.modTag g.num fun g => { g with timedOut := true }).fabric := by
  unfold State.timeOut
  extract_lets keep u word v
  refine ⟨v, rfl, ?_⟩
  have hu : u.fabric = if g.what = 0 then (s.freeTag g).fabric else (s.modTag g.num fun g => { g with timedOut := true }).fabric := by
    unfold u keep
    by_cases hwhat : g.what = 0 <;> simp [hwhat]
  rw [← hu]
  unfold v
  split
  · split <;> rfl
  · rfl

theorem replyEvents : ReplyEvents := by
  intro s g h
  refine ⟨exec_remoteReply_fault h, fun v d hwhat => ?line, fun v d hwhat hkilled => ?lost, fun v d hwhat hkilled => ?owned,
    fun b => ⟨fun hbad => ?malformed, fun hgood hwhat => ?block⟩, fun v d hwhat => ?atomic, fun v d hwhat => ?add, fun hdue => ?resend,
    fun hdue => ?timeout⟩
  case line | lost | atomic | add => simp only [exec_remoteReply_done h, State.tagDone, *, if_true]
  case owned =>
    refine ⟨_, exec_remoteReply_done h v d, { s.freeTag g with fabric := { (s.freeTag g).fabric with
      owned := (s.freeTag g).fabric.owned.write (g.pa / 2048) true } }, Tbl.read_write_self .., ?_⟩
    simp only [State.tagDone, hwhat, hkilled, Bool.false_eq_true, if_false]
  case malformed => exact (exec_remoteReply_block h b).trans (congrArg _ (if_pos hbad))
  case block =>
    refine (exec_remoteReply_block h b).trans (congrArg _ ((if_neg (by rw [hgood]; decide)).trans ?_))
    simp only [State.tagDone, hwhat]
  case resend =>
    refine ⟨_, exec_remoteResend h hdue, rfl, fun x hx hnum htime => ?_⟩
    rcases mem_modTag hx with hno | ⟨y, rfl⟩
    · exact absurd ⟨hnum, htime⟩ hno
    · rfl
  case timeout =>
    obtain ⟨u, hu, hfabric⟩ := timeOut_bound s g
    refine ⟨_, exec_remoteTimeout h hdue, u, hu, fun hwhat x hx hnum => ?_, fun hwhat x hx hnum => ?_⟩
    · rw [hfabric, if_neg hwhat] at hx
      rcases mem_modTag hx with hno | ⟨y, rfl⟩
      · exact Bool.eq_true_of_not_eq_false fun htime => hno ⟨hnum, htime⟩
      · rfl
    · rw [hfabric, if_pos hwhat] at hx
      exact mem_freeTag hx hnum

/-! ### REMOTE records that are ready again (R77, R393) -/

/-- A pending record of an operation that is to be ready is, and nothing else of its operation has changed. -/
theorem op_readyIf {k q : Nat} {o : MemOp} {y : Park} {p : Nat → Park → Bool} (hop : s.op k q = some o) (hpark : o.park = some y)
    (hstate : y.state = .pending) (hp : p (s.ctxOf k) y = true) :
    (s.readyIf p).op k q = some { o with park := some { y with state := .ready } } := by
  have hops : (s.troupes.read k).ops ≠ [] := fun hnil => by
    rw [State.op, State.tr, hnil] at hop
    exact absurd hop nofun
  have hlisted : s.troupes.read k ≠ default := fun hdef => hops (by rw [hdef]; rfl)
  rw [State.op, State.tr, State.readyIf, State.mapParks]
  dsimp only
  rw [Tbl.read_mapAll_of_ne _ hlisted fun hdef => hops (List.map_eq_nil_iff.1 (congrArg (fun x : Troupe => x.ops) hdef)), List.find?_map]
  refine (congrArg (Option.map _) (show _ = some o from hop)).trans (congrArg some ?_)
  have hp : p (s.co (s.troupes.read k).company).ctx y = true := hp
  simp only [hpark, hstate, hp, beq_self_eq_true, Bool.and_self, if_true]

theorem exec_remoteFillNotice {pkg granule kind : Nat} (h : s.window (4096 * granule) = some (kind, pkg)) :
    exec (.remoteFillNotice pkg granule) s =
      .next (s.readyIf fun _ p => p.cls == 5 && p.detail == 2 && p.pa / 4096 == granule) := by
  change execRemoteFillNotice pkg granule s = _
  simp only [execRemoteFillNotice, h, beq_self_eq_true, if_true]

section
variable {k q : Nat} {o : MemOp} {p : Park} (hk : k < 2 ^ 40) (hq : q < 2 ^ 32) (hop : s.op k q = some o) (hpark : o.park = some p)
include hk hq hop hpark

/-- The record of an operation, by its troupe and launch site. -/
theorem sitePark_op : s.sitePark k q = some (s.ctxOf k, p) := by
  rw [State.sitePark, if_neg (by omega), if_neg (by omega), hop]
  exact congrArg (Option.map _) hpark

theorem readySite_op (hstate : p.state = .pending) : s.readySite k q = s.setOp k { o with park := some { p with state := .ready } } := by
  rw [State.readySite, sitePark_op hk hq hop hpark]
  refine (if_pos hstate).trans ?_
  rw [State.setSite, if_neg (by omega), if_neg (by omega), hop]
  simp only [hpark, Option.map_some]

theorem exec_remoteRetryTimer (hstate : p.state = .pending) (hcls : p.cls = 5) (hdue : p.since + 65536 ≤ s.clock) :
    exec (.remoteRetryTimer k q) s = .next (s.setOp k { o with park := some { p with state := .ready } }) := by
  change execRemoteRetryTimer k q s = _
  rw [execRemoteRetryTimer, sitePark_op hk hq hop hpark]
  exact congrArg _ ((if_pos ⟨hcls, hdue⟩).trans (readySite_op hk hq hop hpark hstate))

end

/-- A lost link that no tag needs is down, and nothing else has changed (R393). -/
theorem exec_peerLinkDown_idle {pkg : Nat} (h : ∀ g ∈ s.fabric.tags, g.target ≠ pkg) : exec (.peerLinkDown pkg) s = .next
    { s with fabric := { s.fabric with down := if s.fabric.down.contains pkg then s.fabric.down else s.fabric.down ++ [pkg] } } := by
  change execPeerLinkDown pkg s = _
  have hmine : (s.fabric.tags.filter fun g => g.target == pkg) = [] :=
    List.filter_eq_nil_iff.2 fun g hg => by simpa using h g hg
  simp only [execPeerLinkDown, hmine, List.foldl_nil]

theorem remoteRecordEvents : RemoteRecordEvents := by
  refine fun s => ⟨fun pkg granule kind hwindow => ?notice, fun k q o p hk hq hop hpark hstate hcls hdue => ?timer, fun pkg h => ?down⟩
  case notice =>
    refine ⟨_, exec_remoteFillNotice hwindow, fun k q o p hop hpark hstate hcls hdetail hpa => op_readyIf hop hpark hstate ?_⟩
    simp [hcls, hdetail, hpa]
  case timer =>
    refine ⟨_, exec_remoteRetryTimer hk hq hop hpark hstate hcls hdue, ?_⟩
    have hseq := op_seq hop
    subst hseq
    exact State.op_setOp_self (o := { o with park := some { p with state := .ready } }) hop
  case down =>
    refine ⟨_, exec_peerLinkDown_idle h, ?_, rfl⟩
    dsimp only
    split
    next hin => exact List.contains_iff_mem.1 hin
    next => exact List.mem_append_right _ (List.mem_singleton_self _)

end

/-- Settles O50: replies, resends and time-outs by what their events answer, and what readies a REMOTE record. -/
theorem outboundEvents : Obligations.OutboundEvents := ⟨replyEvents, remoteRecordEvents⟩

end Sys2Proof.Machine
end

section
/-!
PROOF. What the slices and the contexts keep when operations end and stores are let through (R256, R282, R284), and what a line and its
copies keep when its home slice makes room for it by evicting others (R274, R279).
-/
namespace Sys2Proof

theorem mem_sortBy {α : Type} (key : α → Nat) (y : α) (l : List α) : y ∈ sortBy key l ↔ y ∈ l := by
  have hacc : ∀ acc : List α, y ∈ l.foldl (fun acc x => insertBy key x acc) acc ↔ y ∈ acc ∨ y ∈ l := by
    induction l with
    | nil => simp
    | cons x l ih =>
      intro acc
      rw [List.foldl_cons, ih, mem_insertBy, List.mem_cons]
      tauto
  simpa [sortBy] using hacc []

end Sys2Proof

namespace Sys2Proof.Machine
open Sys2Proof Sys2Proof.Claims

/-! ### The slices and the contexts (R256, R282, R284) -/

/-- The table of the slices and that of the contexts are as they were. -/
structure SameHomes (s t : State) : Prop where
  slices : t.slices = s.slices
  contexts : t.contexts = s.contexts

theorem SameHomes.refl (s : State) : SameHomes s s := ⟨rfl, rfl⟩

theorem SameHomes.trans {s t u : State} (h : SameHomes s t) (h' : SameHomes t u) : SameHomes s u :=
  ⟨h'.slices.trans h.slices, h'.contexts.trans h.contexts⟩

theorem SameHomes.sline {s t : State} (h : SameHomes s t) (l : Nat) : t.sline l = s.sline l := congrArg (Tbl.read · l) h.slices

theorem SameHomes.owner {s t : State} (h : SameHomes s t) (l : Nat) : t.owner l = s.owner l := by
  simp only [State.owner, h.sline]

section
variable (s : State)

theorem sameHomes_traceRec (k type flags seq pc d1 d2 : Nat) : SameHomes s (s.traceRec k type flags seq pc d1 d2) := by
  obtain ⟨m, x, h⟩ := s.traceRec_frame k type flags seq pc d1 d2
  rw [h]
  exact ⟨rfl, rfl⟩

theorem sameHomes_stopRing (ctx c : Nat) : SameHomes s (s.stopRing ctx c) := by
  unfold State.stopRing
  dsimp only
  split
  · exact .refl s
  · refine foldl_keeps (SameHomes s) _ (fun u k hu => ?_) _ ⟨rfl, rfl⟩
    exact hu.trans ⟨rfl, rfl⟩

theorem sameHomes_trigger (x : Nat) : SameHomes s (s.trigger x) := by
  unfold State.trigger
  split
  · exact .refl s
  · split <;> exact ⟨rfl, rfl⟩

theorem sameHomes_hitActs (w : Watch) (b : Accessor) (a : Nat) : SameHomes s (s.hitActs w b a) := by
  unfold State.hitActs
  extract_lets u v
  have hu : SameHomes s u := by
    unfold u
    split
    · exact sameHomes_traceRec ..
    · exact .refl s
  have hv : SameHomes s v := by
    unfold v
    split
    · split
      · exact hu.trans (sameHomes_stopRing ..)
      · exact hu
    · exact hu
  split
  · exact hv.trans (sameHomes_trigger ..)
  · exact hv

theorem sameHomes_watchDie (d : Nat) (b : Accessor) (rd wr : Bool) (va : W64) (n : Nat) : SameHomes s (s.watchDie d b rd wr va n) := by
  unfold State.watchDie
  split
  · exact .refl s
  · refine foldl_keeps (SameHomes s) _ (fun u i hu => ?_) _ (.refl s)
    dsimp only
    split
    · exact hu
    · refine SameHomes.trans ?_ (sameHomes_hitActs ..)
      exact hu.trans ⟨rfl, rfl⟩

theorem sameHomes_watchPieces (k : Nat) (o : MemOp) (rd wr : Bool) (ps : List (Nat × Nat)) : SameHomes s (s.watchPieces k o rd wr ps) := by
  refine foldl_keeps (SameHomes s) _ (fun u i hu => ?_) _ (.refl s)
  dsimp only
  split
  · exact hu.trans (sameHomes_watchDie ..)
  · exact hu

theorem sameHomes_releaseSlots (k : Nat) : SameHomes s (s.releaseSlots k) := by
  obtain ⟨f, m, hslots⟩ := slotsEmptied_frame s (s.co k).slots
  obtain ⟨n, hwindows, -⟩ := windowsFreed_frame (slotsEmptied s (s.co k).slots) k [(s.co k).core, (s.co k).core + 1]
  have hfree : SameHomes s (windowsFreed (slotsEmptied s (s.co k).slots) k [(s.co k).core, (s.co k).core + 1]) := by
    rw [hwindows, hslots]
    exact ⟨rfl, rfl⟩
  exact hfree.trans ⟨rfl, rfl⟩

theorem sameHomes_releaseIfOver (k : Nat) : SameHomes s (s.releaseIfOver k) := by
  unfold State.releaseIfOver
  split
  · exact (sameHomes_releaseSlots s k).trans ⟨rfl, rfl⟩
  · exact .refl s

theorem sameHomes_endCheck (k : Nat) : SameHomes s (s.endCheck k) := by
  unfold State.endCheck
  extract_lets t u v w
  split
  · have hv : SameHomes s v := (sameHomes_traceRec s ..).trans ⟨rfl, rfl⟩
    refine SameHomes.trans ?_ (sameHomes_releaseIfOver w t.company)
    unfold w
    split
    · exact hv.trans ⟨rfl, rfl⟩
    · exact hv
  · exact .refl s

theorem sameHomes_finish (k : Nat) (o : MemOp) (zero : Mask) : SameHomes s (s.finish k o zero) := by
  unfold State.finish
  extract_lets u v
  have hv : SameHomes s v := by
    unfold v
    split <;> exact ⟨rfl, rfl⟩
  exact (hv.trans ⟨rfl, rfl⟩ : SameHomes s (v.endFlights k o.seq)).trans (sameHomes_endCheck _ k)

theorem sameHomes_finishOrKeep (k : Nat) (o : MemOp) : SameHomes s (s.finishOrKeep k o) := by
  unfold State.finishOrKeep
  split
  · exact sameHomes_finish ..
  · exact ⟨rfl, rfl⟩

theorem sameHomes_storeOwned (k : Nat) (o : MemOp) (line p : Nat) : SameHomes s (s.storeOwned k o line p) := by
  unfold State.storeOwned
  extract_lets c ps u
  have hu : SameHomes s u := ⟨rfl, rfl⟩
  exact (hu.trans (sameHomes_watchPieces ..)).trans (sameHomes_finishOrKeep ..)

theorem sameHomes_flushStores (c p : Nat) : SameHomes s (s.flushStores c p) := by
  refine foldl_keeps (SameHomes s) _ (fun u x hu => ?_) _ (.refl s)
  split
  · split
    · exact hu.trans (sameHomes_storeOwned ..)
    · exact hu
  · exact hu

/-! ### A token that is taken back (R284) -/

theorem recall_troupes (l : Nat) : (s.recall l).troupes = s.troupes := by
  unfold State.recall
  split
  · rfl
  · dsimp only
    split
    · unfold State.markDirty
      split <;> rfl
    · rfl

theorem owner_eq_none {l : Nat} (h : (s.sline l).owner = 0) : s.owner l = none := by
  simp [State.owner, h]

/-- A line whose token has been taken back has no owner. -/
theorem owner_takeBack (l : Nat) : (s.takeBack l).owner l = none := by
  unfold State.takeBack
  split
  · exact owner_eq_none _ (State.owner_recall _ l)
  · assumption

/-- Taking a token back changes no other line of the slices. -/
theorem sline_takeBack_other {l j : Nat} (h : j ≠ l) : (s.takeBack l).sline j = s.sline j := by
  unfold State.takeBack
  split
  · exact ((State.onlyLine_recall _ l).line j h).trans ((sameHomes_flushStores s _ l).sline j)
  · rfl

/-- Without stores that wait no operation waits for a line. -/
theorem waiting_of_noStores {s : State} (h : NoStores s) (c p : Nat) : s.waiting c p = [] := by
  have hnone : (s.troupes.flatMap fun x => if coreOf x.1 != c then ([] : List (Nat × Nat × Nat × Nat))
      else x.2.ops.flatMap fun o => match o.ins with
        | .st _ | .scat _ => if hintOf o.ins = 3 then [] else (s.linesAt x.1 o p).map fun l => (o.stamp, x.1, o.seq, l)
        | _ => []) = [] := by
    refine List.flatMap_eq_nil_iff.2 fun x hx => ?_
    split
    · rfl
    · refine List.flatMap_eq_nil_iff.2 fun o ho => ?_
      have hstore := h x hx o ho
      split <;> simp_all
  unfold State.waiting
  exact congrArg (fun all => (sortBy (fun (x : Nat × Nat × Nat × Nat) => x.1) all).map fun x => (x.2.1, x.2.2.1, x.2.2.2)) hnone

/-- Without stores that wait a token is taken back by its recall alone. -/
theorem takeBack_of_noStores {s : State} (h : NoStores s) (l : Nat) : s.takeBack l = s.recall l := by
  unfold State.takeBack
  split
  · rw [State.flushStores, waiting_of_noStores h]
    rfl
  next hnone => exact (recall_of_unowned s hnone).symm

end

/-! ### What a line keeps when others are evicted (R279) -/

/-- Line `l` of the slices is as it was, and where no store waits so are the troupes and every core's copy of it. -/
structure Beside (l : Nat) (s t : State) : Prop where
  sline : t.sline l = s.sline l
  quiet : NoStores s → t.troupes = s.troupes ∧ ∀ c, (t.core c).l1.read l = (s.core c).l1.read l

theorem noStores_congr {s t : State} (h : NoStores s) (ht : t.troupes = s.troupes) : NoStores t := by
  unfold NoStores
  rwa [ht]

section
variable {l : Nat} {s t u : State}

theorem Beside.refl (l : Nat) (s : State) : Beside l s s := ⟨rfl, fun _ => ⟨rfl, fun _ => rfl⟩⟩

theorem Beside.trans (h : Beside l s t) (h' : Beside l t u) : Beside l s u := by
  refine ⟨h'.sline.trans h.sline, fun hno => ?_⟩
  obtain ⟨ht, hl⟩ := h.quiet hno
  obtain ⟨hu, hl'⟩ := h'.quiet (noStores_congr hno ht)
  exact ⟨hu.trans ht, fun c => (hl' c).trans (hl c)⟩

theorem Beside.noStores (h : Beside l s t) (hno : NoStores s) : NoStores t := noStores_congr hno (h.quiet hno).1

theorem Beside.owner (h : Beside l s t) : t.owner l = s.owner l := by simp only [State.owner, h.sline]

theorem beside_of_tables (hslices : t.slices = s.slices) (htroupes : t.troupes = s.troupes) (hcores : t.cores = s.cores) : Beside l s t :=
  ⟨congrArg (Tbl.read · l) hslices, fun _ => ⟨htroupes, fun c => congrArg (fun m => ((Tbl.read m c : Core).l1).read l) hcores⟩⟩

theorem beside_modSline {v : Nat} (s : State) (g : SLine → SLine) (h : l ≠ v) : Beside l s (s.modSline v g) :=
  ⟨State.sline_modSline_other _ _ h, fun _ => ⟨rfl, fun _ => rfl⟩⟩

theorem beside_takeBack {v : Nat} (s : State) (h : l ≠ v) : Beside l s (s.takeBack v) := by
  refine ⟨sline_takeBack_other s h, fun hno => ?_⟩
  rw [takeBack_of_noStores hno]
  exact ⟨recall_troupes s v, fun c => (State.onlyLine_recall s v).l1 c l h⟩

theorem beside_dropCuts (s : State) (v : Nat) : Beside l s (s.dropCuts v) := by
  unfold State.dropCuts
  split <;> exact beside_of_tables rfl rfl rfl

theorem beside_touchFrame (s : State) (v : Nat) : Beside l s (s.touchFrame v) := by
  unfold State.touchFrame
  split <;> exact beside_of_tables rfl rfl rfl

theorem beside_markDirty (s : State) (v : Nat) : Beside l s (s.markDirty v) := by
  unfold State.markDirty
  split <;> exact beside_of_tables rfl rfl rfl

theorem beside_dropHost (s : State) (v : Nat) : Beside l s (s.dropHost v) := by
  unfold State.dropHost
  split
  · split <;> exact beside_of_tables rfl rfl rfl
  · exact .refl l s

theorem beside_setLow (s : State) (v : Nat) (d : LineData) (is : List Nat) : Beside l s (s.setLow v d is) := by
  induction is generalizing s with
  | nil => exact .refl l s
  | cons i is ih =>
    have hbyte : Beside l s (s.setLowByte (128 * v + i) (lineByte d i)) := by
      unfold State.setLowByte
      split
      · split <;> exact beside_of_tables rfl rfl rfl
      · exact beside_of_tables rfl rfl rfl
    exact hbyte.trans (ih _)

theorem beside_evictLine {v : Nat} (s : State) (h : l ≠ v) : Beside l s (s.evictLine v) := by
  unfold State.evictLine
  extract_lets u y w
  have hu : Beside l s u := (beside_takeBack s h).trans (beside_dropCuts _ v)
  have hw : Beside l s w := by
    unfold w
    split
    · exact (hu.trans (beside_touchFrame u v)).trans (beside_setLow ..)
    · exact hu
  refine (hw.trans (beside_dropHost w v)).trans (Beside.trans ?_ (beside_modSline _ _ h))
  exact beside_of_tables rfl rfl rfl

/-- A line is no victim of the room that is made for it. -/
theorem ne_of_mem_victims {v : Nat} (h : v ∈ s.victims l) : v ≠ l := by
  simp only [State.victims, List.mem_append, mem_sortBy, List.mem_map, List.mem_filter, Bool.and_eq_true, bne_iff_ne] at h
  rcases h with (⟨e, he, rfl⟩ | ⟨e, he, rfl⟩) | ⟨e, he, rfl⟩ <;> exact he.1.2.1

theorem beside_fitIn (n : Nat) (s : State) : Beside l s (State.fitIn l n s) := by
  induction n generalizing s with
  | zero => exact .refl l s
  | succ n ih =>
    rw [State.fitIn]
    split
    · exact .refl l s
    · split
      · exact .refl l s
      next v vs hv =>
        have hne : v ≠ l := ne_of_mem_victims (hv ▸ List.mem_cons_self ..)
        exact (beside_evictLine s hne.symm).trans (ih _)

/-- The room that is made for a line leaves it and its copies as they were. -/
theorem beside_fit (l : Nat) (s : State) : Beside l s (s.fit l) := beside_fitIn 33 s

/-- The limit on the lines in state last leaves the line itself. -/
theorem beside_limitLast (s : State) (l : Nat) : Beside l s (s.limitLast l) := by
  unfold State.limitLast
  extract_lets last
  split
  · exact .refl l s
  split
  · exact .refl l s
  split
  next v hv =>
    have hmem := List.mem_of_head? hv
    rw [mem_sortBy] at hmem
    exact beside_modSline s _ (bne_iff_ne.1 (List.mem_filter.1 hmem).2).symm
  · exact .refl l s

end

/-! ### The bytes of a line in the level below (R344, R378) -/

section
variable (s : State) (l : Nat) {i : Nat} (hi : i < 128)
include hi

/-- One frame stands for all bytes of a line. -/
theorem frameOf_line : s.frameOf (128 * l + i) = s.frameOf (128 * l) := by
  have hspan : (128 * l + i) / 65536 = 128 * l / 65536 := by omega
  simp only [State.frameOf, State.backs, hspan]

/-- A frame stands for all bytes of a line, or for none. -/
theorem inFrame_line (f : Nat) : s.inFrame f (128 * l + i) =
    ((s.frame f).resmask.getLsbD (l / 32 % 16) && (!(s.frame f).shared || s.cache.pool.read l != 0)) := by
  have hgranule : (128 * l + i) / 4096 % 16 = l / 32 % 16 := by omega
  have hline : (128 * l + i) / 128 = l := by omega
  rw [State.inFrame, hgranule, hline]

end

theorem lineOf_congr {f g : Nat → Byte} (h : ∀ i < 128, f i = g i) : lineOf f = lineOf g := by
  unfold lineOf
  rw [List.foldr_ext _ _ _ fun i hi b => by rw [h i (List.mem_range.1 hi)]]

/-- A byte of a line for which no frame stands is one of the backing memory. -/
theorem lowByte_of_unframed (s : State) (l : Nat) {i : Nat} (hi : i < 128)
    (h : ∀ f, s.frameOf (128 * l) = some f → s.inFrame f (128 * l) = false) : s.lowByte (128 * l + i) = s.mem.read (128 * l + i) := by
  unfold State.lowByte
  rw [frameOf_line s l hi]
  split
  next f hf => exact if_neg (by rw [inFrame_line s l hi, ← inFrame_line s l (i := 0) (by decide), Nat.add_zero, h f hf]; decide)
  next => rfl

end Sys2Proof.Machine
end

section
/-!
PROOF. Tokens, read forwards, miss entries, fills, clean copies and snoops (R279 to R286, R378, R379, R382).
-/
namespace Sys2Proof.Machine
open Sys2Proof Sys2Proof.Claims

/-! ### Tokens (R282, R284) -/

/-- A line that has been put into an L1 reads as a fresh copy of the data. -/
theorem l1_l1Put (s : State) (c l : Nat) (d : LineData) (hint : Nat) (owned : Bool) :
    let y := ((s.l1Put c l d hint owned).core c).l1.read l
    y.valid = true ∧ y.owned = owned ∧ y.data = d := by
  simp only [State.l1Put, State.core_modCore_self, Tbl.read_write_self, and_self]

/-- Core `c` holds the token of a line, with the line's current data, under the hint of the store that asked. -/
def tokenHeld (s : State) (c line hint : Nat) : State :=
  let u := if (s.sline line).present then s else s.touchFrame line
  ((u.l1Put c line (s.current line) hint true).modSline line fun y => { y with owner := c + 1 }).useLine line

theorem sline_useLine (s : State) (l j : Nat) : (s.useLine l).sline j = s.sline j := rfl

theorem owner_tokenHeld (s : State) (c line hint : Nat) : (tokenHeld s c line hint).owner line = some c := by
  have howner : ((tokenHeld s c line hint).sline line).owner = c + 1 := by
    rw [tokenHeld, sline_useLine, State.sline_modSline_self]
  simp [State.owner, howner]

/-- The token's holder has a valid, owned copy of the line's data. -/
theorem l1_tokenHeld (s : State) (c line hint : Nat) :
    let y := ((tokenHeld s c line hint).core c).l1.read line
    y.valid = true ∧ y.owned = true ∧ y.data = s.current line :=
  l1_l1Put (if (s.sline line).present then s else s.touchFrame line) c line (s.current line) hint true

section
variable {s u w : State} {c line k q v : Nat} {o : MemOp} {e : TlbEntry} {pa : Nat} {d : Option LineData}

/-- The grant of a token that its first waiter may have: the core holds it, and the stores that wait for it are performed. -/
theorem exec_tokenGrant (hwant : line ∈ (s.core c).want) (hhead : (s.waiting c line).head? = some (k, q, v)) (hop : s.op k q = some o)
    (hcarried : s.carried (.core c) (s.ctxOf k) ⟨k, q, 0⟩ (BitVec.ofNat 64 (128 * v)) .write = (.ok (e, pa), u))
    (harrive : u.arrive ⟨k, q, 0⟩ (BitVec.ofNat 64 (128 * v)) e pa .write (hintOf o.ins) = (.ok d, w)) :
    exec (.tokenGrant c line) s = .next
      (let y := tokenHeld ((w.takeBack line).dropCuts line) c line (hintOf o.ins)
       ((y.waiting c line).foldl (fun (y : State) z => match y.op z.1 z.2.1 with
          | some o => if y.mayPerform z.1 o then y.storeAt z.1 o z.2.2 else y
          | none => y) (y.fit line)).modCore c fun y => { y with want := y.want.filter (· != line) }) := by
  refine (congrArg Host.Outcome.next (if_pos (List.contains_iff_mem.2 hwant))).trans ?_
  simp only [State.grantToken, hhead, hop, hcarried, harrive] <;> rfl

end

section
variable {s : State} {line c : Nat}

theorem exec_tokenRecall (h : s.owner line = some c) : exec (.tokenRecall line) s = .next ((s.takeBack line).fit line) :=
  congrArg Host.Outcome.next (if_pos (by rw [h]; rfl))

/-- A line written into an L1 is read there. -/
theorem l1_write (s : State) (c l : Nat) (y : L1Line) :
    ((s.modCore c fun k => { k with l1 := k.l1.write l y }).core c).l1.read l = y := by
  rw [State.core_modCore_self]
  exact Tbl.read_write_self ..

theorem core_markDirty (s : State) (l c : Nat) : (s.markDirty l).core c = s.core c := by
  unfold State.markDirty
  split <;> rfl

/-- A recalled token leaves its holder a clean copy that it does not own; the dirty bytes of the copy are at the home. -/
theorem recalled (h : s.owner line = some c) :
    ((s.recall line).core c).l1.read line = { (s.core c).l1.read line with owned := false, dirty := false } ∧
    (((s.core c).l1.read line).valid = true → ((s.core c).l1.read line).dirty = true →
      ((s.recall line).sline line).data = ((s.core c).l1.read line).data ∧ ((s.recall line).sline line).present = true ∧
        ((s.recall line).sline line).dirty = true) := by
  simp only [State.recall, h]
  refine ⟨?_, fun hvalid hdirty => ?_⟩
  · split
    · exact (congrArg (fun x : Core => x.l1.read line) (core_markDirty _ _ _)).trans (l1_write ..)
    · exact l1_write ..
  · simp only [hvalid, hdirty, Bool.and_self, if_true, State.sline_modSline_self, State.sline_markDirty, and_self]

/-! ### Reads from another core (R283) -/

/-- The owner's dirty bytes of a line are at the home as well. -/
def dirtyHome (s : State) (c line : Nat) : State :=
  ((s.modCore c fun k => { k with l1 := k.l1.write line { (s.core c).l1.read line with dirty := false } }).modSline line fun y =>
    { y with present := true, data := ((s.core c).l1.read line).data, dirty := true }).markDirty line

theorem forwardRead_dirty (h : s.owner line = some c) (hv : ((s.core c).l1.read line).valid = true)
    (hd : ((s.core c).l1.read line).dirty = true) : s.forwardRead line = (dirtyHome s c line).fit line := by
  rw [State.forwardRead, h]
  exact if_pos (by rw [hv, hd]; rfl)

theorem forwardRead_clean (h : s.owner line = some c)
    (hclean : ¬ (((s.core c).l1.read line).valid = true ∧ ((s.core c).l1.read line).dirty = true)) : s.forwardRead line = s := by
  rw [State.forwardRead, h]
  exact if_neg (by rwa [Bool.and_eq_true])

theorem sline_dirtyHome : (dirtyHome s c line).sline line =
    { s.sline line with present := true, data := ((s.core c).l1.read line).data, dirty := true } := by
  rw [dirtyHome, State.sline_markDirty, State.sline_modSline_self]
  rfl

theorem l1_dirtyHome : ((dirtyHome s c line).core c).l1.read line = { (s.core c).l1.read line with dirty := false } := by
  rw [dirtyHome, core_markDirty]
  exact l1_write ..

theorem owner_dirtyHome : (dirtyHome s c line).owner line = s.owner line := by
  simp only [State.owner, sline_dirtyHome]

/-- Bringing the owner's bytes home changes no byte. -/
theorem sameBytes_dirtyHome (h : s.owner line = some c) (hv : ((s.core c).l1.read line).valid = true) : SameBytes s (dirtyHome s c line) := by
  have honly : OnlyLine line s (dirtyHome s c line) :=
    ((s.onlyLine_l1 c line _).trans (State.onlyLine_modSline _ _ _)).trans (State.onlyLine_markDirty _ _ _)
  intro pa
  rw [State.byteAt, State.byteAt]
  by_cases hline : pa / 128 = line
  · rw [hline]
    simp only [State.current, owner_dirtyHome, h, l1_dirtyHome, hv, if_true]
  · rw [honly.current hline]

theorem readForwardEvent (h : s.owner line = some c) : Completes (.readForward line) s fun t => ∃ u : State, (t = u ∨ t = u.fit line) ∧
    SameBytes s u ∧ u.owner line = some c ∧
    (((s.core c).l1.read line).valid = true → ((s.core c).l1.read line).dirty = true →
      (u.sline line).data = ((s.core c).l1.read line).data ∧ ((u.core c).l1.read line).dirty = false) := by
  by_cases hdirty : ((s.core c).l1.read line).valid = true ∧ ((s.core c).l1.read line).dirty = true
  · obtain ⟨hv, hd⟩ := hdirty
    refine ⟨_, rfl, dirtyHome s c line, .inr (forwardRead_dirty h hv hd), sameBytes_dirtyHome h hv, owner_dirtyHome.trans h, fun _ _ => ?_⟩
    rw [sline_dirtyHome, l1_dirtyHome]
    exact ⟨rfl, rfl⟩
  · exact ⟨_, rfl, s, .inl (forwardRead_clean h hdirty), fun _ => rfl, h, fun hv hd => absurd ⟨hv, hd⟩ hdirty⟩

/-! ### Miss entries and fills (R280, R286) -/

section
variable {m : Miss} (hm : s.missOf line = some m)
include hm

theorem exec_mergeWindowClose (hdue : m.opened + 64 ≤ s.clock) :
    exec (.mergeWindowClose line) s = .next (s.modMiss line fun m => { m with closed := true }) := by
  change execMergeWindowClose line s = _
  simp only [execMergeWindowClose, hm, if_pos hdue]

/-- A change of a miss entry that keeps its line is read there. -/
theorem missOf_modMiss {f : Miss → Miss} (hf : ∀ x, (f x).line = x.line) : (s.modMiss line f).missOf line = some (f m) := by
  have hline : m.line == line := List.find?_some (p := fun x : Miss => x.line == line) hm
  have hsame : (fun x : Miss => x.line == line) ∘ (fun x : Miss => if x.line == line then f x else x) = fun x => x.line == line :=
    funext fun x => by
      dsimp only [Function.comp_apply]
      split
      · rw [hf]
      · rfl
  rw [State.missOf] at hm
  rw [State.missOf, State.modMiss, List.find?_map, hsame, hm, Option.map_some, if_pos hline]

end

/-- The miss entries of a line are gone. -/
def missClosed (s : State) (line : Nat) : State := { s with misses := s.misses.filter fun x => x.line != line }

/-- A fill brings a line of host memory that is invalid here as shared (R382). -/
def hostShared (s : State) (line : Nat) : State :=
  if (match s.window (128 * line) with | some w => w.1 == 3 | none => false) && s.cache.pool.read line == 0 then
    { s with cache := { s.cache with pool := s.cache.pool.write line 1 } } else s

/-- The state in which a fill's line is installed: its granule is fresh, and a host line is shared (R345, R378, R382). -/
def fillReady (s : State) (line : Nat) : State := hostShared ((s.refill line).touchFrame line) line

/-- A refill leaves the line shared, or had nothing to do: the line is valid here toward its device, or its frame does not hold it as
shared (R378). -/
theorem refill_cases (s : State) (l : Nat) : (s.refill l).cache.pool.read l = 1 ∨
    (s.refill l = s ∧ (s.cache.pool.read l = 0 → ∀ f, s.frameOf (128 * l) = some f →
      (s.frame f).resmask.getLsbD (l / 32 % 16) = false ∨ (s.frame f).shared = false)) := by
  unfold State.refill
  split
  next g hg =>
    split
    next => exact .inl (Tbl.read_write_self ..)
    next hc =>
      refine .inr ⟨rfl, fun h0 f hf => ?_⟩
      obtain rfl : g = f := Option.some.inj (hg.symm.trans hf)
      by_contra hno
      rw [not_or, Bool.not_eq_false, Bool.not_eq_false] at hno
      exact hc (by simp [hno, h0])
  next hg => exact .inr ⟨rfl, fun _ f hf => absurd (hg.symm.trans hf) nofun⟩

/-- To share a line of host memory that no frame holds as shared changes no byte below the slices. -/
theorem lowLine_hostShared {u : State} {l : Nat} (h : u.cache.pool.read l = 0 → ∀ f, u.frameOf (128 * l) = some f →
    (u.frame f).resmask.getLsbD (l / 32 % 16) = false ∨ (u.frame f).shared = false) : (hostShared u l).lowLine l = u.lowLine l := by
  unfold hostShared
  by_cases hc : ((match u.window (128 * l) with | some w => w.1 == 3 | none => false) && u.cache.pool.read l == 0) = true
  · rw [if_pos hc]
    have h0 : u.cache.pool.read l = 0 := beq_iff_eq.1 (Bool.and_eq_true_iff.1 hc).2
    have hframe : ∀ i < 128, ∀ f, u.frameOf (128 * l + i) = some f →
        State.inFrame { u with cache := { u.cache with pool := u.cache.pool.write l 1 } } f (128 * l + i) = u.inFrame f (128 * l + i) :=
      fun i hi f hf => by
        rw [frameOf_line u l hi] at hf
        rw [inFrame_line _ l hi, inFrame_line u l hi]
        rcases h h0 f hf with hf | hf <;> simp [State.frame] at hf ⊢ <;> simp [hf]
    refine lineOf_congr fun i hi => ?_
    unfold State.lowByte
    rw [show State.frameOf { u with cache := { u.cache with pool := u.cache.pool.write l 1 } } (128 * l + i) = u.frameOf (128 * l + i) from rfl]
    split
    next f hf => simp only [hframe i hi f hf]
    next => rfl
  · rw [if_neg hc]

/-- The line that a fill installs is the one below the slices after the refill of its granule. -/
theorem lowLine_fillReady (s : State) (l : Nat) : (fillReady s l).lowLine l = ((s.refill l).touchFrame l).lowLine l := by
  have htouch := (s.refill l).sameStore_touchFrame l
  refine lowLine_hostShared fun h0 f hf => ?_
  rw [htouch.pool] at h0
  rw [State.frameOf_congr _ fun f => ⟨(htouch.frame f).1, (htouch.frame f).2.1⟩] at hf
  rw [(htouch.frame f).2.2.1, (htouch.frame f).2.2.2]
  rcases refill_cases s l with h1 | ⟨hsame, h⟩
  · exact absurd (h0.symm.trans h1) (by decide)
  · rw [hsame] at h0 hf ⊢
    exact h h0 f hf

/-- An installed line is present and clean, with the data that it was given, whatever is evicted for it (R276, R279). -/
theorem sline_install (s : State) (l : Nat) (d : LineData) (hint : Nat) : ((s.install l d hint).sline l).present = true ∧
    ((s.install l d hint).sline l).dirty = false ∧ ((s.install l d hint).sline l).data = d := by
  rw [State.install, (beside_fit l _).sline, sline_useLine, (beside_limitLast _ l).sline, State.sline_modSline_self]
  exact ⟨rfl, rfl, rfl⟩

/-- A flight that waited for a fill that an invalidation met has the fill's data to take once. -/
theorem mem_giveOnce {s : State} {l : Nat} {js : List Asker} {d : LineData} {f : Flight} (hf : f ∈ s.flights) (hjoined : f.who ∈ js)
    (hphys : f.phys = l) : { f with took := some d } ∈ (s.giveOnce l js d).flights :=
  List.mem_map.2 ⟨f, hf, if_pos (by simp [hjoined, hphys])⟩

section
variable {m : Miss} (hm : s.missOf line = some m)
include hm

theorem exec_fillReturn_killed (h : m.killed = true) : exec (.fillReturn line) s =
    .next (((missClosed s line).giveOnce line m.joined m.took).serveJoined line m.joined) := by
  change execFillReturn line s = _
  simp only [execFillReturn, hm, h, if_true]
  rfl

theorem exec_fillReturn_held (h : m.killed = false) (hheld : (missClosed s line).held line = true) : exec (.fillReturn line) s =
    .next (((missClosed s line).servePrefs line m.prefs).serveJoined line m.joined) := by
  rw [missClosed] at hheld
  change execFillReturn line s = _
  simp only [execFillReturn, hm, h, hheld, Bool.false_eq_true, if_false, if_true]
  rfl

theorem exec_fillReturn_lost (h : m.killed = false) (hheld : (missClosed s line).held line = false)
    (hok : (missClosed s line).fillOk m = false) : exec (.fillReturn line) s = .next ((missClosed s line).serveJoined line m.joined) := by
  rw [missClosed] at hheld hok
  change execFillReturn line s = _
  simp only [execFillReturn, hm, h, hheld, hok, Bool.false_eq_true, if_false, Bool.not_false, if_true]
  rfl

theorem exec_fillReturn_installs (h : m.killed = false) (hheld : (missClosed s line).held line = false)
    (hok : (missClosed s line).fillOk m = true) : exec (.fillReturn line) s =
    .next ((((fillReady (missClosed s line) line).install line ((fillReady (missClosed s line) line).lowLine line) m.hint).servePrefs line
      m.prefs).serveJoined line m.joined) := by
  rw [missClosed] at hheld hok
  change execFillReturn line s = _
  simp only [execFillReturn, hm, h, hheld, hok, Bool.false_eq_true, if_false, Bool.not_true]
  rfl

end

theorem fillReturnEvent {m : Miss} (hm : s.missOf line = some m) :
    let u : State := { s with misses := s.misses.filter fun x => x.line != line }
    let served := fun (P : State → Prop) => Completes (.fillReturn line) s fun t => ∃ v : State, P v ∧ t = v.serveJoined line m.joined
    (m.killed = true → served fun v => v = { u with flights := v.flights } ∧
      ∀ f ∈ s.flights, f.who ∈ m.joined → f.phys = line → { f with took := some m.took } ∈ v.flights) ∧
    (m.killed = false → u.held line = true → served fun v => v = u.servePrefs line m.prefs) ∧
    (m.killed = false → u.held line = false → u.fillOk m = false → served fun v => v = u) ∧
    (m.killed = false → u.held line = false → u.fillOk m = true → served fun v => ∃ x : State, v = x.servePrefs line m.prefs ∧
      (NoStores s → (x.sline line).present = true ∧ (x.sline line).dirty = false ∧
        (x.sline line).data = ((u.refill line).touchFrame line).lowLine line)) := by
  refine ⟨fun hk => ?_, fun hk hheld => ?_, fun hk hheld hok => ?_, fun hk hheld hok => ?_⟩
  · exact ⟨_, exec_fillReturn_killed hm hk, _, ⟨rfl, fun f hf hjoined hphys => mem_giveOnce (s := missClosed s line) hf hjoined hphys⟩, rfl⟩
  · exact ⟨_, exec_fillReturn_held hm hk hheld, _, rfl, rfl⟩
  · exact ⟨_, exec_fillReturn_lost hm hk hheld hok, _, rfl, rfl⟩
  · obtain ⟨hpresent, hclean, hdata⟩ := sline_install (fillReady (missClosed s line) line) line
      ((fillReady (missClosed s line) line).lowLine line) m.hint
    exact ⟨_, exec_fillReturn_installs hm hk hheld hok, _, ⟨_, rfl, fun _ => ⟨hpresent, hclean, hdata.trans (lowLine_fillReady ..)⟩⟩, rfl⟩

/-! ### Clean copies (R285) -/

theorem cleanCopyExpiryEvent (hv : ((s.core c).l1.read line).valid = true) (hown : ((s.core c).l1.read line).owned = false) :
    Completes (.cleanCopyExpiry c line) s fun t =>
      ((t.core c).l1.read line).valid = false ∧ (s.owner line ≠ some c → SameBytes s t) := by
  have hforget : s.l1Forget c line = s.modCore c fun y => { y with l1 := y.l1.write line default } := if_pos (by rw [hv, hown]; rfl)
  refine ⟨_, rfl, ?_, fun hne pa => ?_⟩
  · rw [hforget, l1_write]
    rfl
  · have honly : OnlyLine line s (s.l1Forget c line) := hforget ▸ s.onlyLine_l1 c line default
    rw [State.byteAt, State.byteAt]
    by_cases hline : pa / 128 = line
    · have hlow := honly.low.lowLine line
      rw [hforget] at hlow ⊢
      rw [hline]
      unfold State.current
      rw [show State.owner (s.modCore c _) line = s.owner line from rfl, hlow]
      split
      next c' hc' =>
        have hc : c' ≠ c := fun e => hne (e ▸ hc')
        rw [State.core_modCore_other _ _ hc]
        rfl
      next => rfl
    · rw [honly.current hline]

/-! ### Lines shared with their device (R378, R379, R382) -/

theorem poolOwnershipGrantEvent (h : s.cache.pool.read line = 3) : Completes (.poolOwnershipGrant line) s fun t =>
    t.cache.pool.read line = 2 ∧ (∀ l, l ≠ line → t.cache.pool.read l = s.cache.pool.read l) ∧
      t = { s with cache := { s.cache with pool := t.cache.pool } } := by
  have hexec : exec (.poolOwnershipGrant line) s = .next { s with cache := { s.cache with pool := s.cache.pool.write line 2 } } :=
    congrArg Host.Outcome.next (if_pos h)
  exact ⟨_, hexec, Tbl.read_write_self .., fun l hl => Tbl.read_write_other _ _ hl, rfl⟩

/-- A device's bytes reach the backing memory alone. -/
theorem deviceWrite_frame (s : State) (l : Nat) (w : List (Nat × Byte)) : ∃ m, s.deviceWrite l w = { s with mem := m } := by
  refine foldl_keeps (fun u : State => ∃ m, u = { s with mem := m }) _ (fun u x hu => ?_) _ ⟨_, rfl⟩
  obtain ⟨m, rfl⟩ := hu
  split
  · exact ⟨_, rfl⟩
  · exact ⟨_, rfl⟩

theorem mem_deviceWrite (s : State) (l : Nat) {i : Nat} (b : Byte) (hi : i < 128) :
    (s.deviceWrite l [(i, b)]).mem.read (128 * l + i) = b := by
  have hwrite : s.deviceWrite l [(i, b)] = { s with mem := s.mem.write (128 * l + i) b } := if_pos hi
  rw [hwrite]
  exact Tbl.read_write_self ..

/-- What a snoop leaves: the line lies in no slice and in no L1 as owned, it is invalid toward its device, and the device's byte is in
the backing memory. -/
structure SnoopedAway (s t : State) (line : Nat) (w : List (Nat × Byte)) : Prop where
  owner : t.owner line = none
  absent : (t.sline line).present = false
  pool : t.cache.pool.read line = 0
  byte : ∀ i b, i < 128 → w = [(i, b)] → t.mem.read (128 * line + i) = b

theorem snoopedAway (hlock : (s.sline line).lock = 0) (hbusy : s.reclaimBusy line = false) (w : List (Nat × Byte)) :
    SnoopedAway s (s.snoop line w) line w := by
  have hgo : ¬ ((decide ((s.sline line).lock ≠ 0) || s.reclaimBusy line) = true) := by simp [hlock, hbusy]
  unfold State.snoop
  rw [if_neg hgo]
  extract_lets u dirty d v x y c z
  have hu : u.owner line = none := by
    have hcuts := beside_dropCuts (l := line) ((s.killMiss line).takeBack line) line
    exact hcuts.owner.trans (owner_takeBack ..)
  have hv : v.sline line = u.sline line := by
    unfold v
    split
    · obtain ⟨m, h⟩ := deviceWrite_frame u line ((List.range 128).map fun i => (i, lineByte d i))
      rw [h]
      rfl
    · rfl
  have hx : x.sline line = { u.sline line with present := false, data := 0, dirty := false, hint := 0 } := by
    unfold x
    rw [State.sline_modSline_self, hv]
  obtain ⟨m, hm⟩ := deviceWrite_frame z line w
  have hz : (z.deviceWrite line w).sline line = x.sline line := by rw [hm]; rfl
  refine ⟨?_, ?_, ?_, fun i b hi hw => ?_⟩
  · rw [State.owner, hz, hx]
    exact hu
  · rw [hz, hx]
  · rw [hm]
    exact Tbl.read_write_self ..
  · rw [hw]
    exact mem_deviceWrite _ _ _ hi

theorem exec_backInvalidateSnoop (h : s.window (128 * line) = some (2, s.caps.pkg)) (w : List (Nat × Byte)) :
    exec (.backInvalidateSnoop line w) s = .next (s.snoop line w) := by
  change execBackInvalidateSnoop line w s = _
  simp only [execBackInvalidateSnoop, h, if_true]

theorem exec_hostSnoop {p : Nat} (h : s.window (128 * line) = some (3, p)) (w : List (Nat × Byte)) :
    exec (.hostSnoop line w) s = .next (s.snoop line w) := by
  change execHostSnoop line w s = _
  simp only [execHostSnoop, h]

end

/-- Settles O35: each event of the caches and home slices by what it answers. -/
theorem cacheEventsHold : Obligations.CacheEvents := by
  refine fun s line => ⟨?grant, fun c hc => ?taken, fun c => readForwardEvent, fun m hm hdue => ?close, fun m => fillReturnEvent,
    fun c => cleanCopyExpiryEvent, poolOwnershipGrantEvent, fun w hlock hbusy => ?snoop⟩
  case grant =>
    intro c k q v o e pa u d w hwant hhead hop va hcarried harrive
    obtain ⟨hvalid, howned, hdata⟩ := l1_tokenHeld ((w.takeBack line).dropCuts line) c line (hintOf o.ins)
    exact ⟨_, exec_tokenGrant hwant hhead hop hcarried harrive, tokenHeld ((w.takeBack line).dropCuts line) c line (hintOf o.ins),
      owner_tokenHeld .., howned, hvalid, hdata, rfl⟩
  case taken =>
    have hfit := beside_fit line (s.takeBack line)
    refine ⟨_, exec_tokenRecall hc, hfit.owner.trans (owner_takeBack s line), fun hno => ?_⟩
    rw [takeBack_of_noStores hno] at hfit ⊢
    obtain ⟨-, hl1⟩ := hfit.quiet (noStores_congr hno (recall_troupes s line))
    rw [hl1, hfit.sline]
    exact recalled hc
  case close =>
    have hline : m.line = line := beq_iff_eq.1 (List.find?_some (p := fun x : Miss => x.line == line) hm)
    exact ⟨_, exec_mergeWindowClose hm hdue, rfl, _, missOf_modMiss hm fun _ => rfl, rfl, rfl⟩
  case snoop =>
    obtain ⟨howner, habsent, hpool, hbyte⟩ := snoopedAway hlock hbusy w
    exact ⟨fun h => ⟨_, exec_backInvalidateSnoop h w, howner, habsent, hpool, hbyte⟩,
      fun p h => ⟨_, exec_hostSnoop h w, howner, habsent, hpool, hbyte⟩⟩

end Sys2Proof.Machine
end

section
/-!
PROOF. A locked operation whose second word makes its home slice evict the first one's line (R279, R308, R382): the value of the first
word is lost where the line is not locked.
-/
namespace Sys2Proof.Machine
open Sys2Proof Sys2Proof.Claims

/-! ### Which lines a set evicts (R274, R279) -/

section
variable {s : State} {l : Nat}

/-- In a canonical table the slices list exactly what is read of a line. -/
theorem mem_slices_iff (hwf : s.toMemory.wf = true) {e : Nat × SLine} (htag : e.2.tagged = true) :
    e ∈ s.slices ↔ s.sline e.1 = e.2 := by
  obtain ⟨-, hslices, -⟩ := (Memory.wf_iff _).1 hwf
  refine ⟨fun he => Tbl.read_of_mem (Tbl.pairwise_of_wfFrom hslices) he, fun he => ?_⟩
  rcases Tbl.read_mem_or_default s.slices e.1 with hmem | hdefault
  · rwa [show s.slices.read e.1 = e.2 from he] at hmem
  · rw [show e.2 = default from he.symm.trans hdefault] at htag
    exact absurd htag (by decide)

/-- The victims of a set are its tagged lines that are not kept, but for the line that comes in. -/
theorem mem_victims {v : Nat} (hwf : s.toMemory.wf = true) (h : v ∈ s.victims l) :
    v ≠ l ∧ s.kept v = false ∧ (s.sline v).tagged = true := by
  have hline : ∃ e ∈ s.setLines l, e.1 = v ∧ e.1 ≠ l ∧ s.kept e.1 = false := by
    simp only [State.victims, List.mem_append, mem_sortBy, List.mem_map, List.mem_filter, Bool.and_eq_true, bne_iff_ne,
      Bool.not_eq_true'] at h
    rcases h with (⟨e, he, rfl⟩ | ⟨e, he, rfl⟩) | ⟨e, he, rfl⟩ <;> exact ⟨e, he.1.1, rfl, he.1.2⟩
  obtain ⟨e, he, rfl, hne, hkept⟩ := hline
  obtain ⟨hmem, htag⟩ := List.mem_filter.1 (List.mem_filter.1 he).1
  rw [Bool.and_eq_true] at htag
  exact ⟨hne, hkept, ((mem_slices_iff hwf htag.2).1 hmem).symm ▸ htag.2⟩

theorem victims_eq_nil (hwf : s.toMemory.wf = true) (h : ∀ v ≠ l, (s.sline v).tagged = true → s.kept v = true) : s.victims l = [] := by
  refine List.eq_nil_iff_forall_not_mem.2 fun v hv => ?_
  obtain ⟨hne, hkept, htag⟩ := mem_victims hwf hv
  exact absurd (h v hne htag) (by rw [hkept]; decide)

/-- A tagged line of the set that is not kept and holds no hint is a victim. -/
theorem mem_victims_of_tagged {v : Nat} (hwf : s.toMemory.wf = true) (hne : v ≠ l) (hkept : s.kept v = false)
    (htag : (s.sline v).tagged = true) (hhint : (s.sline v).hint = 0) (hslice : homeSlice (128 * v) = homeSlice (128 * l))
    (hset : setOf v = setOf l) : v ∈ s.victims l := by
  have hmem : (v, s.sline v) ∈ s.setLines l := by
    simp only [State.setLines, State.sliceLines, List.mem_filter, hslice, hset, htag, beq_self_eq_true, Bool.and_self, and_true]
    exact (mem_slices_iff hwf htag).2 rfl
  simp only [State.victims, List.mem_append, mem_sortBy, List.mem_map, List.mem_filter, Bool.and_eq_true, bne_iff_ne,
    Bool.not_eq_true', beq_iff_eq]
  exact .inl (.inr ⟨(v, s.sline v), ⟨⟨hmem, hne, hkept⟩, hhint⟩, rfl⟩)

/-- More than 32 tagged lines of one set do not fit. -/
theorem not_setFits {ls : List Nat} (hwf : s.toMemory.wf = true) (hnodup : ls.Nodup) (hlen : 32 < ls.length)
    (h : ∀ v ∈ ls, (s.sline v).tagged = true ∧ homeSlice (128 * v) = homeSlice (128 * l) ∧ setOf v = setOf l) :
    s.setFits l = false := by
  have hsub : ls.map (fun v => (v, s.sline v)) ⊆ s.setLines l := fun e he => by
    obtain ⟨v, hv, rfl⟩ := List.mem_map.1 he
    obtain ⟨htag, hslice, hset⟩ := h v hv
    simp only [State.setLines, State.sliceLines, List.mem_filter, hslice, hset, htag, beq_self_eq_true, Bool.and_self, and_true]
    exact (mem_slices_iff hwf htag).2 rfl
  have hnodup' : (ls.map fun v => (v, s.sline v)).Nodup := hnodup.map fun a b hab => congrArg Prod.fst hab
  have hset : 32 < (s.setLines l).length :=
    hlen.trans_le ((List.length_map _).symm.trans_le (List.subperm_of_subset hnodup' hsub).length_le)
  have hslice : 32 < (s.sliceLines l).length := hset.trans_le (List.length_filter_le ..)
  simp only [State.setFits, Bool.or_eq_false_iff, Bool.and_eq_false_iff, decide_eq_false_iff_not, not_le]
  exact ⟨by omega, .inl hset⟩

/-- Where nothing may be evicted, making room changes nothing. -/
theorem fitIn_of_noVictims (h : s.victims l = []) (n : Nat) : State.fitIn l n s = s := by
  cases n with
  | zero => rfl
  | succ n => simp only [State.fitIn, h, ite_self]

/-- A full set with one victim evicts it, and is then as full as it may be. -/
theorem fit_of_oneVictim {v : Nat} (hfull : s.setFits l = false) (hv : (s.victims l).head? = some v)
    (hnone : (s.evictLine v).victims l = []) : s.fit l = s.evictLine v := by
  obtain ⟨vs, hvs⟩ : ∃ vs, s.victims l = v :: vs := by
    cases hs : s.victims l with
    | nil => rw [hs] at hv; cases hv
    | cons w vs => rw [hs] at hv; cases hv; exact ⟨vs, rfl⟩
  rw [State.fit, State.fitIn, hfull, hvs]
  exact fitIn_of_noVictims hnone 32

end

/-! ### A word written at the home of its line (R276, R284) -/

/-- The state with other marks in its frames. -/
def marked (s : State) (fr : Tbl Frame) : State := { s with cache := { s.cache with frames := fr } }

/-- Bytes of line `l` have been written at its home: of the state only the slices, their order of use and the marks of the frames differ. -/
structure LineWritten (l : Nat) (s t : State) : Prop where
  shape : ∃ sl rc fr, t = marked { s with slices := sl, recent := rc } fr
  only : OnlyLine l s t
  present : (t.sline l).present = true
  owner : (t.sline l).owner = 0
  lock : (t.sline l).lock = (s.sline l).lock
  lockq : (t.sline l).lockq = (s.sline l).lockq
  hint : (t.sline l).hint = (s.sline l).hint

section
variable {s t u : State} {l : Nat}

theorem LineWritten.trans (h : LineWritten l s t) (h' : LineWritten l t u) : LineWritten l s u := by
  obtain ⟨sl, rc, fr, rfl⟩ := h.shape
  obtain ⟨sl', rc', fr', rfl⟩ := h'.shape
  exact ⟨⟨sl', rc', fr', rfl⟩, h.only.trans h'.only, h'.present, h'.owner, h'.lock.trans h.lock, h'.lockq.trans h.lockq,
    h'.hint.trans h.hint⟩

theorem LineWritten.useLine (h : LineWritten l s t) : LineWritten l s (t.useLine l) := by
  obtain ⟨sl, rc, fr, rfl⟩ := h.shape
  exact ⟨⟨sl, _, fr, rfl⟩, ⟨⟨h.only.low.frame, h.only.low.pool, h.only.low.gddr, h.only.low.mem⟩, h.only.line, h.only.l1⟩, h.present, h.owner,
    h.lock, h.lockq, h.hint⟩

theorem touchFrame_shape (s : State) (l : Nat) : ∃ fr, s.touchFrame l = marked s fr := by
  unfold State.touchFrame
  split
  · exact ⟨_, rfl⟩
  · exact ⟨s.cache.frames, rfl⟩

theorem markDirty_shape (s : State) (l : Nat) : ∃ fr, s.markDirty l = marked s fr := by
  unfold State.markDirty
  split
  · exact ⟨_, rfl⟩
  · exact ⟨s.cache.frames, rfl⟩

/-- The state with the line fetched from below where it was not in its slice. -/
def fetched (s : State) (l : Nat) : State := if (s.sline l).present then s else s.touchFrame l

theorem fetched_shape (s : State) (l : Nat) : ∃ fr, fetched s l = marked s fr := by
  unfold fetched
  split
  · exact ⟨s.cache.frames, rfl⟩
  · exact touchFrame_shape ..

theorem onlyLine_fetched (s : State) (l : Nat) : OnlyLine l s (fetched s l) := by
  unfold fetched
  split
  · exact ⟨.refl s, fun _ _ => rfl, fun _ _ _ => rfl⟩
  · exact s.onlyLine_touchFrame ..

theorem sline_fetched (s : State) (l j : Nat) : (fetched s l).sline j = s.sline j := by
  obtain ⟨fr, h⟩ := fetched_shape s l
  rw [h]
  rfl

theorem lineWritten_pokeByte (hown : (s.sline l).owner = 0) {pa : Nat} (hpa : pa / 128 = l) (b : Byte) : LineWritten l s (s.pokeByte pa b) := by
  subst hpa
  have hexec : s.pokeByte pa b = ((fetched s (pa / 128)).modSline (pa / 128) fun y =>
      { y with present := true, data := lineSet (s.current (pa / 128)) (pa % 128) b, dirty := true }).markDirty (pa / 128) := by
    rw [State.pokeByte, State.writeHome, recall_of_unowned s (owner_eq_none s hown)]
    rfl
  have hline : (s.pokeByte pa b).sline (pa / 128) =
      { s.sline (pa / 128) with present := true, data := lineSet (s.current (pa / 128)) (pa % 128) b, dirty := true } := by
    rw [hexec, State.sline_markDirty, State.sline_modSline_self, sline_fetched]
  refine ⟨?_, ?_, by rw [hline], by rw [hline]; exact hown, by rw [hline], by rw [hline], by rw [hline]⟩
  · obtain ⟨fr, hfr⟩ := fetched_shape s (pa / 128)
    obtain ⟨fr', hfr'⟩ := markDirty_shape ((marked s fr).modSline (pa / 128) fun y =>
      { y with present := true, data := lineSet (s.current (pa / 128)) (pa % 128) b, dirty := true }) (pa / 128)
    rw [hexec, hfr, hfr']
    exact ⟨_, s.recent, fr', rfl⟩
  · rw [hexec]
    exact ((onlyLine_fetched ..).trans (State.onlyLine_modSline ..)).trans (State.onlyLine_markDirty ..)

theorem lineWritten_poke {pa b : Nat} {bs : List Nat} (hown : (s.sline l).owner = 0) (hin : ∀ i < (b :: bs).length, (pa + i) / 128 = l) :
    LineWritten l s (s.poke pa (b :: bs)) := by
  induction bs generalizing s pa b with
  | nil => exact lineWritten_pokeByte hown (hin 0 (Nat.succ_pos _)) _
  | cons c bs ih =>
    have hbyte := lineWritten_pokeByte hown (hin 0 (Nat.succ_pos _)) (BitVec.ofNat 8 b)
    rw [State.poke]
    exact hbyte.trans (ih hbyte.owner (in_line_tail hin))

/-- A line that nobody owns and that no cut slot marks has nothing to take back. -/
theorem dropCuts_takeBack (hown : (s.sline l).owner = 0) (hrings : s.rings = []) : (s.takeBack l).dropCuts l = s := by
  have hback : s.takeBack l = s := by rw [State.takeBack, owner_eq_none s hown]
  rw [hback, State.dropCuts, hrings]
  rfl

/-- A word within a line that nobody owns is written, and then its set makes room. -/
theorem writeBytes_word (hown : (s.sline l).owner = 0) (hrings : s.rings = []) (v : Nat) :
    ∃ t, LineWritten l s t ∧ (s.toMemory.wf = true → t.toMemory.wf = true) ∧ s.writeBytes (128 * l) (leBytes 8 v) = t.fit l := by
  have hline : ∀ i < 8, (128 * l + i) / 128 = l := fun i hi => by omega
  have hlines : nubNat ((List.range (leBytes 8 v).length).map fun i => (128 * l + i) / 128) = [l] := by
    rw [length_leBytes, List.map_congr_left fun i hi => hline i (List.mem_range.1 hi)]
    simp [nubNat, List.range_succ]
  have hwritten : LineWritten l s (s.poke (128 * l) (leBytes 8 v)) := by
    have hin : ∀ i < (v % 256 :: leBytes 7 (v / 256)).length, (128 * l + i) / 128 = l := fun i hi => hline i (by
      rwa [List.length_cons, length_leBytes] at hi)
    rw [leBytes]
    exact lineWritten_poke hown hin
  refine ⟨(s.poke (128 * l) (leBytes 8 v)).useLine l, hwritten.useLine, fun hwf => State.wf_useLine l (State.wf_poke _ _ hwf), ?_⟩
  simp only [State.writeBytes, hlines, List.foldl_cons, List.foldl_nil, dropCuts_takeBack hown hrings]

end

/-! ### A line that its frame loses (R279, R382) -/

/-- Line `l` lies in no slice, its frame does not stand for it, and the backing memory holds zeros there. -/
structure Gone (l : Nat) (s : State) : Prop where
  absent : (s.sline l).present = false
  owner : (s.sline l).owner = 0
  zero : ∀ i < 128, s.lowByte (128 * l + i) = 0

section
variable {s : State} {l : Nat}

theorem inFrame_setLowByte {pa f : Nat} (b : Byte) (hf : s.frameOf pa = some f) (hin : s.inFrame f pa = true) :
    s.setLowByte pa b = { s with cache := { s.cache with gddr := s.cache.gddr.write (65536 * f + pa % 65536) b } } := by
  rw [State.setLowByte, hf]
  exact if_pos hin

/-- A line whose frame stands for it is written down into that frame alone. -/
theorem setLow_inFrame {f : Nat} (d : LineData) (is : List Nat) (his : ∀ i ∈ is, i < 128) (hf : s.frameOf (128 * l) = some f)
    (hin : s.inFrame f (128 * l) = true) : ∃ g, s.setLow l d is = { s with cache := { s.cache with gddr := g } } := by
  induction is generalizing s with
  | nil => exact ⟨_, rfl⟩
  | cons i is ih =>
    have hi : i < 128 := his i (List.mem_cons_self ..)
    have hin' : s.inFrame f (128 * l + i) = true := by
      rw [inFrame_line s l hi, ← inFrame_line s l (i := 0) (by decide)]
      exact hin
    rw [State.setLow, inFrame_setLowByte _ ((frameOf_line s l hi).trans hf) hin']
    obtain ⟨g, hg⟩ := ih (s := { s with cache := { s.cache with gddr := s.cache.gddr.write (65536 * f + (128 * l + i) % 65536) (lineByte d i) } })
      (fun j hj => his j (List.mem_cons_of_mem _ hj)) hf hin
    exact ⟨g, hg⟩

/-- The state with other marks and other bytes in its frames. -/
def stored (s : State) (fr : Tbl Frame) (g : Tbl Byte) : State := { s with cache := { s.cache with frames := fr, gddr := g } }

/-- A dirty line of a slice has been written down. -/
def writtenDown (s : State) (l : Nat) : State :=
  if (s.sline l).present && (s.sline l).dirty then (s.touchFrame l).setLow l (s.sline l).data (List.range 128) else s

/-- What is written down into a frame changes no other memory, and of the frames their marks alone. -/
theorem writtenDown_shape {f : Nat} (hf : s.frameOf (128 * l) = some f) (hin : s.inFrame f (128 * l) = true) :
    ∃ fr g, writtenDown s l = stored s fr g ∧ ∀ j, ((fr.read j).fstate = (s.frame j).fstate ∧ (fr.read j).span = (s.frame j).span) ∧
      (fr.read j).shared = (s.frame j).shared := by
  unfold writtenDown
  split
  · have htouch := s.sameStore_touchFrame l
    obtain ⟨fr, hfr⟩ := touchFrame_shape s l
    rw [hfr] at htouch ⊢
    have hf' : (marked s fr).frameOf (128 * l) = some f :=
      (State.frameOf_congr _ fun j => ⟨(htouch.frame j).1, (htouch.frame j).2.1⟩).trans hf
    have hin' : (marked s fr).inFrame f (128 * l) = true := by
      rw [State.inFrame, (htouch.frame f).2.2.1, (htouch.frame f).2.2.2]
      exact hin
    obtain ⟨g, hg⟩ := setLow_inFrame (s.sline l).data (List.range 128) (fun i hi => List.mem_range.1 hi) hf' hin'
    exact ⟨fr, g, hg, fun j => ⟨⟨(htouch.frame j).1, (htouch.frame j).2.1⟩, (htouch.frame j).2.2.2⟩⟩
  · exact ⟨s.cache.frames, s.cache.gddr, rfl, fun _ => ⟨⟨rfl, rfl⟩, rfl⟩⟩

/-- A line of host memory has left its slice, with other marks and other bytes in the frames, and is invalid here (R382). -/
def evicted (s : State) (l : Nat) (fr : Tbl Frame) (g : Tbl Byte) : State :=
  ({ s with cache := { s.cache with frames := fr, gddr := g, pool := s.cache.pool.write l 0 }
            recent := s.recent.filter (· != l) } : State).modSline l fun y => { y with present := false, data := 0, dirty := false, hint := 0 }

theorem evictLine_hostLine {home : Nat} {fr : Tbl Frame} {g : Tbl Byte} (hown : (s.sline l).owner = 0) (hrings : s.rings = [])
    (hwindow : s.window (128 * l) = some (3, home)) (hdown : writtenDown s l = stored s fr g) : s.evictLine l = evicted s l fr g := by
  have hdrop : (stored s fr g).dropHost l = { s with cache := { s.cache with frames := fr, gddr := g, pool := s.cache.pool.write l 0 } } := by
    rw [State.dropHost, show (stored s fr g).window (128 * l) = some (3, home) from hwindow]
    rfl
  have hevict : s.evictLine l = ({ (writtenDown s l).dropHost l with recent := (writtenDown s l).recent.filter (· != l) } : State).modSline l
      fun y => { y with present := false, data := 0, dirty := false, hint := 0 } := by
    rw [State.evictLine, dropCuts_takeBack hown hrings]
    rfl
  rw [hevict, hdown, hdrop]
  rfl

/-- The eviction of a line of host memory that a frame holds as shared loses its bytes: they go to the frame, and then the line is
invalid here. -/
theorem gone_evicted {f : Nat} {fr : Tbl Frame} (g : Tbl Byte) (hown : (s.sline l).owner = 0) (hmem : s.mem = [])
    (hf : s.frameOf (128 * l) = some f) (hshared : (s.frame f).shared = true)
    (hframe : ∀ j, ((fr.read j).fstate = (s.frame j).fstate ∧ (fr.read j).span = (s.frame j).span) ∧ (fr.read j).shared = (s.frame j).shared) :
    Gone l (evicted s l fr g) := by
  refine ⟨?_, ?_, fun i hi => ?_⟩
  · rw [evicted, State.sline_modSline_self]
  · rw [evicted, State.sline_modSline_self]
    exact hown
  · have hlost : ∀ j, (evicted s l fr g).frameOf (128 * l) = some j → (evicted s l fr g).inFrame j (128 * l) = false := fun j hj => by
      rw [State.frameOf_congr (s := s) (t := evicted s l fr g) _ fun j => (hframe j).1, hf] at hj
      cases hj
      have hpool : (evicted s l fr g).cache.pool.read l = 0 := Tbl.read_write_self ..
      have hkeeps : ((evicted s l fr g).frame f).shared = true := (hframe f).2.trans hshared
      rw [← Nat.add_zero (128 * l), inFrame_line _ l (by decide), hpool, hkeeps]
      exact Bool.and_false _
    rw [lowByte_of_unframed _ l hi hlost]
    exact congrArg (Tbl.read · (128 * l + i)) hmem

end

/-! ### A crowded set (R274, R279) -/

/-- The lines `ls` of the set of `b` are locked; of all other lines only `a` and `b` may have tags, and `a`, of host memory and shared in
its frame, may be evicted. -/
structure Crowded (ls : List Nat) (a b : Nat) (s : State) : Prop where
  wf : s.toMemory.wf = true
  rings : s.rings = []
  mem : s.mem = []
  unmissed : s.misses = []
  unwatched : ∀ v, s.watched v = false
  locked : ∀ v ∈ ls, (s.sline v).lock ≠ 0
  untagged : ∀ v, v ∉ ls → v ≠ a → v ≠ b → s.sline v = default
  present : (s.sline a).present = true
  owner : (s.sline a).owner = 0
  lock : (s.sline a).lock = 0
  lockq : (s.sline a).lockq = []
  hint : (s.sline a).hint = 0
  window : ∃ home, s.window (128 * a) = some (3, home)
  frame : ∃ f, s.frameOf (128 * a) = some f ∧ s.inFrame f (128 * a) = true ∧ (s.frame f).shared = true

section
variable {s : State} {ls : List Nat} {a b : Nat}

theorem tagged_of_locked {v : Nat} (h : (s.sline v).lock ≠ 0) : (s.sline v).tagged = true := by
  simp [SLine.tagged, h]

theorem kept_of_locked {v : Nat} (h : (s.sline v).lock ≠ 0) : s.kept v = true := by
  simp [State.kept, h]

/-- A crowded set has one victim. -/
theorem Crowded.victims_head (h : Crowded ls a b s) (hne : a ≠ b) (hslice : homeSlice (128 * a) = homeSlice (128 * b))
    (hset : setOf a = setOf b) : (s.victims b).head? = some a := by
  have hfree : s.kept a = false := by simp [State.kept, h.lock, h.lockq, h.unmissed, h.unwatched]
  have hvictim : a ∈ s.victims b :=
    mem_victims_of_tagged h.wf hne hfree (by simp [SLine.tagged, h.present]) h.hint hslice hset
  have honly : ∀ v ∈ s.victims b, v = a := fun v hv => by
    obtain ⟨hvb, hkept, htag⟩ := mem_victims h.wf hv
    by_contra hva
    by_cases hls : v ∈ ls
    · exact absurd (kept_of_locked (h.locked v hls)) (by rw [hkept]; decide)
    · rw [h.untagged v hls hva hvb] at htag
      exact absurd htag (by decide)
  cases hs : s.victims b with
  | nil => rw [hs] at hvictim; cases hvictim
  | cons v vs => rw [honly v (hs ▸ List.mem_cons_self ..)]; rfl

/-- When the one victim of a crowded set is evicted none is left. -/
theorem Crowded.victims_evicted (h : Crowded ls a b s) {fr : Tbl Frame} {g : Tbl Byte} (hwf : (evicted s a fr g).toMemory.wf = true) :
    (evicted s a fr g).victims b = [] := by
  have hother : ∀ v ≠ a, (evicted s a fr g).sline v = s.sline v := fun v hv => State.sline_modSline_other _ _ hv
  have hleft : (evicted s a fr g).sline a = { s.sline a with present := false, data := 0, dirty := false, hint := 0 } :=
    State.sline_modSline_self ..
  refine victims_eq_nil hwf fun v hvb htag => ?_
  by_cases hva : v = a
  · rw [hva, hleft, SLine.tagged, h.owner, h.lock, h.lockq] at htag
    cases htag
  · rw [hother v hva] at htag
    by_cases hls : v ∈ ls
    · exact kept_of_locked (by rw [hother v hva]; exact h.locked v hls)
    · rw [h.untagged v hls hva hvb] at htag
      exact absurd htag (by decide)

/-- In a crowded set the line that may be evicted is lost to the one that comes in. -/
theorem Crowded.fit (h : Crowded ls a b s) (hne : a ≠ b) (hnodup : (b :: ls).Nodup) (hlen : 32 ≤ ls.length)
    (hb : (s.sline b).tagged = true) (hset : ∀ v ∈ a :: ls, homeSlice (128 * v) = homeSlice (128 * b) ∧ setOf v = setOf b) :
    ∃ fr g, s.fit b = evicted s a fr g ∧ Gone a (evicted s a fr g) := by
  obtain ⟨home, hwindow⟩ := h.window
  obtain ⟨f, hf, hin, hshared⟩ := h.frame
  obtain ⟨fr, g, hdown, hframe⟩ := writtenDown_shape hf hin
  have hevict : s.evictLine a = evicted s a fr g := evictLine_hostLine h.owner h.rings hwindow hdown
  have hfull : s.setFits b = false := not_setFits h.wf hnodup (Nat.lt_succ_of_le hlen) fun v hv => by
    rcases List.mem_cons.1 hv with rfl | hv
    · exact ⟨hb, rfl, rfl⟩
    · exact ⟨tagged_of_locked (h.locked v hv), hset v (List.mem_cons_of_mem _ hv)⟩
  obtain ⟨hslice, hsame⟩ := hset a (List.mem_cons_self ..)
  have hnone : (s.evictLine a).victims b = [] := by
    have hwf := State.wf_evictLine a h.wf
    rw [hevict] at hwf ⊢
    exact h.victims_evicted hwf
  exact ⟨fr, g, (fit_of_oneVictim hfull (h.victims_head hne hslice hsame) hnone).trans hevict,
    gone_evicted g h.owner h.mem hf hshared hframe⟩

end

/-! ### What the end of a locked lane leaves of a line (R308) -/

/-- The slices and the contexts are as they were, and where no context exists so are the memory and the page cache. -/
structure SameHolds (s t : State) : Prop extends SameHomes s t where
  cache : s.contexts = [] → t.cache = s.cache
  mem : s.contexts = [] → t.mem = s.mem

section
variable {s t u : State} {l : Nat}

theorem SameHolds.refl (s : State) : SameHolds s s := ⟨.refl s, fun _ => rfl, fun _ => rfl⟩

theorem SameHolds.trans (h : SameHolds s t) (h' : SameHolds t u) : SameHolds s u :=
  ⟨h.toSameHomes.trans h'.toSameHomes, fun hc => (h'.cache (h.contexts.trans hc)).trans (h.cache hc),
    fun hc => (h'.mem (h.contexts.trans hc)).trans (h.mem hc)⟩

/-- A line is gone after such a change exactly where it was gone before. -/
theorem SameHolds.gone_iff (h : SameHolds s t) (hc : s.contexts = []) : Gone l t ↔ Gone l s := by
  have hlow : ∀ pa, t.lowByte pa = s.lowByte pa := fun pa =>
    SameStore.lowByte (fun f => by simp [State.frame, h.cache hc]) (by rw [h.cache hc]) (by rw [h.cache hc]) (h.mem hc) pa
  have hline := h.toSameHomes.sline l
  exact ⟨fun hg => ⟨hline ▸ hg.absent, hline ▸ hg.owner, fun i hi => (hlow _).symm.trans (hg.zero i hi)⟩,
    fun hg => ⟨hline.symm ▸ hg.absent, hline.symm ▸ hg.owner, fun i hi => (hlow _).trans (hg.zero i hi)⟩⟩

theorem debug_of_noContexts (hc : s.contexts = []) (c : Nat) : (s.ctx c).debug = false := by
  rw [State.ctx, hc]
  rfl

theorem sameHolds_l1Forget (s : State) (c p : Nat) : SameHolds s (s.l1Forget c p) := by
  unfold State.l1Forget
  dsimp only
  split
  · exact ⟨⟨rfl, rfl⟩, fun _ => rfl, fun _ => rfl⟩
  · exact .refl s

/-- Without contexts no watchpoint compares. -/
theorem sameHolds_watchDie (s : State) (d : Nat) (b : Accessor) (rd wr : Bool) (va : W64) (n : Nat) :
    SameHolds s (s.watchDie d b rd wr va n) := by
  have hquiet : s.contexts = [] → s.watchDie d b rd wr va n = s := fun hc => if_pos (by rw [debug_of_noContexts hc]; rfl)
  exact ⟨sameHomes_watchDie .., fun hc => by rw [hquiet hc], fun hc => by rw [hquiet hc]⟩

theorem sameHolds_endCheck (s : State) (k : Nat) : SameHolds s (s.endCheck k) := by
  refine ⟨sameHomes_endCheck s k, fun _ => (sameCacheQueues_endCheck s k).cache, fun hc => ?_⟩
  unfold State.endCheck
  extract_lets t u v w
  have hu : u = s := State.traceRec_quiet _ _ _ _ _ _ _ _ (debug_of_noContexts hc _)
  have hv : v.mem = s.mem := show u.mem = s.mem by rw [hu]
  have hw : w.mem = s.mem := by
    unfold w
    split <;> exact hv
  split
  · unfold State.releaseIfOver
    split
    · exact (releaseSlots_frame w t.company).2.2.mem.trans hw
    · exact hw
  · rfl

theorem sameHolds_finishOrKeep (s : State) (k : Nat) (o : MemOp) : SameHolds s (s.finishOrKeep k o) := by
  refine ⟨sameHomes_finishOrKeep s k o, fun _ => (sameCacheQueues_finishOrKeep s k o).cache, fun hc => ?_⟩
  unfold State.finishOrKeep State.finish
  split
  · extract_lets u v
    have hv : v.mem = s.mem ∧ v.contexts = s.contexts := by
      unfold v
      split <;> exact ⟨rfl, rfl⟩
    exact ((sameHolds_endCheck (v.endFlights k o.settle.seq) k).mem (hv.2.trans hc)).trans hv.1
  · rfl

/-! #### The locks of the lane are dropped -/

/-- A line of a slice without the locks of the lanes `mine`. -/
def unlockedLine (mine : Nat → Bool) (y : SLine) : SLine :=
  { y with lock := if y.lock ≠ 0 ∧ mine (y.lock - 1) then 0 else y.lock, lockq := y.lockq.filter fun x => !mine (x - 1) }

theorem slices_dropLocks (s : State) (mine : Nat → Bool) : (s.dropLocks mine).slices = s.slices.mapAll fun _ => unlockedLine mine := rfl

/-- A line's locks go, its data and its owner stay. -/
theorem gone_dropLocks {mine : Nat → Bool} (hwf : s.slices.wf = true) (h : Gone l s) : Gone l (s.dropLocks mine) := by
  have hline : (s.dropLocks mine).sline l = unlockedLine mine (s.sline l) :=
    (congrArg (Tbl.read · l) (slices_dropLocks s mine)).trans (Tbl.read_mapAll (fun _ => unlockedLine mine) hwf rfl)
  exact ⟨by rw [hline]; exact h.absent, by rw [hline]; exact h.owner, h.zero⟩

/-- A line that is in no slice when locks have been dropped was in none before. -/
theorem gone_of_dropLocks {mine : Nat → Bool} (h : Gone l (s.dropLocks mine)) : Gone l s := by
  have hline : s.sline l ≠ default → unlockedLine mine (s.sline l) ≠ default → (s.dropLocks mine).sline l = unlockedLine mine (s.sline l) :=
    fun hlisted hkept => (congrArg (Tbl.read · l) (slices_dropLocks s mine)).trans
      (Tbl.read_mapAll_of_ne (fun _ => unlockedLine mine) hlisted hkept)
  refine ⟨?_, ?_, h.zero⟩
  · by_contra hpresent
    have hread := hline (fun hd => hpresent (by rw [hd]; rfl)) fun hd => hpresent (congrArg SLine.present hd)
    exact hpresent ((congrArg SLine.present hread).symm.trans h.absent)
  · by_contra howner
    have hread := hline (fun hd => howner (by rw [hd]; rfl)) fun hd => howner (congrArg SLine.owner hd)
    exact howner ((congrArg SLine.owner hread).symm.trans h.owner)

/-- What each word of a locked operation that has acted leaves behind: the cores' copies are forgotten and the watchpoints compare. -/
def wordsSeen (k : Nat) (o : MemOp) (lane : Nat) (written : Nat → Bool) (u : State) : State :=
  (List.range (o.locks.read lane).words.length).foldl (fun (x : State) i =>
    (x.l1Forget (coreOf k) ((o.locks.read lane).words.getD i 0 / 128)).watchDie (dieOf (coreOf k)) (x.accessor k o) true (written i)
      (o.wordVa lane i) 8) u

theorem sameHolds_wordsSeen (k : Nat) (o : MemOp) (lane : Nat) (written : Nat → Bool) (u : State) :
    SameHolds u (wordsSeen k o lane written u) :=
  foldl_keeps (SameHolds u) _ (fun _ _ hx => (hx.trans (sameHolds_l1Forget ..)).trans (sameHolds_watchDie ..)) _ (.refl u)

theorem contexts_lockEnd (s : State) (k : Nat) (o : MemOp) (lane result : Nat) (ps pb : Bool) :
    (s.lockEnd k o lane result ps pb).contexts = s.contexts := (sameHomes_finishOrKeep _ k _).contexts

/-- A line that is gone when a locked lane has ended was gone before. -/
theorem gone_of_lockEnd {k lane result : Nat} {o : MemOp} {ps pb : Bool} (hc : s.contexts = [])
    (h : Gone l (s.lockEnd k o lane result ps pb)) : Gone l s := by
  have hquit : Gone l (s.lockQuit k o.seq lane) := ((sameHolds_finishOrKeep (s.lockQuit k o.seq lane) k _).gone_iff hc).1 h
  exact gone_of_dropLocks (mine := fun x => x + 1 == lockKey k lane) ⟨hquit.absent, hquit.owner, hquit.zero⟩

theorem gone_lockEnd {k lane result : Nat} {o : MemOp} {ps pb : Bool} (hc : s.contexts = []) (hwf : s.slices.wf = true) (h : Gone l s) :
    Gone l (s.lockEnd k o lane result ps pb) := by
  have hdrop : Gone l (s.dropLocks fun x => x + 1 == lockKey k lane) := gone_dropLocks hwf h
  have hquit : Gone l (s.lockQuit k o.seq lane) := ⟨hdrop.absent, hdrop.owner, hdrop.zero⟩
  exact ((sameHolds_finishOrKeep (s.lockQuit k o.seq lane) k _).gone_iff hc).2 hquit

/-- A line that is gone where a locked operation has written its words is gone in every state that the same end follows. -/
theorem gone_of_sameEnd {u v : State} {k lane result : Nat} {o : MemOp} {ps pb : Bool} {written : Nat → Bool}
    (hend : (wordsSeen k o lane written u).lockEnd k o lane result ps pb = (wordsSeen k o lane written v).lockEnd k o lane result ps pb)
    (hc : u.contexts = []) (hwf : u.slices.wf = true) (h : Gone l u) : Gone l v := by
  have hu := sameHolds_wordsSeen k o lane written u
  have hv := sameHolds_wordsSeen k o lane written v
  have hcu : (wordsSeen k o lane written u).contexts = [] := hu.contexts.trans hc
  have hcv : (wordsSeen k o lane written v).contexts = [] := by
    rw [← contexts_lockEnd, ← hend, contexts_lockEnd]
    exact hcu
  have hgone : Gone l ((wordsSeen k o lane written u).lockEnd k o lane result ps pb) :=
    gone_lockEnd hcu (by rw [hu.slices]; exact hwf) ((hu.gone_iff hc).2 h)
  rw [hend] at hgone
  exact (hv.gone_iff (hv.contexts.symm.trans hcv)).1 (gone_of_lockEnd hcv hgone)

theorem lineOf_zero : lineOf (fun _ => 0) = 0 := by
  have hzero : ∀ is : List Nat, is.foldr (fun _ acc => (0 : Byte).toNat + 256 * acc) 0 = 0 := fun is => by
    induction is with
    | nil => rfl
    | cons i is ih => rw [List.foldr_cons, ih]; rfl
  rw [lineOf, hzero]
  rfl

/-- A word at the start of a line that is gone reads zero. -/
theorem Gone.peekNat (h : Gone l s) : s.peekNat (128 * l) 8 = 0 := by
  have hlow : s.current l = 0 := by
    rw [State.current, owner_eq_none s h.owner, h.absent]
    exact (lineOf_congr h.zero).trans lineOf_zero
  have hbyte : ∀ i < 8, (s.byteAt (128 * l + i)).toNat = 0 := fun i hi => by
    rw [State.byteAt, show (128 * l + i) / 128 = l by omega, hlow]
    simp [lineByte]
  rw [State.peekNat, State.peek, List.map_congr_left fun i hi => hbyte i (List.mem_range.1 hi)]
  rfl

end

/-! ### The state that loses a word -/

/-- A DCAS of lane 0 that compares both words with 0, and that then writes 1 to the first word of line `a` and 0 to that of `b`. -/
def lossyOp (a b : Nat) : MemOp :=
  { (default : MemOp) with
    ins := .dcas default, act := 1, size := 1, cmp := [(0, 1)]
    locks := [(0, { (default : LockLane) with phase := .locking, lines := [a, b], words := [128 * a, 128 * b] })] }

/-- A line that lane 0 of troupe 1 has locked. -/
def heldLine : SLine := { (default : SLine) with lock := lockKey 1 0 }

/-- The table of the slices in which the lines `ls` are locked. -/
def heldLines (ls : List Nat) : Tbl SLine := ls.foldl (fun m l => m.write l heldLine) []

/-- A frame that holds the whole span of line `a`, shared with the host. -/
def sharedFrame (a : Nat) : Frame := { (default : Frame) with span := a / 512, fstate := 1, resmask := -1, shared := true }

/-- All memory is of the host, its line `a` is exclusive here and in a shared frame, and the lines `ls` are locked. -/
def lossyState (a b : Nat) (ls : List Nat) : State :=
  { State.reset with
    troupes := [(0, { (default : Troupe) with ops := [lossyOp a b] })]
    slices := heldLines ls
    bar2 := [(0xB008, -1), (0xB010, 3)]
    cache := { State.reset.cache with
      frames := Tbl.write [] 0 (sharedFrame a)
      pool := Tbl.write [] a 2 } }

section
variable (a b : Nat) (ls : List Nat)

theorem read_heldLines (l : Nat) : (heldLines ls).read l = if l ∈ ls then heldLine else default := by
  have hacc : ∀ m : Tbl SLine, (ls.foldl (fun m l => m.write l heldLine) m).read l = if l ∈ ls then heldLine else m.read l := by
    induction ls with
    | nil => exact fun m => (if_neg (List.not_mem_nil)).symm
    | cons j ls ih =>
      intro m
      rw [List.foldl_cons, ih, Tbl.read_write]
      by_cases hj : l = j <;> by_cases hl : l ∈ ls <;> simp [hj, hl]
  exact hacc []

theorem wf_heldLines : (heldLines ls).wf = true :=
  foldl_keeps (fun m : Tbl SLine => m.wf = true) _ (fun _ _ hm => Tbl.wf_write _ _ hm) _ rfl

theorem sline_lossyState (l : Nat) : (lossyState a b ls).sline l = if l ∈ ls then heldLine else default := read_heldLines ls l

theorem lossyState_wf : (lossyState a b ls).toMemory.wf = true := by
  rw [Memory.wf_iff]
  exact ⟨rfl, wf_heldLines ls, rfl, Tbl.wf_write 0 (sharedFrame a) (m := []) rfl, rfl, Tbl.wf_write a 2 (m := []) rfl⟩

theorem lockLane_lossyState : (lossyState a b ls).lockLane 0 0 0 = some (lossyOp a b) := by
  have hop : (lossyState a b ls).op 0 0 = some (lossyOp a b) := rfl
  have hmay : (lossyState a b ls).mayPerform 0 (lossyOp a b) = true := by
    rw [State.mayPerform, show (lossyState a b ls).earlier 0 (lossyOp a b) = [] from rfl]
    rfl
  rw [State.lockLane, hop]
  have hlane : inMask (lossyOp a b).act 0 = true := show inMask (1 : Mask) 0 = true by decide
  have hdone : (lossyOp a b).keyDone 0 = false := rfl
  exact if_pos (by rw [hlane, hdone, hmay]; rfl)

theorem noStores_lossyState : NoStores (lossyState a b ls) := by
  intro e he o ho
  obtain rfl := List.mem_singleton.1 he
  obtain rfl := List.mem_singleton.1 ho
  trivial

/-- The window of host memory that covers the lines in question. -/
theorem window_lossyState {l : Nat} (hl : l < 2 ^ 26) : ∃ home, (lossyState a b ls).window (128 * l) = some (3, home) := by
  have hattr : ((lossyState a b ls).reg (0xB000 + 32 * 0 + 16)).toNat = 3 := rfl
  have hbase : (lossyState a b ls).reg (0xB000 + 32 * 0) = 0 := rfl
  have hlimit : (lossyState a b ls).reg (0xB000 + 32 * 0 + 8) = -1 := rfl
  have hall : bitsOf (-1 : W64).toNat 51 16 = 2 ^ 36 - 1 := by decide
  have hupto : 128 * l / 65536 ≤ 2 ^ 36 - 1 := by
    omega
  have hwindow : (lossyState a b ls).windowAt 0 (128 * l) = some (3, 0) := by
    rw [State.windowAt, hattr, hbase, hlimit, hall]
    exact if_pos (by simp only [hupto, decide_true, Bool.and_true]; simp [bitsOf])
  refine ⟨0, ?_⟩
  rw [State.window, State.window.go, hwindow]

theorem frame_lossyState (f : Nat) : (lossyState a b ls).frame f = if f = 0 then sharedFrame a else default :=
  Tbl.read_write ..

theorem frameOf_lossyState : (lossyState a b ls).frameOf (128 * a) = some 0 := by
  refine (State.frameOf_eq_some _ _ _).2 ⟨?_, fun g _ => Nat.zero_le g⟩
  have hspan : a / 512 = 128 * a / 65536 := by omega
  simp [State.backs, frame_lossyState, sharedFrame, hspan]

theorem inFrame_lossyState : (lossyState a b ls).inFrame 0 (128 * a) = true := by
  have hpool : (lossyState a b ls).cache.pool.read a = 2 := Tbl.read_write_self ..
  have hall : (-1 : BitVec 16).getLsbD (a / 32 % 16) = true := by
    have hlt : a / 32 % 16 < 16 := Nat.mod_lt _ (by decide)
    interval_cases a / 32 % 16 <;> rfl
  rw [← Nat.add_zero (128 * a), inFrame_line _ a (by decide), hpool, frame_lossyState, if_pos rfl]
  exact Bool.and_eq_true_iff.2 ⟨hall, rfl⟩

/-- No byte is anything but zero. -/
theorem peekNat_lossyState (l : Nat) : (lossyState a b ls).peekNat (128 * l) 8 = 0 := by
  refine Gone.peekNat ⟨?_, ?_, fun i _ => ?_⟩
  · rw [sline_lossyState]
    split <;> rfl
  · rw [sline_lossyState]
    split <;> rfl
  · unfold State.lowByte
    split
    · split <;> rfl
    · rfl

theorem lost_lossyState (l : Nat) : (lossyState a b ls).lost l = false := by
  have herr : ∀ f, ((lossyState a b ls).frame f).errs = [] := fun f => by
    rw [frame_lossyState]
    split <;> rfl
  have hline : (lossyState a b ls).lineErr.read l = false := rfl
  rw [State.lost, hline]
  split
  · rw [herr]
    simp
  · simp

/-- The locked operation writes 1 to the first word and then 0 to the second. -/
theorem lockEffect_lossyOp : lockEffect (lossyOp a b).ins ((lossyOp a b).dat.read 0) ((lossyOp a b).cmp.read 0)
    ((lossyOp a b).locks.read 0).blk (((lossyOp a b).locks.read 0).words.map fun pa => (lossyState a b ls).peekNat pa 8) =
    ([(0, 1), (1, 0)], 0, true) := by
  have hwords : ((lossyOp a b).locks.read 0).words.map (fun pa => (lossyState a b ls).peekNat pa 8) = [0, 0] := by
    change [(lossyState a b ls).peekNat (128 * a) 8, (lossyState a b ls).peekNat (128 * b) 8] = _
    rw [peekNat_lossyState, peekNat_lossyState]
  have hdat : (lossyOp a b).dat.read 0 = 0 := rfl
  have hcmp : (lossyOp a b).cmp.read 0 = 1 := rfl
  rw [hwords, hdat, hcmp]
  simp [lockEffect, lossyOp]

/-- What the lane does: both words are written in turn, and it ends. -/
theorem lockAct_lossyState : (lossyState a b ls).lockAct 0 (lossyOp a b) 0 =
    (wordsSeen 0 (lossyOp a b) 0 (fun i => ([(0, 1), (1, 0)] : List (Nat × Nat)).any fun w => w.1 == i)
      (((lossyState a b ls).writeBytes (128 * a) (leBytes 8 1)).writeBytes (128 * b) (leBytes 8 0))).lockEnd 0 (lossyOp a b) 0 0 true
      false := by
  have hfind : (List.range ((lossyOp a b).locks.read 0).words.length).find?
      (fun i => (lossyState a b ls).lost (((lossyOp a b).locks.read 0).words.getD i 0 / 128)) = none :=
    List.find?_eq_none.2 fun i _ => by rw [lost_lossyState]; decide
  unfold State.lockAct
  dsimp only
  rw [hfind]
  simp only [lockEffect_lossyOp]
  rfl

variable {a b ls}

/-- Where the first word is written, its set holds nothing else that may be evicted. -/
theorem victims_firstWord {x : State} (hx : LineWritten a (lossyState a b ls) x) (hwf : x.toMemory.wf = true) : x.victims a = [] :=
  victims_eq_nil hwf fun v hv htag => by
    rw [hx.only.line v hv, sline_lossyState] at htag
    refine kept_of_locked ?_
    rw [hx.only.line v hv, sline_lossyState]
    split at htag
    · next hls => rw [if_pos hls]; decide
    · exact absurd htag (by decide)

/-- Where the second word has been written, its set is crowded. -/
theorem crowded_secondWord {x z : State} (hnodup : (a :: b :: ls).Nodup) (ha : a < 2 ^ 26) (hx : LineWritten a (lossyState a b ls) x)
    (hz : LineWritten b x z) (hwf : z.toMemory.wf = true) : Crowded ls a b z := by
  obtain ⟨⟨hab, hals⟩, hbls, -⟩ := (by simpa using hnodup : (a ≠ b ∧ a ∉ ls) ∧ b ∉ ls ∧ ls.Nodup)
  have hlow := hx.only.low.trans hz.only.low
  have hline : ∀ v, v ≠ a → v ≠ b → z.sline v = if v ∈ ls then heldLine else default := fun v hva hvb =>
    (hz.only.line v hvb).trans ((hx.only.line v hva).trans (sline_lossyState a b ls v))
  have hfirst : z.sline a = x.sline a := hz.only.line a hab
  have hclear : (lossyState a b ls).sline a = default := (sline_lossyState a b ls a).trans (if_neg hals)
  have hframe : z.frameOf (128 * a) = some 0 :=
    (State.frameOf_congr _ fun f => ⟨(hlow.frame f).1, (hlow.frame f).2.1⟩).trans (frameOf_lossyState a b ls)
  have hin : z.inFrame 0 (128 * a) = true := by
    rw [State.inFrame, (hlow.frame 0).2.2.1, (hlow.frame 0).2.2.2, hlow.pool]
    exact inFrame_lossyState a b ls
  have hshared : (z.frame 0).shared = true := by
    rw [(hlow.frame 0).2.2.2, frame_lossyState]
    rfl
  have hwindow := window_lossyState a b ls ha
  have hpresent : (z.sline a).present = true := by rw [hfirst, hx.present]
  have howner : (z.sline a).owner = 0 := by rw [hfirst, hx.owner]
  have hlock : (z.sline a).lock = 0 := by rw [hfirst, hx.lock, hclear]; rfl
  have hlockq : (z.sline a).lockq = [] := by rw [hfirst, hx.lockq, hclear]; rfl
  have hhint : (z.sline a).hint = 0 := by rw [hfirst, hx.hint, hclear]; rfl
  have hlocked : ∀ v ∈ ls, (z.sline v).lock ≠ 0 := fun v hv => by
    rw [hline v (fun e => hals (e ▸ hv)) (fun e => hbls (e ▸ hv)), if_pos hv]
    decide
  have huntagged : ∀ v, v ∉ ls → v ≠ a → v ≠ b → z.sline v = default := fun v hv hva hvb => (hline v hva hvb).trans (if_neg hv)
  obtain ⟨sl, rc, fr, rfl⟩ := hx.shape
  obtain ⟨sl', rc', fr', rfl⟩ := hz.shape
  exact ⟨hwf, rfl, rfl, rfl, fun _ => rfl, hlocked, huntagged, hpresent, howner, hlock, hlockq, hhint, hwindow, 0, hframe, hin, hshared⟩

/-- After both words are written the first one's line is gone. -/
theorem gone_lossyState (hnodup : (a :: b :: ls).Nodup) (hlen : 32 ≤ ls.length) (ha : a < 2 ^ 26)
    (hset : ∀ v ∈ a :: ls, homeSlice (128 * v) = homeSlice (128 * b) ∧ setOf v = setOf b) :
    let u := ((lossyState a b ls).writeBytes (128 * a) (leBytes 8 1)).writeBytes (128 * b) (leBytes 8 0)
    Gone a u ∧ u.contexts = [] ∧ u.slices.wf = true := by
  obtain ⟨⟨hab, hals⟩, hbls, -⟩ := (by simpa using hnodup : (a ≠ b ∧ a ∉ ls) ∧ b ∉ ls ∧ ls.Nodup)
  have hclear : ∀ v, v ∉ ls → ((lossyState a b ls).sline v).owner = 0 := fun v hv => by
    rw [sline_lossyState, if_neg hv]
    rfl
  obtain ⟨x, hx, hwfx, hfirst⟩ := writeBytes_word (hclear a hals) rfl 1
  have hwf := hwfx (lossyState_wf a b ls)
  have hfit : x.fit a = x := fitIn_of_noVictims (victims_firstWord hx hwf) 33
  have hrings : x.rings = [] := by
    obtain ⟨sl, rc, fr, rfl⟩ := hx.shape
    rfl
  obtain ⟨z, hz, hwfz, hsecond⟩ := writeBytes_word (s := x) (l := b) (by rw [hx.only.line b hab.symm]; exact hclear b hbls) hrings 0
  have hcrowded := crowded_secondWord hnodup ha hx hz (hwfz hwf)
  obtain ⟨fr, g, hevicted, hgone⟩ := hcrowded.fit hab hnodup.of_cons hlen (by simp [SLine.tagged, hz.present]) hset
  have hcontexts : z.contexts = [] := by
    obtain ⟨sl, rc, fr, rfl⟩ := hx.shape
    obtain ⟨sl', rc', fr', rfl⟩ := hz.shape
    rfl
  have hwfu := State.wf_fit b (hwfz hwf)
  intro u
  have hu : u = evicted z a fr g := by rw [← hevicted, ← hsecond]; unfold u; rw [hfirst, hfit]
  rw [hevicted] at hwfu
  obtain ⟨-, hslices, -⟩ := (Memory.wf_iff _).1 hwfu
  rw [hu]
  exact ⟨hgone, hcontexts, hslices⟩

end

theorem homeSlice_lt (pa : Nat) : homeSlice pa < 2 ^ 8 := by
  have hbits : ∀ hi lo, hi + 1 - lo ≤ 8 → bitsOf pa hi lo < 2 ^ 8 := fun hi lo h =>
    (Nat.mod_lt _ (Nat.two_pow_pos _)).trans_le (Nat.pow_le_pow_right (by decide) h)
  unfold homeSlice
  refine Nat.xor_lt_two_pow (Nat.xor_lt_two_pow (Nat.xor_lt_two_pow (Nat.xor_lt_two_pow (Nat.xor_lt_two_pow ?_ ?_) ?_) ?_) ?_) ?_ <;>
    exact hbits _ _ (by decide)

/-- The lines below `n` whose home slice and set are `y`. -/
def linesOfSet (n : Nat) (y : Nat × Nat) : Finset Nat := {l ∈ Finset.range n | (homeSlice (128 * l), setOf l) = y}

/-- Some set of some slice has more lines than it holds (R271, R274). -/
theorem exists_crowded_set : ∃ a b ls, (a :: b :: ls).Nodup ∧ 32 ≤ ls.length ∧ a < 2 ^ 26 ∧
    ∀ v ∈ a :: ls, homeSlice (128 * v) = homeSlice (128 * b) ∧ setOf v = setOf b := by
  have hsets : ∀ l ∈ Finset.range (2 ^ 26), (homeSlice (128 * l), setOf l) ∈ Finset.range (2 ^ 8) ×ˢ Finset.range 4096 := fun l _ => by
    rw [Finset.mem_product, Finset.mem_range, Finset.mem_range]
    exact ⟨homeSlice_lt _, Nat.mod_lt _ (by decide)⟩
  have hcard : (Finset.range (2 ^ 8) ×ˢ Finset.range 4096).card * 33 < (Finset.range (2 ^ 26)).card := by
    rw [Finset.card_product, Finset.card_range, Finset.card_range, Finset.card_range]
    norm_num
  obtain ⟨y, hy⟩ : ∃ y, 33 < (linesOfSet (2 ^ 26) y).card := by
    unfold linesOfSet
    generalize Finset.range (2 ^ 26) = all at hsets hcard ⊢
    generalize Finset.range (2 ^ 8) ×ˢ Finset.range 4096 = sets at hsets hcard
    obtain ⟨y, -, hy⟩ := Finset.exists_lt_card_fiber_of_mul_lt_card_of_maps_to hsets hcard
    exact ⟨y, hy⟩
  have hlen : 33 < (linesOfSet (2 ^ 26) y).toList.length := by rwa [Finset.length_toList]
  have hnodup := (linesOfSet (2 ^ 26) y).nodup_toList
  have hmem : ∀ l ∈ (linesOfSet (2 ^ 26) y).toList, l < 2 ^ 26 ∧ homeSlice (128 * l) = y.1 ∧ setOf l = y.2 := fun l hl => by
    obtain ⟨hlt, hset⟩ := Finset.mem_filter.1 (Finset.mem_toList.1 hl)
    exact ⟨Finset.mem_range.1 hlt, congrArg Prod.fst hset, congrArg Prod.snd hset⟩
  match (linesOfSet (2 ^ 26) y).toList, hlen, hnodup, hmem with
  | a :: b :: ls, hlen, hnodup, hmem =>
    rw [List.length_cons, List.length_cons] at hlen
    obtain ⟨ha, -⟩ := hmem a (List.mem_cons_self ..)
    obtain ⟨-, hslice, hset⟩ := hmem b (List.mem_cons_of_mem _ (List.mem_cons_self ..))
    refine ⟨a, b, ls, hnodup, by omega, ha, fun v hv => ?_⟩
    obtain ⟨-, hslicev, hsetv⟩ := hmem v (by
      rcases List.mem_cons.1 hv with rfl | hv
      · exact List.mem_cons_self ..
      · exact List.mem_cons_of_mem _ (List.mem_cons_of_mem _ hv))
    exact ⟨hslicev.trans hslice.symm, hsetv.trans hset.symm⟩

/-- The words of the operation are aligned and distinct. -/
theorem apart_lossyOp {a b : Nat} (hab : a ≠ b) (i j : Nat) (hi : i < 2) (hj : j < 2) :
    ([128 * a, 128 * b].getD i 0) % 8 = 0 ∧ (i ≠ j → [128 * a, 128 * b].getD i 0 ≠ [128 * a, 128 * b].getD j 0) := by
  interval_cases i <;> interval_cases j <;> simp [hab, hab.symm] <;> omega

/-- Refutes O36: the last clause asks that a locked operation's words read what was written to them, and it does not ask that their lines
are locked. Where the home slice is full of other locked lines, the second word's line takes the place of the first one's, which goes
down into its shared frame and is then invalid toward the host (R279, R382): its word reads as the host's memory has it. -/
theorem not_lockEvents : ¬ Obligations.LockEvents := by
  intro h
  obtain ⟨a, b, ls, hnodup, hlen, ha, hset⟩ := exists_crowded_set
  have hab : a ≠ b := fun hab => (List.nodup_cons.1 hnodup).1 (hab ▸ List.mem_cons_self ..)
  obtain ⟨-, -, -, -, -, -, hact⟩ := h (lossyState a b ls) 0 0 0 (lossyOp a b) (lockLane_lossyState a b ls)
  obtain ⟨hgone, hcontexts, hwf⟩ := gone_lossyState hnodup hlen ha hset
  obtain ⟨u, hend, -, hreads⟩ := hact fun i _ => lost_lossyState a b ls _
  rw [lockEffect_lossyOp] at hend hreads
  have hlost : Gone a u := gone_of_sameEnd ((lockAct_lossyState a b ls).symm.trans hend) hcontexts hwf hgone
  have hread : u.peekNat (128 * a) 8 = 1 := hreads (noStores_lossyState a b ls) (apart_lossyOp hab)
    (fun w hw => by
      rcases List.mem_pair.1 hw with rfl | rfl
      · exact Nat.two_pos
      · exact Nat.one_lt_two) (0, 1) (List.mem_cons_self ..)
  rw [hlost.peekNat] at hread
  exact absurd hread (by decide)

end Sys2Proof.Machine
end
